-- ==== Sys2Proof/Word.lean ====
section
/-! DEFINITION. The word types of the block: bytes, 32-bit words and 64-bit words (R52, R78). -/

namespace Sys2Proof

/-- One byte of memory. -/
abbrev Byte := BitVec 8

/-- A 32-bit register or memory word. -/
abbrev Word := BitVec 32

/-- A 64-bit word: a counter, an MRAM word, a journal entry. -/
abbrev DWord := BitVec 64

end Sys2Proof
end

