-- ==== Sys2Proof/Syntax.lean ====
section
/-! DEFINITION. The commands of the WF9 as a block: the instructions its cores carry out, the accesses
to registers with an effect of their own, and the events that reach it from outside or fall due inside
it. A register access names its writer or reader as an agent; an outside event carries what the outside
brings. -/

namespace Sys2Proof

/-- A Canvas core C0-C3 (R7). -/
abbrev CoreId := Fin 4

/-- A general register W0-W15 (R17). -/
abbrev Reg := Fin 16

/-- The number of a special register in an MFS or MTS, 0-15 (R71). -/
abbrev SReg := Fin 16

/-- Who makes a register access: a Canvas core, Ridgepole, or the host on the Peg port (R7, R371). -/
inductive Agent where
  | core (c : CoreId)
  | ridgepole
  | host
  deriving DecidableEq, Repr

/-- The condition codes of branches, in code order (R57). -/
inductive Cond where
  | eq
  | ne
  | lo
  | hs
  | ns
  | nc
  | vs
  | vc
  | hi
  | ls
  | ge
  | lt
  | gt
  | le
  | ds
  | al
  deriving DecidableEq, Repr

/-- The element size of a string instruction (R55). -/
inductive ElemSize where
  | byte
  | half
  | word
  deriving DecidableEq, Repr

/-- The prefix before a string instruction (R42). -/
inductive RepPrefix where
  | bare
  | rep
  | repe
  | repne
  deriving DecidableEq, Repr

/-- How a memory word is in error: a single stored bit, two bits, or the wrong address (R78-R80). -/
inductive EccKind where
  | single
  | double
  | address
  deriving DecidableEq, Repr

/-- The fault classes that a checker reports by itself (R151); the other classes are recorded by the
commands that raise them. -/
inductive FaultClass where
  | rplock
  | mcmp
  | unc
  | bpar
  | tpar
  | pcmp
  | clock
  | supply
  | rdbk
  | check
  deriving DecidableEq, Repr

/-- The cell protections that release (R262), and the release of a thermistor error (R265). -/
inductive Protection where
  | overcharge
  | overDischarge
  | overCurrent
  | chargeTemp
  | dischargeTemp
  deriving DecidableEq, Repr

/-- The voltage conditions on which the charger changes state (R266). -/
inductive ChargerEvent where
  /-- VCELL reaches 3.00 V in PRE -/
  | precharged
  /-- VCELL reaches VCV in CC -/
  | reachedVcv
  /-- VCELL falls 100 mV below VCV in DONE -/
  | recharge
  deriving DecidableEq, Repr

/-- A register that the debugger reads or writes in a halted core, or a word of memory or of peripheral space that its
session reaches (R181). -/
inductive DebugReg where
  | w (r : Reg)
  | pc
  | special (sn : SReg)
  /-- a word that the session reaches through the core, by its address -/
  | word (addr : Word)
  deriving DecidableEq, Repr

/-- What the receiver makes of a frame after its sync word (R211-R217, R233): the three decoded header bytes; its hard
decisions of the bits of the payload field, in the order on air; the bytes that its soft-decision decoder gives,
which count where those decisions are no code word; the power over the sync word, the carrier offset in units of
10 Hz; and by how many microseconds the end of the sync word came after the instant expected. -/
structure PhyFrame where
  h0 : Byte
  h1 : Byte
  h2 : Byte
  field : List Bool
  soft : List Byte
  rssi : Byte
  fofs : BitVec 16
  late : Int
  deriving DecidableEq, Repr

/-- A falling edge on a serial line: `high8` says that the line is high again at sample 8 of the bit that it would
start; `cut` holds the data bits and the parity sample of the character within whose stop bit the edge falls, before
its sample (R335, R337). -/
structure StartEdge where
  high8 : Bool
  cut : Option (BitVec 9 × Bool)
  deriving DecidableEq, Repr

/-- A sync word as the receiver reads it, and its carrier's offset in units of 10 Hz (R216). -/
structure SyncMatch where
  word : Word
  fofs : BitVec 16
  deriving DecidableEq, Repr

/-- What a slot's start finds: whether EN stood by the lead time before it, and the means that listen before talk takes of RSSI
(R218, R234). -/
structure SlotStart where
  inTime : Bool
  means : List Byte
  deriving DecidableEq, Repr

/-- The commands of the block, one for each row of the opcode table. -/
inductive Instr where
  /-- `MOV` (R58) -/
  | mov (c : CoreId) (d s : Reg)
  /-- `ADD` (R62) -/
  | add (c : CoreId) (d s : Reg)
  /-- `ADC` (R62) -/
  | adc (c : CoreId) (d s : Reg)
  /-- `SUB` (R62) -/
  | sub (c : CoreId) (d s : Reg)
  /-- `SBC` (R62) -/
  | sbc (c : CoreId) (d s : Reg)
  /-- `CMP` (R62) -/
  | cmp (c : CoreId) (d s : Reg)
  /-- `NEG` (R62) -/
  | neg (c : CoreId) (d s : Reg)
  /-- `AND` (R62) -/
  | and (c : CoreId) (d s : Reg)
  /-- `OR` (R62) -/
  | or (c : CoreId) (d s : Reg)
  /-- `XOR` (R62) -/
  | xor (c : CoreId) (d s : Reg)
  /-- `TST` (R62) -/
  | tst (c : CoreId) (d s : Reg)
  /-- `NOT` (R62) -/
  | not (c : CoreId) (d s : Reg)
  /-- `LSL` (R63) -/
  | lsl (c : CoreId) (d s : Reg)
  /-- `LSR` (R63) -/
  | lsr (c : CoreId) (d s : Reg)
  /-- `ASR` (R63) -/
  | asr (c : CoreId) (d s : Reg)
  /-- `ROR` (R63) -/
  | ror (c : CoreId) (d s : Reg)
  /-- `SXB` (R63) -/
  | sxb (c : CoreId) (d s : Reg)
  /-- `SXH` (R63) -/
  | sxh (c : CoreId) (d s : Reg)
  /-- `ZXH` (R63) -/
  | zxh (c : CoreId) (d s : Reg)
  /-- `MULU` (R39) -/
  | mulu (c : CoreId) (d s : Reg)
  /-- `MULS` (R39) -/
  | muls (c : CoreId) (d s : Reg)
  /-- `DIVU` (R41) -/
  | divu (c : CoreId) (d s : Reg)
  /-- `DIVS` (R41) -/
  | divs (c : CoreId) (d s : Reg)
  /-- `MULTIPLY_RESULT` (R39) -/
  | multiplyResult (c : CoreId)
  /-- `DIVIDE_RESULT` (R39) -/
  | divideResult (c : CoreId)
  /-- `BADD` (R44) -/
  | badd (c : CoreId) (d s : Reg)
  /-- `BADC` (R44) -/
  | badc (c : CoreId) (d s : Reg)
  /-- `BSUB` (R44) -/
  | bsub (c : CoreId) (d s : Reg)
  /-- `BSBC` (R44) -/
  | bsbc (c : CoreId) (d s : Reg)
  /-- `DADJ` (R45) -/
  | dadj (c : CoreId) (d : Reg)
  /-- `CVBD` (R46) -/
  | cvbd (c : CoreId) (d s : Reg)
  /-- `CVDB` (R46) -/
  | cvdb (c : CoreId) (d s : Reg)
  /-- `LDB` (R64) -/
  | ldb (c : CoreId) (d s : Reg)
  /-- `LDH` (R64) -/
  | ldh (c : CoreId) (d s : Reg)
  /-- `LDW` (R64) -/
  | ldw (c : CoreId) (d s : Reg)
  /-- `STB` (R64) -/
  | stb (c : CoreId) (d s : Reg)
  /-- `STH` (R64) -/
  | sth (c : CoreId) (d s : Reg)
  /-- `STW` (R64) -/
  | stw (c : CoreId) (d s : Reg)
  /-- `XCHG` (R47) -/
  | xchg (c : CoreId) (d s : Reg)
  /-- `PUSH` (R66) -/
  | push (c : CoreId) (s : Reg)
  /-- `POP` (R66) -/
  | pop (c : CoreId) (d : Reg)
  /-- `JR` (R67) -/
  | jr (c : CoreId) (s : Reg)
  /-- `JLR` (R67) -/
  | jlr (c : CoreId) (s : Reg)
  /-- `MFS` (R71) -/
  | mfs (c : CoreId) (d : Reg) (sn : SReg)
  /-- `MTS` (R71) -/
  | mts (c : CoreId) (sn : SReg) (s : Reg)
  /-- `POST` (R35) -/
  | post (c : CoreId) (d s : Reg)
  /-- `MOVI` (R58) -/
  | movi (c : CoreId) (d : Reg) (imm : BitVec 8)
  /-- `ADDI` (R62) -/
  | addi (c : CoreId) (d : Reg) (imm : BitVec 8)
  /-- `CMPI` (R62) -/
  | cmpi (c : CoreId) (d : Reg) (imm : BitVec 8)
  /-- `LDWS` (R66) -/
  | ldws (c : CoreId) (d : Reg) (imm : BitVec 8)
  /-- `BCC` (R67) -/
  | bcc (c : CoreId) (cond : Cond) (disp : BitVec 9)
  /-- `NOP` (R72) -/
  | nop (c : CoreId)
  /-- `MOVS` (R42) -/
  | movs (c : CoreId) (size : ElemSize) (pre : RepPrefix) (n : Nat)
  /-- `CMPS` (R42) -/
  | cmps (c : CoreId) (size : ElemSize) (pre : RepPrefix) (n : Nat)
  /-- `SCNS` (R42) -/
  | scns (c : CoreId) (size : ElemSize) (pre : RepPrefix) (n : Nat)
  /-- `FILS` (R42) -/
  | fils (c : CoreId) (size : ElemSize) (pre : RepPrefix) (n : Nat)
  /-- `SYNC` (R48) -/
  | sync (c : CoreId)
  /-- `WAIT` (R36) -/
  | wait (c : CoreId)
  /-- `TEND` (R34) -/
  | tend (c : CoreId)
  /-- `FRAME` (R51) -/
  | frame (c : CoreId)
  /-- `ERET` (R72) -/
  | eret (c : CoreId)
  /-- `IRET` (R72) -/
  | iret (c : CoreId)
  /-- `ADD_RRR` (R62) -/
  | addRrr (c : CoreId) (d a b : Reg)
  /-- `SUB_RRR` (R62) -/
  | subRrr (c : CoreId) (d a b : Reg)
  /-- `AND_RRR` (R62) -/
  | andRrr (c : CoreId) (d a b : Reg)
  /-- `OR_RRR` (R62) -/
  | orRrr (c : CoreId) (d a b : Reg)
  /-- `XOR_RRR` (R62) -/
  | xorRrr (c : CoreId) (d a b : Reg)
  /-- `ADDM` (R47) -/
  | addm (c : CoreId) (d a b : Reg)
  /-- `ADDI_RRI` (R62) -/
  | addiRri (c : CoreId) (d a : Reg) (imm : BitVec 16)
  /-- `ANDI` (R62) -/
  | andi (c : CoreId) (d a : Reg) (imm : BitVec 16)
  /-- `ORI` (R62) -/
  | ori (c : CoreId) (d a : Reg) (imm : BitVec 16)
  /-- `XORI` (R62) -/
  | xori (c : CoreId) (d a : Reg) (imm : BitVec 16)
  /-- `MOVW` (R58) -/
  | movw (c : CoreId) (d : Reg) (imm : BitVec 16)
  /-- `MOVH` (R58) -/
  | movh (c : CoreId) (d : Reg) (imm : BitVec 16)
  /-- `CMPW` (R62) -/
  | cmpw (c : CoreId) (a : Reg) (imm : BitVec 16)
  /-- `LSLI` (R63) -/
  | lsli (c : CoreId) (d a : Reg) (n : BitVec 5)
  /-- `LSRI` (R63) -/
  | lsri (c : CoreId) (d a : Reg) (n : BitVec 5)
  /-- `ASRI` (R63) -/
  | asri (c : CoreId) (d a : Reg) (n : BitVec 5)
  /-- `RORI` (R63) -/
  | rori (c : CoreId) (d a : Reg) (n : BitVec 5)
  /-- `LDB_RRI` (R64) -/
  | ldbRri (c : CoreId) (d a : Reg) (imm : BitVec 16)
  /-- `LDBS` (R64) -/
  | ldbs (c : CoreId) (d a : Reg) (imm : BitVec 16)
  /-- `LDH_RRI` (R64) -/
  | ldhRri (c : CoreId) (d a : Reg) (imm : BitVec 16)
  /-- `LDHS` (R64) -/
  | ldhs (c : CoreId) (d a : Reg) (imm : BitVec 16)
  /-- `LDW_RRI` (R64) -/
  | ldwRri (c : CoreId) (d a : Reg) (imm : BitVec 16)
  /-- `STB_RRI` (R64) -/
  | stbRri (c : CoreId) (d a : Reg) (imm : BitVec 16)
  /-- `STH_RRI` (R64) -/
  | sthRri (c : CoreId) (d a : Reg) (imm : BitVec 16)
  /-- `STW_RRI` (R64) -/
  | stwRri (c : CoreId) (d a : Reg) (imm : BitVec 16)
  /-- `BCC_L` (R67) -/
  | bccL (c : CoreId) (cond : Cond) (disp : BitVec 20)
  /-- `JMP` (R67) -/
  | jmp (c : CoreId) (disp : BitVec 24)
  /-- `BL` (R67) -/
  | bl (c : CoreId) (disp : BitVec 24)
  /-- `UNDEFINED_ENCODING` (R53) -/
  | undefinedEncoding (c : CoreId)
  /-- `INTERRUPT_ACCEPT` (R27) -/
  | interruptAccept (c : CoreId)
  /-- `INFO` (R173) -/
  | info (c : CoreId)
  /-- `IMG_CONFIRM` (R173) -/
  | imgConfirm (c : CoreId)
  /-- `IMG_SWITCH` (R173) -/
  | imgSwitch (c : CoreId)
  /-- `ROLLBACK_COMMIT` (R170) -/
  | rollbackCommit (c : CoreId)
  /-- `PIN_CLAIM` (R395) -/
  | pinClaim (c : CoreId)
  /-- `PIN_FREE` (R396) -/
  | pinFree (c : CoreId)
  /-- `CHAN_CLAIM` (R174) -/
  | chanClaim (c : CoreId)
  /-- `CHAN_FREE` (R204) -/
  | chanFree (c : CoreId)
  /-- `DVFS` (R177) -/
  | dvfs (c : CoreId)
  /-- `STAY` (R176) -/
  | stay (c : CoreId)
  /-- `KEY_LOAD` (R173) -/
  | keyLoad (c : CoreId)
  /-- `KEY_CHECK` (R171) -/
  | keyCheck (c : CoreId)
  /-- `EMB_RIGHTS` (R96) -/
  | embRights (c : CoreId)
  /-- `WDOG_SET` (R178) -/
  | wdogSet (c : CoreId)
  /-- `WDOG_KICK` (R178) -/
  | wdogKick (c : CoreId)
  /-- `RESET` (R173) -/
  | reset (c : CoreId)
  /-- `UNKNOWN_SERVICE` (R37) -/
  | unknownService (c : CoreId) (n : BitVec 8)
  /-- `TRAP_RETURN` (R37) -/
  | trapReturn (c : CoreId)
  /-- `IRQ_EOI` (R186) -/
  | irqEoi (a : Agent) (v : Word)
  /-- `IRQ_SWSET` (R190) -/
  | irqSwset (a : Agent) (v : Word)
  /-- `IRQ_EN_WRITE` (R188) -/
  | irqEnWrite (a : Agent) (bank : Fin 5) (n : Fin 4) (v : Word)
  /-- `IRQ_PSET_WRITE` (R206) -/
  | irqPsetWrite (a : Agent) (bank : Fin 5) (n : Fin 4) (v : Word)
  /-- `IRQ_PERMIT_WRITE` (R188) -/
  | irqPermitWrite (a : Agent) (bank : Fin 4) (n : Fin 2) (v : Word)
  /-- `IRQ_LOST_READ` (R206) -/
  | irqLostRead (a : Agent) (bank : Fin 5) (n : Fin 4)
  /-- `GUYLINE_CHANNEL_FIRE` (R195) -/
  | guylineChannelFire (n : Fin 64)
  /-- `EVT_SWFIRE` (R203) -/
  | evtSwfire (a : Agent) (v : Word)
  /-- `EVT_CONS_WRITE` (R200) -/
  | evtConsWrite (a : Agent) (n : Fin 96) (v : Word)
  /-- `EVT_CH_CFG_WRITE` (R200) -/
  | evtChCfgWrite (a : Agent) (n : Fin 64) (v : Word)
  /-- `EVT_TREL_WRITE` (R200) -/
  | evtTrelWrite (a : Agent) (n : Fin 16) (v : Word)
  /-- `EVT_POUT_WRITE` (R200) -/
  | evtPoutWrite (a : Agent) (n : Fin 8) (v : Word)
  /-- `EVT_FIRED_CLEAR` (R202) -/
  | evtFiredClear (a : Agent) (n : Fin 2) (v : Word)
  /-- `EVT_COVR_CLEAR` (R207) -/
  | evtCovrClear (a : Agent) (n : Fin 3) (v : Word)
  /-- `WARDEN_DISPATCH` (R129) -/
  | wardenDispatch
  /-- `OBJ_DECLARE` (R109) -/
  | objDeclare (a : Agent)
  /-- `OBJ_RELEASE` (R109) -/
  | objRelease (a : Agent)
  /-- `OBJ_RIGHTS` (R109) -/
  | objRights (a : Agent)
  /-- `TSK_DECLARE` (R127) -/
  | tskDeclare (a : Agent)
  /-- `TSK_RELEASE` (R127) -/
  | tskRelease (a : Agent)
  /-- `JNL_PURGE` (R115) -/
  | jnlPurge (a : Agent)
  /-- `WARDEN_BAD_OP` (R109) -/
  | wardenBadOp (a : Agent) (op : BitVec 4)
  /-- `WARDEN_COMMAND_COMPLETE` (R109) -/
  | wardenCommandComplete (m : Fin 5)
  /-- `WDN_OBJ_SEL_WRITE` (R108) -/
  | wdnObjSelWrite (a : Agent) (v : Word)
  /-- `WDN_TSK_SEL_WRITE` (R108) -/
  | wdnTskSelWrite (a : Agent) (v : Word)
  /-- `WDN_POL_WRITE` (R121) -/
  | wdnPolWrite (a : Agent) (v : Word)
  /-- `WDN_EPOCH_WRITE` (R121) -/
  | wdnEpochWrite (a : Agent) (v : Word)
  /-- `WDN_LIM_WRITE` (R121) -/
  | wdnLimWrite (a : Agent) (v : Word)
  /-- `WDN_EPOCH_LIM_WRITE` (R121) -/
  | wdnEpochLimWrite (a : Agent) (v : Word)
  /-- `WDN_RETIRE_WRITE` (R134) -/
  | wdnRetireWrite (a : Agent) (sb : Bool) (v : Word)
  /-- `EPOCH_END` (R117) -/
  | epochEnd
  /-- `MIGRATION_START` (R122) -/
  | migrationStart
  /-- `MIGRATION_COMPLETE` (R122) -/
  | migrationComplete
  /-- `SRAM_BANK_CLEAR_DONE` (R86) -/
  | sramBankClearDone (b : Fin 32)
  /-- `SCRUB_READ` (R81) -/
  | scrubRead (found : Option EccKind)
  /-- `ECC_WRITEBACK` (R79) -/
  | eccWriteback (addr : Word)
  /-- `SCRUB_OVERDUE` (R83) -/
  | scrubOverdue
  /-- `MEM_BANK_WEAR_LO_READ` (R90) -/
  | memBankWearLoRead (a : Agent)
  /-- `MEM_CONF_READ` (R89) -/
  | memConfRead (a : Agent) (n : Fin 9)
  /-- `MEM_CONF_SAT_READ` (R102) -/
  | memConfSatRead (a : Agent)
  /-- `STRIKE_COMPLETE` (R97) -/
  | strikeComplete
  /-- `IDLE_TIMER_EXPIRE` (R289) -/
  | idleTimerExpire
  /-- `WAKE_SOURCE_QUALIFY` (R292) -/
  | wakeSourceQualify (k : Fin 11) (pin : Fin 16) (rise : Bool)
  /-- `PITCH_PATH` (R165) -/
  | pitchPath
  /-- `FULL_BOOT` (R164) -/
  | fullBoot
  /-- `POWER_ON` (R404) -/
  | powerOn (fromCell rtcLost : Bool)
  /-- `NRST_ASSERT` (R403) -/
  | nrstAssert
  /-- `VMAIN_LOSS` (R293) -/
  | vmainLoss
  /-- `VMAIN_RETURN` (R325) -/
  | vmainReturn
  /-- `RTC_DOMAIN_RESET` (R328) -/
  | rtcDomainReset
  /-- `BANK_SUPPLY_CHANGE` (R394) -/
  | bankSupplyChange (bank2 up : Bool)
  /-- `CRYSTAL_QUALIFIED` (R284) -/
  | crystalQualified
  /-- `CRYSTAL_LOSS` (R284) -/
  | crystalLoss
  /-- `HEARTH_FLL_COUNT` (R282) -/
  | hearthFllCount (count : Nat)
  /-- `VPT_WRITE` (R286) -/
  | vptWrite (a : Agent) (v : Word)
  /-- `CLK_DIV_WRITE` (R286) -/
  | clkDivWrite (a : Agent) (v : Word)
  /-- `BUCK_SETTLED` (R287) -/
  | buckSettled
  /-- `DIVIDER_CHANGE` (R287) -/
  | dividerChange
  /-- `CANVAS_WATCHDOG_EXPIRE` (R178) -/
  | canvasWatchdogExpire
  /-- `RIDGEPOLE_WATCHDOG_EXPIRE` (R179) -/
  | ridgepoleWatchdogExpire
  /-- `LOCKSTEP_DIVERGENCE` (R138) -/
  | lockstepDivergence (pair : Fin 2) (pc1 : Word)
  /-- `INTEGRITY_FAULT` (R145) -/
  | integrityFault (cls : FaultClass) (unit : BitVec 8) (addr syn : Word) (detail : DWord)
  /-- `SELF_TEST_ROUND` (R142) -/
  | selfTestRound
  /-- `FRAME_BOUNDARY` (R154) -/
  | frameBoundary
  /-- `ITG_LOG_SEL_WRITE` (R163) -/
  | itgLogSelWrite (a : Agent) (v : Word)
  /-- `TRAIL_SUBMIT` (R180) -/
  | trailSubmit (resp : List Byte) (scope : Word)
  /-- `TRAIL_CLOSE` (R180) -/
  | trailClose
  /-- `DEBUG_HALT` (R181) -/
  | debugHalt (c : CoreId)
  /-- `DEBUG_STEP` (R181) -/
  | debugStep (c : CoreId)
  /-- `LANTERN_UPDATE` (R271) -/
  | lanternUpdate (delta : Int)
  /-- `LANTERN_SAMPLE` (R272) -/
  | lanternSample
  /-- `LANTERN_SAMPLE_DONE` (R274) -/
  | lanternSampleDone (vcell vmain : BitVec 16) (inner : Int) (ntc : Option Int) (light : Bool)
  /-- `MPPT_MEASUREMENT_START` (R269) -/
  | mpptMeasurementStart (hvb : Bool)
  /-- `MPPT_MEASUREMENT_END` (R269) -/
  | mpptMeasurementEnd (hvb : Bool) (voc : Nat)
  /-- `OVERCHARGE_TRIP` (R262) -/
  | overchargeTrip
  /-- `OVER_DISCHARGE_TRIP` (R262) -/
  | overDischargeTrip
  /-- `OVER_CURRENT_TRIP` (R262) -/
  | overCurrentTrip
  /-- `CHARGE_TEMPERATURE_TRIP` (R262) -/
  | chargeTemperatureTrip
  /-- `DISCHARGE_TEMPERATURE_TRIP` (R262) -/
  | dischargeTemperatureTrip
  /-- `PROTECTION_RELEASE` (R262) -/
  | protectionRelease (p : Protection)
  /-- `CHARGER_STATE_CHANGE` (R266) -/
  | chargerStateChange (e : ChargerEvent)
  /-- `CHARGER_PRECHARGE_TIMEOUT` (R266) -/
  | chargerPrechargeTimeout
  /-- `CHARGER_TERMINATE` (R273) -/
  | chargerTerminate
  /-- `HRV_CTL_WRITE` (R266) -/
  | hrvCtlWrite (a : Agent) (v : Word)
  /-- `HRV_PROT_WRITE` (R264) -/
  | hrvProtWrite (a : Agent) (v : Word)
  /-- `HRV_TLIM_WRITE` (R264) -/
  | hrvTlimWrite (a : Agent) (v : Word)
  /-- `HRV_CHG_WRITE` (R267) -/
  | hrvChgWrite (a : Agent) (v : Word)
  /-- `HRV_CAP_WRITE` (R273) -/
  | hrvCapWrite (a : Agent) (v : Word)
  /-- `HRV_LCHG_WRITE` (R273) -/
  | hrvLchgWrite (a : Agent) (v : Word)
  /-- `HRV_THRESHOLD_WRITE` (R275) -/
  | hrvThresholdWrite (a : Agent) (n : Fin 3) (v : Word)
  /-- `RTC_ALARM_MATCH` (R322) -/
  | rtcAlarmMatch (n : Fin 2)
  /-- `RTC_PERIODIC_EVENT` (R323) -/
  | rtcPeriodicEvent (n : Fin 3)
  /-- `RTC_CALENDAR_ROLL` (R315) -/
  | rtcCalendarRoll
  /-- `RTC_STEP` (R318) -/
  | rtcStep (a : Agent)
  /-- `RTC_REL` (R317) -/
  | rtcRel (a : Agent)
  /-- `RTC_SWCLR` (R327) -/
  | rtcSwclr (a : Agent)
  /-- `RTC_MODE_WRITE` (R316) -/
  | rtcModeWrite (a : Agent) (v : Word)
  /-- `RTC_SLEW_WRITE` (R321) -/
  | rtcSlewWrite (a : Agent) (v : Word)
  /-- `RTC_SLEW_DONE` (R321) -/
  | rtcSlewDone
  /-- `RTC_TIME_READ` (R317) -/
  | rtcTimeRead (a : Agent) (reg : Fin 5)
  /-- `RTC_ECAP_HI_READ` (R324) -/
  | rtcEcapHiRead (a : Agent)
  /-- `TIMER_COMPARE_MATCH` (R303) -/
  | timerCompareMatch (n : Fin 12) (k : Fin 4)
  /-- `TIMER_OVERFLOW` (R300) -/
  | timerOverflow (n : Fin 12)
  /-- `TIMER_CNT_WRITE` (R302) -/
  | timerCntWrite (a : Agent) (n : Fin 12) (v : Word)
  /-- `TIMER_CNT_READ` (R307) -/
  | timerCntRead (a : Agent) (n : Fin 12)
  /-- `TIMER_CMP_WRITE` (R304) -/
  | timerCmpWrite (a : Agent) (n : Fin 12) (k : Fin 4) (v : Word)
  /-- `TIMER_STAG_WRITE` (R306) -/
  | timerStagWrite (a : Agent) (n : Fin 12) (v : Word)
  /-- `TIMER_CTL_WRITE` (R307) -/
  | timerCtlWrite (a : Agent) (n : Fin 12) (v : Word)
  /-- `UA_CHARACTER_RECEIVED` (R335) -/
  | uaCharacterReceived (n : Fin 4) (data : BitVec 9) (par : Bool) (stops : Bool × Bool)
  /-- `UA_BREAK_RECEIVED` (R338) -/
  | uaBreakReceived (n : Fin 4)
  /-- `UA_IDLE_DETECT` (R339) -/
  | uaIdleDetect (n : Fin 4)
  /-- `UA_CHARACTER_SENT` (R345) -/
  | uaCharacterSent (n : Fin 4)
  /-- `UA_DE_LAG_END` (R346) -/
  | uaDeLagEnd (n : Fin 4)
  /-- `UA_RX_READ` (R344) -/
  | uaRxRead (a : Agent) (n : Fin 4)
  /-- `UA_TX_WRITE` (R344) -/
  | uaTxWrite (a : Agent) (n : Fin 4) (v : Word)
  /-- `UA_DIV_WRITE` (R334) -/
  | uaDivWrite (a : Agent) (n : Fin 4) (v : Word)
  /-- `UA_QCFG_WRITE` (R340) -/
  | uaQcfgWrite (a : Agent) (n : Fin 4) (v : Word)
  /-- `UA_CTL_WRITE` (R347) -/
  | uaCtlWrite (a : Agent) (n : Fin 4) (v : Word)
  /-- `UA_ERRCNT_READ` (R342) -/
  | uaErrcntRead (a : Agent) (n : Fin 4)
  /-- `TOUCH_SCAN_DUE` (R352) -/
  | touchScanDue
  /-- `TOUCH_SCAN_START` (R353) -/
  | touchScanStart
  /-- `DQI_TIMEOUT` (R353) -/
  | dqiTimeout
  /-- `TOUCH_MEASUREMENT_DONE` (R354) -/
  | touchMeasurementDone (k : Fin 25) (count : Nat)
  /-- `TOUCH_SCAN_COMMIT` (R351) -/
  | touchScanCommit
  /-- `TOUCH_RATE_CHANGE` (R352) -/
  | touchRateChange (idle2 : Bool)
  /-- `TCH_START` (R358) -/
  | tchStart (a : Agent)
  /-- `TCH_REBASE` (R356) -/
  | tchRebase (a : Agent)
  /-- `RF_PLL_LOCK_FAIL` (R223) -/
  | rfPllLockFail
  /-- `RF_TX_END` (R223) -/
  | rfTxEnd
  /-- `RF_FRAME_ABORT` (R222) -/
  | rfFrameAbort (vcell : Nat := 0)
  /-- `RF_FRAME_REJECT` (R212) -/
  | rfFrameReject (f : PhyFrame)
  /-- `RF_CONFIG_WRITE` (R225) -/
  | rfConfigWrite (a : Agent) (reg : Fin 5) (v : Word)
  /-- `RF_CTL_WRITE` (R219) -/
  | rfCtlWrite (a : Agent) (v : Word)
  /-- `DUTY_CREDIT_ACCRUE` (R221) -/
  | dutyCreditAccrue
  /-- `RF_ABORTS_READ` (R226) -/
  | rfAbortsRead (a : Agent)
  /-- `RF_RXERR_READ` (R226) -/
  | rfRxerrRead (a : Agent)
  /-- `NET_SLOT_WAKE` (R234) -/
  | netSlotWake (slot : Fin 1152)
  /-- `NET_SLOT_START` (R234) -/
  | netSlotStart (slot : Fin 1152) (on : SlotStart)
  /-- `NET_SLOT_END` (R248) -/
  | netSlotEnd
  /-- `LISTEN_WINDOW_CLOSE` (R232) -/
  | listenWindowClose
  /-- `ACK_TIMEOUT` (R240) -/
  | ackTimeout
  /-- `BEACON_RECEIVED` (R238) -/
  | beaconReceived (f : PhyFrame)
  /-- `DATA_RECEIVED` (R242) -/
  | dataReceived (f : PhyFrame)
  /-- `ACK_RECEIVED` (R239) -/
  | ackReceived (f : PhyFrame)
  /-- `JOIN_REQ_RECEIVED` (R247) -/
  | joinReqReceived (f : PhyFrame)
  /-- `JOIN_RSP_RECEIVED` (R247) -/
  | joinRspReceived (f : PhyFrame)
  /-- `ATTACH_RECEIVED` (R249) -/
  | attachReceived (f : PhyFrame)
  /-- `DETACH_RECEIVED` (R249) -/
  | detachReceived (f : PhyFrame)
  /-- `MESSAGE_DELIVERY` (R257) -/
  | messageDelivery
  /-- `NET_CMD_SEND` (R253) -/
  | netCmdSend (a : Agent)
  /-- `NET_CMD_JOIN` (R247) -/
  | netCmdJoin (a : Agent)
  /-- `NET_CMD_LEAVE` (R259) -/
  | netCmdLeave (a : Agent)
  /-- `NET_CMD_SURVEY` (R249) -/
  | netCmdSurvey (a : Agent)
  /-- `NET_CMD_ADMIT` (R247) -/
  | netCmdAdmit (a : Agent)
  /-- `NET_CMD_KEYSET` (R246) -/
  | netCmdKeyset (a : Agent)
  /-- `NET_CMD_KEYUSE` (R246) -/
  | netCmdKeyuse (a : Agent)
  /-- `NET_EN_WRITE` (R228) -/
  | netEnWrite (a : Agent) (v : Word)
  /-- `NET_CNT_READ` (R259) -/
  | netCntRead (a : Agent) (n : Fin 3)
  /-- `TRANSACTION_TIMEOUT` (R256) -/
  | transactionTimeout (tid : BitVec 16)
  /-- `REASSEMBLY_TIMEOUT` (R252) -/
  | reassemblyTimeout (orig : Fin 1024) (tid : BitVec 16)
  /-- `CHILD_TIMEOUT` (R249) -/
  | childTimeout (node : Fin 1024)
  /-- `KEEP_TIMER` (R249) -/
  | keepTimer
  /-- `PARENT_LOSS` (R249) -/
  | parentLoss
  /-- `JOIN_TIMEOUT` (R247) -/
  | joinTimeout
  /-- `OLD_KEY_EXPIRY` (R246) -/
  | oldKeyExpiry
  /-- `SURVEY_END` (R249) -/
  | surveyEnd
  /-- `CNT_OVERFLOW` (R389) -/
  | cntOverflow (n : Fin 24)
  /-- `CNT_CAPTURE` (R388) -/
  | cntCapture (a : Agent)
  /-- `CNT_LO_WRITE` (R387) -/
  | cntLoWrite (a : Agent) (n : Fin 24) (v : Word)
  /-- `CNT_HI_WRITE` (R387) -/
  | cntHiWrite (a : Agent) (n : Fin 24) (v : Word)
  /-- `CNT_LO_READ` (R387) -/
  | cntLoRead (a : Agent) (n : Fin 24)
  /-- `PIN_EDGE` (R399) -/
  | pinEdge (b : Fin 96) (rise : Bool)
  /-- `PIN_OUT_WRITE` (R397) -/
  | pinOutWrite (a : Agent) (p : Fin 6) (v : Word)
  /-- `PIN_HOLD_WRITE` (R397) -/
  | pinHoldWrite (a : Agent) (v : Word)
  /-- `PIN_BALL_WRITE` (R397) -/
  | pinBallWrite (a : Agent) (n : Fin 96) (v : Word)
  /-- `PEG_READ` (R369) -/
  | pegRead (addr : BitVec 8)
  /-- `PEG_WRITE` (R368) -/
  | pegWrite (addr : BitVec 8) (data : Word) (crc : BitVec 8)
  /-- `PEG_WRITE_COMPLETE` (R368) -/
  | pegWriteComplete
  /-- `READ_STATUS` (R365) -/
  | readStatus (addr : BitVec 8)
  /-- `BEGIN_SESSION` (R373) -/
  | beginSession (addr : BitVec 8) (nonce : Word) (crc : BitVec 8)
  /-- `SESSION_RESPONSE` (R373) -/
  | sessionResponse (idx : BitVec 8) (data : Word) (crc : BitVec 8)
  /-- `PEG_SESSION_CHECK` (R373) -/
  | pegSessionCheck
  /-- `PEG_BAD_COMMAND` (R365) -/
  | pegBadCommand (cmd : BitVec 8)
  /-- `PEG_FRAME_CUT` (R368) -/
  | pegFrameCut
  /-- `PEG_SESSION_TIMEOUT` (R374) -/
  | pegSessionTimeout
  /-- `PEG_SESS_CLOSE` (R374) -/
  | pegSessClose (a : Agent)
  /-- `PEG_H2D3_WRITE` (R376) -/
  | pegH2d3Write (a : Agent) (v : Word)
  /-- `PEG_D2H3_WRITE` (R376) -/
  | pegD2h3Write (a : Agent) (v : Word)
  /-- `PEG_MBSTAT_WRITE` (R376) -/
  | pegMbstatWrite (a : Agent) (v : Word)
  /-- `PEG_RESET` (R377) -/
  | pegReset (a : Agent)
  /-- `GS_WRITE` (R377) -/
  | gsWrite (a : Agent)
  /-- `PEG_IMG_SWITCH` (R377) -/
  | pegImgSwitch (a : Agent) (arg : BitVec 4)
  /-- `KEY_SET` (R377) -/
  | keySet (a : Agent) (arg : BitVec 4)
  /-- `PEG_CMD_BAD_OP` (R377) -/
  | pegCmdBadOp (a : Agent) (op : BitVec 4)
  /-- `PEG_CMD_COMPLETE` (R377) -/
  | pegCmdComplete
  /-- `PEG_UPD_ADDR_WRITE` (R378) -/
  | pegUpdAddrWrite (a : Agent) (v : Word)
  /-- `PEG_UPD_DATA_WRITE` (R378) -/
  | pegUpdDataWrite (a : Agent) (v : Word)
  /-- `PEG_UPD_DATA_READ` (R378) -/
  | pegUpdDataRead (a : Agent)
  /-- `PEG_UPD_PREFETCH_DONE` (R378) -/
  | pegUpdPrefetchDone
  /-- `REGISTER_WRITE` (R2) -/
  | registerWrite (a : Agent) (addr v : Word)
  /-- `DEBUG_RESUME` (R181) -/
  | debugResume (c : CoreId)
  /-- `DEBUG_REGISTER_ACCESS` (R181) -/
  | debugRegisterAccess (c : CoreId) (reg : DebugReg) (v : Option Word)
  /-- `NRST_RELEASE` (R403) -/
  | nrstRelease
  /-- `PORCH_SUPPLY_LOSS` (R98) -/
  | porchSupplyLoss (words : Nat)
  /-- `UA_START_BIT_DETECT` (R335) -/
  | uaStartBitDetect (n : Fin 4) (edge : StartEdge)
  /-- `RF_SYNC_DETECT` (R216) -/
  | rfSyncDetect (m : SyncMatch)
  /-- `COPY_UNCORRECTABLE_READ` (R124) -/
  | copyUncorrectableRead
  /-- `CORRECTION_WINDOW_END` (R85) -/
  | correctionWindowEnd (bank : Fin 50)
  /-- `RIDGEPOLE_WATCHDOG_WARNING` (R196) -/
  | ridgepoleWatchdogWarning
  /-- `SUPPLY_WATCH_QUALIFIED` (R139) -/
  | supplyWatchQualified (bank2 : Bool)
  /-- `HARVEST_INTAKE_LIMIT` (R270) -/
  | harvestIntakeLimit (hvb : Bool) (reg : Nat)
  deriving DecidableEq, Repr

end Sys2Proof
end

