-- ==== Sys2Proof/Decode.lean ====
section
/-! DEFINITION. The words that spell commands. The table of operations gives no row any bits: a command is a
row with its operands, and no word stands for one. -/

namespace Sys2Proof

/-- The command that a word of `nbits` bits spells: none, since no row of the table has bits. -/
def decodeTableWord (_nbits _w : Nat) : Option Instr := none

end Sys2Proof
end

