-- ==== Sys2Proof/Machine/Bits.lean ====
section
/-! DEFINITION. Bit fields of registers, the access codes of R2 as one write function, and small
helpers over vectors and lists that every block uses. -/

namespace Sys2Proof.Machine

open Sys2Proof

/-- Bit `i` of a register. -/
def bit {n : Nat} (w : BitVec n) (i : Nat) : Bool := w.getLsbD i

/-- The field of `len` bits from bit `lo`, as a number. -/
def bits {n : Nat} (w : BitVec n) (lo len : Nat) : Nat := (w.toNat >>> lo) % 2 ^ len

/-- The field of `len` bits from bit `lo`, sign-extended (two's complement). -/
def sbits {n : Nat} (w : BitVec n) (lo len : Nat) : Int :=
  let v := bits w lo len
  if v < 2 ^ (len - 1) then (v : Int) else (v : Int) - 2 ^ len

/-- The mask of the field of `len` bits from bit `lo`. -/
def fieldMask {n : Nat} (lo len : Nat) : BitVec n := BitVec.ofNat n ((2 ^ len - 1) <<< lo)

/-- `w` with the field of `len` bits from bit `lo` set to `v` modulo `2 ^ len`. -/
def setBits {n : Nat} (w : BitVec n) (lo len v : Nat) : BitVec n :=
  (w &&& ~~~(fieldMask lo len)) ||| BitVec.ofNat n ((v % 2 ^ len) <<< lo)

/-- `w` with bit `i` set to `b`. -/
def setBit {n : Nat} (w : BitVec n) (i : Nat) (b : Bool) : BitVec n :=
  if b then w ||| BitVec.twoPow n i else w &&& ~~~(BitVec.twoPow n i)

/-- A word holding one field. -/
def field (lo v : Nat) : Word := BitVec.ofNat 32 (v <<< lo)

/-- A word holding one flag. -/
def flagAt (i : Nat) (b : Bool) : Word := if b then BitVec.twoPow 32 i else 0#32

/-- What a write stores by the access codes of R2: RW bits take the written value, a 1 written to a
W1C bit clears it, a 1 written to a W1S bit sets it, and every other bit is unchanged. -/
def writeCodes {n : Nat} (rw w1c w1s old v : BitVec n) : BitVec n :=
  ((((old &&& ~~~rw) ||| (v &&& rw)) &&& ~~~(v &&& w1c)) ||| (v &&& w1s))

/-- A write to a register whose only writable bits are RW (R2, R3). -/
def writeRW (rw old v : Word) : Word := (old &&& ~~~rw) ||| (v &&& rw)

/-- A write to a flag register whose writable bits are W1C (R2). -/
def writeW1C (w1c old v : Word) : Word := old &&& ~~~(v &&& w1c)

/-- Element `i` of a register bank, or `d` outside it (a reserved offset, R3). -/
def vget {α : Type} {n : Nat} (v : Vector α n) (i : Nat) (d : α) : α :=
  if h : i < n then v[i] else d

/-- A register bank with element `i` replaced; unchanged outside the bank (R3). -/
def vset {α : Type} {n : Nat} (v : Vector α n) (i : Nat) (x : α) : Vector α n :=
  if h : i < n then v.set i x h else v

/-- A register bank with element `i` rewritten by `f`. -/
def vmod {α : Type} {n : Nat} (v : Vector α n) (i : Nat) (f : α → α) : Vector α n :=
  if h : i < n then v.set i (f v[i]) h else v

/-- The sum of `n` and `k`, saturating at `cap`. -/
def satAdd (cap n k : Nat) : Nat := min cap (n + k)

/-- The four bytes of a word, the lowest address first (R52). -/
def bytesOf (w : Word) : List Byte :=
  [w.extractLsb' 0 8, w.extractLsb' 8 8, w.extractLsb' 16 8, w.extractLsb' 24 8]

/-- The number that a list of bytes spells, the lowest address least significant (R52). -/
def numOf : List Byte → Nat
  | [] => 0
  | b :: bs => b.toNat + 256 * numOf bs

/-- The word that a list of bytes spells, the lowest address least significant (R52). -/
def wordOf (bs : List Byte) : Word := BitVec.ofNat 32 (numOf bs)

/-- The low `k` bytes of a number, the lowest address first. -/
def bytesOfNat : Nat → Nat → List Byte
  | 0, _ => []
  | k + 1, n => BitVec.ofNat 8 n :: bytesOfNat k (n / 256)

/-- The numbers `i` below `n` with `p i`, in ascending order. -/
def indices (n : Nat) (p : Nat → Bool) : List Nat := (List.range n).filter p

/-- Is some bit of `w` set. -/
def anyBit {n : Nat} (w : BitVec n) : Bool := w != 0#n

/-- `x` put before the first element of a sorted list that it does not come after. -/
def insertBy {α : Type} (le : α → α → Bool) (x : α) : List α → List α
  | [] => [x]
  | y :: r => if le x y then x :: y :: r else y :: insertBy le x r

/-- A list in the order of `le`; equals keep their order. -/
def sortBy {α : Type} (le : α → α → Bool) : List α → List α
  | [] => []
  | x :: r => insertBy le x (sortBy le r)

end Sys2Proof.Machine
end

