-- ==== Sys2Proof/Machine/Flags.lean ====
section
/-! DEFINITION. The results and flags that the instructions compute: binary arithmetic and logic (R62),
shifts (R63), multiply and divide (R39, R41), packed BCD (R44-R46), string compares (R42), and the
condition codes (R57). FLG holds Z, N, C, V and D in bits 0-4 and E in bit 8. -/

namespace Sys2Proof.Machine

open Sys2Proof

def flagZ (f : Word) : Bool := bit f 0
def flagN (f : Word) : Bool := bit f 1
def flagC (f : Word) : Bool := bit f 2
def flagV (f : Word) : Bool := bit f 3
def flagD (f : Word) : Bool := bit f 4
def flagE (f : Word) : Bool := bit f 8

/-- The writable bits of FLG: Z, N, C, V, D and E. -/
def flgMask : Word := 0x11F#32

/-- FLG with Z and N set from a result. -/
def setZN (f r : Word) : Word := setBit (setBit f 0 (r == 0#32)) 1 r.msb

/-- FLG with Z, N and C set. -/
def setZNC (f r : Word) (c : Bool) : Word := setBit (setZN f r) 2 c

/-- FLG with Z, N, C and V set. -/
def setZNCV (f r : Word) (c v : Bool) : Word := setBit (setZNC f r c) 3 v

/-- FLG with Z, V and D set: the decimal instructions. -/
def setZVD (f r : Word) (v d : Bool) : Word :=
  setBit (setBit (setBit f 0 (r == 0#32)) 3 v) 4 d

/-- A result with the carry or borrow and the overflow that go with it. -/
structure Alu where
  r : Word
  c : Bool
  v : Bool
  deriving DecidableEq, Repr

/-- The add family: `a + b + cin` (R62). -/
def addWith (a b : Word) (cin : Bool) : Alu :=
  let sum := a.toNat + b.toNat + cin.toNat
  let r := BitVec.ofNat 32 sum
  { r := r, c := decide (2 ^ 32 ≤ sum), v := (a.msb == b.msb) && (r.msb != a.msb) }

/-- The subtract family: `a - b - bin` (R62). -/
def subWith (a b : Word) (bin : Bool) : Alu :=
  let r := a - b - BitVec.ofNat 32 bin.toNat
  { r := r, c := decide (a.toNat < b.toNat + bin.toNat),
    v := (a.msb != b.msb) && (r.msb != a.msb) }

/-- A shift or rotate: the result, and C as it stands after (R63). -/
structure Shift where
  r : Word
  c : Bool
  deriving DecidableEq, Repr

def shl (a : Word) (n : Nat) (c : Bool) : Shift :=
  if n = 0 then ⟨a, c⟩ else ⟨a <<< n, bit a (32 - n)⟩

def shrL (a : Word) (n : Nat) (c : Bool) : Shift :=
  if n = 0 then ⟨a, c⟩ else ⟨a >>> n, bit a (n - 1)⟩

def shrA (a : Word) (n : Nat) (c : Bool) : Shift :=
  if n = 0 then ⟨a, c⟩ else ⟨a.sshiftRight n, bit a (n - 1)⟩

def rotR (a : Word) (n : Nat) (c : Bool) : Shift :=
  if n = 0 then ⟨a, c⟩ else ⟨a.rotateRight n, (a.rotateRight n).msb⟩

/-! ## Multiply and divide -/

/-- The 64-bit product, unsigned (R39). -/
def productU (a b : Word) : DWord := BitVec.ofNat 64 (a.toNat * b.toNat)

/-- The 64-bit product, signed (R39). -/
def productS (a b : Word) : DWord := BitVec.ofInt 64 (a.toInt * b.toInt)

/-- Quotient, remainder and the V flag of a divide. -/
structure Quot where
  qt : Word
  rm : Word
  v : Bool
  deriving DecidableEq, Repr

/-- DIVU (R41). -/
def divideU (a b : Word) : Quot :=
  if b = 0#32 then ⟨0xFFFFFFFF#32, a, true⟩
  else ⟨BitVec.ofNat 32 (a.toNat / b.toNat), BitVec.ofNat 32 (a.toNat % b.toNat), false⟩

/-- DIVS: truncates toward zero, the remainder takes the sign of the dividend (R41). -/
def divideS (a b : Word) : Quot :=
  if b = 0#32 then ⟨0xFFFFFFFF#32, a, true⟩
  else if a = 0x80000000#32 ∧ b = 0xFFFFFFFF#32 then ⟨0x80000000#32, 0#32, true⟩
  else ⟨BitVec.ofInt 32 (a.toInt.tdiv b.toInt), BitVec.ofInt 32 (a.toInt.tmod b.toInt), false⟩

/-! ## Packed BCD -/

/-- The value of nibble `i`. -/
def nibble (w : Word) (i : Nat) : Nat := bits w (4 * i) 4

/-- Some nibble of the word exceeds 9. -/
def badNibble (w : Word) : Bool := (List.range 8).any fun i => decide (9 < nibble w i)

/-- One digit of the add loop of R44: the digit and the carry. -/
def addDigit (a b c : Nat) : Nat × Nat :=
  let s := a + b + c
  if 10 ≤ s then ((s - 10) % 16, 1) else (s, 0)

/-- One digit of the subtract loop of R44: the digit and the borrow. -/
def subDigit (a b c : Nat) : Nat × Nat :=
  if a < b + c then ((a + 10 + 16 - b - c) % 16, 1) else (a - b - c, 0)

/-- The loop of R44 over digits `i` to 7: the digits as a number weighted by 16, and the last carry. -/
def bcdLoop (f : Nat → Nat → Nat → Nat × Nat) (a b : Word) : Nat → Nat → Nat → Nat × Nat
  | 0, _, c => (0, c)
  | k + 1, i, c =>
    let d := f (nibble a i) (nibble b i) c
    let r := bcdLoop f a b k (i + 1) d.2
    (d.1 + 16 * r.1, r.2)

/-- A decimal result: the word, V and D (R44). -/
structure Dec where
  r : Word
  v : Bool
  d : Bool
  deriving DecidableEq, Repr

def bcdAdd (a b : Word) (cin : Bool) : Dec :=
  let p := bcdLoop addDigit a b 8 0 cin.toNat
  { r := BitVec.ofNat 32 p.1, v := badNibble a || badNibble b, d := decide (p.2 = 1) }

def bcdSub (a b : Word) (bin : Bool) : Dec :=
  let p := bcdLoop subDigit a b 8 0 bin.toNat
  { r := BitVec.ofNat 32 p.1, v := badNibble a || badNibble b, d := decide (p.2 = 1) }

/-- DADJ (R45). -/
def bcdAdjust (a : Word) : Dec :=
  { bcdAdd a 0#32 false with v := false }

/-- CVDB: the sum of nibble value times ten to its position (R46). -/
def bcdToBin (w : Word) : Nat :=
  ((List.range 8).map fun i => nibble w i * 10 ^ i).sum

/-- CVBD: the packed BCD of a number below 10^8 (R46). -/
def binToBcd (n : Nat) : Nat :=
  ((List.range 8).map fun i => n / 10 ^ i % 10 * 16 ^ i).sum

/-! ## String compares -/

/-- FLG after CMPS or SCNS compares two elements of `s` bytes (R42). -/
def compareFlags (f : Word) (s a b : Nat) : Word :=
  let w := 8 * s
  let r := (a + 2 ^ w - b) % 2 ^ w
  let top := fun n : Nat => n.testBit (w - 1)
  setBit (setBit (setBit (setBit f 0 (decide (r = 0))) 1 (top r)) 2 (decide (a < b))) 3
    ((top a != top b) && (top r != top a))

/-! ## Condition codes -/

/-- Does the condition hold for FLG (R57). -/
def condHolds (k : Cond) (f : Word) : Bool :=
  match k with
  | .eq => flagZ f
  | .ne => !flagZ f
  | .lo => flagC f
  | .hs => !flagC f
  | .ns => flagN f
  | .nc => !flagN f
  | .vs => flagV f
  | .vc => !flagV f
  | .hi => !flagC f && !flagZ f
  | .ls => flagC f || flagZ f
  | .ge => flagN f == flagV f
  | .lt => flagN f != flagV f
  | .gt => !flagZ f && (flagN f == flagV f)
  | .le => flagZ f || (flagN f != flagV f)
  | .ds => flagD f
  | .al => true

/-- The number of bytes of a string element (R42). -/
def elemBytes : ElemSize → Nat
  | .byte => 1
  | .half => 2
  | .word => 4

end Sys2Proof.Machine
end

