-- ==== Sys2Proof/Machine/Crypto.lean ====
section
/-! DEFINITION. The algorithms that the specification names and does not define: SHA-256, HMAC-SHA-256 and Ed25519
(R168, R171, R180, R373), AES-128 (R171) and its CCM mode (R243). They are those of FIPS 180-4, FIPS 197, RFC 2104,
RFC 8032 and SP 800-38C (PRESUMED, unsafe: assumption 21). -/

namespace Sys2Proof.Machine

open Sys2Proof

/-! ## Bytes and words -/

/-- `n` bytes of a number, the most significant first. -/
def bigEndian : Nat → Nat → List Byte
  | 0, _ => []
  | n + 1, v => BitVec.ofNat 8 (v / 256 ^ n) :: bigEndian n v

/-- The number of bytes that stand most significant first. -/
def numBig (bs : List Byte) : Nat := bs.foldl (fun v b => 256 * v + b.toNat) 0

/-- The number of bytes that stand least significant first. -/
def numLittle (bs : List Byte) : Nat := numBig bs.reverse

def xorBytes (a b : List Byte) : List Byte := List.zipWith (· ^^^ ·) a b

/-- Lists of `k` items, for at most `n` of them. -/
def chunks {α : Type} (k : Nat) : Nat → List α → List (List α)
  | 0, _ => []
  | n + 1, l => if l.isEmpty then [] else l.take k :: chunks k n (l.drop k)

/-- Zero bytes up to a whole number of `k`. -/
def padTo (k : Nat) (bs : List Byte) : List Byte := bs ++ List.replicate ((k - bs.length % k) % k) 0#8

/-- The words of `w` bits in rows of `n`, the first in the highest bits. -/
def tableWords (w n : Nat) (rows : List Nat) : List (BitVec w) :=
  rows.flatMap fun r => (List.range n).map fun i => BitVec.ofNat w (r >>> (w * (n - 1 - i)))

/-! ## SHA-2 -/

/-- The round constants of SHA-256, eight words a row. -/
def sha256Rows : List Nat :=
  [0x428a2f9871374491b5c0fbcfe9b5dba53956c25b59f111f1923f82a4ab1c5ed5,
    0xd807aa9812835b01243185be550c7dc372be5d7480deb1fe9bdc06a7c19bf174,
    0xe49b69c1efbe47860fc19dc6240ca1cc2de92c6f4a7484aa5cb0a9dc76f988da,
    0x983e5152a831c66db00327c8bf597fc7c6e00bf3d5a7914706ca635114292967,
    0x27b70a852e1b21384d2c6dfc53380d13650a7354766a0abb81c2c92e92722c85,
    0xa2bfe8a1a81a664bc24b8b70c76c51a3d192e819d6990624f40e3585106aa070,
    0x19a4c1161e376c082748774c34b0bcb5391c0cb34ed8aa4a5b9cca4f682e6ff3,
    0x748f82ee78a5636f84c878148cc7020890befffaa4506cebbef9a3f7c67178f2]

/-- The round constants of SHA-512, four words a row: the first forty. -/
def sha512RowsA : List Nat :=
  [0x428a2f98d728ae227137449123ef65cdb5c0fbcfec4d3b2fe9b5dba58189dbbc,
    0x3956c25bf348b53859f111f1b605d019923f82a4af194f9bab1c5ed5da6d8118,
    0xd807aa98a303024212835b0145706fbe243185be4ee4b28c550c7dc3d5ffb4e2,
    0x72be5d74f27b896f80deb1fe3b1696b19bdc06a725c71235c19bf174cf692694,
    0xe49b69c19ef14ad2efbe4786384f25e30fc19dc68b8cd5b5240ca1cc77ac9c65,
    0x2de92c6f592b02754a7484aa6ea6e4835cb0a9dcbd41fbd476f988da831153b5,
    0x983e5152ee66dfaba831c66d2db43210b00327c898fb213fbf597fc7beef0ee4,
    0xc6e00bf33da88fc2d5a79147930aa72506ca6351e003826f142929670a0e6e70,
    0x27b70a8546d22ffc2e1b21385c26c9264d2c6dfc5ac42aed53380d139d95b3df,
    0x650a73548baf63de766a0abb3c77b2a881c2c92e47edaee692722c851482353b]

/-- The last forty. -/
def sha512RowsB : List Nat :=
  [0xa2bfe8a14cf10364a81a664bbc423001c24b8b70d0f89791c76c51a30654be30,
    0xd192e819d6ef5218d69906245565a910f40e35855771202a106aa07032bbd1b8,
    0x19a4c116b8d2d0c81e376c085141ab532748774cdf8eeb9934b0bcb5e19b48a8,
    0x391c0cb3c5c95a634ed8aa4ae3418acb5b9cca4f7763e373682e6ff3d6b2b8a3,
    0x748f82ee5defb2fc78a5636f43172f6084c87814a1f0ab728cc702081a6439ec,
    0x90befffa23631e28a4506cebde82bde9bef9a3f7b2c67915c67178f2e372532b,
    0xca273eceea26619cd186b8c721c0c207eada7dd6cde0eb1ef57d4f7fee6ed178,
    0x06f067aa72176fba0a637dc5a2c898a6113f9804bef90dae1b710b35131c471b,
    0x28db77f523047d8432caab7b40c724933c9ebe0a15c9bebc431d67c49c100d4c,
    0x4cc5d4becb3e42b6597f299cfc657e2a5fcb6fab3ad6faec6c44198c4a475817]

/-- The distances of SHA-2 for one word length: of each big sigma, and of each small one, whose last is a shift. -/
structure Sha (w : Nat) where
  s0 : Nat × Nat × Nat
  s1 : Nat × Nat × Nat
  t0 : Nat × Nat × Nat
  t1 : Nat × Nat × Nat
  rounds : List (BitVec w)
  start : List (BitVec w)

def sha256Parts : Sha 32 :=
  { s0 := (2, 13, 22), s1 := (6, 11, 25), t0 := (7, 18, 3), t1 := (17, 19, 10)
    rounds := tableWords 32 8 sha256Rows
    start := tableWords 32 8 [0x6a09e667bb67ae853c6ef372a54ff53a510e527f9b05688c1f83d9ab5be0cd19] }

def sha512Parts : Sha 64 :=
  { s0 := (28, 34, 39), s1 := (14, 18, 41), t0 := (1, 8, 7), t1 := (19, 61, 6)
    rounds := tableWords 64 4 (sha512RowsA ++ sha512RowsB)
    start := tableWords 64 4 [0x6a09e667f3bcc908bb67ae8584caa73b3c6ef372fe94f82ba54ff53a5f1d36f1,
      0x510e527fade682d19b05688c2b3e6c1f1f83d9abfb41bd6b5be0cd19137e2179] }

def bigSigma {w : Nat} (d : Nat × Nat × Nat) (x : BitVec w) : BitVec w :=
  x.rotateRight d.1 ^^^ x.rotateRight d.2.1 ^^^ x.rotateRight d.2.2

def smallSigma {w : Nat} (d : Nat × Nat × Nat) (x : BitVec w) : BitVec w :=
  x.rotateRight d.1 ^^^ x.rotateRight d.2.1 ^^^ (x >>> d.2.2)

/-- One round, with its constant and its word of the schedule together. -/
def Sha.round {w : Nat} (p : Sha w) (kw : BitVec w) : List (BitVec w) → List (BitVec w)
  | [a, b, c, d, e, f, g, h] =>
    let t := h + bigSigma p.s1 e + ((e &&& f) ^^^ (~~~e &&& g)) + kw
    let u := bigSigma p.s0 a + ((a &&& b) ^^^ (a &&& c) ^^^ (b &&& c))
    [t + u, a, b, c, d + t, e, f, g]
  | l => l

/-- The rounds of a block: `win` holds the next sixteen words of the schedule. -/
def Sha.block {w : Nat} (p : Sha w) : List (BitVec w) → List (BitVec w) → List (BitVec w) → List (BitVec w)
  | [], _, l => l
  | k :: ks, win, l =>
    let now := win.headD 0
    let next := smallSigma p.t1 (win.getD 14 0) + win.getD 9 0 + smallSigma p.t0 (win.getD 1 0) + now
    p.block ks (win.drop 1 ++ [next]) (p.round (k + now) l)

/-- The hash of a message of bytes, whose block is 16 words. -/
def Sha.hash {w : Nat} (p : Sha w) (msg : List Byte) : List Byte :=
  let n := w / 8
  let zeros := (16 * n - (msg.length + 1 + 2 * n) % (16 * n)) % (16 * n)
  let bs := msg ++ [0x80#8] ++ List.replicate zeros 0#8 ++ bigEndian (2 * n) (8 * msg.length)
  let blocks := chunks (16 * n) (bs.length / (16 * n)) bs
  let words := blocks.map fun b => (chunks n 16 b).map fun x => BitVec.ofNat w (numBig x)
  (words.foldl (fun l b => List.zipWith (· + ·) l (p.block p.rounds b l)) p.start).flatMap fun x =>
    bigEndian n x.toNat

/-- SHA-256 of a message. -/
def sha256 (msg : List Byte) : List Byte := sha256Parts.hash msg

def sha512 (msg : List Byte) : List Byte := sha512Parts.hash msg

/-- HMAC-SHA-256 of a message under a key of at most 64 bytes. -/
def hmac (key msg : List Byte) : List Byte :=
  let k := key ++ List.replicate (64 - key.length) 0#8
  sha256 (k.map (· ^^^ 0x5C#8) ++ sha256 (k.map (· ^^^ 0x36#8) ++ msg))

/-! ## AES-128 and CCM -/

/-- The S-box of AES, 32 bytes a row. -/
def sboxRows : List Nat :=
  [0x637c777bf26b6fc53001672bfed7ab76ca82c97dfa5947f0add4a2af9ca472c0,
    0xb7fd9326363ff7cc34a5e5f171d8311504c723c31896059a071280e2eb27b275,
    0x09832c1a1b6e5aa0523bd6b329e32f8453d100ed20fcb15b6acbbe394a4c58cf,
    0xd0efaafb434d338545f9027f503c9fa851a3408f929d38f5bcb6da2110fff3d2,
    0xcd0c13ec5f974417c4a77e3d645d197360814fdc222a908846eeb814de5e0bdb,
    0xe0323a0a4906245cc2d3ac629195e479e7c8376d8dd54ea96c56f4ea657aae08,
    0xba78252e1ca6b4c6e8dd741f4bbd8b8a703eb5664803f60e613557b986c11d9e,
    0xe1f8981169d98e949b1e87e9ce5528df8ca1890dbfe6426841992d0fb054bb16]

def sbox (b : Byte) : Byte :=
  BitVec.ofNat 8 (sboxRows.getD (b.toNat / 32) 0 >>> (8 * (31 - b.toNat % 32)))

/-- A byte times x in the field of AES. -/
def xtime (b : Byte) : Byte := if b.getLsbD 7 then (b <<< 1) ^^^ 0x1B#8 else b <<< 1

/-- The round key after `k`, with round constant `rc`. -/
def nextRoundKey (k : List Byte) (rc : Byte) : List Byte :=
  let t := ((k.drop 13).take 3 ++ (k.drop 12).take 1).map sbox
  let w0 := xorBytes (k.take 4) (xorBytes t [rc, 0#8, 0#8, 0#8])
  let w1 := xorBytes ((k.drop 4).take 4) w0
  let w2 := xorBytes ((k.drop 8).take 4) w1
  w0 ++ w1 ++ w2 ++ xorBytes (k.drop 12) w2

def shiftRows (l : List Byte) : List Byte := (List.range 16).map fun i => l.getD (5 * i % 16) 0#8

/-- One column mixed. -/
def mixColumn (c : List Byte) : List Byte :=
  let a := c.getD 0 0#8
  let b := c.getD 1 0#8
  let d := c.getD 2 0#8
  let e := c.getD 3 0#8
  let all := a ^^^ b ^^^ d ^^^ e
  [a ^^^ all ^^^ xtime (a ^^^ b), b ^^^ all ^^^ xtime (b ^^^ d), d ^^^ all ^^^ xtime (d ^^^ e),
    e ^^^ all ^^^ xtime (e ^^^ a)]

/-- The last `n + 1` rounds, from the round key and round constant in force: the last mixes no columns. -/
def aesRounds : Nat → List Byte → Byte → List Byte → List Byte
  | 0, k, rc, l => xorBytes (shiftRows (l.map sbox)) (nextRoundKey k rc)
  | n + 1, k, rc, l =>
    let k := nextRoundKey k rc
    aesRounds n k (xtime rc) (xorBytes ((chunks 4 4 (shiftRows (l.map sbox))).flatMap mixColumn) k)

/-- AES-128 of a block of 16 bytes under a key of 16 bytes. -/
def aes (key block : List Byte) : List Byte := aesRounds 9 key 1#8 (xorBytes block key)

/-- The chain of the blocks of a message. -/
def cbcMac (key : List Byte) (bs : List Byte) : List Byte :=
  (chunks 16 (bs.length / 16) bs).foldl (fun x b => aes key (xorBytes x b)) (List.replicate 16 0#8)

/-- Block `i` of the key stream of CCM, for a nonce of 13 bytes. -/
def ccmBlock (key nonce : List Byte) (i : Nat) : List Byte := aes key ([1#8] ++ nonce ++ bigEndian 2 i)

/-- The 8-byte MIC of AES-128 CCM over authenticated data and a plain text, with a length field of 2 bytes (R243). -/
def ccmMic (key nonce aad plain : List Byte) : List Byte :=
  let head := [if aad.isEmpty then 0x19#8 else 0x59#8] ++ nonce ++ bigEndian 2 plain.length
  let data := if aad.isEmpty then [] else padTo 16 (bigEndian 2 aad.length ++ aad)
  xorBytes ((cbcMac key (head ++ data ++ padTo 16 plain)).take 8) ((ccmBlock key nonce 0).take 8)

/-- The text that AES-128 CCM makes of a text by its key stream; it encrypts and decrypts (R243). -/
def ccmStream (key nonce text : List Byte) : List Byte :=
  xorBytes text ((List.range ((text.length + 15) / 16)).flatMap fun i => ccmBlock key nonce (i + 1))

/-! ## Ed25519 -/

/-- The prime of the field. -/
def edP : Nat := 2 ^ 255 - 19

/-- The order of the base point. -/
def edL : Nat :=
  0x1000000000000000000000000000000014def9dea2f79cd65812631a5cf5d3ed

/-- The constant of the curve. -/
def edD : Nat :=
  0x52036cee2b6ffe738cc740797779e89800700a4d4141d8ab75eb4dca135978a3

/-- A power in the field, by the bits of the exponent. -/
def powMod (b : Nat) : Nat → Nat → Nat
  | 0, _ => 1
  | n + 1, e =>
    let h := powMod b n (e / 2)
    if e % 2 = 1 then h * h % edP * b % edP else h * h % edP

def subMod (a b : Nat) : Nat := (a + edP - b % edP) % edP

/-- A point in extended coordinates. -/
structure EdPoint where
  x : Nat
  y : Nat
  z : Nat
  t : Nat
  deriving DecidableEq, Repr

def EdPoint.add (p q : EdPoint) : EdPoint :=
  let a := subMod p.y p.x * subMod q.y q.x % edP
  let b := (p.y + p.x) * (q.y + q.x) % edP
  let c := 2 * p.t * q.t % edP * edD % edP
  let d := 2 * p.z * q.z % edP
  let e := subMod b a
  let f := subMod d c
  let g := (d + c) % edP
  let h := (b + a) % edP
  ⟨e * f % edP, g * h % edP, f * g % edP, e * h % edP⟩

/-- `e` times a point, by the bits of `e`. -/
def EdPoint.times (p : EdPoint) : Nat → Nat → EdPoint
  | 0, _ => ⟨0, 1, 1, 0⟩
  | n + 1, e =>
    let h := p.times n (e / 2)
    let h := h.add h
    if e % 2 = 1 then h.add p else h

def EdPoint.same (p q : EdPoint) : Bool :=
  decide (p.x * q.z % edP = q.x * p.z % edP) && decide (p.y * q.z % edP = q.y * p.z % edP)

def edBase : EdPoint :=
  let x := 0x216936d3cd6e53fec0a4e231fdd6dc5c692cc7609525a7b2c9562d608f25d51a
  let y := 0x6666666666666666666666666666666666666666666666666666666666666658
  ⟨x, y, 1, x * y % edP⟩

/-- The point that 32 bytes stand for. -/
def edPoint (bs : List Byte) : Option EdPoint :=
  let v := numLittle bs
  let y := v % 2 ^ 255
  let u := subMod (y * y) 1
  let w := (edD * (y * y % edP) + 1) % edP
  let xx := u * powMod w 256 (edP - 2) % edP
  let x := powMod xx 256 ((edP + 3) / 8)
  let x := if x * x % edP = xx then x else x * powMod 2 256 ((edP - 1) / 4) % edP
  if edP ≤ y ∨ bs.length ≠ 32 ∨ x * x % edP ≠ xx ∨ (x = 0 ∧ 2 ^ 255 ≤ v) then none
  else
    let x := if x % 2 = v / 2 ^ 255 then x else edP - x
    some ⟨x, y, 1, x * y % edP⟩

/-- Ed25519 verification of a message: key, message, signature (R168). -/
def ed25519 (key msg sig : List Byte) : Bool :=
  let s := numLittle (sig.drop 32)
  match edPoint key, edPoint (sig.take 32) with
  | some a, some r =>
    decide (sig.length = 64) && decide (s < edL) &&
      (edBase.times 256 s).same
        (r.add (a.times 256 (numLittle (sha512 (sig.take 32 ++ key ++ msg)) % edL)))
  | _, _ => false

end Sys2Proof.Machine
end

