-- ==== Sys2Proof/Config.lean ====
section
/-! DEFINITION. What one part fixes and the specification leaves open: the fuses and the ROM revision,
and the free values. None of these constants has a body, so no statement
can rest on a value of one. -/

namespace Sys2Proof.Config

open Sys2Proof

/-! Free values (assumption 3): the argument is the state's counter, advanced at each use. -/

/-- A byte the specification calls undefined (R14, R104) or random (R180, R373). -/
opaque freeByte : Nat → Byte

/-- A 32-bit value that the specification leaves open. -/
opaque freeWord : Nat → Word

/-- A number that the specification leaves open; each use reduces it into the range its rule gives. -/
opaque freeNat : Nat → Nat

/-- A choice that the specification leaves open. -/
opaque freeBool : Nat → Bool

/-! Fuses and mask contents. -/

/-- CLK_DCO as the fuses load it, with FROZEN 1 (R282, R298). -/
opaque dcoFuse : Word

/-- A larger CLK_DCO code is the faster one (R282 leaves the sense open). -/
opaque dcoRises : Bool

/-- Spare columns in use, by MEM_BANK_SEL index (R84). -/
opaque spares : Nat → Nat

/-- The device identity (R382). (DESIGN CHOICE, safe: assumption 22.) -/
opaque uid : DWord

/-- The ordering grade: false for I, true for E (R1, R382). -/
opaque gradeE : Bool

/-- Ridgepole ROM revision (R173, R382). -/
opaque romRev : BitVec 16

/-- The maker's public key in fuses; `none` while the fuses are blank (R168). -/
opaque makerKey : Option (List Byte)

/-- The start-up test of step 2 of R164 passes, for a value of the free counter. -/
opaque startTest : Nat → Bool

/-- The syndrome that the code of R78 shows for a word in error: its address, and whether it is
uncorrectable. -/
opaque syndrome : Nat → Bool → BitVec 8

end Sys2Proof.Config
end

