-- ==== Sys2Proof/Machine/State.lean ====
section
/-! DEFINITION. The state of the WF9 as plain data: the cores, the interrupt controllers, the Guyline
router, the memories, the Warden, the guarantees, Ridgepole, the supplies and clocks, the balls, every
peripheral block, and the queue of waiting commands. A register is kept as the word its rule lays out;
a field that another part of the state determines is computed where the register is read. -/

namespace Sys2Proof.Machine

open Sys2Proof

/-! ## Cores (R17-R51) -/

/-- What a core is doing (R20, R25, R36, R37, R51). -/
inductive Phase where
  /-- not started: before R20, retired, or a trailing core under Twin-skin -/
  | off
  /-- executing instructions -/
  | run
  /-- halted in WAIT (R36) -/
  | wait
  /-- halted in FRAME (R51) -/
  | frame
  /-- stalled in a TRAP (R37) -/
  | trap
  /-- stopped by a double fault (R25) -/
  | stopped
  deriving DecidableEq, Repr

/-- A multiply in flight: the issue count at which it writes, and PH and PL (R39). -/
structure MulFlight where
  due : Nat
  ph : Word
  pl : Word
  deriving DecidableEq, Repr

/-- A divide in flight: the issue count at which it writes, and QT and RM (R39, R41). -/
structure DivFlight where
  due : Nat
  qt : Word
  rm : Word
  deriving DecidableEq, Repr

/-- A thread context saved in the shadow bank at dispatch (R32). -/
structure ThreadCtx where
  w : Vector Word 16
  pc : Word
  flg : Word
  epc : Word
  eflg : Word
  ecause : Word
  deriving DecidableEq, Repr

/-- The answer that Ridgepole owes a stalled core: the status and results W0-W3 (R37, R173). -/
structure TrapAnswer where
  w0 : Word
  w1 : Word
  w2 : Word
  w3 : Word
  deriving DecidableEq, Repr

/-- One Canvas core (R17-R20). -/
structure Core where
  w : Vector Word 16
  pc : Word
  flg : Word
  pl : Word
  ph : Word
  qt : Word
  rm : Word
  epc : Word
  eflg : Word
  ecause : Word
  task : Word
  cyc : DWord
  cycShadow : Word
  /-- issue cycles since reset, the clock of R39 and R59 -/
  issue : Nat
  mul : Option MulFlight
  div : Option DivFlight
  phase : Phase
  /-- halted by the debugger (R181) -/
  halted : Bool
  /-- the debugger lets one instruction run (R181) -/
  stepArm : Bool
  shadow : Option ThreadCtx
  /-- the service that a TRAP asked for and Ridgepole has not taken (R37, R177) -/
  asked : Option Nat
  trap : Option TrapAnswer
  /-- the core stands at the loop point of a prefixed string instruction (R42) -/
  repOpen : Bool
  /-- object accesses since the last one counted in a heat counter (R116) -/
  sample : Nat
  deriving DecidableEq, Repr

def Core.reset : Core :=
  { w := Vector.replicate 16 0#32, pc := 0#32, flg := 0#32, pl := 0#32, ph := 0#32, qt := 0#32,
    rm := 0#32, epc := 0#32, eflg := 0#32, ecause := 0#32, task := 0x80000000#32, cyc := 0#64,
    cycShadow := 0#32, issue := 0, mul := none, div := none, phase := .off, halted := false,
    stepArm := false, shadow := none, asked := none, trap := none, repOpen := false, sample := 0 }

/-! ## Interrupt controllers (R182-R194, R206) -/

/-- An entry of the priority stack: a source and the priority it was accepted with (R185). -/
structure IrqEntry where
  src : Nat
  pri : Nat
  deriving DecidableEq, Repr

/-- One interrupt controller (R206). -/
structure IrqBank where
  gie : Bool
  eoierr : Bool
  deny : Bool
  en : BitVec 128
  pend : BitVec 128
  act : BitVec 128
  pri : Vector Word 16
  lost : Vector (BitVec 16) 8
  /-- the priority stack, the top entry first (R186) -/
  stack : List IrqEntry
  permit : BitVec 64
  deriving DecidableEq, Repr

def IrqBank.reset : IrqBank :=
  { gie := false, eoierr := false, deny := false, en := 0#128, pend := 0#128, act := 0#128,
    pri := Vector.replicate 16 0#32, lost := Vector.replicate 8 0#16, stack := [],
    permit := BitVec.allOnes 64 }

/-! ## The Guyline router (R195-R207) -/

/-- The EVT block. -/
structure Evt where
  deny : Bool
  swerr : Bool
  time : Word
  fired : DWord
  covr : BitVec 96
  ch : Vector Word 64
  cons : Vector Word 96
  trel : Vector Word 16
  pout : Vector Word 8
  deriving DecidableEq, Repr

def Evt.reset : Evt :=
  { deny := false, swerr := false, time := 0#32, fired := 0#64, covr := 0#96,
    ch := Vector.replicate 64 0x7000#32, cons := Vector.replicate 96 0#32,
    trel := Vector.replicate 16 0#32, pout := Vector.replicate 8 0#32 }

/-! ## Memory (R73-R102) -/

/-- The memories of R73 (ROM, MRAM, SRAM, DP, Ember SRAM) and their codes. `cells` lists bytes by
physical address in canonical form; `ecc` lists the words in error by word address; `writeback`
the corrected words that wait for their write-back (R79). -/
structure Memory where
  cells : List Host.Cell
  ecc : List (Nat × EccKind)
  writeback : List Nat
  deriving DecidableEq, Repr

def Memory.reset : Memory := { cells := [], ecc := [], writeback := [] }

/-- A word of DP that port A reached: its address, and what it held before a write (R88). -/
structure PortA where
  word : Nat
  old : Option (List Byte)
  deriving DecidableEq, Repr

/-- The MEM block (R102) and the counts behind it. -/
structure MemRegs where
  stat : Word
  eccLim : Word
  log0 : Word
  log1 : Word
  scrub : Nat
  /-- banks powered and cleared: MEM_SB_PWR -/
  sbPwr : Word
  /-- banks powered, cleared or still clearing (R86) -/
  sbOn : Word
  norec : Bool
  badrec : Bool
  slot : Bool
  seq : Word
  rights : Vector Word 4
  restored : BitVec 256
  dirty : BitVec 256
  /-- version map of the record in force (R93) -/
  map : BitVec 256
  conf : Vector Word 9
  confSat : Word
  sel : Word
  /-- corrections in the current window, one count for each of banks 0-49 (R85) -/
  corr : Vector Nat 50
  retreq : BitVec 50
  unc : BitVec 50
  /-- writes of each MRAM bank: wear count times 256 plus residue (R90) -/
  wear : Vector Nat 16
  wearHi : Word
  deriving DecidableEq, Repr

/-- The MEM block after a reset at which neither commit record is valid (R100). (DESIGN CHOICE, unsafe:
assumption 6.) -/
def MemRegs.reset : MemRegs :=
  { stat := 0#32, eccLim := 0x610#32, log0 := 0#32, log1 := 0#32, scrub := 0, sbPwr := 0#32,
    sbOn := 0#32, norec := true, badrec := true, slot := false, seq := 0#32,
    rights := Vector.replicate 4 0xFFFFFFFF#32, restored := BitVec.allOnes 256,
    dirty := BitVec.allOnes 256, map := 0#256,
    conf := Vector.replicate 9 0#32, confSat := 0#32, sel := 0#32, corr := Vector.replicate 50 0,
    retreq := 0#50, unc := 0#50, wear := Vector.replicate 16 0, wearHi := 0#32 }

/-! ## The Warden (R103-R135) -/

/-- The class of an object (R104). -/
inductive ObjClass where
  | vol
  | per
  | dpx
  | fix
  deriving DecidableEq, Repr

/-- Where an object entry stands: free, its declaration running, declared, its release running
(R109, R110). -/
inductive ObjPhase where
  | free
  | declaring
  | live
  | releasing
  deriving DecidableEq, Repr

/-- An object entry (R103). -/
structure ObjEntry where
  phase : ObjPhase
  /-- logical address bits 27:8 -/
  base : BitVec 20
  size : Nat
  cls : ObjClass
  xp : Bool
  load : Bool
  hint : Nat
  owner : Nat
  rights : BitVec 24
  source : Word
  /-- bank index as in MEM_BANK_SEL -/
  bank : Nat
  /-- offset in units of 256 B -/
  offs : Nat
  heat : Vector Nat 4
  hold : Nat
  deriving DecidableEq, Repr

def ObjEntry.empty : ObjEntry :=
  { phase := .free, base := 0#20, size := 0, cls := .vol, xp := false, load := false, hint := 0,
    owner := 0, rights := 0#24, source := 0#32, bank := 0, offs := 0,
    heat := Vector.replicate 4 0, hold := 0 }

/-- The states of a task (R126). -/
inductive TaskState where
  | free
  | idle
  | ready
  | running
  | runningPending
  deriving DecidableEq, Repr

/-- A readiness: its cause and its detail (R32). -/
structure Readiness where
  cause : Nat
  detail : Word
  deriving DecidableEq, Repr

/-- A task entry (R126), with the readiness it holds while READY or RUNNING, PENDING (R33). -/
structure TaskEntry where
  state : TaskState
  entry : Word
  stack : Nat
  prio : Nat
  aff : BitVec 4
  group : Nat
  core : Nat
  readiness : Readiness
  /-- under Waymark, a readiness that a frame start has released (R51) -/
  released : Bool
  deriving DecidableEq, Repr

def TaskEntry.empty : TaskEntry :=
  { state := .free, entry := 0#32, stack := 0, prio := 0, aff := 0#4, group := 0, core := 0,
    readiness := ⟨0, 0#32⟩, released := false }

/-- Who wrote WDN_CMD: thread code, a task of a group, or Ridgepole (R109). -/
inductive WdnCtx where
  | thread
  | task (group : Nat)
  | ridgepole
  deriving DecidableEq, Repr

/-- A Warden command in progress: its number, the entry it acts on and its outcome (R109). -/
structure WdnCmd where
  op : Nat
  entry : Nat
  code : Nat
  deriving DecidableEq, Repr

/-- One banked copy of the WDN command registers (R108, R109). -/
structure WdnBank where
  objSel : Word
  objBase : Word
  objAttr : Word
  objRights : Word
  objLoad : Word
  objLoc : Word
  objHeat0 : Word
  objHeat1 : Word
  tskSel : Word
  tskEntry : Word
  tskCfg : Word
  lost : Bool
  code : Nat
  cmd : Option WdnCmd
  /-- a command that waits for the Warden to be free: its OP, and the context it was written in (R109) -/
  wait : Option (Nat × WdnCtx)
  deriving DecidableEq, Repr

def WdnBank.reset : WdnBank :=
  { objSel := 0#32, objBase := 0#32, objAttr := 0#32, objRights := 0#32, objLoad := 0#32,
    objLoc := 0#32, objHeat0 := 0#32, objHeat1 := 0#32, tskSel := 0#32, tskEntry := 0#32,
    tskCfg := 0#32, lost := false, code := 0, cmd := none, wait := none }

/-- A migration: the object and its destination (R122). From 512 on, `obj` is 512 more than the index of
a PER journal entry whose room is moved although no object is declared there (R131). -/
structure Migration where
  obj : Nat
  bank : Nat
  offs : Nat
  deriving DecidableEq, Repr

/-- The object lookaside of a bus master: the objects that its entries hold, and the entry that the next
miss replaces (R111). -/
structure Look where
  entry : Vector (Option Nat) 16
  next : Fin 16
  deriving DecidableEq, Repr

def Look.reset : Look := { entry := Vector.replicate 16 none, next := 0 }

/-- The Warden (R103-R135). -/
structure Warden where
  obj : Vector ObjEntry 512
  tsk : Vector TaskEntry 64
  bank : Vector WdnBank 5
  pol : Word
  epoch : Word
  lim : Word
  epochLim : Word
  stat : Word
  migcnt : Word
  retSb : Word
  retire : Word
  /-- banks being emptied (R131), by MEM_BANK_SEL index -/
  retiring : BitVec 50
  queue : List Migration
  mig : Option Migration
  deriving DecidableEq, Repr

def Warden.reset : Warden :=
  { obj := Vector.replicate 512 ObjEntry.empty, tsk := Vector.replicate 64 TaskEntry.empty,
    bank := Vector.replicate 5 WdnBank.reset, pol := 0x34081040#32, epoch := 0x10#32,
    lim := 0x2047#32, epochLim := 0x3E80010#32, stat := 0#32, migcnt := 0#32, retSb := 0#32,
    retire := 0#32, retiring := 0#50, queue := [], mig := none }

/-! ## Guarantees, Waymark and the fault log (R136-R163) -/

/-- A guyline event of a frame: its timestamp, producer and channel (R155). -/
structure WayEvent where
  time : Word
  prod : Nat
  chan : Nat
  deriving DecidableEq, Repr

/-- Who writes or posts in a frame: a task, or the thread code of a core (R156, R158). -/
inductive Writer where
  | task (n : Nat)
  | thread (core : Nat)
  deriving DecidableEq, Repr

/-- A deferred write (R158). -/
structure DeferredWrite where
  writer : Writer
  /-- the core that wrote, which register ownership is judged by -/
  core : CoreId
  addr : Nat
  value : Word
  deriving DecidableEq, Repr

/-- Where a readiness collected in a frame stands in snapshot order (R156). -/
inductive ReadyOrder where
  | event (time : Word) (prod : Nat)
  | message
  | post (writer : Writer)
  deriving DecidableEq, Repr

/-- A readiness collected in a frame under Waymark (R156). -/
structure WayReady where
  order : ReadyOrder
  task : Nat
  readiness : Readiness
  deriving DecidableEq, Repr

/-- A captured RC register that a frame has read, and the value to clear at the boundary (R157). -/
structure RcRead where
  addr : Nat
  value : Word
  deriving DecidableEq, Repr

/-- The ITG block and the Waymark mechanisms (R153-R163). -/
structure Itg where
  cfg : Word
  stat : Word
  total : Word
  /-- ring index copies of C0-C3, Ridgepole and the Peg port -/
  logSel : Vector Word 6
  logData : Vector (Vector Word 16) 6
  stest : Word
  /-- ITG_FRAME as written -/
  frame : Word
  /-- the frame length in force (R153) -/
  frameNow : Word
  frm : Word
  wstat : Word
  ovrTask : Word
  ovrFrm : Word
  wevSel : Vector Word 4
  /-- events of the snapshot in force, and those being collected (R155) -/
  wev : List WayEvent
  coll : List WayEvent
  /-- tasks 0-63 and threads 64-67 whose first overrun is recorded (R151) -/
  ovrDone : BitVec 68
  defer : List DeferredWrite
  /-- writers that made a 65th deferred write in the frame (R159) -/
  full : List Writer
  ready : List WayReady
  rcRead : List RcRead
  /-- a message became available in the frame (R162) -/
  mail : Bool
  deriving DecidableEq, Repr

def Itg.reset : Itg :=
  { cfg := 0#32, stat := 0#32, total := 0#32, logSel := Vector.replicate 6 0#32,
    logData := Vector.replicate 6 (Vector.replicate 16 0#32), stest := 0xA#32, frame := 0xA#32,
    frameNow := 0xA#32, frm := 0#32, wstat := 0#32, ovrTask := 0#32, ovrFrm := 0#32,
    wevSel := Vector.replicate 4 0#32, wev := [], coll := [], ovrDone := 0#68,
    defer := [], full := [], ready := [], rcRead := [], mail := false }

/-! ## Ridgepole (R164-R181) -/

/-- Where Ridgepole stands (R147, R164). -/
inductive RpMode where
  /-- reset released, the boot not yet run -/
  | cold
  /-- Canvas started -/
  | up
  /-- the start-up test failed: no service until the next reset -/
  | halted
  /-- the stopped state -/
  | stopped
  deriving DecidableEq, Repr

/-- The fields of a Groundsheet copy (R166). -/
structure Groundsheet where
  gen : Word
  sel : Word
  boot : Word
  wlim : Word
  wepoch : Word
  ecclim : Word
  misc : Word
  dbg : Word
  deriving DecidableEq, Repr

/-- The values of R167, used when neither copy is valid. -/
def Groundsheet.default : Groundsheet :=
  { gen := 0#32, sel := 0#32, boot := 0#32, wlim := 0x2047#32, wepoch := 0x3E80010#32,
    ecclim := 0x610#32, misc := 0x20A#32, dbg := 0#32 }

/-- What the last full boot recorded in Ridgepole's store: the image and the selections (R164). -/
structure BootRecord where
  image : Bool
  sel : Word
  deriving DecidableEq, Repr

/-- The action that the next boot takes on a recorded fault (R145, R146): 1 restart, 2 retire the
pair and restart, 3 stop. -/
structure PendingFault where
  action : Nat
  pair : Nat
  deriving DecidableEq, Repr

/-- A slot of the key store as it is stored: the key and its CRC-32; a write that was cut short leaves
another CRC (R171). -/
structure KeySlot where
  slot : Nat
  key : List Byte
  crc : Word
  deriving DecidableEq, Repr

/-- The Trail authorisation mailbox (R180). -/
structure Trail where
  chal : List Byte
  scope : Word
  isOpen : Bool
  fails : Nat
  locked : Bool
  disabled : Bool
  deriving DecidableEq, Repr

/-- Ridgepole: its store in MB0 and what it keeps while it runs (R133, R147, R164-R181). The fields
from `limWlim` to `fcntBlock` lie in the non-volatile store or in fuses. -/
structure Ridgepole where
  mode : RpMode
  /-- recorded WLIM, WEPOCH, ECCLIM and MISC (R175) -/
  limWlim : Word
  limWepoch : Word
  limEcc : Word
  limMisc : Word
  record : Option BootRecord
  /-- the selections and limits were recorded by a full boot (R165) -/
  booted : Bool
  stoppedRec : Bool
  retSb : Word
  retire : Word
  /-- RTC second of the last LOCK record of each pair (R146) -/
  lockRec : Vector (Option Nat) 2
  itgPend : Option PendingFault
  /-- RTC second at which the scrub pass began, and that 24 h have passed since then (R83) -/
  passStart : Nat
  scrubLate : Bool
  ctr : Nat
  /-- ROLLBACK_COMMIT is blowing fuses (R170) -/
  fusing : Bool
  keys : List KeySlot
  /-- the slot whose write is not complete (R171) -/
  keyWrite : Option Nat
  /-- block number of FCNT (R244) -/
  fcntBlock : Nat
  /-- the Groundsheet in force and the copy that holds it (none: the defaults of R167) -/
  gs : Groundsheet
  gsCopy : Option Bool
  /-- DBGEN as the last full boot took it (R165, R180) -/
  dbgen : Bool
  /-- cores that withhold Bivouac consent (R176) -/
  stay : BitVec 4
  /-- Canvas watchdog period in units of 10 ms, 0 off, and the PCLK cycles left of it (R178) -/
  wdog : Nat
  wdogLeft : Nat
  /-- the core whose TRAP is being served, and the service (R173) -/
  serving : Option (CoreId × Nat)
  /-- the core that was served last: the next is taken in round-robin order (R173) -/
  served : CoreId
  trail : Trail
  /-- ROLLBACK and VERSION of the running image; no image runs while none -/
  running : Option Bool
  rollback : Nat
  version : Word
  deriving DecidableEq, Repr

/-- The challenge of a reset is random: 16 free bytes (R180). -/
def Trail.reset : Trail :=
  { chal := (List.range 16).map Config.freeByte, scope := 0#32, isOpen := false, fails := 0, locked := false,
    disabled := false }

/-- Ridgepole's store and fuses in a new part: no fuse blown, no key, no record (R167, R169, R171). (DESIGN
CHOICE, unsafe: assumption 8.) -/
def Ridgepole.reset : Ridgepole :=
  { mode := .cold, limWlim := 0x2047#32, limWepoch := 0x3E80010#32, limEcc := 0x610#32,
    limMisc := 0x20A#32, record := none, booted := false, stoppedRec := false, retSb := 0#32,
    retire := 0#32, lockRec := Vector.replicate 2 none, itgPend := none, passStart := 0,
    scrubLate := false, ctr := 0, fusing := false, keys := [], keyWrite := none, fcntBlock := 0,
    gs := Groundsheet.default, gsCopy := none, dbgen := false, stay := 0#4, wdog := 0, wdogLeft := 0,
    serving := none, served := 3, trail := Trail.reset, running := none, rollback := 0, version := 0#32 }

/-! ## Power and clocks (R282-R298, R325, R394) -/

/-- Where the core domain stands (R11, R289, R293, R403). -/
inductive PowerState where
  /-- the core domain is powered and reset is released -/
  | awake
  | bivouac
  | depleted
  /-- the Porch has no supply -/
  | unpowered
  /-- reset is held by the NRST ball -/
  | held
  deriving DecidableEq, Repr

/-- Why a Strike runs (R97). -/
inductive StrikeKind where
  /-- at Bivouac entry (R289) -/
  | entry
  /-- at a loss of VMAIN, or before the protection switch opens (R262, R293) -/
  | final
  /-- at the fall of Reserve on the cell (R278) -/
  | drain
  /-- before a commanded reset (R173, R377) -/
  | commanded
  deriving DecidableEq, Repr

/-- A Strike in progress: why it began, the resets that follow its end (R16), the wakes latched
during it (R289), and whether VMAIN was lost at or below Reserve while it ran (R16). -/
structure Strike where
  kind : StrikeKind
  /-- causes of PWR_RST_CAUSE that act at its end -/
  causes : Word
  /-- PWR_WAKE_SRC as latched -/
  wake : Word
  mainLost : Bool
  deriving DecidableEq, Repr

/-- A Porch pin edge that waits to be qualified: its direction, and the Porch ticks left (R291). -/
structure Debounce where
  rise : Bool
  left : Nat
  deriving DecidableEq, Repr

/-- The PWR block (R297) and the supplies of the part. -/
structure Pwr where
  cause : Word
  wakeSrc : Word
  wakeEn : Word
  wakePin : Word
  ticks : BitVec 16
  count : BitVec 16
  bivcnt : Word
  fstrike : Word
  /-- PWR_STAT bits VPEND, FPEND, DVDONE and DIVERR -/
  stat : Word
  ie : Word
  opp : Word
  state : PowerState
  strike : Option Strike
  /-- the supply switch selects VMAIN (R325) -/
  main : Bool
  /-- a cell above its release threshold is connected (R262) -/
  cell : Bool
  /-- the bank supplies VIO1 and VIO2 are present (R394) -/
  vio1 : Bool
  vio2 : Bool
  /-- VMAIN is at least 2.50 V, as its latest sample shows (R170) -/
  fuseSupply : Bool
  /-- the RTC domain has been reset since the last power-on (R295, R328) -/
  rtcLost : Bool
  /-- edges of the Porch pins that wait to be qualified (R291) -/
  deb : Vector (Option Debounce) 16
  deriving DecidableEq, Repr

def Pwr.reset : Pwr :=
  { cause := 0x101#32, wakeSrc := 0#32, wakeEn := 0x468#32, wakePin := 0#32, ticks := 0#16,
    count := 0#16, bivcnt := 0#32, fstrike := 0#32, stat := 0#32, ie := 0#32, opp := 0x100#32,
    state := .awake, strike := none, main := true, cell := false, vio1 := true, vio2 := true,
    fuseSupply := true, rtcLost := false, deb := Vector.replicate 16 none }

/-- The CLK block (R298) and the loops behind it. -/
structure Clk where
  stat : Word
  ie : Word
  div : Word
  dco : Word
  /-- successive counts within 10,800 +- 11 (R282) -/
  good : Nat
  /-- the operating point to which the buck is moving (R287) -/
  ramp : Option Nat
  /-- the divider requested was requested without a voltage point (R287) -/
  alone : Bool
  /-- the crystal had been lost, so its next qualification sets XRET (R284) -/
  lost : Bool
  deriving DecidableEq, Repr

def Clk.reset : Clk :=
  { stat := 0x204#32, ie := 0#32, div := 2#32, dco := Config.dcoFuse &&& 0x80000FFF#32, good := 0, ramp := none,
    alone := false, lost := false }

/-! ## Balls (R392-R410) -/

/-- The PIN block (R410). -/
structure Pin where
  stat : Word
  /-- levels applied to the balls from outside -/
  lvl : BitVec 96
  /-- levels after the resynchronisers (R301, R399); in the snapshot, the sample of R154 -/
  inp : BitVec 96
  out : BitVec 96
  hold : BitVec 16
  ef : BitVec 96
  ball : Vector Word 96
  /-- levels of the held-pin latches (R400) -/
  latch : BitVec 16
  deriving DecidableEq, Repr

def Pin.reset : Pin :=
  { stat := 0#32, lvl := 0#96, inp := 0#96, out := 0#96, hold := 0#16, ef := 0#96,
    ball := Vector.replicate 96 0x70#32, latch := 0#16 }
/-! ## Timers (R299-R313) -/

/-- A compare or capture channel of a timer. -/
structure TimCh where
  ctl : Word
  cmp : Word
  int : Word
  win : Word
  /-- the compare value taken lies behind the count within WIN: the channel fires on the next edge (R304) -/
  late : Bool
  deriving DecidableEq, Repr

/-- One timer TIMn. -/
structure Tim where
  ctl : Word
  stat : Word
  ie : Word
  cnt : Word
  cnth : Word
  inp : Word
  presc : Nat
  ch : Vector TimCh 4
  deriving DecidableEq, Repr

def Tim.reset : Tim :=
  { ctl := 0x40#32, stat := 0#32, ie := 0#32, cnt := 0#32, cnth := 0#32, inp := 0x7F7F#32,
    presc := 0, ch := Vector.replicate 4 ⟨0x7F0000#32, 0#32, 0#32, 0#32, false⟩ }

/-! ## Calendar clock (R314-R331) -/

/-- An alarm of the calendar clock. -/
structure Alarm where
  val : Word
  msk : Word
  ctl : Word
  deriving DecidableEq, Repr

/-- The RTC block. The instant is counted in fraction ticks of 1/32,768 s since 2000-01-01 (R314). -/
structure Rtc where
  mode : Bool
  time : Nat
  stat : Word
  ie : Word
  trim : Word
  slew : Word
  per : Word
  /-- phase of the trim adjustments within their period (R320) -/
  trimAcc : Nat
  /-- ticks since the last slew adjustment (R321) -/
  slewWait : Nat
  swcnt : Nat
  swts : DWord
  ecap : DWord
  alm : Vector Alarm 2
  set : Vector Word 3
  /-- frozen shadows of C0-C3, Ridgepole and the Peg port: the instant (R317) -/
  shadow : Vector (Option Nat) 6
  stepDue : Bool
  /-- a change of MODE waits for the next tick (R316) -/
  modeDue : Bool
  deriving DecidableEq, Repr

def Rtc.reset : Rtc :=
  { mode := false, time := 0, stat := 0#32, ie := 0#32, trim := 0#32, slew := 0x400000#32,
    per := 0#32, trimAcc := 0, slewWait := 0, swcnt := 0, swts := 0#64, ecap := 0#64,
    alm := Vector.replicate 2 ⟨0#32, 0#32, 0#32⟩, set := Vector.replicate 3 0#32,
    shadow := Vector.replicate 6 none, stepDue := false, modeDue := false }

/-! ## Event counters (R383-R391) -/

/-- One event counter. -/
structure Counter where
  cfg : Word
  count : BitVec 48
  cap : BitVec 48
  /-- high shadows of C0-C3, Ridgepole and the Peg port (R387) -/
  hi : Vector (BitVec 16) 6
  deriving DecidableEq, Repr

/-- The CNT block. -/
structure Cnt where
  ovf : Word
  ie : Vector Word 4
  c : Vector Counter 24
  deriving DecidableEq, Repr

def Cnt.reset : Cnt :=
  { ovf := 0#32, ie := Vector.replicate 4 0#32,
    c := Vector.replicate 24 ⟨0#32, 0#48, 0#48, Vector.replicate 6 0#16⟩ }

/-! ## Serial lines (R332-R348) -/

/-- The receiver of a serial line at its sample ticks (R335-R339). -/
structure UaRx where
  /-- PCLK cycles to the next sample tick -/
  left : Nat
  /-- the level read at the last sample tick -/
  last : Bool
  /-- the sample within the present bit, 1-16; 0 while no character is received -/
  pos : Nat
  /-- the bits of the character read so far, the start bit first -/
  got : List Bool
  /-- sample ticks for which the line has been high since the last character -/
  quiet : Nat
  deriving DecidableEq, Repr

def UaRx.reset : UaRx := { left := 1, last := false, pos := 0, got := [], quiet := 0 }

/-- One serial line UAn. -/
structure Ua where
  ctl : Word
  div : Word
  qcfg : Word
  de : Word
  /-- the W1C flags of UAn_STAT; the other bits are computed -/
  stat : Word
  ie : Word
  errcnt : Word
  /-- dividers in force for transmission and reception (R334) -/
  divTx : BitVec 16
  divRx : BitVec 16
  /-- receive entries of 12 bits and transmit entries of 10 bits, the oldest first -/
  rxq : List (BitVec 12)
  txq : List (BitVec 10)
  /-- characters were lost since the last one stored (R342) -/
  lost : Bool
  /-- the entry in the transmit shifter -/
  shift : Option (BitVec 10)
  /-- the levels still to be sent of that entry, each with its PCLK cycles (R332, R344, R346) -/
  line : List (Bool × Nat)
  /-- PCLK cycles of the DE lag that remain (R346) -/
  lagLeft : Nat
  /-- a start bit has been taken and its character is not complete -/
  rxBusy : Bool
  /-- the last stop bit has ended and DE is still active (R346) -/
  lagging : Bool
  /-- DE is at its active level (R346) -/
  deOn : Bool
  /-- TXHOLD has been released until the queue is empty (R345) -/
  released : Bool
  /-- a release found the queue empty and is kept (R345) -/
  relKept : Bool
  idleArm : Bool
  /-- after a break, no start bit is sought until the line is read high (R338) -/
  brkHold : Bool
  rx : UaRx
  /-- entries read from the snapshot in this Waymark frame (R155) -/
  pops : Nat
  deriving DecidableEq, Repr

def Ua.reset : Ua :=
  { ctl := 0x10#32, div := 0x90#32, qcfg := 0#32, de := 0x1010#32, stat := 0#32, ie := 0#32,
    errcnt := 0#32, divTx := 144#16, divRx := 144#16, rxq := [], txq := [], lost := false,
    shift := none, rxBusy := false, lagging := false, deOn := false, released := false,
    relKept := false, line := [], lagLeft := 0, idleArm := false, brkHold := false,
    rx := UaRx.reset, pops := 0 }
/-! ## Touch panel (R349-R363) -/

/-- One electrode, or the proximity channel (R351, R354). -/
structure Electrode where
  raw : Nat
  /-- the 24-bit baseline, with 8 fraction bits -/
  base : Nat
  touched : Bool
  conf : Nat
  neg : Nat
  /-- a rebase is due at the next measurement (R354, R356) -/
  rebase : Bool
  /-- the Porch tick of the island at which the touch was confirmed (R355) -/
  since : Nat
  deriving DecidableEq, Repr

def Electrode.reset : Electrode :=
  { raw := 0, base := 0, touched := false, conf := 0, neg := 0, rebase := true, since := 0 }

/-- The settings that a scan runs with: they are taken at its start (R362). -/
structure ScanCfg where
  ctl : Word
  meas : Word
  thr : Word
  pthr : Word
  idle : Word
  sync : Word
  deriving DecidableEq, Repr

/-- A scan in progress: electrodes left (24 is proximity), its settings, the measurements left before
the next DQI edge is awaited (R353), the values it will commit (R351), and the rebases requested while
it runs (R362). -/
structure Scan where
  left : List Nat
  cfg : ScanCfg
  burst : Nat
  /-- the scan waits for a DQI edge between bursts -/
  waiting : Bool
  work : Vector Electrode 25
  asked : BitVec 25
  deriving DecidableEq, Repr

/-- The TCH block and the touch island (R349-R363). -/
structure Tch where
  ctl : Word
  /-- the W1C flags and SYNCOK, RATE; BUSY is computed -/
  stat : Word
  ie : Word
  en : Word
  biven : Word
  meas : Word
  thr : Word
  pthr : Word
  per01 : Word
  per23 : Word
  idle : Word
  sync : Word
  chg : Word
  stuck : Word
  el : Vector Electrode 25
  scan : Option Scan
  /-- a scan is due and waits for its start (R352, R353, R357) -/
  due : Bool
  /-- DQI timed out: scans run free until the next edge (R353) -/
  free : Bool
  /-- suspended by the radio (R357) -/
  susp : Bool
  /-- Porch ticks that the island has seen -/
  now : Nat
  /-- the time I of R352, in Porch ticks -/
  quiet : Nat
  /-- Porch ticks since the last scan started, and the age at which the next scheduled scan is due (R352) -/
  age : Nat
  wait : Option Nat
  /-- the island runs through Bivouac (R359) -/
  biv : Bool
  deriving DecidableEq, Repr

def Tch.reset : Tch :=
  { ctl := 0x20#32, stat := 0#32, ie := 0#32, en := 0#32, biven := 0#32, meas := 0x44#32,
    thr := 0x2814064#32, pthr := 0xA028#32, per01 := 0x51F0148#32, per23 := 0x8000199A#32,
    idle := 0x1E3C05#32, sync := 0x3200#32, chg := 0#32, stuck := 0#32,
    el := Vector.replicate 25 Electrode.reset, scan := none, due := false, free := false,
    susp := false, now := 0, quiet := 0, age := 0, wait := none, biv := false }

/-! ## Cell, harvest and Lantern (R260-R281) -/

/-- The HRV block, held in the Porch (R261). -/
structure Hrv where
  /-- HRV_STAT; MAIN is computed from the supply switch -/
  stat : Word
  ie : Word
  ctl : Word
  prot : Word
  tlim : Word
  chg : Word
  mppt : Word
  kgate : Word
  cap : Nat
  res : Nat
  kin : Nat
  blz : Nat
  gauge : Word
  lchg : Nat
  vcell : Nat
  vmain : Nat
  lin : Nat
  lout : Nat
  fcc : Nat
  temp : BitVec 8
  /-- charge below 1 uAh, in nAh (R271) -/
  residue : Int
  /-- parts of IN and OUT below 1 mAh, in nAh (R271) -/
  inRes : Nat
  outRes : Nat
  /-- the charger state that HOLD left (R266) -/
  held : Nat
  sampling : Bool
  /-- the protection switch is open (R262) -/
  swOpen : Bool
  /-- conditions that hold the charger in HOLD: overcharge, charge temperature, NTCERR (R266) -/
  ovcOn : Bool
  tempOn : Bool
  /-- the open switch waits for its temperature release (R262) -/
  tdOn : Bool
  /-- an over-current release waits for VMAIN present 1 s (R262) -/
  ocOn : Bool
  /-- regulation points of HVA and HVB in mV, and measurements in progress (R269) -/
  regA : Nat
  regB : Nat
  measA : Bool
  measB : Bool
  deriving DecidableEq, Repr

def Hrv.reset : Hrv :=
  { stat := 0x2000000#32, ie := 0#32, ctl := 0#32, prot := 0x1E#32, tlim := 0x552D00#32,
    chg := 0x21E000A#32, mppt := 0x288#32, kgate := 0#32, cap := 0, res := 20, kin := 40,
    blz := 60, gauge := 0x320002#32, lchg := 0, vcell := 0, vmain := 0, lin := 0, lout := 0,
    fcc := 0, temp := 0#8, residue := 0, inRes := 0, outRes := 0, held := 0, sampling := false,
    swOpen := false, ovcOn := false, tempOn := false, tdOn := false, ocOn := false, regA := 0,
    regB := 0, measA := false, measB := false }

/-! ## Peg port (R364-R382) -/

/-- The states of a session (R373, R382). -/
inductive SessState where
  | closed
  | chal
  | check
  | opened
  deriving DecidableEq, Repr

/-- The session exchange (R373, R374). -/
structure Sess where
  state : SessState
  idx : Nat
  fails : Nat
  locked : Bool
  nonce : Word
  /-- response words received, in index order -/
  resp : List Word
  deriving DecidableEq, Repr

/-- A PEG_CMD operation whose outcome is known and not yet reported (R377). -/
structure PegCmd where
  op : Nat
  arg : Nat
  busy : Bool
  /-- CODE as read, and the outcome that the end of the operation reports -/
  code : Nat
  next : Nat
  deriving DecidableEq, Repr

/-- The Peg port (R382). -/
structure Peg where
  err : Word
  rstn : Bool
  ready : Bool
  /-- an accepted write is completing (R368) -/
  writing : Bool
  gs : Vector Word 8
  h2d : Vector Word 4
  d2h : Vector Word 4
  mbstat : Word
  atnen : Word
  sess : Sess
  chal : Vector Word 4
  cmd : PegCmd
  updOffs : Nat
  updImg : Bool
  updEnd : Bool
  updCrc : Word
  /-- the prefetched word and whether it was uncorrectable (R378) -/
  updWord : Word
  updErr : Bool
  updBusy : Bool
  stg : Vector Word 8
  /-- the last frame's answer: status byte, data, and CRC (R365-R367) -/
  reply : Option (List (BitVec 8))
  deriving DecidableEq, Repr

def Sess.reset : Sess :=
  { state := .closed, idx := 0, fails := 0, locked := false, nonce := 0#32, resp := [] }

def Peg.reset : Peg :=
  { err := 0#32, rstn := true, ready := false, writing := false,
    gs := #v[0#32, 0#32, 0#32, 0x2047#32, 0x3E80010#32, 0x610#32, 0x20A#32, 0#32],
    h2d := Vector.replicate 4 0#32, d2h := Vector.replicate 4 0#32, mbstat := 0#32, atnen := 7#32,
    sess := Sess.reset, chal := Vector.replicate 4 0#32, cmd := ⟨0, 0, false, 0, 0⟩, updOffs := 0,
    updImg := false, updEnd := false, updCrc := 0#32, updWord := 0#32, updErr := false,
    updBusy := false, stg := Vector.replicate 8 0#32, reply := none }
/-! ## Radio (R208-R226) -/

/-- The RF block. -/
structure Rf where
  ctl : Word
  /-- the W1C flags of RF_STAT; ACTIVE and TX are computed -/
  stat : Word
  ie : Word
  freq : Word
  rate : Word
  sync : Word
  txpwr : Word
  lbt : Word
  adm : Word
  duty : Word
  rxinfo : Word
  rxerr : Word
  rssi : Word
  aborts : Word
  /-- duty credit in ms, kept in the Porch (R221) -/
  credit : Nat
  /-- the receiver is on, and locked to a frame (R216, R224) -/
  rxOn : Bool
  locked : Bool
  /-- the symbol rate that the receiver listens to (R216, R240) -/
  baud : Nat
  /-- the listen window has ended during the frame in progress (R224) -/
  closing : Bool
  /-- a transmit sequence is in progress (R223) -/
  txOn : Bool
  /-- PA_EN and TR_SW have been driven since the first EN (R219) -/
  driven : Bool
  paEn : Bool
  trSw : Bool
  /-- the PA of the transmission has been ramped and its first symbol sent (step 6 of R223) -/
  begun : Bool
  /-- the frame last taken for transmission: the bytes of its payload field before the CRC-32, and the deviations of
  its symbols in units of 100 Hz (R210, R211) -/
  air : List Byte
  wave : List Int
  deriving DecidableEq, Repr

def Rf.reset : Rf :=
  { ctl := 0#32, stat := 0#32, ie := 0#32, freq := 0#32, rate := 0x2100#32, sync := 0x2DD49A6B#32,
    txpwr := 0x323618#32, lbt := 0x1388A600#32, adm := 0xBB8#32, duty := 0#32, rxinfo := 0#32,
    rxerr := 0#32, rssi := 0x80#32, aborts := 0#32, credit := 0, rxOn := false, locked := false,
    baud := 0, closing := false, txOn := false, driven := false, paEn := false, trSw := false,
    begun := false, air := [], wave := [] }

/-! ## Network engine (R227-R259) -/

/-- A frame queued for transmission (R253, R254, R255). -/
structure TxFrame where
  typ : Nat
  dst : Nat
  bcast : Bool
  payload : List Byte
  /-- travels in alarm slots -/
  alarm : Bool
  /-- the link sequence number it took at its first attempt (R242) -/
  lseq : Option Nat
  attempts : Nat
  /-- refused for energy when it was last offered (R15) -/
  refused : Bool
  /-- it was aborted when it was last sent (R222) -/
  aborted : Bool
  /-- a frame of a message that this node originated -/
  own : Bool
  /-- the last segment of its message -/
  last : Bool
  /-- the transaction that its message opened -/
  tid : Option Nat
  /-- alarm slots to pass before its attempt (R255); 1 in the owned queue once it has been tried in the
  present slot (R254) -/
  wait : Nat
  /-- its frame buffer -/
  buf : Nat
  deriving DecidableEq, Repr

/-- A transaction that awaits its response (R256). -/
structure Trans where
  tid : Nat
  peer : Nat
  deriving DecidableEq, Repr

/-- A message being reassembled, or complete and waiting for a receive entry (R252, R257). -/
structure Reasm where
  orig : Nat
  tid : Nat
  kind : Nat
  alarm : Bool
  ttl : Nat
  via : Nat
  segl : Nat
  /-- segments held: index, data and the frame buffer -/
  segs : List (Nat × List Byte × Nat)
  slot : Nat
  sfn : Word
  link : Word
  stray : Bool
  deriving DecidableEq, Repr

/-- The NET block and the network engine. The header, the neighbour table and the route table lie
in the table object in memory (R228). -/
structure Net where
  ctl : Word
  id : Word
  /-- NET_STAT, STATE included -/
  stat : Word
  ie : Word
  tbl : Word
  rxobj : Word
  rxcfg : Word
  txaddr : Word
  txcfg : Word
  txhop : Word
  txstat : Word
  cost : Word
  tofs : Word
  retry : Word
  cnt0 : Word
  cnt1 : Word
  cnt2 : Word
  /-- the parent's cost as NET_PARENT shows it -/
  pcost : Nat
  /-- slot timer, kept in the Porch (R234): owned slot, current slot, SFN, wake map, whether it
  counts, phase correction in µs, rate correction in ppm, whether a phase has been corrected, Porch ticks since then -/
  own : Nat
  cur : Nat
  sfn : Nat
  map : BitVec 1152
  timing : Bool
  phase : Int
  rateCorr : Int
  synced : Bool
  sinceCorr : Nat
  /-- superframes begun while the engine did not run, by which the table's AGEs are behind (R228) -/
  aged : Nat
  /-- the Basecamp loads its slot timer at the next slot boundary (R230) -/
  load : Bool
  /-- EN has been set since the last slot start (R234) -/
  fresh : Bool
  /-- ROUTER has been written to 0: the alarm slots leave the wake map at the next slot boundary (R258) -/
  unalarm : Bool
  sfnHi : Word
  sfnHiPeg : Word
  /-- the slot timer holds off Bivouac: a mapped slot is in progress or about to begin (R234) -/
  holdOff : Bool
  /-- the engine takes part in the slot in progress -/
  inSlot : Bool
  /-- the owner stops sending for the rest of the slot (R254) -/
  stopped : Bool
  txq : List TxFrame
  /-- the frame on the air or awaiting its ACK -/
  await : Option TxFrame
  /-- the last frame heard had MORE set (R232) -/
  more : Bool
  reasm : List Reasm
  ready : List Reasm
  trans : List Trans
  rxNext : Nat
  fcnt : Nat
  /-- an alarm frame waits for the next alarm slot (consumer 93, R255) -/
  alarmNow : Bool
  /-- candidate parent of a join or an attach in progress -/
  cand : Option Nat
  survey : Bool
  /-- the old parent to which a DETACH is owed (R249) -/
  oldParent : Option Nat
  /-- consecutive superframes without the parent's first frame (R249) -/
  pmiss : Nat
  /-- the parent's first frame of the present slot has been heard (R233) -/
  heard : Bool
  /-- slot 1 holds the old key until its expiry (R246) -/
  oldKey : Bool
  /-- counter of KEYSET messages (R257) -/
  keyCtr : Nat
  /-- PARENT of the table object's header, and the number of valid neighbour entries, as the engine
  last wrote them -/
  par : Word
  nbrs : Nat
  /-- time at which the next exchange of the slot may begin, in ms times the symbol rate (R231) -/
  slotUse : Nat
  /-- an ACK is on the air (R240) -/
  ackOn : Bool
  /-- FCNT of this node's JOIN_REQ, and those that the Basecamp has received, by joiner (R257) -/
  joinFc : Nat
  joins : List (Nat × Nat)
  deriving DecidableEq, Repr

def Net.reset : Net :=
  { ctl := 0#32, id := 0#32, stat := 0#32, ie := 0#32, tbl := 0#32, rxobj := 0#32, rxcfg := 0#32,
    txaddr := 0#32, txcfg := 0#32, txhop := 0#32, txstat := 0#32, cost := 0x82008#32,
    tofs := 0#32, retry := 0x604#32, cnt0 := 0#32, cnt1 := 0#32, cnt2 := 0#32, pcost := 0,
    own := 0, cur := 0, sfn := 0, map := 0#1152, timing := false, phase := 0, rateCorr := 0,
    synced := false, sinceCorr := 0, aged := 0, load := false, fresh := false, unalarm := false,
    sfnHi := 0#32, sfnHiPeg := 0#32, holdOff := false, inSlot := false, stopped := false,
    txq := [], await := none, more := false, reasm := [], ready := [], trans := [], rxNext := 0,
    fcnt := 0, alarmNow := false, cand := none, survey := false, oldParent := none, pmiss := 0,
    heard := false, oldKey := false, keyCtr := 0, par := 0#32, nbrs := 0, slotUse := 0,
    ackOn := false, joinFc := 0, joins := [] }

/-! ## The whole machine -/

/-- The blocks that Waymark snapshots and defers (R157). -/
structure Periph where
  pin : Pin
  tim : Vector Tim 12
  ua : Vector Ua 4
  tch : Tch
  rf : Rf
  net : Net
  evt : Evt
  rtc : Rtc
  hrv : Hrv
  cnt : Cnt
  /-- in a snapshot, whether the supply switch selected VMAIN at its capture (R155, R260) -/
  main : Bool
  deriving DecidableEq, Repr

def Periph.reset : Periph :=
  { pin := Pin.reset, tim := Vector.replicate 12 Tim.reset, ua := Vector.replicate 4 Ua.reset,
    tch := Tch.reset, rf := Rf.reset, net := Net.reset, evt := Evt.reset, rtc := Rtc.reset,
    hrv := Hrv.reset, cnt := Cnt.reset, main := true }

/-- An event in the router's resynchronisers: a producer, or 1000 and a channel for a software fire; the PCLK edges
that it still waits beyond the next (R197); and the channels that have been freed since it entered, for which it is
dropped (R204). -/
structure Flight where
  ev : Nat
  left : Nat
  gone : List Nat
  deriving DecidableEq, Repr

/-- The state of the WF9: every register, queue, counter and pin the specification gives it, and the
queue of commands that wait. `free` is the model's own field: it selects the next free value. -/
structure State where
  pending : List Instr
  free : Nat
  cores : Vector Core 4
  /-- controllers of C0-C3 and of Ridgepole -/
  irq : Vector IrqBank 5
  mem : Memory
  mm : MemRegs
  wdn : Warden
  itg : Itg
  rp : Ridgepole
  pwr : Pwr
  clk : Clk
  peg : Peg
  per : Periph
  /-- the Waymark snapshot in force (R155, R157) -/
  snap : Periph
  /-- events in the router's resynchronisers (R197, R204) -/
  inflight : List Flight
  /-- the lookasides of masters 0-8 -/
  look : Vector Look 9
  /-- words of DP that the network engine reached through port A in the command before, with the bytes that a
  word held before it was written (R88) -/
  portA : List PortA
  /-- for each core, the window addresses of halfwords whose prefetch-buffer lines a store has invalidated
  and that no fetch can have brought back (R49) -/
  stale : Vector (List Nat) 4
  deriving DecidableEq, Repr

/-- The machine right after reset: the reset release of a first power-on, step 4 of R404, with PWR_RST_CAUSE
showing POR and RTCPOR, before the full boot (DESIGN CHOICE, unsafe: assumption 2). -/
def State.reset : State :=
  { pending := [], free := 16, cores := Vector.replicate 4 Core.reset,
    irq := Vector.replicate 5 IrqBank.reset, mem := Memory.reset, mm := MemRegs.reset,
    wdn := Warden.reset, itg := Itg.reset, rp := Ridgepole.reset, pwr := Pwr.reset,
    clk := Clk.reset, peg := Peg.reset, per := Periph.reset, snap := Periph.reset,
    inflight := [], look := Vector.replicate 9 Look.reset, portA := [], stale := Vector.replicate 4 [] }

/-- No step of this model faults: every fault of the specification is a state change (a fault log
entry, an exception, a reset), so the type has no constructor. Safe. -/
inductive Fault where
  deriving DecidableEq, Repr

/-- A command that this model does not give a meaning to. -/
inductive Refusal where
  /-- Raised by an arm of `exec` whose meaning is not written. Safe: the machine stops. -/
  | notModelled (mnemonic : String)
  deriving DecidableEq, Repr

end Sys2Proof.Machine
end

