-- ==== Sys2Proof/Machine/Ops.lean ====
section
/-! DEFINITION. The named operations that every meaning shares: updates of one part of the state, the
bytes of memory in canonical form, free values, the guarantees in force, event counting, the firing of
interrupt sources and guyline producers, and the readiness of tasks. -/

namespace Sys2Proof.Machine

open Sys2Proof

/-! ## Updates of one part of the state -/

def State.onCore (s : State) (c : CoreId) (f : Core → Core) : State :=
  { s with cores := s.cores.set c (f s.cores[c]) }

def State.onIrq (s : State) (b : Nat) (f : IrqBank → IrqBank) : State :=
  { s with irq := vmod s.irq b f }

def State.onMm (s : State) (f : MemRegs → MemRegs) : State := { s with mm := f s.mm }

def State.onMem (s : State) (f : Memory → Memory) : State := { s with mem := f s.mem }

def State.onWdn (s : State) (f : Warden → Warden) : State := { s with wdn := f s.wdn }

def State.onItg (s : State) (f : Itg → Itg) : State := { s with itg := f s.itg }

def State.onRp (s : State) (f : Ridgepole → Ridgepole) : State := { s with rp := f s.rp }

def State.onPwr (s : State) (f : Pwr → Pwr) : State := { s with pwr := f s.pwr }

def State.onClk (s : State) (f : Clk → Clk) : State := { s with clk := f s.clk }

def State.onPeg (s : State) (f : Peg → Peg) : State := { s with peg := f s.peg }

def State.onPer (s : State) (f : Periph → Periph) : State := { s with per := f s.per }

/-- The blocks that Waymark snapshots as they stand, with the supply that is selected (R155, R260). -/
def State.live (s : State) : Periph := { s.per with main := s.pwr.main }

def State.onPin (s : State) (f : Pin → Pin) : State := s.onPer fun p => { p with pin := f p.pin }

def State.onTim (s : State) (n : Nat) (f : Tim → Tim) : State :=
  s.onPer fun p => { p with tim := vmod p.tim n f }

def State.onUa (s : State) (n : Nat) (f : Ua → Ua) : State :=
  s.onPer fun p => { p with ua := vmod p.ua n f }

def State.onTch (s : State) (f : Tch → Tch) : State := s.onPer fun p => { p with tch := f p.tch }

def State.onRf (s : State) (f : Rf → Rf) : State := s.onPer fun p => { p with rf := f p.rf }

def State.onNet (s : State) (f : Net → Net) : State := s.onPer fun p => { p with net := f p.net }

def State.onEvt (s : State) (f : Evt → Evt) : State := s.onPer fun p => { p with evt := f p.evt }

def State.onRtc (s : State) (f : Rtc → Rtc) : State := s.onPer fun p => { p with rtc := f p.rtc }

def State.onHrv (s : State) (f : Hrv → Hrv) : State := s.onPer fun p => { p with hrv := f p.hrv }

def State.onCnt (s : State) (f : Cnt → Cnt) : State := s.onPer fun p => { p with cnt := f p.cnt }

def State.onObj (s : State) (i : Nat) (f : ObjEntry → ObjEntry) : State :=
  s.onWdn fun w => { w with obj := vmod w.obj i f }

def State.onTsk (s : State) (i : Nat) (f : TaskEntry → TaskEntry) : State :=
  s.onWdn fun w => { w with tsk := vmod w.tsk i f }

/-- Object entry `i`; outside the table, a free entry. -/
def State.objAt (s : State) (i : Nat) : ObjEntry := vget s.wdn.obj i ObjEntry.empty

/-- Task entry `i`; outside the table, a free entry. -/
def State.tskAt (s : State) (i : Nat) : TaskEntry := vget s.wdn.tsk i TaskEntry.empty

/-- The free counter moved on by `k` uses. (DESIGN CHOICE, safe: assumption 3.) -/
def State.useFree (s : State) (k : Nat) : State := { s with free := s.free + k }

/-! ## Agents and guarantees -/

/-- The bank of an agent among C0-C3, Ridgepole and the Peg port (R108, R163, R317, R387). -/
def agentBank : Agent → Nat
  | .core c => c
  | .ridgepole => 4
  | .host => 5

/-- Is the agent a Canvas core. -/
def isCanvas : Agent → Bool
  | .core _ => true
  | _ => false

/-- Twin-skin is in force (R136). -/
def State.twin (s : State) : Bool := bit s.itg.cfg 0

/-- Waymark is in force (R136). -/
def State.waymark (s : State) : Bool := bit s.itg.cfg 1

/-- The leading core of a pair under Twin-skin, and the core itself otherwise (R50). -/
def State.leader (s : State) (c : Nat) : Nat := if s.twin then c / 2 * 2 else c

/-- Core `c` is retired; under Twin-skin a pair is, by both of its bits (R134). (DEDUCED, unsafe: assumption
39.) -/
def State.coreRetired (s : State) (c : Nat) : Bool :=
  if s.twin then bit s.wdn.retire (16 + c / 2 * 2) && bit s.wdn.retire (17 + c / 2 * 2)
  else bit s.wdn.retire (16 + c)

/-- The core domain runs: it is awake and no Strike has stopped the bus (R10, R11). -/
def State.running (s : State) : Bool :=
  decide (s.pwr.state = .awake) && s.pwr.strike.isNone

/-- The core domain is powered and out of reset, a Strike included. -/
def State.domainOn (s : State) : Bool := decide (s.pwr.state = .awake)

/-- Canvas has been started and the bus runs. -/
def State.canvasUp (s : State) : Bool := s.running && decide (s.rp.mode = .up)

/-- Ridgepole no longer serves a TRAP of core `c` (R173). -/
def State.dropService (s : State) (c : CoreId) : State :=
  s.onRp fun r => { r with serving := if r.serving.any fun x => decide (x.1 = c) then none else r.serving }

/-- The Bivouac idle timer clears to zero (R16, R198, R288). -/
def State.clearIdle (s : State) : State := s.onPwr fun p => { p with count := 0#16 }

/-! ## Memory: bytes in canonical form -/

/-- What an address that is not listed reads as (R86; DESIGN CHOICE, unsafe: assumption 5). -/
def blankByte : Byte := 0#8

/-- The byte listed at an address, or a blank one. -/
def readCell : List Host.Cell → Nat → Byte
  | [], _ => blankByte
  | (a, b) :: r, x => if x = a then b else readCell r x

/-- A byte put in its place; a blank one is not listed. -/
def writeCell : List Host.Cell → Nat → Byte → List Host.Cell
  | [], x, v => if v = blankByte then [] else [(x, v)]
  | (a, b) :: r, x, v =>
    if a < x then (a, b) :: writeCell r x v
    else if v = blankByte then ((a, b) :: r).filter fun c => decide (c.1 ≠ x)
    else if x = a then (x, v) :: r
    else (x, v) :: (a, b) :: r

/-- Every listed address lies above `lo`, the addresses rise, and no entry is blank. -/
def cellsFrom : Nat → List Host.Cell → Bool
  | _, [] => true
  | lo, (a, b) :: r => decide (lo ≤ a) && decide (b ≠ blankByte) && cellsFrom (a + 1) r

/-- The canonical form of memory: addresses strictly rising, no entry equal to a blank byte. -/
def Memory.wf (m : Memory) : Bool := cellsFrom 0 m.cells

/-- The byte at a physical address, as stored. -/
def Memory.byte (m : Memory) (a : Nat) : Byte := readCell m.cells a

def Memory.setByte (m : Memory) (a : Nat) (v : Byte) : Memory :=
  { m with cells := writeCell m.cells a v }

/-- The `n` bytes from a physical address. -/
def Memory.bytes (m : Memory) (a : Nat) : Nat → List Byte
  | 0 => []
  | n + 1 => m.byte a :: m.bytes (a + 1) n

def Memory.setBytes (m : Memory) (a : Nat) : List Byte → Memory
  | [] => m
  | b :: bs => (m.setByte a b).setBytes (a + 1) bs

/-- The listed cells that satisfy a test on their address. -/
def Memory.keep (m : Memory) (p : Nat → Bool) : Memory :=
  { m with cells := m.cells.filter fun c => p c.1 }

/-- The `n` bytes from `a` made blank. -/
def Memory.blank (m : Memory) (a n : Nat) : Memory :=
  m.keep fun x => decide (x < a) || decide (a + n ≤ x)

/-- The cells of a list written one after another. -/
def Memory.setCells (m : Memory) : List Host.Cell → Memory
  | [] => m
  | (a, b) :: r => (m.setByte a b).setCells r

/-- The listed cells of the `n` bytes from `src`, moved to `dst`. -/
def movedCells (l : List Host.Cell) (src dst n : Nat) : List Host.Cell :=
  (l.filter fun c => decide (src ≤ c.1) && decide (c.1 < src + n)).map fun c => (c.1 - src + dst, c.2)

/-- The `n` bytes from `src` copied to `dst` (R122). -/
def Memory.copy (m : Memory) (src dst n : Nat) : Memory :=
  (m.blank dst n).setCells (movedCells m.cells src dst n).reverse

/-- The little-endian word of `n` bytes at a physical address (R52). -/
def Memory.num (m : Memory) (a n : Nat) : Nat := numOf (m.bytes a n)

def Memory.word (m : Memory) (a : Nat) : Word := BitVec.ofNat 32 (m.num a 4)

def Memory.setWord (m : Memory) (a : Nat) (v : Word) : Memory := m.setBytes a (bytesOf v)

/-! ## Places in the physical map (R73) -/

def romBase : Nat := 0
def mramBase : Nat := 0x1000000
def sramBase : Nat := 0x20000000
def dpBase : Nat := 0x21000000
def emberBase : Nat := 0x22000000
def periphBase : Nat := 0x40000000
def objBase : Nat := 0x60000000

def inRange (a lo n : Nat) : Bool := decide (lo ≤ a) && decide (a < lo + n)

def inMram (a : Nat) : Bool := inRange a mramBase 0x800000
def inSram (a : Nat) : Bool := inRange a sramBase 0x100000
def inDp (a : Nat) : Bool := inRange a dpBase 0x10000
def inEmber (a : Nat) : Bool := inRange a emberBase 0x4000
def inPeriph (a : Nat) : Bool := inRange a periphBase 0x100000
def inObjWindow (a : Nat) : Bool := inRange a objBase 0x10000000
def inRom (a : Nat) : Bool := inRange a romBase 0x10000

/-- The bank index of a physical address, as in MEM_BANK_SEL (R102). -/
def bankOf (a : Nat) : Option Nat :=
  if inMram a then some ((a - mramBase) / 0x80000)
  else if inSram a then some (16 + (a - sramBase) / 0x8000)
  else if inDp a then some 48
  else if inEmber a then some 49
  else none

/-- The physical base of a bank (R73); the placeable half for DP (R87). -/
def bankBase (b : Nat) : Nat :=
  if b < 16 then mramBase + b * 0x80000
  else if b < 48 then sramBase + (b - 16) * 0x8000
  else if b = 48 then dpBase
  else emberBase

/-- The size of the ECC word at an address: 8 bytes in MRAM, 4 elsewhere (R78). -/
def eccSize (a : Nat) : Nat := if inMram a then 8 else 4

/-- The address of the ECC word that holds a byte (R78). -/
def eccWord (a : Nat) : Nat := a - a % eccSize a

/-! ## CRC-32 (R99) -/

def crcBit (c : Word) : Word :=
  if c.getLsbD 0 then (c >>> 1) ^^^ 0xEDB88320#32 else c >>> 1

def crcByte (c : Word) (b : Byte) : Word :=
  let x := c ^^^ b.setWidth 32
  crcBit (crcBit (crcBit (crcBit (crcBit (crcBit (crcBit (crcBit x)))))))

/-- CRC-32 carried on from a running value that has not had its final XOR. -/
def crcFold (c : Word) (bs : List Byte) : Word := bs.foldl crcByte c

/-- CRC-32, polynomial 0x04C1_1DB7, reflected, initial value and final XOR all ones (R99). -/
def crc32 (bs : List Byte) : Word := crcFold 0xFFFFFFFF#32 bs ^^^ 0xFFFFFFFF#32

def crc8Bit (c : Byte) : Byte := if c.getLsbD 7 then (c <<< 1) ^^^ 0x07#8 else c <<< 1

def crc8Byte (c b : Byte) : Byte :=
  crc8Bit (crc8Bit (crc8Bit (crc8Bit (crc8Bit (crc8Bit (crc8Bit (crc8Bit (c ^^^ b))))))))

/-- CRC-8, polynomial 0x07, initial value 0, each byte most significant bit first (R213, R366). -/
def crc8 (bs : List Byte) : Byte := bs.foldl crc8Byte 0#8

/-! ## Guyline producers (R195-R197) -/

/-- The PCLK edges that an event of producer `p` waits beyond the next: 1 for an asynchronous producer
(R195, R197). -/
def resyncWait (p : Nat) : Nat :=
  if p < 96 ∨ (168 ≤ p ∧ p ≤ 177) ∨ p = 191 then 1 else 0

/-- A producer's event enters the router's resynchronisers; two events of one producer that reach the router
on the same edge are delivered as one (R197). -/
def State.fire (s : State) (p : Nat) : State :=
  let others := s.inflight.filter fun f => !(decide (f.ev = p) && decide (f.left = resyncWait p))
  { s with inflight := others ++ [⟨p, resyncWait p, []⟩] }

/-- A producer fires while the router runs. -/
def State.fireAwake (s : State) (p : Nat) : State := if s.running then s.fire p else s

/-! ## Event counters (R383, R389) -/

/-- Does counter `k` of a set count: EN is 1, and GCTL is 0 or RUN is 1, and its source is `src`. -/
def Counter.counts (k : Counter) (src : Nat) : Bool :=
  bit k.cfg 6 && (!bit k.cfg 7 || bit k.cfg 8) && decide (bits k.cfg 0 6 = src)

/-- Counter `i` adds `n`; a wrap sets its overflow bit and fires producer 186 (R389). -/
def State.addCount (s : State) (i n : Nat) : State :=
  let k := vget s.per.cnt.c i ⟨0#32, 0#48, 0#48, Vector.replicate 6 0#16⟩
  let s' := s.onCnt fun t =>
    { t with c := vmod t.c i fun k => { k with count := k.count + BitVec.ofNat 48 n } }
  if k.count.toNat + n < 2 ^ 48 then s'
  else (s'.onCnt fun t => { t with ovf := setBit t.ovf i true }).fire 186

/-- Counters `lo` to `lo + k - 1` that select source `src` add `n` (R383). -/
def State.countRange (s : State) (lo src n : Nat) : Nat → State
  | 0 => s
  | k + 1 =>
    let s' := s.countRange lo src n k
    if (vget s'.per.cnt.c (lo + k) ⟨0#32, 0#48, 0#48, Vector.replicate 6 0#16⟩).counts src then
      s'.addCount (lo + k) n
    else s'

/-- Core `c` signals `n` events of source `src` of the core set (R384, R385). -/
def State.countCore (s : State) (c : CoreId) (src n : Nat) : State :=
  s.countRange (4 * s.leader c) src n 4

/-- `n` events of source `src` of the system set (R384). -/
def State.countSys (s : State) (src n : Nat) : State :=
  s.countRange 16 src n 8

/-! ## Interrupt controllers (R183-R190) -/

/-- A firing that controller `b` cannot record is lost and counted in the group of its source. -/
def IrqBank.lose (b : IrqBank) (src : Nat) : IrqBank :=
  { b with lost := vmod b.lost (src / 16) fun n => if n = 0xFFFF#16 then n else n + 1 }

/-- A firing of source 56: recorded, or lost and counted in group 3, with no further firing (R184). -/
def IrqBank.fire56 (b : IrqBank) : IrqBank :=
  if bit b.en 56 then
    if bit b.pend 56 || bit b.act 56 then b.lose 56 else { b with pend := setBit b.pend 56 true }
  else b

/-- A firing of a source at one controller (R184). -/
def IrqBank.fire (b : IrqBank) (src : Nat) : IrqBank :=
  if src = 56 then b.fire56
  else if bit b.en src then
    if bit b.pend src || bit b.act src then (b.lose src).fire56
    else { b with pend := setBit b.pend src true }
  else b

/-- Source `src` fires at controller `b` (R184). -/
def State.fireSource (s : State) (b src : Nat) : State :=
  let k := vget s.irq b IrqBank.reset
  let s' := s.onIrq b fun k => k.fire src
  if bit k.en src && (bit k.pend src || bit k.act src) then s'.countSys 21 1 else s'

/-- The running priority: that of the top entry, or 0 (R186). -/
def IrqBank.running (b : IrqBank) : Nat :=
  match b.stack with
  | [] => 0
  | e :: _ => e.pri

/-- The priority of a source in IRQ_PRI (R206). -/
def IrqBank.priority (b : IrqBank) (src : Nat) : Nat :=
  bits (vget b.pri (src / 8) 0#32) (4 * (src % 8)) 4

/-- A source is eligible: pending, enabled, and of priority 1-15 (R185). -/
def IrqBank.eligible (b : IrqBank) (src : Nat) : Bool :=
  bit b.pend src && bit b.en src && decide (b.priority src ≠ 0)

/-- The better of two offers: the higher priority, ties to the lower number (R185). -/
def IrqBank.better (b : IrqBank) (best : Option Nat) (src : Nat) : Option Nat :=
  if b.eligible src then
    match best with
    | none => some src
    | some t => if b.priority t < b.priority src then some src else best
  else best

/-- The source that the controller offers (R185). -/
def IrqBank.offer (b : IrqBank) : Option Nat := (List.range 128).foldl b.better none

/-- The source that the core would accept: offered, GIE 1, above the running priority (R27, R185). -/
def IrqBank.acceptable (b : IrqBank) : Option Nat :=
  match b.offer with
  | none => none
  | some src => if b.gie && decide (b.running < b.priority src) then some src else none

/-! ## Task readiness (R33, R128, R156) -/

/-- A readiness merged into a task entry (R33). -/
def TaskEntry.merge (t : TaskEntry) (r : Readiness) : TaskEntry :=
  match t.state with
  | .free => t
  | .idle => { t with state := .ready, readiness := r, released := false }
  | .ready => t
  | .running => { t with state := .runningPending, readiness := r, released := false }
  | .runningPending => t

/-- A readiness from a source other than POST (R128): discarded with NOTSK for a free task, collected
until the next frame start under Waymark, and merged otherwise. -/
def State.makeReady (s : State) (task : Nat) (r : Readiness) (o : ReadyOrder) : State :=
  if (s.tskAt task).state = .free then s.onWdn fun w => { w with stat := setBit w.stat 7 true }
  else if s.waymark then s.onItg fun g => { g with ready := g.ready ++ [⟨o, task, r⟩] }
  else s.onTsk task fun t => t.merge r

/-- A message becomes available to the task that takes messages (R128, R162, R257). -/
def State.makeMail (s : State) (task : Nat) (r : Readiness) : State :=
  (s.makeReady task r .message).onItg fun g => { g with mail := g.mail || s.waymark }

end Sys2Proof.Machine
end

