-- ==== Sys2Proof/Machine/Calendar.lean ====
section
/-! DEFINITION. The two ways of showing the time of the calendar clock (R314, R315) and the 64-bit time
stamp of R150 and R324. -/

namespace Sys2Proof.Machine

open Sys2Proof

/-- The two BCD digits of a number below 100. -/
def bcd2 (n : Nat) : Nat := n / 10 % 10 * 16 + n % 10

/-- The four BCD digits of a number below 10,000. -/
def bcd4 (n : Nat) : Nat := bcd2 (n / 100) * 256 + bcd2 (n % 100)

/-- The number that two BCD digits spell. -/
def unbcd2 (n : Nat) : Nat := n / 16 % 16 * 10 + n % 16

/-- Every digit of a BCD number of `k` digits is 0-9. -/
def bcdOk : Nat → Nat → Bool
  | 0, _ => true
  | k + 1, n => decide (n % 16 ≤ 9) && bcdOk k (n / 16)

/-- A leap year of the range 2000-2199 (R315). -/
def leap (y : Nat) : Bool := decide (y % 4 = 0) && decide (y ≠ 2100)

def yearDays (y : Nat) : Nat := if leap y then 366 else 365

/-- The length of a month (R315). -/
def monthDays (y m : Nat) : Nat :=
  if m = 2 then (if leap y then 29 else 28)
  else if m = 4 ∨ m = 6 ∨ m = 9 ∨ m = 11 then 30
  else 31

/-- Days from 2000-01-01 to the first day of year `2000 + k`. -/
def daysToYear : Nat → Nat
  | 0 => 0
  | k + 1 => daysToYear k + yearDays (2000 + k)

/-- Days from the first of January to the first of month `m + 1` of a year. -/
def daysToMonth (y : Nat) : Nat → Nat
  | 0 => 0
  | m + 1 => daysToMonth y m + monthDays y (m + 1)

/-- The year in which a day lies, and the day within it; `fuel` years are tried. -/
def splitYear : Nat → Nat → Nat → Nat × Nat
  | 0, y, d => (y, d)
  | f + 1, y, d => if d < yearDays y then (y, d) else splitYear f (y + 1) (d - yearDays y)

/-- The month in which a day of a year lies, and the day within it. -/
def splitMonth (y : Nat) : Nat → Nat → Nat → Nat × Nat
  | 0, m, d => (m, d)
  | f + 1, m, d => if d < monthDays y m then (m, d) else splitMonth y f (m + 1) (d - monthDays y m)

/-- Seconds from 2000-01-01 00:00:00 to 2200-01-01 00:00:00 (R316). -/
def calendarEnd : Nat := 6311433600

/-- A calendar time: year, month, day, hour, minute, second and weekday, as plain numbers. -/
structure CalTime where
  year : Nat
  mon : Nat
  day : Nat
  hour : Nat
  min : Nat
  sec : Nat
  wday : Nat
  deriving DecidableEq, Repr

/-- The calendar time of a number of seconds since 2000-01-01 00:00:00 (R315). -/
def calOf (secs : Nat) : CalTime :=
  let d := secs / 86400
  let t := secs % 86400
  let yd := splitYear 200 2000 d
  let md := splitMonth yd.1 12 1 yd.2
  { year := yd.1, mon := md.1, day := md.2 + 1, hour := t / 3600, min := t / 60 % 60,
    sec := t % 60, wday := (d + 5) % 7 + 1 }

/-- The seconds of a calendar time since 2000-01-01 00:00:00. -/
def secsOf (c : CalTime) : Nat :=
  (daysToYear (c.year - 2000) + daysToMonth c.year (c.mon - 1) + (c.day - 1)) * 86400 +
    c.hour * 3600 + c.min * 60 + c.sec

/-- Seconds of the calendar clock. -/
def Rtc.secs (r : Rtc) : Nat := r.time / 32768

/-- Fraction of the calendar clock. -/
def Rtc.frac (r : Rtc) : Nat := r.time % 32768

/-- The 64-bit time stamp of an instant in a mode (R150, R324). -/
def stampOf (mode : Bool) (time : Nat) : DWord :=
  let secs := time / 32768
  if mode then
    let c := calOf secs
    BitVec.ofNat 64 (2 ^ 63 + bcd4 c.year * 2 ^ 40 + bcd2 c.mon * 2 ^ 32 + bcd2 c.day * 2 ^ 24 +
      bcd2 c.hour * 2 ^ 16 + bcd2 c.min * 2 ^ 8 + bcd2 c.sec)
  else BitVec.ofNat 64 (secs % 2 ^ 48 * 2 ^ 15 + time % 32768)

def Rtc.stamp (r : Rtc) : DWord := stampOf r.mode r.time

end Sys2Proof.Machine
end

