-- ==== Sys2Proof/Machine/Reset.lean ====
section
/-! DEFINITION. The fault log (R149-R152), the record that Pitch selects (R100), and what a reset keeps
and what it loads (R12, R206, R261, R295, R297, R298, R329, R359, R391, R410). -/

namespace Sys2Proof.Machine

open Sys2Proof

/-! ## Writes of whole ECC words -/

/-- Bytes written as whole ECC words: errors and pending write-backs of those words end, and MRAM
writes count as wear (R79, R90). -/
def State.writeWhole (s : State) (a : Nat) (bs : List Byte) : State :=
  let hit := fun x : Nat => decide (eccWord a ≤ x) && decide (x < a + bs.length)
  let s := s.onMem fun m =>
    { m.setBytes a bs with
      ecc := m.ecc.filter fun e => !hit e.1
      writeback := m.writeback.filter fun x => !hit x }
  match bankOf a with
  | some b =>
    if b < 16 then s.onMm fun r => { r with wear := vmod r.wear b fun n => n + (bs.length + 7) / 8 }
    else s
  | none => s

/-- Ridgepole writes its store in MB0. The specification does not say how many words a write takes: a free
value, at least one (R90, R91). (DESIGN CHOICE, safe: assumption 94.) -/
def State.storeWrites (s : State) : State :=
  (s.useFree 1).onMm fun r =>
    { r with wear := vmod r.wear 0 fun n => n + 1 + Config.freeNat s.free }

/-! ## The fault log -/

def logBase : Nat := mramBase + 0x1000
def logHeader : Nat := mramBase + 0x2000

/-- TOTAL as the header in MB0 holds it; 0 when its halves disagree (R149). -/
def headerTotal (m : Memory) : Word :=
  let t := m.word logHeader
  if m.word (logHeader + 4) = ~~~t then t else 0#32

/-- FLAGS of a fault log entry (R150). -/
def faultFlags (s : State) : Byte :=
  BitVec.ofNat 8 (s.twin.toNat + 2 * s.waymark.toNat + 4 * (decide (s.pwr.cause = 8#32)).toNat +
    8 * (s.clk.ramp.isSome || bit s.pwr.stat 4 || bit s.pwr.stat 5).toNat +
    16 * s.wdn.mig.isSome.toNat + 32 * s.pwr.strike.isSome.toNat)

/-- Byte `c` of TASKS: bit 7 in thread code, and the task number (R150). A core that is off shows thread code and task
0, under Twin-skin a trailing core too (DESIGN CHOICE, unsafe: assumption 100). -/
def taskByte (s : State) (c : CoreId) : Byte :=
  BitVec.ofNat 8 (128 * (bit s.cores[c].task 31).toNat + bits s.cores[c].task 0 6)

/-- The parts of a fault log entry that its class determines (R150). -/
structure FaultInfo where
  cls : Nat
  unit : Nat
  addr : Word := 0#32
  syn : Word := 0#32
  detail : DWord := 0#64
  pc0 : Word := 0#32
  pc1 : Word := 0#32
  deriving DecidableEq, Repr

/-- The first 60 bytes of a fault log entry (R150). -/
def faultBody (s : State) (f : FaultInfo) (action : Nat) : List Byte :=
  bytesOf (s.itg.total + 1#32) ++
    [BitVec.ofNat 8 f.cls, BitVec.ofNat 8 f.unit, BitVec.ofNat 8 action, faultFlags s] ++
    bytesOfNat 8 s.per.rtc.stamp.toNat ++ bytesOf s.itg.frm ++
    [taskByte s 0, taskByte s 1, taskByte s 2, taskByte s 3] ++ bytesOf f.pc0 ++ bytesOf f.pc1 ++
    bytesOf f.addr ++ bytesOf f.syn ++ bytesOfNat 8 f.detail.toNat ++ List.replicate 12 0#8

/-- A fault log entry with its CRC. -/
def faultEntry (s : State) (f : FaultInfo) (action : Nat) : List Byte :=
  let b := faultBody s f action
  b ++ bytesOf (crc32 b)

/-- The fault recorder writes an entry and then the header word, and ITG shows it (R149, R150, R152). -/
def State.recordFault (s : State) (f : FaultInfo) (action : Nat) : State :=
  let e := faultEntry s f action
  let t := s.itg.total + 1#32
  ((s.writeWhole (logBase + 64 * (s.itg.total.toNat % 64)) e).writeWhole logHeader
      (bytesOf t ++ bytesOf (~~~t))).onItg fun g =>
    { g with total := t, stat := setBits (setBit g.stat 0 true) 8 8 f.cls }

/-! ## Pitch: the record in force (R100) -/

def recordBase (slotB : Bool) : Nat := mramBase + 0x10000 + (if slotB then 0x100 else 0)

/-- The words of a commit record that are in error. -/
def recordErrors (m : Memory) (slotB : Bool) : List (Nat × EccKind) :=
  m.ecc.filter fun e => inRange e.1 (recordBase slotB) 0xC0

/-- A commit record has a correct CRC; one with a word that cannot be corrected has not (R80, R99). (DEDUCED,
unsafe: assumption 45.) -/
def recordOk (m : Memory) (slotB : Bool) : Bool :=
  decide (crc32 (m.bytes (recordBase slotB) 0xBC) = m.word (recordBase slotB + 0xBC)) &&
    (recordErrors m slotB).all fun e => decide (e.2 = .single)

def recordSeq (m : Memory) (slotB : Bool) : Word := m.word (recordBase slotB)

/-- SEQ `a` is newer than `b` by serial-number arithmetic (R100). -/
def newer (a b : Word) : Bool := decide (1 ≤ (a - b).toNat) && decide ((a - b).toNat < 2 ^ 31)

/-- The record slot that Pitch selects; `none` when neither record is valid (R100). -/
def pitchSlot (m : Memory) : Option Bool :=
  match recordOk m false, recordOk m true with
  | false, false => none
  | true, false => some false
  | false, true => some true
  | true, true => some (newer (recordSeq m true) (recordSeq m false))

/-- The wear counts, in writes, that a commit record holds (R90, R99). -/
def recordWear (m : Memory) (slotB : Bool) : Vector Nat 16 :=
  Vector.ofFn fun i : Fin 16 =>
    let e := m.num (recordBase slotB + 0x30 + 8 * i) 8
    e % 2 ^ 48 * 256 + e / 2 ^ 48 % 256

/-- The MEM block as a reset leaves it, with what Pitch takes from the record in force (R82, R90,
R94, R100, R102). -/
def pitchMem (m : Memory) : MemRegs :=
  match pitchSlot m with
  | none => MemRegs.reset
  | some b =>
    { MemRegs.reset with
      norec := false
      badrec := !(recordOk m false && recordOk m true)
      slot := b
      seq := recordSeq m b
      scrub := m.num (recordBase b + 4) 4 % 2 ^ 20
      map := BitVec.ofNat 256 (m.num (recordBase b + 8) 32)
      restored := 0#256
      dirty := 0#256
      wear := recordWear m b }

/-! ## What a reset keeps -/

/-- FUNC is an output code (R396). -/
def outputFunc (ball : Word) : Bool := decide (1 ≤ bits ball 0 4) && decide (bits ball 0 4 ≤ 3)

/-- PA ball `n` is a held pin: claimed with an output code, and its PIN_HOLD bit is 1 (R400). -/
def Pin.held (p : Pin) (n : Nat) : Bool :=
  decide (n < 16) && bit p.hold n && outputFunc (vget p.ball n 0x70#32) &&
    decide (bits (vget p.ball n 0x70#32) 4 3 < 4)

/-- The PIN block after a reset: a Bivouac wake keeps the held pins, every other reset releases them
(R400, R410). Levels outside do not change. -/
def Pin.afterReset (p : Pin) (biv : Bool) : Pin :=
  if biv then
    { Pin.reset with
      lvl := p.lvl
      hold := BitVec.ofNat 16 ((indices 16 p.held).foldl (fun n i => n + 2 ^ i) 0)
      out := BitVec.ofNat 96 ((indices 16 fun i => p.held i && bit p.latch i).foldl
        (fun n i => n + 2 ^ i) 0)
      ball := Vector.ofFn fun i : Fin 96 => if p.held i then p.ball[i] else 0x70#32
      latch := p.latch }
  else { Pin.reset with lvl := p.lvl }

/-- The touch island after a reset: kept, with a scan in progress, through a Bivouac that it scanned in (R12, R359).
(DEDUCED, unsafe: assumption 116.) -/
def Tch.afterReset (t : Tch) (biv : Bool) : Tch :=
  if biv && t.biv then { t with biv := false }
  else Tch.reset

/-- The radio after a reset: the duty credit lies in the Porch (R221). -/
def Rf.afterReset (r : Rf) (clear : Bool) : Rf :=
  { Rf.reset with credit := if clear then 0 else r.credit }

/-- The network engine after a reset: the slot timer lies in the Porch (R234), FCNT starts at the next block (R244),
and the mark of an old key in the key store stays with it (R246). The count of superframes without the parent lies in
the Porch too, since it spans the sleep between slots (R249; DEDUCED, unsafe: assumption 108). (DESIGN CHOICE, unsafe:
assumption 9.) -/
def Net.afterReset (n : Net) (por : Bool) (block : Nat) : Net :=
  let fresh := { Net.reset with fcnt := (block * 65536) % 2 ^ 48, oldKey := n.oldKey }
  if por then fresh
  else { fresh with
    own := n.own, cur := n.cur, sfn := n.sfn, map := n.map, timing := n.timing, phase := n.phase,
    rateCorr := n.rateCorr, synced := n.synced, sinceCorr := n.sinceCorr, aged := n.aged, holdOff := n.holdOff,
    pmiss := n.pmiss }

/-- A slot of the key store that reads as holding a key: its CRC-32 is right (R171). -/
def KeySlot.whole (k : KeySlot) : Bool := decide (crc32 k.key = k.crc)

/-- ROLLBACK_COMMIT is cut short: how many of its fuses, blown one at a time in ascending order, have been blown is
free value `n` (R170). -/
def Ridgepole.cutFuses (r : Ridgepole) (n : Nat) : Ridgepole :=
  if r.fusing then
    { r with
      ctr := r.ctr + Config.freeNat n % (r.rollback - r.ctr + 1)
      fusing := false }
  else r

/-- A loss of power during the write of a slot: whether that cut the write short is free value `n` (R171). -/
def Ridgepole.cutKey (r : Ridgepole) (n : Nat) : Ridgepole :=
  { r with
    keys := r.keys.map fun k =>
      if r.keyWrite = some k.slot && Config.freeBool n then { k with crc := ~~~(crc32 k.key) } else k
    keyWrite := none }

/-- Ridgepole after a reset: its store, its fuses and the Trail lock stay (R174, R180, R181). -/
def Ridgepole.afterReset (r : Ridgepole) (clearLock : Bool) (chal : List Byte) : Ridgepole :=
  { r with
    mode := .cold
    stay := 0#4
    wdog := 0
    wdogLeft := 0
    fusing := false
    keyWrite := none
    serving := none
    served := 3
    running := none
    rollback := 0
    version := 0#32
    fcntBlock := (r.fcntBlock + 1) % 2 ^ 32
    trail :=
      { chal := chal, scope := 0#32, isOpen := false, disabled := false
        fails := if clearLock then 0 else r.trail.fails
        locked := if clearLock then false else r.trail.locked } }

/-- The PWR block after a reset (R285, R295, R297). -/
def Pwr.afterReset (p : Pwr) (causes wake : Word) : Pwr :=
  let biv := decide (causes = 8#32)
  { p with
    cause := causes
    wakeSrc := if biv then wake else 0#32
    wakeEn := if biv then p.wakeEn else 0x468#32
    wakePin := if biv then p.wakePin else 0#32
    ticks := if biv then p.ticks else 0#16
    count := 0#16
    bivcnt := if bit causes 0 then 0#32 else p.bivcnt
    fstrike := if bit causes 0 then 0#32 else p.fstrike
    stat := 0#32
    ie := 0#32
    opp := 0x100#32
    state := .awake
    strike := none
    rtcLost := !bit causes 0 && p.rtcLost
    deb := if bit causes 0 then Vector.replicate 16 none else p.deb }

/-- The CLK block after a reset: the crystal flags and the code lie in the Porch, LOCK is 0, and the
loop begins at reset release when XOK is 1 (R282, R298). -/
def Clk.afterReset (k : Clk) (por : Bool) : Clk :=
  if por then Clk.reset
  else
    { k with
      stat := setBits (setBit k.stat 1 false) 8 2 2
      ie := 0#32
      div := 2#32
      dco := setBit k.dco 31 (!bit k.stat 0)
      good := 0
      ramp := none
      alone := false }

/-- The Peg port after a reset (R374, R380, R382). -/
def Peg.afterReset (p : Peg) (causes : Word) : Peg :=
  let clearLock := bit causes 0 || bit causes 1
  { Peg.reset with
    err := if bit causes 0 then 0#32 else p.err
    rstn := if causes = 8#32 then p.rstn else true
    sess := { Sess.reset with
      fails := if clearLock then 0 else p.sess.fails
      locked := if clearLock then false else p.sess.locked } }

/-- The calendar clock after a reset: only an RTC-domain reset touches it (R328, R329). -/
def Rtc.afterReset (r : Rtc) (rtcpor : Bool) : Rtc := if rtcpor then Rtc.reset else r

/-- Challenge bytes drawn from the free values (R180). -/
def freeBytes (seed n : Nat) : List Byte := (List.range n).map fun i => Config.freeByte (seed + i)

/-- A reset with the causes given, and PWR_WAKE_SRC after a Bivouac wake: everything in the core
domain takes its reset value, and the Porch, the RTC domain, MRAM and Ridgepole's store keep theirs as
their rules state. The boot or the Pitch path follows as a command of its own. -/
def State.deviceReset (s : State) (causes wake : Word) : State :=
  let biv := decide (causes = 8#32)
  let por := bit causes 0
  let mem : Memory :=
    { cells := s.mem.cells.filter fun c => inMram c.1 || inRom c.1
      ecc := s.mem.ecc.filter fun e => inMram e.1
      writeback := [] }
  let per : Periph :=
    { Periph.reset with
      pin := s.per.pin.afterReset biv
      tch := s.per.tch.afterReset biv
      rf := s.per.rf.afterReset (por || bit causes 8)
      net := s.per.net.afterReset por ((s.rp.fcntBlock + 1) % 2 ^ 32)
      rtc := s.per.rtc.afterReset (bit causes 8)
      hrv := if por then Hrv.reset else s.per.hrv
      main := s.pwr.main }
  { s with
    free := s.free + 16
    cores := Vector.replicate 4 Core.reset
    irq := Vector.replicate 5 IrqBank.reset
    mem := mem
    mm := pitchMem mem
    wdn := Warden.reset
    itg := { Itg.reset with total := headerTotal mem }
    rp := (s.rp.cutFuses s.free).afterReset (por || bit causes 1) (freeBytes s.free 16)
    pwr := s.pwr.afterReset causes wake
    clk := s.clk.afterReset por
    peg := s.peg.afterReset causes
    per := per
    snap := per
    inflight := []
    look := Vector.replicate 9 Look.reset
    portA := []
    stale := Vector.replicate 4 [] }

/-! ## Reactions to a detected fault (R145, R146, R151) -/

/-- Does a class call for the safe state (R151). -/
def safeClass (twin : Bool) (cls : Nat) : Bool :=
  if twin then decide (1 ≤ cls) && decide (cls ≤ 0x0C)
  else decide (cls ∈ [2, 3, 5, 6, 7, 8, 9])

/-- Does a class not arise in the configuration in force (R151). -/
def deadClass (twin : Bool) (cls : Nat) : Bool := !twin && decide (cls ∈ [1, 0x0A, 0x0B])

/-- The pair that a LOCK record, or a CHECK record of the lockstep row, names (R146). -/
def lockPair (f : FaultInfo) : Option Nat :=
  if f.cls = 1 then some (f.unit % 2)
  else if f.cls = 0x0B ∧ f.unit = 0 then some (f.syn.toNat % 2)
  else none

/-- A LOCK record for the pair was written within the last 24 h (R146). -/
def lockedWithin (s : State) (pair : Nat) : Bool :=
  match vget s.rp.lockRec pair none with
  | none => false
  | some t => decide (s.per.rtc.secs ≤ t + 86400)

/-- The action taken on a fault that calls for the safe state: 1 restart, 2 retire and restart, 3 stop
(R146, R148, R151). -/
def faultAction (s : State) (f : FaultInfo) : Nat :=
  if !s.twin || f.cls = 2 then 1
  else
    let react := bits s.itg.cfg 2 2
    match lockPair f with
    | some p =>
      if react = 0 then 2
      else if react = 1 then (if f.cls = 1 && lockedWithin s p then 2 else 1)
      else 3
    | none => if react ≤ 1 then 1 else 3

/-- The safe-state sequence of R145: a Strike in progress is abandoned, the entry is written, and the
device resets with bit 4; bit 3 stays when the fault acts in the reset of a wake (R16). -/
def State.safeState (s : State) (f : FaultInfo) : State :=
  let act := faultAction s f
  let wakeBit := if s.rp.mode = .cold && bit s.pwr.cause 3 then 8#32 else 0#32
  let s1 := s.recordFault f act
  let s2 := s1.onRp fun r =>
    { r with
      itgPend := some ⟨act, (lockPair f).getD 0⟩
      lockRec := if f.cls = 1 then vset r.lockRec (f.unit % 2) (some s.per.rtc.secs)
        else r.lockRec }
  (s2.onPwr fun p => { p with strike := none }).deviceReset (0x10#32 ||| wakeBit) 0#32

/-- A checker, a reader or a core reports a fault of a class (R151). -/
def State.react (s : State) (f : FaultInfo) : State :=
  if deadClass s.twin f.cls then s
  else if safeClass s.twin f.cls then s.safeState f
  else s.recordFault f 0

end Sys2Proof.Machine
end

