-- ==== Sys2Proof/Machine/Access.lean ====
section
/-! DEFINITION. Accesses to the memories: error correction and its log (R76, R78-R80, R85), retirement
requests, the Ember window's lazy restore (R94, R95), and single-beat reads and writes by any master. A
beat lies within one aligned 8-byte span (R77). -/

namespace Sys2Proof.Machine

open Sys2Proof

/-! ## Bus masters (R7) -/

/-- The master number of an agent; the Peg register engine is 8. -/
def agentMaster : Agent → Nat
  | .core c => c
  | .ridgepole => 4
  | .host => 8

def copyEngine : Nat := 5
def strikeEngine : Nat := 7
def scrubber : Nat := 9

/-! ## Lookasides (R111, R112) -/

def Look.holds (l : Look) (i : Nat) : Bool := l.entry.toList.any fun e => decide (e = some i)

/-- A miss takes the next entry in round-robin order. -/
def Look.fill (l : Look) (i : Nat) : Look :=
  { entry := l.entry.set l.next (some i), next := l.next + 1 }

/-- The lookaside of a master misses object `i`. -/
def State.misses (s : State) (master i : Nat) : Bool := !(vget s.look master Look.reset).holds i

/-- A master translates an address in object `i` (R111). (DEDUCED, unsafe: assumption 65.) -/
def State.lookUp (s : State) (master i : Nat) : State :=
  { s with look := vmod s.look master fun l => if l.holds i then l else l.fill i }

/-- Object `i` is invalidated in every lookaside (R112). -/
def State.flushLook (s : State) (i : Nat) : State :=
  { s with look := s.look.map fun l =>
      { l with entry := l.entry.map fun e => if e = some i then none else e } }

/-! ## Errors in words -/

/-- How the ECC word at an address is in error. -/
def Memory.eccOf (m : Memory) (w : Nat) : Option EccKind := m.ecc.lookup w

/-- Is the kind uncorrectable (R80). -/
def uncorrectable : EccKind → Bool
  | .single => false
  | .double => true
  | .address => true

/-- The ECC words that a beat of `n` bytes from `a` touches. -/
def eccWords (a n : Nat) : List Nat :=
  let w := eccWord a
  let v := eccWord (a + n - 1)
  if w = v then [w] else [w, v]

/-- Bank `b` is retired (R131). -/
def bankRetired (s : State) (b : Nat) : Bool :=
  if b < 16 then bit s.wdn.retire b else if b < 48 then bit s.wdn.retSb (b - 16) else false

/-- The bank can be retired: SB0-SB31 or MB5-MB15 (R85). -/
def retirable (b : Nat) : Bool := decide (5 ≤ b) && decide (b < 48)

/-- The Warden marks a bank retiring, abandons a migration into it and drops those queued into it
(R124, R131). -/
def Warden.markRetiring (w : Warden) (b : Nat) : Warden :=
  let stop := match w.mig with
    | some m => decide (m.bank = b)
    | none => false
  { w with
    retiring := setBit w.retiring b true
    queue := w.queue.filter fun m => decide (m.bank ≠ b)
    mig := if stop then none else w.mig
    stat := if stop then setBit w.stat 2 true else w.stat }

/-- The entry is declared: its range is taken (R109, R110). -/
def ObjEntry.declared (e : ObjEntry) : Bool := decide (e.phase ≠ .free)

/-- SRAM bank `b` holds an object, or is the destination of the migration in progress. -/
def State.bankHolds (s : State) (b : Nat) : Bool :=
  (s.wdn.obj.toList.any fun e => e.declared && decide (e.bank = b)) ||
    s.wdn.mig.any fun m => decide (m.bank = b)

/-- Every powered SRAM bank that holds no placed object is powered off (R86). -/
def State.powerOffEmpty (s : State) : State :=
  let off := indices 32 fun i => bit s.mm.sbOn i && !s.bankHolds (16 + i)
  if off.isEmpty then s
  else
    let gone := fun a : Nat => inSram a && decide ((a - sramBase) / 0x8000 ∈ off)
    let mask : Word := off.foldl (fun w i => setBit w i true) 0#32
    (s.onMem fun m =>
      { cells := m.cells.filter fun c => !gone c.1
        ecc := m.ecc.filter fun e => !gone e.1
        writeback := m.writeback.filter fun x => !gone x }).onMm
      fun r => { r with sbOn := r.sbOn &&& ~~~mask, sbPwr := r.sbPwr &&& ~~~mask }

/-- A bank sets its retirement request (R85); `addr` is the word that led to it. A migration into the bank is abandoned,
and the bank that it had powered is powered off again (R86, R124). -/
def State.requestRetire (s : State) (b addr : Nat) : State :=
  if bit s.mm.retreq b then s
  else
    let s := s.onMm fun r =>
      { r with retreq := setBit r.retreq b true, stat := setBit r.stat 2 true }
    if retirable b then
      (if bankRetired s b then s
       else ((s.wdn.mig.toList.filter fun m => decide (m.bank = b)).foldl
         (fun s m => s.flushLook m.obj) s).onWdn fun w => w.markRetiring b).powerOffEmpty
    else s.recordFault { cls := 0x0E, unit := b, addr := BitVec.ofNat 32 addr } 0

/-- MEM_ECC_LOG0 and MEM_ECC_LOG1 capture an event (R102). -/
def MemRegs.logEcc (r : MemRegs) (word master : Nat) (kind : EccKind) : MemRegs :=
  let unc := uncorrectable kind
  let take := !bit r.log1 31 || (unc && !bit r.log1 20) || (!unc && !bit r.log1 20)
  if take then
    { r with
      log0 := BitVec.ofNat 32 word
      log1 := field 0 ((bankOf word).getD 0) ||| field 8 master |||
        field 12 (Config.syndrome word unc).toNat ||| flagAt 20 unc |||
        flagAt 21 (decide (kind = .address)) ||| flagAt 31 true }
  else r

/-- A read with a single-bit error: logged and counted, and the bank requests retirement when its
corrections reach the limit (R79, R85). -/
def State.countCorrection (s : State) (word master : Nat) : State :=
  let b := (bankOf word).getD 0
  let n := vget s.mm.corr b 0 + 1
  let s := (s.onMm fun r =>
    { r.logEcc word master .single with
      stat := setBit r.stat 0 true
      corr := vset r.corr b n }).countSys 16 1
  let lim := bits s.mm.eccLim 0 8
  if lim ≠ 0 ∧ lim ≤ n then s.requestRetire b word else s

/-- A read with a single-bit error: the corrected word waits for its write-back (R79). -/
def State.correct (s : State) (word master : Nat) : State :=
  (s.countCorrection word master).onMem fun m =>
    { m with writeback := if word ∈ m.writeback then m.writeback else m.writeback ++ [word] }

/-- An uncorrectable word is found: logged, and the bank requests retirement (R80, R85). -/
def State.uncorrected (s : State) (word master : Nat) (kind : EccKind) : State :=
  let b := (bankOf word).getD 0
  let s := s.onMm fun r =>
    { r.logEcc word master kind with
      stat := setBit r.stat 1 true
      unc := setBit r.unc b true }
  s.requestRetire b word

/-- A state with the uncorrectable words that an access has read. -/
structure Beat where
  s : State
  unc : List Nat
  deriving DecidableEq, Repr

/-- A master reads one ECC word (R79, R80). -/
def State.readWord (s : State) (master word : Nat) : Beat :=
  match s.mem.eccOf word with
  | none => ⟨s, []⟩
  | some k =>
    if uncorrectable k then ⟨s.uncorrected word master k, [word]⟩ else ⟨s.correct word master, []⟩

/-- A master reads several ECC words. -/
def State.readWords (s : State) (master : Nat) : List Nat → Beat
  | [] => ⟨s, []⟩
  | w :: ws =>
    let b := s.readWord master w
    let c := b.s.readWords master ws
    ⟨c.s, b.unc ++ c.unc⟩

/-- The check bits of one ECC word when `n` bytes from `a` are written (R76): a whole-word write ends
the error; a merge uses a corrected word, and leaves an uncorrectable one uncorrectable, of the kind it was
(DESIGN CHOICE, unsafe: assumption 92). -/
def State.mergeWord (s : State) (master a n word : Nat) : State :=
  let whole := decide (a ≤ word) && decide (word + eccSize word ≤ a + n)
  let drop := fun (m : Memory) =>
    { m with
      ecc := m.ecc.filter fun e => decide (e.1 ≠ word)
      writeback := m.writeback.filter fun x => decide (x ≠ word) }
  match s.mem.eccOf word with
  | none => s
  | some k =>
    if whole then s.onMem drop
    else if uncorrectable k then s.uncorrected word master k
    else (s.countCorrection word master).onMem drop

/-- One write of a bank counts as wear of an MRAM bank (R90). -/
def State.countWear (s : State) (word : Nat) : State :=
  match bankOf word with
  | some b => if b < 16 then s.onMm fun r => { r with wear := vmod r.wear b (· + 1) } else s
  | none => s

/-- A master writes the bytes of one beat to a bank (R76, R79, R90). -/
def State.writeBeat (s : State) (master a : Nat) (bs : List Byte) : State :=
  let words := eccWords a bs.length
  let s := words.foldl (fun s w => (s.mergeWord master a bs.length w).countWear w) s
  s.onMem fun m => m.setBytes a bs

/-- The bytes from `a` written in beats, for at most so many of them (R76, R77). -/
def State.writeAll (s : State) (master a : Nat) (bs : List Byte) : Nat → State
  | 0 => s
  | n + 1 =>
    if bs.isEmpty then s
    else
      let k := min bs.length (8 - a % 8)
      (s.writeBeat master a (bs.take k)).writeAll master (a + k) (bs.drop k) n

/-! ## Both ports of DP (R88) and waits for a bank (R89) -/

/-- Port A reaches the words of `n` bytes from `a`; a write leaves behind what they held. -/
def State.notePortA (s : State) (a n : Nat) (write : Bool) : State :=
  if inDp a then
    { s with portA := s.portA ++ (eccWords a n).map fun w =>
        ⟨w, if write then some (s.mem.bytes w 4) else none⟩ }
  else s

/-- An access of port B falls in the BCLK of a port A access to the same word. Two commands that follow one
another may do so: whether they do is a free value. (DESIGN CHOICE, safe: assumption 93.) -/
def State.collides (s : State) (a n : Nat) : Bool :=
  inDp a && (eccWords a n).any (fun w => s.portA.any fun p => decide (p.word = w)) &&
    Config.freeBool s.free

/-- A collision of the ports sets MEM_STAT.DPCOLL (R88). -/
def State.noteCollision (s : State) (a n : Nat) : State :=
  if s.collides a n then (s.useFree 1).onMm fun r => { r with stat := setBit r.stat 4 true } else s

/-- The bytes that a read on port B returns: in a collision with a write on port A, those from before it
(R88). -/
def State.portB (s : State) (a : Nat) (now : List Byte) : List Byte :=
  if s.collides a now.length then
    (now.zipIdx).map fun x =>
      match s.portA.find? fun p => decide (p.word = eccWord (a + x.2)) with
      | some ⟨w, some old⟩ => old.getD (a + x.2 - w) x.1
      | _ => x.1
  else now

/-- The waits of a master for a bank that has granted another requester add to MEM_CONFn. How many there are
is a free value (R89; DESIGN CHOICE, safe: assumption 32). -/
def State.conflict (s : State) (master : Nat) : State :=
  let n := Config.freeNat s.free
  (s.useFree 1).onMm fun r =>
    let v := satAdd 0xFFFFFFFF (vget r.conf master 0#32).toNat n
    { r with
      conf := vset r.conf master (BitVec.ofNat 32 v)
      confSat := if v = 0xFFFFFFFF then setBit r.confSat master true else r.confSat }

/-! ## The Ember window (R93-R95) -/

/-- The place of a byte of the Ember window in the valid image of its line. -/
def imageAddr (s : State) (a : Nat) : Nat :=
  let e := a - emberBase
  mramBase + (if bit s.mm.map (e / 64) then 0xC000 else 0x8000) + e

/-- The 64 bytes of an image copied into the line, uncorrectable words kept so (R95). -/
def State.pullWords (s : State) (image line : Nat) (unc : List Nat) : State :=
  let dst := emberBase + 64 * line
  let bad := (unc.map fun w => w - image + dst).flatMap fun w =>
    [(w, EccKind.double), (w + 4, EccKind.double)]
  let inLine := fun x : Nat => decide (dst ≤ x) && decide (x < dst + 64)
  s.onMem fun m =>
    { m.copy image dst 64 with
      ecc := (m.ecc.filter fun e => !inLine e.1) ++ bad
      writeback := m.writeback.filter fun x => !inLine x }

/-- A write to an unrestored line first pulls it (R94). -/
def State.pull (s : State) (line : Nat) : Beat :=
  if bit s.mm.restored line then ⟨s, []⟩
  else
    let image := imageAddr s (emberBase + 64 * line)
    let b := s.readWords strikeEngine ((List.range 8).map fun k => image + 8 * k)
    let s := (b.s.pullWords image line b.unc).onMm fun r =>
      { r with restored := setBit r.restored line true, dirty := setBit r.dirty line true }
    ⟨s, b.unc⟩

/-- Where the bytes of an address are read: an unrestored Ember line is read in its image (R94). -/
def readPlace (s : State) (a : Nat) : Nat :=
  if inEmber a && !bit s.mm.restored ((a - emberBase) / 64) then imageAddr s a else a

/-- A master reads the `n` bytes of one beat: the state, the uncorrectable words it read, and the bytes. -/
def State.readBeat (s : State) (master a n : Nat) : Beat × List Byte :=
  let p := readPlace s a
  let b := s.readWords master (eccWords p n)
  (b, s.mem.bytes p n)

/-- A master writes one beat to memory, pulling an Ember line first; `unc` holds the uncorrectable
words that the pull met. -/
def State.storeBeat (s : State) (master a : Nat) (bs : List Byte) : Beat :=
  if inEmber a then
    let b := s.pull ((a - emberBase) / 64)
    ⟨b.s.writeBeat master a bs, b.unc⟩
  else ⟨s.writeBeat master a bs, []⟩

/-! ## Reactions to uncorrectable reads (R80, R151) -/

/-- Class UNC for one word read by a master other than the scrubber. -/
def uncFault (word : Nat) (pc : Word) : FaultInfo :=
  { cls := 4, unit := (bankOf word).getD 0, addr := BitVec.ofNat 32 word,
    syn := (Config.syndrome word true).setWidth 32, pc0 := pc }

/-- The class UNC reports of an access; under Twin-skin the first one resets the device (R145). -/
def State.reactUnc (s : State) (pc : Word) : List Nat → State
  | [] => s
  | w :: ws =>
    if s.twin then s.safeState (uncFault w pc)
    else ((s.recordFault (uncFault w pc) 0)).reactUnc pc ws

/-! ## Beats of an unaligned access (R77) -/

/-- The length of the first beat of an access of `n` bytes at `a`. -/
def firstBeat (a n : Nat) : Nat := min n (8 - a % 8)

end Sys2Proof.Machine
end

