-- ==== Sys2Proof/Machine/Pin.lean ====
section
/-! DEFINITION. The PIN block (R394-R410): levels and outputs of the balls, ownership, and register
accesses. -/

namespace Sys2Proof.Machine

open Sys2Proof

/-- PIN_BALLn, or the value of an unclaimed ball outside the 96. -/
def Pin.cfg (p : Pin) (b : Nat) : Word := vget p.ball b 0x70#32

def Pin.func (p : Pin) (b : Nat) : Nat := bits (p.cfg b) 0 4

/-- OWNER of a ball: 0-3 a core, 7 none. -/
def Pin.owner (p : Pin) (b : Nat) : Nat := bits (p.cfg b) 4 3

/-- The ball is claimed by core `c` (R397). -/
def Pin.ownedBy (p : Pin) (c b : Nat) : Bool := decide (b < 96) && decide (p.owner b = c)

/-- The ball is claimed with an output code (R396). -/
def Pin.isOutput (p : Pin) (b : Nat) : Bool := decide (b < 96) && decide (p.owner b < 4) &&
  outputFunc (p.cfg b)

/-- The bank supply of a ball is present: PA and PB on VIO1, the rest on VIO2 (R393, R394). -/
def bankPresent (w : Pwr) (b : Nat) : Bool := if b < 32 then w.vio1 else w.vio2

/-- The Kindle gate holds ball PAn at its OFF level (R279). -/
def kindleGated (s : State) (b : Nat) : Bool :=
  let h := s.per.hrv
  decide (b < 16) && bit h.kgate 31 && bit h.kgate b && !bit h.stat 3 && s.per.pin.isOutput b

/-- The level that an output ball is driven to: its PIN_OUT bit, or OFF while the gate holds it (R279,
R397). -/
def outLevel (s : State) (b : Nat) : Bool :=
  if kindleGated s b then bit s.per.hrv.kgate 16 else bit s.per.pin.out b

/-- A reset that meets a Strike has put the balls into their reset condition (R16, R403). -/
def Strike.resetsBalls (k : Strike) : Bool := anyBit (k.causes &&& 0x22#32)

/-- The part drives its balls: the device is awake, and no reset has put them into their reset condition
(R401). An entry Strike ends that at its end, step 3 of R289. (DEDUCED, unsafe: assumption 101.) -/
def State.ballsLive (s : State) : Bool :=
  decide (s.pwr.state = .awake) && !s.pwr.strike.any Strike.resetsBalls

/-- Held PA pins are driven from their latches: in Bivouac and in the depleted state (R400, R401). -/
def State.ballsHeld (s : State) : Bool :=
  decide (s.pwr.state = .bivouac ∨ s.pwr.state = .depleted)

/-- SOUND_N is driven low: Ridgepole has started Canvas, and the device is awake and neither stopped nor in its
safe state; otherwise the ball is released (R148, R402). -/
def State.soundLow (s : State) : Bool := s.ballsLive && decide (s.rp.mode = .up)

/-- The level of a held pin in Bivouac: its latch, or OFF while the gate holds it (R279, R400). -/
def heldLevel (s : State) (b : Nat) : Bool :=
  if kindleGated s b then bit s.per.hrv.kgate 16 else bit s.per.pin.latch b

/-- The level that the transmitter gives its ball. -/
def Ua.txLevel (u : Ua) : Bool :=
  match u.line with
  | [] => true
  | x :: _ => x.1

/-- The level that the line gives its driver-enable ball (R346). -/
def Ua.deLevel (u : Ua) : Bool := u.deOn != bit u.ctl 12

/-- A TX or DE ball of a serial line, and LNA_EN, claimed with its function code, and the level that the block gives it
(R346, R395, R219). -/
def blockLevel (s : State) (b : Nat) : Option Bool :=
  let p := s.per.pin
  let u := vget s.per.ua ((b - 48) / 4) Ua.reset
  if 4 ≤ p.owner b then none
  else if p.func b = 4 then some u.txLevel
  else if p.func b = 6 then some u.deLevel
  else if p.func b = 9 then some s.per.rf.rxOn
  else none

/-- The level that the part drives a ball to; none for a high-impedance ball, and for an open-drain output at
1 (R219, R346, R396, R397, R400, R401). -/
def driveLevel (s : State) (b : Nat) : Option Bool :=
  let p := s.per.pin
  if !bankPresent s.pwr b then none
  else if s.ballsLive && p.isOutput b then
    (if p.func b = 2 && outLevel s b then none else some (outLevel s b))
  else if s.ballsLive && (blockLevel s b).isSome then blockLevel s b
  else if s.ballsHeld && p.held b then
    (if p.func b = 2 && heldLevel s b then none else some (heldLevel s b))
  else none

/-- The levels of PA_EN and TR_SW: driven from the first EN after a reset while the balls are live, and otherwise
high-impedance (R219, R401). -/
def State.paDrive (s : State) : Option Bool :=
  if s.ballsLive && s.per.rf.driven then some s.per.rf.paEn else none

def State.trDrive (s : State) : Option Bool :=
  if s.ballsLive && s.per.rf.driven then some s.per.rf.trSw else none

/-- The internal pull of a ball: while the core domain is powered and the balls are live, as PULL selects it (R398,
R401). What it makes of a ball that nothing drives reaches the model as a level from outside. -/
def pullOf (s : State) (b : Nat) : Option Bool :=
  let code := bits (s.per.pin.cfg b) 8 2
  if s.ballsLive && bankPresent s.pwr b && decide (code ≠ 0) then some (decide (code = 1)) else none

/-- The level on a ball: 0 where the bank is absent, the level that the part drives, and otherwise the level
applied from outside (R394, R397). -/
def ballLevel (s : State) (b : Nat) : Bool :=
  bankPresent s.pwr b && (driveLevel s b).getD (bit s.per.pin.lvl b)

/-- A hardware action drives an output ball (R199, R308, R397). -/
def State.driveBall (s : State) (b : Nat) (level : Bool) : State :=
  s.onPin fun p => { p with out := setBit p.out b level }

/-- The level that an action gives: 1 high, 2 low, 3 the opposite of the present PIN_OUT bit. -/
def actionLevel (act : Nat) (now : Bool) : Bool :=
  if act = 1 then true else if act = 2 then false else !now

/-- The bits of port `p` of a 96-bit ball register. -/
def portBits (v : BitVec 96) (p : Nat) : Word := (v >>> (16 * p)).setWidth 32 &&& 0xFFFF#32

/-- A ball register with the bits of port `p` replaced. -/
def setPort (v : BitVec 96) (p : Nat) (w : Word) : BitVec 96 :=
  (v &&& ~~~((0xFFFF#96) <<< (16 * p))) ||| (((w &&& 0xFFFF#32).setWidth 96) <<< (16 * p))

/-- The mask of the balls of port `p` that the agent owns. -/
def ownMask (q : Pin) (a : Agent) (p : Nat) : Word :=
  match a with
  | .core c => BitVec.ofNat 32 ((indices 16 fun i => q.ownedBy c (16 * p + i)).foldl
      (fun n i => n + 2 ^ i) 0)
  | _ => 0#32

/-- The bits of a port register that the agent owns take the written value; OWNERR tells of a bit that
it does not own and that the value would change (R397). -/
def portWrite (q : Pin) (a : Agent) (p : Nat) (old v : Word) : Word × Bool :=
  let m := ownMask q a p
  let w := v &&& 0xFFFF#32
  ((old &&& ~~~m) ||| (w &&& m), anyBit ((old ^^^ w) &&& ~~~m))

def Pin.flagOwner (q : Pin) (e : Bool) : Pin := if e then { q with stat := setBit q.stat 1 true } else q

/-- A write to PIN_OUTp (R397). -/
def Pin.writeOut (q : Pin) (a : Agent) (p : Nat) (v : Word) : Pin :=
  let r := portWrite q a p (portBits q.out p) v
  { q with out := setPort q.out p r.1 }.flagOwner r.2

/-- A write to PIN_HOLD (R397). -/
def Pin.writeHold (q : Pin) (a : Agent) (v : Word) : Pin :=
  let r := portWrite q a 0 (q.hold.setWidth 32) v
  { q with hold := r.1.setWidth 16 }.flagOwner r.2

/-- A write to PIN_BALLn: PULL, EDGE, IE and DRV, and a PULL of 3 stores 0 (R397, R410). -/
def Pin.writeBall (q : Pin) (a : Agent) (n : Nat) (v : Word) : Pin :=
  let old := q.cfg n
  let own := match a with
    | .core c => q.ownedBy c n
    | _ => false
  if own then
    let v := if bits v 8 2 = 3 then setBits v 8 2 0 else v
    { q with ball := vset q.ball n (writeRW 0x3F00#32 old v) }
  else q.flagOwner (decide (n < 96) && anyBit ((old ^^^ v) &&& 0x3F7F#32))

/-- A write to the PIN block. Where two registers share an offset, the one listed later in R410 answers
(DESIGN CHOICE, unsafe: assumption 14). -/
def Pin.write (q : Pin) (a : Agent) (off : Nat) (v : Word) : Pin :=
  if off = 0 then { q with stat := writeW1C 3#32 q.stat v }
  else if off = 0x30 then q.writeHold a v
  else if 0x20 ≤ off ∧ off ≤ 0x34 then q.writeOut a ((off - 0x20) / 4) v
  else if 0x40 ≤ off ∧ off ≤ 0x54 then
    let p := (off - 0x40) / 4
    { q with ef := setPort q.ef p (writeW1C 0xFFFF#32 (portBits q.ef p) v) }
  else if 0x100 ≤ off ∧ off < 0x280 then q.writeBall a ((off - 0x100) / 4) v
  else q

/-- A read of the PIN block; PIN_IN4 and PIN_IN5, which R410 puts at the offsets of PIN_OUT0 and PIN_OUT1, cannot be
read there (DESIGN CHOICE, unsafe: assumption 14). -/
def Pin.read (q : Pin) (off : Nat) : Word :=
  if off = 0 then q.stat
  else if 0x10 ≤ off ∧ off < 0x20 then portBits q.inp ((off - 0x10) / 4)
  else if off = 0x30 then q.hold.setWidth 32
  else if 0x20 ≤ off ∧ off ≤ 0x34 then portBits q.out ((off - 0x20) / 4)
  else if 0x40 ≤ off ∧ off ≤ 0x54 then portBits q.ef ((off - 0x40) / 4)
  else if 0x100 ≤ off ∧ off < 0x280 then q.cfg ((off - 0x100) / 4)
  else 0#32

/-- A successful claim (R396): FUNC and OWNER, and for an output code the initial level. -/
def Pin.claim (q : Pin) (b func owner : Nat) (level : Bool) : Pin :=
  let w := setBits (setBits (q.cfg b) 0 4 func) 4 3 owner
  let q := { q with ball := vset q.ball b w }
  if 1 ≤ func ∧ func ≤ 3 then { q with out := setBit q.out b level } else q

/-- PIN_FREE of a ball (R396). -/
def Pin.free (q : Pin) (b : Nat) : Pin :=
  let w := (setBits (setBits (q.cfg b) 0 4 0) 4 3 7) &&& ~~~(0x1F00#32)
  { q with ball := vset q.ball b w, hold := if b < 16 then setBit q.hold b false else q.hold }

/-- The claim table: may function code `f` be claimed on ball `b` (R395). -/
def claimAllowed (f b : Nat) : Bool :=
  decide (b < 96) &&
    (decide (f ≤ 3) ||
      (decide (f = 4) && decide (b ∈ [48, 52, 56, 60])) ||
      (decide (f = 5) && decide (b ∈ [49, 53, 57, 61])) ||
      (decide (f = 6) && decide (b ∈ [50, 54, 58, 62])) ||
      (decide (f = 7) && decide (72 ≤ b)) ||
      (decide (f = 8) && decide (b = 31)) ||
      (decide (f = 9) && decide (b = 63)))

/-- The request of source 48 + p on core `c`'s controller (R399). -/
def Pin.request (q : Pin) (c p : Nat) : Bool :=
  (List.range 16).any fun i =>
    let b := 16 * p + i
    bit q.ef b && bit (q.cfg b) 12 && q.ownedBy c b

end Sys2Proof.Machine
end

