-- ==== Sys2Proof/Machine/Counters.lean ====
section
/-! DEFINITION. The event counters (R383-R391): loads, captures, shadows and register accesses. -/

namespace Sys2Proof.Machine

open Sys2Proof

def noCounter : Counter := ⟨0#32, 0#48, 0#48, Vector.replicate 6 0#16⟩

def Cnt.at (t : Cnt) (i : Nat) : Counter := vget t.c i noCounter

/-- The core that owns a core counter (R383). -/
def counterCore (i : Nat) : Nat := i / 4

/-- Under Twin-skin the counters of C1 and C3 read as zero and ignore writes (R385). -/
def counterOff (twin : Bool) (i : Nat) : Bool :=
  twin && decide (i < 16) && decide (counterCore i % 2 = 1)

/-- A Canvas core may write counter `i` (R386). -/
def counterWritable (s : State) (c : CoreId) (i : Nat) : Bool :=
  decide (16 ≤ i) || decide (counterCore i = s.leader c)

/-- The sources of the core set that do not depend on timing (R384). -/
def steadySource (i src : Nat) : Bool :=
  decide (src = 0) ||
    (decide (i < 16) && decide (src ∈ [2, 5, 6, 7, 8, 9, 11, 12, 13, 14, 15, 16, 17]))

/-- Counter `i` selects a source marked T, so its registers are Live (R384). -/
def Cnt.live (t : Cnt) (i : Nat) : Bool :=
  let src := bits (t.at i).cfg 0 6
  !steadySource i src && decide (if i < 16 then src ≤ 29 else src ≤ 36)

/-- A write of LO loads the counter with the writer's shadow above the written value (R387). -/
def Cnt.load (t : Cnt) (i bank : Nat) (v : Word) : Cnt :=
  { t with c := vmod t.c i fun k =>
    { k with count := BitVec.ofNat 48 ((vget k.hi bank 0#16).toNat * 2 ^ 32 + v.toNat) } }

/-- A write of HI sets the writer's shadow (R387). -/
def Cnt.setHi (t : Cnt) (i bank : Nat) (v : Word) : Cnt :=
  { t with c := vmod t.c i fun k => { k with hi := vset k.hi bank (v.setWidth 16) } }

/-- A read of LO copies bits 47:32 into the reader's shadow (R387). -/
def Cnt.latch (t : Cnt) (i bank : Nat) : Cnt :=
  { t with c := vmod t.c i fun k =>
    { k with hi := vset k.hi bank ((k.count >>> 32).setWidth 16) } }

/-- Every counter is copied into its capture (R388). -/
def Cnt.capture (t : Cnt) : Cnt := { t with c := t.c.map fun k => { k with cap := k.count } }

/-- Consumers 94 and 95 set or clear RUN where GCTL is 1 (R388). -/
def Cnt.setRun (t : Cnt) (run : Bool) : Cnt :=
  { t with c := t.c.map fun k => if bit k.cfg 7 then { k with cfg := setBit k.cfg 8 run } else k }

/-- Counter `i` steps from its last value to 0 (R389). -/
def State.wrapCounter (s : State) (i : Nat) : State :=
  (s.onCnt fun t =>
    { t with
      ovf := setBit t.ovf i true
      c := vmod t.c i fun k => { k with count := 0#48 } }).fire 186

/-- A write to the CNT block by the holder of a bank (R391); who may write a counter is judged before. -/
def Cnt.write (t : Cnt) (twin : Bool) (bank off : Nat) (v : Word) : Cnt :=
  if off = 0 then { t with ovf := writeW1C 0xFFFFFF#32 t.ovf v }
  else if off = 4 then { t with ie := vset t.ie bank (v &&& 0xFFFFFF#32) }
  else if off = 8 then (if bit v 0 then t.capture else t)
  else if 0x100 ≤ off then
    let i := (off - 0x100) / 32
    let r := (off - 0x100) % 32
    if counterOff twin i then t
    else if r = 0 then
      { t with c := vmod t.c i fun k => { k with cfg := writeRW 0xFF#32 k.cfg v } }
    else if r = 4 then t.load i bank v
    else if r = 8 then t.setHi i bank v
    else t
  else t

/-- A read of the CNT block by the holder of a bank (R387, R391). -/
def Cnt.read (t : Cnt) (twin : Bool) (bank off : Nat) : Word :=
  if off = 0 then t.ovf
  else if off = 4 then vget t.ie bank 0#32
  else if 0x100 ≤ off then
    let i := (off - 0x100) / 32
    let r := (off - 0x100) % 32
    let k := t.at i
    if counterOff twin i then 0#32
    else if r = 0 then k.cfg
    else if r = 4 then k.count.setWidth 32
    else if r = 8 then (vget k.hi bank 0#16).setWidth 32
    else if r = 0xC then k.cap.setWidth 32
    else if r = 0x10 then (k.cap >>> 32).setWidth 32
    else 0#32
  else 0#32

/-- What a read of the CNT block changes (R387). -/
def Cnt.readEffect (t : Cnt) (twin : Bool) (bank off : Nat) : Cnt :=
  if 0x100 ≤ off ∧ (off - 0x100) % 32 = 4 ∧ !counterOff twin ((off - 0x100) / 32) then
    t.latch ((off - 0x100) / 32) bank
  else t

/-- The request of source 46 on core `c`'s controller (R389). -/
def Cnt.request (t : Cnt) (c : Nat) : Bool := anyBit (t.ovf &&& vget t.ie c 0#32)

end Sys2Proof.Machine
end

