-- ==== Sys2Proof/Machine/Clock.lean ====
section
/-! DEFINITION. The calendar clock (R314-R331): reading, setting, trim and slew, alarms, periodic events,
captures, the switch-over record, and register accesses. -/

namespace Sys2Proof.Machine

open Sys2Proof

def noAlarm : Alarm := ⟨0#32, 0#32, 0#32⟩

def Rtc.alarm (r : Rtc) (n : Nat) : Alarm := vget r.alm n noAlarm

/-- RTC_CTL.MODE as stored: the mode in force, or the one that the next Porch tick brings (R316). -/
def Rtc.modeReg (r : Rtc) : Bool := r.mode != r.modeDue

/-- The signed remaining slew (R321). -/
def Rtc.amt (r : Rtc) : Int := sbits r.slew 0 22

/-- The frozen instant of a reader's bank (R317). -/
def Rtc.frozen (r : Rtc) (bank : Nat) : Option Nat := vget r.shadow bank none

/-- RTC_STAT as a reader sees it. -/
def Rtc.status (r : Rtc) (bank : Nat) : Word :=
  (r.stat &&& 0xFF#32) ||| flagAt 8 (r.amt != 0) ||| flagAt 9 (r.frozen bank).isSome

/-! ## Showing the time -/

/-- The time registers in order: TIME_LO, TIME_HI, CAL0, CAL1, YEAR. Those of the mode that is not
selected read as zero (R314-R316). -/
def timeReg (mode : Bool) (reg time : Nat) : Word :=
  let secs := time / 32768
  let frac := time % 32768
  let c := calOf secs
  if mode then
    (if reg = 2 then BitVec.ofNat 32 (bcd2 c.sec + bcd2 c.min * 2 ^ 8 + bcd2 c.hour * 2 ^ 16 +
        c.wday * 2 ^ 24)
     else if reg = 3 then BitVec.ofNat 32 (bcd2 c.day + bcd2 c.mon * 2 ^ 8 + frac * 2 ^ 16)
     else if reg = 4 then BitVec.ofNat 32 (bcd4 c.year)
     else 0#32)
  else
    (if reg = 0 then BitVec.ofNat 32 (frac + secs % 2 ^ 17 * 2 ^ 15)
     else if reg = 1 then BitVec.ofNat 32 (secs / 2 ^ 17 % 2 ^ 31)
     else 0#32)

/-- The register belongs to the selected mode, and it is the closing register (R317). -/
def timeSelected (mode : Bool) (reg : Nat) : Bool :=
  if mode then decide (2 ≤ reg) && decide (reg ≤ 4) else decide (reg < 2)
def timeCloses (mode : Bool) (reg : Nat) : Bool := decide (reg = if mode then 4 else 1)

/-- A read of a time register through a bank of shadows (R317). -/
def Rtc.readTime (r : Rtc) (bank reg : Nat) : Word :=
  timeReg r.mode reg ((r.frozen bank).getD r.time)

/-- A read of a time register freezes the shadows, and the closing register releases them (R317). -/
def Rtc.freeze (r : Rtc) (bank reg : Nat) : Rtc :=
  if !timeSelected r.mode reg then r
  else if timeCloses r.mode reg then { r with shadow := vset r.shadow bank none }
  else { r with shadow := vset r.shadow bank (some ((r.frozen bank).getD r.time)) }

/-! ## Setting the time (R318, R319) -/

/-- The instant that RTC_SET0-RTC_SET2 hold; `none` when a calendar field is out of range (R315). -/
def Rtc.setInstant (r : Rtc) : Option Nat :=
  let w := fun i => (vget r.set i 0#32)
  if r.mode then
    let cal : CalTime :=
      { year := unbcd2 (bits (w 2) 8 8) * 100 + unbcd2 (bits (w 2) 0 8)
        mon := unbcd2 (bits (w 1) 8 8)
        day := unbcd2 (bits (w 1) 0 8)
        hour := unbcd2 (bits (w 0) 16 8)
        min := unbcd2 (bits (w 0) 8 8)
        sec := unbcd2 (bits (w 0) 0 8)
        wday := 1 }
    let ok := bcdOk 6 (bits (w 0) 0 24) && bcdOk 4 (bits (w 1) 0 16) && bcdOk 4 (bits (w 2) 0 16) &&
      decide (cal.sec < 60) && decide (cal.min < 60) && decide (cal.hour < 24) &&
      decide (1 ≤ cal.mon) && decide (cal.mon ≤ 12) && decide (2000 ≤ cal.year) &&
      decide (cal.year ≤ 2199) && decide (1 ≤ cal.day) && decide (cal.day ≤ monthDays cal.year cal.mon)
    if ok then some (secsOf cal * 32768 + bits (w 1) 16 15) else none
  else
    some ((bits (w 0) 15 17 + bits (w 1) 0 31 * 2 ^ 17) * 32768 + bits (w 0) 0 15)

/-- A step takes effect on a Porch tick (R318, R319). -/
def Rtc.step (r : Rtc) : Rtc :=
  match r.setInstant with
  | none => { r with stepDue := false, stat := setBit r.stat 5 true }
  | some t =>
    let fwd := decide (r.time < t)
    { r with
      stepDue := false
      time := t
      slew := setBits r.slew 0 22 0
      slewWait := 0
      alm := r.alm.map fun a => if fwd && bit a.ctl 0 then { a with ctl := setBit a.ctl 1 true } else a }

/-! ## Alarms and periodic events (R322, R323) -/

/-- Alarm `a` matches the second (R322). -/
def alarmMatches (mode : Bool) (a : Alarm) (secs : Nat) : Bool :=
  if !bit a.ctl 0 then false
  else if mode then
    let c := calOf secs
    (bit a.msk 0 || decide (bits a.val 0 8 = bcd2 c.sec)) &&
      (bit a.msk 1 || decide (bits a.val 8 8 = bcd2 c.min)) &&
      (bit a.msk 2 || decide (bits a.val 16 8 = bcd2 c.hour)) &&
      (bit a.msk 3 || decide (bits a.val 24 8 = bcd2 c.day)) &&
      (bit a.msk 4 || decide (bits a.ctl 8 8 = bcd2 c.mon)) &&
      (bit a.msk 5 || decide (bits a.ctl 16 3 = c.wday))
  else ((BitVec.ofNat 32 secs ^^^ a.val) &&& ~~~a.msk) == 0#32

/-- Periodic event `n` is enabled: 0 the 2^N Hz event, 1 the minute, 2 the hour (R323). -/
def Rtc.perEnabled (r : Rtc) (n : Nat) : Bool := bit r.per (4 + n)

/-- The 2^N Hz event falls between two instants (R323). -/
def Rtc.hzFalls (r : Rtc) (old new : Nat) : Bool :=
  let q := 32768 / 2 ^ bits r.per 0 4
  decide (old / q ≠ new / q)

/-! ## Counting (R314, R320, R321) -/

/-- The trim adjustment of one tick, and the phase after it (R320). -/
def Rtc.trimStep (r : Rtc) : Int × Nat :=
  let t := sbits r.trim 0 12
  let acc := r.trimAcc + t.natAbs
  if 2 ^ 23 ≤ acc then ((if t < 0 then -1 else 1), acc - 2 ^ 23) else (0, acc)

/-- One tick of the slew: its adjustment, and the registers after it (R321). -/
def Rtc.slewStep (r : Rtc) : Int × Rtc :=
  let a := r.amt
  if a = 0 then (0, r)
  else
    let every := (1000000 + bits r.slew 22 10 - 1) / bits r.slew 22 10
    if r.slewWait + 1 < every then (0, { r with slewWait := r.slewWait + 1 })
    else
      let d : Int := if a < 0 then -1 else 1
      let slew := setBits r.slew 0 22 ((a - d) % 2 ^ 22).toNat
      (d, { r with
        slewWait := 0
        slew := slew
        stat := if a - d = 0 then setBit r.stat 4 true else r.stat })

/-- One count of the clock: 0, 1, 2 or 3 fraction ticks, also where both adjustments hold it, and the roll of the calendar
or of the 48-bit seconds count (R314, R315, R320, R321). -/
def Rtc.count (r : Rtc) : Rtc :=
  let t := r.trimStep
  let v := r.slewStep
  let time := r.time + (1 + t.1 + v.1).toNat
  let q := { v.2 with trimAcc := t.2 }
  if r.mode && decide (calendarEnd * 32768 ≤ time) then
    { q with time := time - calendarEnd * 32768, stat := setBit q.stat 6 true }
  else { q with time := time % 2 ^ 63 }

/-! ## The supply record and captures (R324, R327) -/

/-- A change from VMAIN to the cell (R327). -/
def Rtc.switchOver (r : Rtc) : Rtc :=
  { r with
    swcnt := satAdd 0xFFFF r.swcnt 1
    swts := if r.swcnt = 0 then r.stamp else r.swts
    stat := setBit r.stat 3 true }

/-- An event on consumer 90 (R324). -/
def Rtc.eventCapture (r : Rtc) : Rtc := { r with ecap := r.stamp, stat := setBit r.stat 7 true }

/-! ## Register accesses -/

/-- A write that changes MODE (R316). -/
def Rtc.changeMode (r : Rtc) : Rtc :=
  { r with
    modeDue := !r.modeDue
    shadow := Vector.replicate 6 none
    alm := r.alm.map fun a => { a with ctl := setBit a.ctl 0 false } }

/-- A write to RTC_CTL (R316, R317, R318, R327). -/
def Rtc.writeCtl (r : Rtc) (bank : Nat) (v : Word) : Rtc :=
  let change := bit v 0 != r.modeReg
  if change && bit v 0 && decide (calendarEnd ≤ r.secs) then { r with stat := setBit r.stat 6 true }
  else
    let r := if change then r.changeMode else r
    let r := if bit v 1 then { r with shadow := vset r.shadow bank none } else r
    let r := if bit v 2 then { r with stepDue := true } else r
    if bit v 3 then { r with swcnt := 0, swts := 0#64 } else r

/-- RTC_TRIM limits a value to 2,013 in size (R320). -/
def trimValue (v : Word) : Word :=
  let t := sbits v 0 12
  if 2013 < t then 2013#32 else if t < -2013 then BitVec.ofNat 32 (4096 - 2013) else v &&& 0xFFF#32

/-- RTC_SLEW limits RATE to 1-1,000 (R321). -/
def slewValue (v : Word) : Word :=
  let r := bits v 22 10
  setBits v 22 10 (if r = 0 then 1 else min r 1000)

/-- A write to RTC_SLEW starts a slew (R321). -/
def Rtc.writeSlew (r : Rtc) (v : Word) : Rtc := { r with slew := slewValue v, slewWait := 0 }

/-- A write to the registers of alarm `n`, at offset `o` from its VAL. -/
def Rtc.writeAlarm (r : Rtc) (n o : Nat) (v : Word) : Rtc :=
  { r with alm := vmod r.alm n fun a =>
    if o = 0 then { a with val := v }
    else if o = 4 then { a with msk := if r.modeReg then v &&& 0x3F#32 else v }
    else if o = 8 then { a with ctl := writeCodes 0x7FF01#32 2#32 0#32 a.ctl v }
    else a }

/-- A write to the RTC block by the holder of a bank. R331 puts the registers of alarm 1 and RTC_SET0 to
RTC_SET2 at the same offsets: a write reaches both, and a read returns RTC_SETn (DESIGN CHOICE, unsafe:
assumption 15). -/
def Rtc.write (r : Rtc) (bank off : Nat) (v : Word) : Rtc :=
  if off = 0 then r.writeCtl bank v
  else if off = 4 then { r with stat := writeW1C 0x7F#32 r.stat v }
  else if off = 8 then { r with ie := v &&& 0x1FF#32 }
  else if off = 0x28 then { r with trim := trimValue v }
  else if off = 0x2C then r.writeSlew v
  else if off = 0x30 then
    { r with per := let w := v &&& 0x7F#32; if 8 < bits w 0 4 then setBits w 0 4 8 else w }
  else if 0x50 ≤ off ∧ off ≤ 0x58 then r.writeAlarm 0 (off - 0x50) v
  else if 0x60 ≤ off ∧ off ≤ 0x68 then
    { r.writeAlarm 1 (off - 0x60) v with set := vset r.set ((off - 0x60) / 4) v }
  else r

/-- The time register that an offset names. -/
def timeIndex (off : Nat) : Option Nat :=
  if 0x10 ≤ off ∧ off ≤ 0x20 then some ((off - 0x10) / 4) else none

/-- RTC_ALMn_MSK as read: bits 31:6 are reserved in calendar mode (R3, R331). -/
def Rtc.maskRead (r : Rtc) (n : Nat) : Word := if r.modeReg then (r.alarm n).msk &&& 0x3F#32 else (r.alarm n).msk

/-- A read of the RTC block by the holder of a bank. -/
def Rtc.read (r : Rtc) (bank off : Nat) : Word :=
  match timeIndex off with
  | some reg => r.readTime bank reg
  | none =>
    if off = 0 then flagAt 0 r.modeReg
    else if off = 4 then r.status bank
    else if off = 8 then r.ie
    else if off = 0x28 then r.trim
    else if off = 0x2C then r.slew
    else if off = 0x30 then r.per
    else if off = 0x38 then r.swts.setWidth 32
    else if off = 0x3C then (r.swts >>> 32).setWidth 32
    else if off = 0x40 then BitVec.ofNat 32 r.swcnt
    else if off = 0x48 then r.ecap.setWidth 32
    else if off = 0x4C then (r.ecap >>> 32).setWidth 32
    else if 0x60 ≤ off ∧ off ≤ 0x68 then vget r.set ((off - 0x60) / 4) 0#32
    else if off = 0x50 then (r.alarm 0).val
    else if off = 0x54 then r.maskRead 0
    else if off = 0x58 then (r.alarm 0).ctl
    else 0#32

/-- What a read of the RTC block changes (R317, R324). -/
def Rtc.readEffect (r : Rtc) (bank off : Nat) : Rtc :=
  match timeIndex off with
  | some reg => r.freeze bank reg
  | none => if off = 0x4C then { r with stat := setBit r.stat 7 false } else r

/-- The requests of sources 10-13 (R331). -/
def Rtc.request (r : Rtc) (k : Nat) : Bool :=
  let f := r.stat &&& r.ie
  if k = 0 then bit f 0 else if k = 1 then bit f 1 else if k = 2 then bit f 2
  else anyBit (f &&& 0x78#32) || (bit (r.alarm 0).ctl 1 && bit r.ie 7) ||
    (bit (r.alarm 1).ctl 1 && bit r.ie 8)

end Sys2Proof.Machine
end

