-- ==== Sys2Proof/Machine/Harvest.lean ====
section
/-! DEFINITION. The harvest manager (R260-R281): protection, the charger, harvest inputs, Lantern and its
thresholds, and register accesses. `main` tells that the supply switch selects VMAIN (R260). -/

namespace Sys2Proof.Machine

open Sys2Proof

def Hrv.flag (h : Hrv) (i : Nat) : Hrv := { h with stat := setBit h.stat i true }

/-- The protection switch is open (R262). -/
def Hrv.switchOpen (h : Hrv) : Bool := h.swOpen || h.ocOn || h.tdOn

def Hrv.chgen (h : Hrv) : Bool := bit h.ctl 0

/-- The charger state of R266: 0 OFF, 1 PRE, 2 CC, 3 CV, 4 DONE, 5 HOLD, 6 FAULT. -/
def Hrv.charger (h : Hrv) : Nat := bits h.stat 8 3

def Hrv.setCharger (h : Hrv) (k : Nat) : Hrv := { h with stat := setBits h.stat 8 3 k }

/-- Charging is suspended: overcharge, a charge temperature, or a thermistor error (R265, R266). -/
def Hrv.suspended (h : Hrv) : Bool := h.ovcOn || h.tempOn || bit h.stat 23

/-- The charger enters DONE (R273). -/
def Hrv.terminate (h : Hrv) : Hrv :=
  let h := h.setCharger 4
  if h.cap = 0 then h else { h with lchg := h.fcc, stat := setBit h.stat 25 false }

/-- HOLD is entered or left (R266); a return to DONE enters it (R273). -/
def Hrv.judgeHold (h : Hrv) : Hrv :=
  let k := h.charger
  if h.suspended then
    (if 1 ≤ k ∧ k ≤ 4 then { h.setCharger 5 with held := k } else h)
  else if k = 5 then (if h.held = 4 then h.terminate else h.setCharger h.held)
  else h

/-- The charger can take no current: OFF, DONE, HOLD, FAULT, or overcharge has tripped (R270). -/
def Hrv.takesNone (h : Hrv) : Bool := decide (h.charger = 0 ∨ 4 ≤ h.charger) || h.ovcOn

/-- The charger starts: PRE below 3.00 V, otherwise CC (R266). -/
def Hrv.startCharger (h : Hrv) : Hrv :=
  (h.setCharger (if h.vcell < 3000 then 1 else 2)).judgeHold

/-- An input harvests (R268). -/
def Hrv.harvests (h : Hrv) (main hvb : Bool) : Bool :=
  bit h.ctl (if hvb then 2 else 1) && (main || decide (2900 ≤ h.vcell))

/-- HRV_STAT. -/
def Hrv.status (h : Hrv) (main : Bool) : Word :=
  setBit (setBit (setBit h.stat 0 main) 12 (h.harvests main false)) 13 (h.harvests main true)

/-! ## Lantern (R271-R275) -/

/-- Charge in nAh moves through the switch: CHARGE, the residues and the totals (R271). -/
def Hrv.integrate (h : Hrv) (delta : Int) : Hrv :=
  let r := h.residue + delta
  let whole := r / 1000
  let c := ((h.lchg : Int) + whole).toNat
  let inAll := h.inRes + delta.toNat
  let outAll := h.outRes + (-delta).toNat
  { h with
    residue := r % 1000
    lchg := if h.cap = 0 then c else min c h.fcc
    lin := h.lin + inAll / 1000000
    inRes := inAll % 1000000
    lout := h.lout + outAll / 1000000
    outRes := outAll % 1000000 }

/-- Whole microampere-hours that a charge adds to a total: the events of sources 33 and 34 (R384). -/
def microEvents (res add : Nat) : Nat := (res + add) / 1000 - res / 1000

/-- Threshold `k`: 0 Reserve, 1 Kindle, 2 Blaze. -/
def Hrv.level (h : Hrv) (k : Nat) : Nat := if k = 0 then h.res else if k = 1 then h.kin else h.blz

/-- A threshold's met state (R275). -/
def Hrv.met (h : Hrv) (k : Nat) : Bool := bit h.stat (2 + k)

/-- The met state that an update finds (R275). -/
def Hrv.meets (h : Hrv) (main : Bool) (k : Nat) : Bool :=
  main || decide (h.level k ≤ h.lchg) ||
    (h.met k && decide (h.level k ≤ h.lchg + bits h.gauge 0 8))

/-- The met state takes a value, and a change sets the crossing flag (R276). -/
def Hrv.setMet (h : Hrv) (k : Nat) (b : Bool) : Hrv :=
  if h.met k = b then h
  else { h with stat := setBit (setBit h.stat (2 + k) b) (16 + k) true }

/-- The temperature byte of a reading, when it has one (R281). -/
def tempByte (t : Int) : Option (BitVec 8) :=
  if -128 ≤ t ∧ t ≤ 127 then some (BitVec.ofInt 8 t) else none

/-- A thermistor reading within -50 to +150 (R265). -/
def ntcValid (ntc : Option Int) : Bool :=
  match ntc with
  | none => false
  | some t => decide (-50 ≤ t) && decide (t ≤ 150)

/-- The temperature that a sample stores; `none` where the specification states no value. (DESIGN CHOICE,
safe: assumption 57.) -/
def Hrv.sampledTemp (h : Hrv) (inner : Int) (ntc : Option Int) : Option (BitVec 8) :=
  if bit h.prot 7 then (if ntcValid ntc then ntc.bind tempByte else none) else tempByte inner

/-- A sample ends (R265, R272, R274). `open_` is the value of a temperature that the specification does
not state. -/
def Hrv.sampleDone (h : Hrv) (vcell vmain : BitVec 16) (inner : Int) (ntc : Option Int) (light : Bool)
    (open_ : BitVec 8) : Hrv :=
  let h := { h with
    sampling := false
    vcell := vcell.toNat
    vmain := vmain.toNat
    temp := (h.sampledTemp inner ntc).getD open_ }
  let h := if bit h.prot 7 && !ntcValid ntc then (h.flag 23).judgeHold else h
  if light ∧ h.vcell < 2800 + 10 * bits h.gauge 16 8 ∧ h.res < h.lchg then
    { h with fcc := h.fcc - (h.lchg - h.res), lchg := h.res }.flag 26
  else h

/-- The regulation point after a measurement of Voc: K / 16 of it (R269), and between that and Voc, at a free
value, while the converter supplies the device's own load alone (R270; DESIGN CHOICE, safe: assumption 102). -/
def Hrv.regPoint (h : Hrv) (main : Bool) (k voc rise : Nat) : Nat :=
  let p := k * voc / 16
  if h.takesNone && !main then p + rise % (voc - p + 1) else p

/-- A measurement of an open-circuit voltage ends (R269). `rise` is a free value. -/
def Hrv.mpptEnd (h : Hrv) (main hvb : Bool) (voc rise : Nat) : Hrv :=
  if hvb then { h with measB := false, regB := h.regPoint main (bits h.mppt 4 4) voc rise }
  else { h with measA := false, regA := h.regPoint main (bits h.mppt 0 4) voc rise }

/-! ## Register accesses (R264, R267, R273, R275, R281) -/

def Hrv.deny (h : Hrv) : Hrv := h.flag 30

def Hrv.vovc (h : Hrv) : Nat := bits h.prot 0 6

/-- VCV is held at or below the VOVC code (R267). -/
def Hrv.limitVcv (h : Hrv) : Hrv :=
  if h.vovc < bits h.chg 16 6 then { h with chg := setBits h.chg 16 6 h.vovc } else h

/-- A write to HRV_CTL (R266). -/
def Hrv.writeCtl (h : Hrv) (main : Bool) (v : Word) : Hrv :=
  let on := h.chgen
  let h := { h with ctl := v &&& 7#32 }
  if !h.chgen then h.setCharger 0
  else if !on && !(h.swOpen && !main) then h.startCharger
  else h

/-- A write to HRV_PROT (R264, R267). -/
def Hrv.writeProt (h : Hrv) (v : Word) : Hrv :=
  if bit h.prot 31 then h.deny
  else
    let v := if 45 < bits v 0 6 then setBits v 0 6 45 else v
    { h with prot := v &&& 0x800000BF#32 }.limitVcv

def Hrv.writeTlim (h : Hrv) (v : Word) : Hrv :=
  if bit h.prot 31 then h.deny else { h with tlim := v &&& 0xFFFFFF#32 }

/-- A write to HRV_CHG (R267). -/
def Hrv.writeChg (h : Hrv) (v : Word) : Hrv :=
  let i := bits v 0 9
  let v := setBits v 0 9 (if i = 0 then 1 else min i 400)
  let v := if bits v 24 4 = 0 then setBits v 24 4 1 else v
  { h with chg := v &&& 0xF3F01FF#32 }.limitVcv

/-- A write to HRV_CAP (R273). -/
def Hrv.writeCap (h : Hrv) (v : Word) : Hrv :=
  let c := max 100 (min 2000000 (bits v 0 21))
  { h with cap := c, fcc := if h.fcc = 0 ∨ c < h.fcc then c else h.fcc }

/-- A write to HRV_LCHG (R273). -/
def Hrv.writeLchg (h : Hrv) (v : Word) : Hrv :=
  if bit h.stat 25 then { h with lchg := v.toNat, stat := setBit h.stat 25 false } else h.deny

/-- A write to HRV_RES, HRV_KIN or HRV_BLZ (R275). -/
def Hrv.writeLevel (h : Hrv) (k : Nat) (v : Word) : Hrv :=
  let n := bits v 0 21
  let g := if k = 0 then { h with res := max 2 n } else if k = 1 then { h with kin := n }
    else { h with blz := n }
  if g.res ≤ g.kin ∧ g.kin ≤ g.blz then g else h.flag 29

/-- A K of HRV_MPPT that is 0 stores 1 (R269). -/
def mpptValue (v : Word) : Word :=
  let v := v &&& 0x3FF#32
  let v := if bits v 0 4 = 0 then setBits v 0 4 1 else v
  if bits v 4 4 = 0 then setBits v 4 4 1 else v

/-- A write to the HRV block. -/
def Hrv.write (h : Hrv) (main : Bool) (off : Nat) (v : Word) : Hrv :=
  if off = 0 then { h with stat := writeW1C 0x7DFF0000#32 h.stat v }.judgeHold
  else if off = 4 then { h with ie := v &&& 0x7DFF0000#32 }
  else if off = 8 then h.writeCtl main v
  else if off = 0xC then h.writeProt v
  else if off = 0x10 then h.writeTlim v
  else if off = 0x14 then h.writeChg v
  else if off = 0x18 then { h with mppt := mpptValue v }
  else if off = 0x1C then { h with kgate := v &&& 0x8001FFFF#32 }
  else if off = 0x20 then h.writeCap v
  else if 0x24 ≤ off ∧ off ≤ 0x2C then h.writeLevel ((off - 0x24) / 4) v
  else if off = 0x30 then
    let w := v &&& 0xFF00FF#32
    { h with gauge := if 150 < bits w 16 8 then setBits w 16 8 150 else w }
  else if off = 0x40 then h.writeLchg v
  else h

/-- A read of the HRV block. -/
def Hrv.read (h : Hrv) (main : Bool) (off : Nat) : Word :=
  if off = 0 then h.status main
  else if off = 4 then h.ie
  else if off = 8 then h.ctl
  else if off = 0xC then h.prot
  else if off = 0x10 then h.tlim
  else if off = 0x14 then h.chg
  else if off = 0x18 then h.mppt
  else if off = 0x1C then h.kgate
  else if off = 0x20 then BitVec.ofNat 32 h.cap
  else if 0x24 ≤ off ∧ off ≤ 0x2C then BitVec.ofNat 32 (h.level ((off - 0x24) / 4))
  else if off = 0x30 then h.gauge
  else if off = 0x40 then BitVec.ofNat 32 h.lchg
  else if off = 0x44 then BitVec.ofNat 32 (h.vcell + 65536 * h.vmain)
  else if off = 0x48 then BitVec.ofNat 32 h.lin
  else if off = 0x4C then BitVec.ofNat 32 h.lout
  else if off = 0x50 then
    BitVec.ofNat 32 (h.fcc + 2 ^ 24 * (if h.cap = 0 then 0 else h.fcc * 100 / h.cap))
  else if off = 0x54 then h.temp.setWidth 32
  else 0#32

/-- The requests of sources 6-9 (R281). -/
def Hrv.request (h : Hrv) (k : Nat) : Bool :=
  let f := h.stat &&& h.ie
  if k < 3 then bit f (16 + k) else anyBit (f &&& 0x7CF80000#32)

end Sys2Proof.Machine
end

