-- ==== Sys2Proof/WellFormed.lean ====
section
/-! DEFINITION. Which commands are well formed: what the rows of the table ask of their operands beyond the
types. -/

namespace Sys2Proof

/-- The bits of the payload field of a frame of `len` bytes: P (R211). -/
def fieldBits (len : Nat) (code : Bool) : Nat :=
  if code then 64 * ((16 * len + 76 + 63) / 64) else 8 * (len + 4)

/-- A received frame has the payload field that its header describes, and a decoded stream of its LEN bytes and its
CRC-32 (R211, R212). -/
def PhyFrame.wf (f : PhyFrame) : Bool :=
  decide (f.field.length = fieldBits f.h0.toNat (f.h1.getLsbD 3)) && decide (f.soft.length = f.h0.toNat + 4)

/-- An element count of a string instruction: one without a prefix, and at most the 32-bit W3 with one
(R42). -/
def countOk (pre : RepPrefix) (n : Nat) : Bool :=
  match pre with
  | .bare => decide (n = 1)
  | .rep | .repe | .repne => decide (n < 2 ^ 32)

/-- The command is one that its row of the table describes. (DEDUCED, safe: assumption 19.) -/
def Instr.wf (i : Instr) : Bool :=
  match i with
  | .movs _ _ pre n => countOk pre n
  | .cmps _ _ pre n => countOk pre n
  | .scns _ _ pre n => countOk pre n
  | .fils _ _ pre n => countOk pre n
  | .unknownService _ n => decide (16 ≤ n.toNat)
  | .wardenBadOp _ op => decide (op.toNat = 0) || decide (6 < op.toNat)
  | .pegCmdBadOp _ op => decide (op.toNat = 0) || decide (4 < op.toNat)
  | .pegBadCommand cmd => decide (cmd.toNat = 0) || decide (5 < cmd.toNat)
  | .wakeSourceQualify k pin rise => decide (k = 5) || (decide (pin = 0) && !rise)
  | .eccWriteback addr => decide (addr.toNat % 4 = 0)
  | .trailSubmit resp scope => decide (resp.length = 32) && decide (scope.toNat < 16)
  | .beaconReceived f => f.wf
  | .dataReceived f => f.wf
  | .attachReceived f => f.wf
  | .detachReceived f => f.wf
  | .joinReqReceived f => f.wf
  | .joinRspReceived f => f.wf
  | .ackReceived f => f.wf
  | .porchSupplyLoss words => decide (words ≤ 2072)
  | .registerWrite _ addr _ => decide (addr.toNat % 4 = 0)
  | .mov .. | .add .. | .adc .. | .sub .. | .sbc .. | .cmp .. | .neg .. | .and .. | .or .. | .xor .. |
    .tst .. | .not .. | .lsl .. | .lsr .. | .asr .. | .ror .. | .sxb .. | .sxh .. | .zxh .. | .mulu .. |
    .muls .. | .divu .. | .divs .. | .multiplyResult .. | .divideResult .. | .badd .. | .badc .. |
    .bsub .. | .bsbc .. | .dadj .. | .cvbd .. | .cvdb .. | .ldb .. | .ldh .. | .ldw .. | .stb .. |
    .sth .. | .stw .. | .xchg .. | .push .. | .pop .. | .jr .. | .jlr .. | .mfs .. | .mts .. | .post .. |
    .movi .. | .addi .. | .cmpi .. | .ldws .. | .bcc .. | .nop .. | .sync .. | .wait .. | .tend .. |
    .frame .. | .eret .. | .iret .. | .addRrr .. | .subRrr .. | .andRrr .. | .orRrr .. | .xorRrr .. |
    .addm .. | .addiRri .. | .andi .. | .ori .. | .xori .. | .movw .. | .movh .. | .cmpw .. | .lsli .. |
    .lsri .. | .asri .. | .rori .. | .ldbRri .. | .ldbs .. | .ldhRri .. | .ldhs .. | .ldwRri .. |
    .stbRri .. | .sthRri .. | .stwRri .. | .bccL .. | .jmp .. | .bl .. | .undefinedEncoding .. |
    .interruptAccept .. | .info .. | .imgConfirm .. | .imgSwitch .. | .rollbackCommit .. | .pinClaim .. |
    .pinFree .. | .chanClaim .. | .chanFree .. | .dvfs .. | .stay .. | .keyLoad .. | .keyCheck .. |
    .embRights .. | .wdogSet .. | .wdogKick .. | .reset .. | .trapReturn .. | .irqEoi .. | .irqSwset .. |
    .irqEnWrite .. | .irqPsetWrite .. | .irqPermitWrite .. | .irqLostRead .. | .guylineChannelFire .. |
    .evtSwfire .. | .evtConsWrite .. | .evtChCfgWrite .. | .evtTrelWrite .. | .evtPoutWrite .. |
    .evtFiredClear .. | .evtCovrClear .. | .wardenDispatch | .objDeclare .. | .objRelease .. |
    .objRights .. | .tskDeclare .. | .tskRelease .. | .jnlPurge .. | .wardenCommandComplete .. |
    .wdnObjSelWrite .. | .wdnTskSelWrite .. | .wdnPolWrite .. | .wdnEpochWrite .. | .wdnLimWrite .. |
    .wdnEpochLimWrite .. | .wdnRetireWrite .. | .epochEnd | .migrationStart | .migrationComplete |
    .sramBankClearDone .. | .scrubRead .. | .scrubOverdue | .memBankWearLoRead .. | .memConfRead .. |
    .memConfSatRead .. | .strikeComplete | .idleTimerExpire | .pitchPath | .fullBoot | .powerOn .. |
    .nrstAssert | .vmainLoss | .vmainReturn | .rtcDomainReset | .bankSupplyChange .. | .crystalQualified |
    .crystalLoss | .hearthFllCount .. | .vptWrite .. | .clkDivWrite .. | .buckSettled | .dividerChange |
    .canvasWatchdogExpire | .ridgepoleWatchdogExpire | .lockstepDivergence .. | .integrityFault .. |
    .selfTestRound | .frameBoundary | .itgLogSelWrite .. | .trailClose | .debugHalt .. | .debugStep .. |
    .lanternUpdate .. | .lanternSample | .lanternSampleDone .. | .mpptMeasurementStart .. |
    .mpptMeasurementEnd .. | .overchargeTrip | .overDischargeTrip | .overCurrentTrip |
    .chargeTemperatureTrip | .dischargeTemperatureTrip | .protectionRelease .. | .chargerStateChange .. |
    .chargerPrechargeTimeout | .chargerTerminate | .hrvCtlWrite .. | .hrvProtWrite .. | .hrvTlimWrite .. |
    .hrvChgWrite .. | .hrvCapWrite .. | .hrvLchgWrite .. | .hrvThresholdWrite .. | .rtcAlarmMatch .. |
    .rtcPeriodicEvent .. | .rtcCalendarRoll | .rtcStep .. | .rtcRel .. | .rtcSwclr .. | .rtcModeWrite .. |
    .rtcSlewWrite .. | .rtcSlewDone | .rtcTimeRead .. | .rtcEcapHiRead .. | .timerCompareMatch .. |
    .timerOverflow .. | .timerCntWrite .. | .timerCntRead .. | .timerCmpWrite .. | .timerStagWrite .. |
    .timerCtlWrite .. | .uaCharacterReceived .. | .uaBreakReceived .. | .uaIdleDetect .. |
    .uaCharacterSent .. | .uaDeLagEnd .. | .uaRxRead .. | .uaTxWrite .. | .uaDivWrite .. |
    .uaQcfgWrite .. | .uaCtlWrite .. | .uaErrcntRead .. | .touchScanDue | .touchScanStart | .dqiTimeout |
    .touchMeasurementDone .. | .touchScanCommit | .touchRateChange .. | .tchStart .. | .tchRebase .. |
    .rfPllLockFail | .rfTxEnd | .rfFrameAbort .. | .rfFrameReject .. | .rfConfigWrite .. | .rfCtlWrite .. |
    .dutyCreditAccrue | .rfAbortsRead .. | .rfRxerrRead .. | .netSlotWake .. | .netSlotStart .. |
    .netSlotEnd | .listenWindowClose | .ackTimeout | .messageDelivery | .netCmdSend .. | .netCmdJoin .. |
    .netCmdLeave .. | .netCmdSurvey .. | .netCmdAdmit .. | .netCmdKeyset .. | .netCmdKeyuse .. |
    .netEnWrite .. | .netCntRead .. | .transactionTimeout .. | .reassemblyTimeout .. | .childTimeout .. |
    .keepTimer | .parentLoss | .joinTimeout | .oldKeyExpiry | .surveyEnd | .cntOverflow .. |
    .cntCapture .. | .cntLoWrite .. | .cntHiWrite .. | .cntLoRead .. | .pinEdge .. | .pinOutWrite .. |
    .pinHoldWrite .. | .pinBallWrite .. | .pegRead .. | .pegWrite .. | .pegWriteComplete | .readStatus .. |
    .beginSession .. | .sessionResponse .. | .pegSessionCheck | .pegFrameCut | .pegSessionTimeout |
    .pegSessClose .. | .pegH2d3Write .. | .pegD2h3Write .. | .pegMbstatWrite .. | .pegReset .. |
    .gsWrite .. | .pegImgSwitch .. | .keySet .. | .pegCmdComplete | .pegUpdAddrWrite .. |
    .pegUpdDataWrite .. | .pegUpdDataRead .. | .pegUpdPrefetchDone | .rfSyncDetect .. | .debugResume .. |
    .debugRegisterAccess .. | .nrstRelease | .uaStartBitDetect .. | .copyUncorrectableRead |
    .correctionWindowEnd .. | .ridgepoleWatchdogWarning | .supplyWatchQualified .. |
    .harvestIntakeLimit .. => true

end Sys2Proof
end

