-- ==== Sys2Proof/Machine/Phy.lean ====
section
/-! DEFINITION. The PHY frame (R210-R217): bits, the code and its interleaver, the symbols of a frame as it is sent, and
what a receiver makes of one. -/

namespace Sys2Proof.Machine

open Sys2Proof

/-! ## Bits (R211, R213) -/

/-- The bits of a byte, the least significant first (R213). -/
def bitsOfByte (b : Byte) : List Bool := (List.range 8).map fun i => b.getLsbD i

def bitsOfBytes (bs : List Byte) : List Bool := bs.flatMap bitsOfByte

/-- The byte whose bits come in this order. -/
def byteOfBits (l : List Bool) : Byte := BitVec.ofNat 8 (l.foldr (fun b v => 2 * v + b.toNat) 0)

/-- The first `n` bytes of a stream of bits. -/
def bytesOfBits : Nat → List Bool → List Byte
  | 0, _ => []
  | n + 1, l => byteOfBits (l.take 8) :: bytesOfBits n (l.drop 8)

/-- The bits of a word, bit 31 first (R211). -/
def bitsOfWord (w : Word) : List Bool := (List.range 32).map fun i => w.getLsbD (31 - i)

/-! ## The convolutional code (R214) -/

/-- The six previous input bits, the last one first. -/
structure Six where
  s1 : Bool
  s2 : Bool
  s3 : Bool
  s4 : Bool
  s5 : Bool
  s6 : Bool
  deriving DecidableEq, Repr

def Six.zero : Six := ⟨false, false, false, false, false, false⟩

/-- The bits after the input `x`. -/
def Six.next (p : Six) (x : Bool) : Six := ⟨x, p.s1, p.s2, p.s3, p.s4, p.s5⟩

/-- g0 = 0o171, but for the new bit. -/
def Six.tapA (p : Six) : Bool := p.s1 ^^ p.s2 ^^ p.s3 ^^ p.s6

/-- g1 = 0o133, but for the new bit. -/
def Six.tapB (p : Six) : Bool := p.s2 ^^ p.s3 ^^ p.s5 ^^ p.s6

/-- The coded bits, A and then B for each input bit. -/
def convolve (p : Six) : List Bool → List Bool
  | [] => []
  | x :: l => (x ^^ p.tapA) :: (x ^^ p.tapB) :: convolve (p.next x) l

/-- The input of a stream of coded bits that is a code word. -/
def unconvolve (p : Six) : List Bool → Option (List Bool)
  | a :: b :: l =>
    let x := a ^^ p.tapA
    if b = (x ^^ p.tapB) then (unconvolve (p.next x) l).map (x :: ·) else none
  | [] => some []
  | [_] => none

/-- A block and its six tail bits, coded from zero state. -/
def coded (l : List Bool) : List Bool := convolve Six.zero (l ++ List.replicate 6 false)

/-! ## The payload field (R211, R213, R215) -/

/-- The interleaver within a block of 64, which is its own inverse. -/
def interleave64 (c : List Bool) : List Bool :=
  (List.range 64).map fun j => c.getD (8 * (j % 8) + j / 8) false

/-- The interleaver over `n` blocks. -/
def interleave : Nat → List Bool → List Bool
  | 0, _ => []
  | n + 1, l => interleave64 (l.take 64) ++ interleave n (l.drop 64)

/-- The stream of a payload: its bytes and then the CRC-32, least significant byte first. -/
def phyStream (body : List Byte) : List Byte := body ++ bytesOf (crc32 body)

/-- The bits of the payload field on air. -/
def phyField (code : Bool) (body : List Byte) : List Bool :=
  let l := bitsOfBytes (phyStream body)
  let p := fieldBits body.length code
  if code then
    let c := coded l
    interleave (p / 64) (c ++ List.replicate (p - c.length) false)
  else l

/-- The header of a frame (R212). -/
def phyHeader (len rate : Nat) (code : Bool) : List Byte :=
  let h := [BitVec.ofNat 8 len, BitVec.ofNat 8 (rate + 8 * code.toNat)]
  h ++ [crc8 h]

/-! ## Symbols (R209, R210, R211) -/

/-- The outer deviation of a RATE, in units of 100 Hz. -/
def deviation (rate : Nat) : Int :=
  if rate = 0 then 6 else if rate = 1 then 12 else if rate = 4 then 48 else 24

/-- The inner deviation of a 4-FSK RATE. -/
def innerDeviation (rate : Nat) : Int := if rate = 4 then 16 else 8

/-- A bit in 2-FSK. -/
def symbol2 (rate : Nat) (b : Bool) : Int := if b then deviation rate else -deviation rate

/-- A dibit in 4-FSK, its high bit first. -/
def symbol4 (rate : Nat) (hi lo : Bool) : Int :=
  match hi, lo with
  | false, true => deviation rate
  | false, false => innerDeviation rate
  | true, false => -innerDeviation rate
  | true, true => -deviation rate

/-- Bits in pairs. -/
def symbols4 (rate : Nat) : List Bool → List Int
  | a :: b :: l => symbol4 rate a b :: symbols4 rate l
  | _ => []

/-- The symbols of a frame in the order on air: preamble, sync word, header, payload field. -/
def phySymbols (sync : Word) (rate : Nat) (code : Bool) (body : List Byte) : List Int :=
  ((bitsOfWord 0xAAAAAAAA#32 ++ bitsOfWord sync ++
      coded (bitsOfBytes (phyHeader body.length rate code))).map (symbol2 rate)) ++
    (if 3 ≤ rate then symbols4 rate (phyField code body) else (phyField code body).map (symbol2 rate))

/-! ## Reception (R212, R213, R215, R217) -/

/-- The symbol rate of a RATE code (R209). -/
def symbolRate (rate : Nat) : Nat :=
  if rate = 0 then 1200 else if rate = 1 then 2400 else if rate = 4 then 9600 else 4800

end Sys2Proof.Machine

namespace Sys2Proof

open Sys2Proof.Machine

/-- LEN. -/
def PhyFrame.len (f : PhyFrame) : Nat := f.h0.toNat

/-- RATE. -/
def PhyFrame.rate (f : PhyFrame) : Nat := f.h1.toNat % 8

/-- CODE. -/
def PhyFrame.code (f : PhyFrame) : Bool := f.h1.getLsbD 3

/-- A receiver that listens to `baud` discards the frame at its header (R212). -/
def PhyFrame.badHeader (f : PhyFrame) (baud : Nat) : Bool :=
  decide (crc8 [f.h0, f.h1] ≠ f.h2) || decide (f.len = 0) || decide (16 ≤ f.h1.toNat) ||
    decide (4 < f.rate) || decide (symbolRate f.rate ≠ baud)

/-- The coded bits of the payload, without the pad (R215). -/
def PhyFrame.codedBits (f : PhyFrame) : List Bool :=
  (interleave (fieldBits f.len true / 64) f.field).take (16 * f.len + 76)

/-- The decoded stream: LEN bytes and the CRC-32. Where the hard decisions are a code word it is their input; where they
are not, what a decoder with soft decisions makes of them is not for the specification to say, and it is the operand.
(DEDUCED, safe: assumption 107.) -/
def PhyFrame.stream (f : PhyFrame) : List Byte :=
  if f.code then
    match unconvolve Six.zero f.codedBits with
    | some l => bytesOfBits (f.len + 4) l
    | none => f.soft
  else bytesOfBits (f.len + 4) f.field

/-- The payload of the PHY frame. -/
def PhyFrame.body (f : PhyFrame) : List Byte := f.stream.take f.len

/-- The CRC-32 fails (R213, R216). -/
def PhyFrame.badCrc (f : PhyFrame) : Bool := decide (f.stream.drop f.len ≠ bytesOf (crc32 f.body))

/-- LQI: the share of the hard decisions of the coded bits that agree with the decoded stream encoded again; 0 for an
uncoded frame (R217). -/
def PhyFrame.lqi (f : PhyFrame) : Nat :=
  if f.code then
    let n := 16 * f.len + 76
    let e := ((f.codedBits.zip (coded (bitsOfBytes f.stream))).filter fun x => x.1 != x.2).length
    255 * (n - e) / n
  else 0

end Sys2Proof
end

