-- ==== Sys2Proof/Machine/Touch.lean ====
section
/-! DEFINITION. The touch panel (R349-R363): scans, the baseline and touch decision, suspension by the
radio, and register accesses. -/

namespace Sys2Proof.Machine

open Sys2Proof

def Tch.mode (t : Tch) : Nat := bits t.ctl 0 2

/-- DQI synchronisation is enabled in a setting of TCH_SYNC (R353). -/
def syncOn (w : Word) : Bool := bit w 0

def Tch.elAt (t : Tch) (k : Nat) : Electrode := vget t.el k Electrode.reset

/-- A gain or integration code raised for glove or hover, capped at 3 (R350). -/
def raised (code up : Nat) : Nat := min 3 (code + up)

/-- Electrode `k` is claimed for the touch function by a core (R349). -/
def touchClaimed (p : Pin) (k : Nat) : Bool :=
  decide (p.func (72 + k) = 7) && decide (p.owner (72 + k) < 4)

/-- The period in force, 0-3 for P0-P3 (R352). -/
def Tch.rate (t : Tch) (asleep : Bool) : Nat :=
  if asleep then 3
  else if t.quiet < bits t.idle 0 8 * 32768 then 0
  else if t.quiet < bits t.idle 8 8 * 32768 then 1
  else 2

/-- The period in force in Porch ticks. -/
def Tch.period (t : Tch) (asleep : Bool) : Nat :=
  let r := t.rate asleep
  bits (if r < 2 then t.per01 else t.per23) (16 * (r % 2)) 16

/-- The gain code of electrode `k`, 24 for the proximity channel, under settings of CTL and MEAS (R350). -/
def gainCode (ctl meas : Word) (k : Nat) : Nat :=
  if k = 24 then raised (bits meas 4 2) (2 * bits ctl 3 1) else raised (bits meas 0 2) (bits ctl 2 1)

/-- TCH_STAT. -/
def Tch.status (t : Tch) (asleep : Bool) : Word :=
  (t.stat &&& 0x2FF#32) ||| flagAt 8 t.scan.isSome ||| field 10 (t.rate asleep)

/-- TCH_TOUCH. -/
def Tch.touchBits (t : Tch) : Word :=
  BitVec.ofNat 32 ((indices 25 fun k => (t.elAt k).touched).foldl (fun n k => n + 2 ^ k) 0)

/-! ## Scans (R351-R353, R358) -/

/-- The electrodes of a scan: those enabled, and in Bivouac those of TCH_BIVEN too; 24 is proximity
(R351, R359). -/
def scanSet (t : Tch) (asleep : Bool) : List Nat :=
  let el := if asleep then t.en &&& t.biven else t.en
  let prox := bit t.ctl 4 && (!asleep || bit t.biven 24)
  indices 24 (fun k => bit el k) ++ (if prox then [24] else [])

/-- A scan starts: it takes its settings, and skips electrodes that are not claimed (R349, R362). -/
def Tch.startScan (t : Tch) (p : Pin) (asleep : Bool) : Tch :=
  let all := scanSet t asleep
  let skip := fun k => decide (k < 24) && !asleep && !touchClaimed p k
  let work := Vector.ofFn fun k : Fin 25 =>
    if (k : Nat) ∈ all ∧ skip k then { t.el[k] with raw := 0 } else t.el[k]
  { t with
    due := false
    age := 0
    wait := none
    stat := if all.any skip then setBit t.stat 6 true else t.stat
    scan := some
      { left := all.filter fun k => !skip k
        cfg := ⟨t.ctl, t.meas, t.thr, t.pthr, t.idle, t.sync⟩
        burst := bits t.sync 16 6
        waiting := false
        work := work
        asked := 0#25 } }

/-- Scanning waits for DQI edges. -/
def Tch.synced (t : Tch) (asleep : Bool) : Bool := syncOn t.sync && !t.free && !asleep

/-- A due scan starts at once when nothing holds it: no scan runs, the radio does not suspend it, and it
waits for no edge (R352, R353, R357). -/
def Tch.tryStart (t : Tch) (p : Pin) (asleep : Bool) : Tch :=
  if t.due && t.scan.isNone && !t.susp && !t.synced asleep then t.startScan p asleep else t

/-- A scan is requested or comes due (R352, R358). -/
def Tch.request (t : Tch) (p : Pin) (asleep : Bool) : Tch :=
  ({ t with due := true }).tryStart p asleep

/-- The TCH_SYNC setting that the scan in progress, or the next one, takes (R362). -/
def Tch.syncCfg (t : Tch) : Word :=
  match t.scan with
  | some sc => sc.cfg.sync
  | none => t.sync

/-- A scan has ended or is abandoned: the next scheduled one is due one period, as it is in force now, after the start
of this one (R352). -/
def Tch.schedule (t : Tch) (asleep : Bool) : Tch :=
  if t.mode = 1 then
    (if t.period asleep ≤ t.age then { t with due := true } else { t with wait := some (t.period asleep) })
  else t

/-- A Porch tick: I and the age of the last scan count on, and a scheduled scan comes due (R352). -/
def Tch.tick (t : Tch) (p : Pin) (asleep : Bool) : Tch :=
  let u := { t with
    now := t.now + 1
    quiet := if t.touchBits = 0#32 then t.quiet + 1 else t.quiet
    age := t.age + 1 }
  if u.mode = 1 && u.wait.any (fun w => decide (w ≤ u.age)) then { u with wait := none }.request p asleep else u

/-- A DQI edge, or the start that it gives (R353). -/
def Tch.dqi (t : Tch) (p : Pin) : Tch :=
  let u := { t with stat := setBit t.stat 9 true }
  if t.free then { u with free := false }
  else
    match t.scan with
    | some sc => if sc.waiting then
        { u with scan := some { sc with waiting := false, burst := bits sc.cfg.sync 16 6 } } else u
    | none => if t.due && !t.susp then u.startScan p false else u

/-- No DQI edge within TMO of a wait (R353). -/
def Tch.dqiTimeout (t : Tch) (p : Pin) : Tch :=
  let u := { t with stat := setBit (setBit t.stat 2 true) 9 false, free := true }
  match t.scan with
  | some sc => if sc.waiting then { u with scan := some { sc with waiting := false, burst := 0 } } else t
  | none => if t.due && !t.susp then u.startScan p false else t

/-! ## Baseline and touch decision (R354, R355) -/

/-- What one measurement makes of an electrode, and the flags it sets. -/
structure Touched where
  el : Electrode
  stuck : Bool
  snap : Bool
  deriving DecidableEq, Repr

/-- The decision of R354. `touch`, `hyst` and `neg` are the thresholds in force (`neg` none for the
proximity channel), `deb` the confirming scans, `held` tells that MAXT seconds of touch have passed, and `now` is the
island's Porch tick. -/
def decideTouch (e : Electrode) (raw touch hyst : Nat) (neg : Option Nat) (deb : Nat) (held : Bool)
    (now : Nat) : Touched :=
  let d : Int := (raw : Int) - (e.base / 256 : Nat)
  let e := { e with raw := raw }
  let fresh := { e with base := raw * 256, touched := false }
  if e.rebase then ⟨{ fresh with conf := 0, neg := 0, rebase := false }, false, false⟩
  else if e.touched then
    if d < (touch : Int) - hyst then ⟨{ e with touched := false }, false, false⟩
    else if held then ⟨fresh, true, false⟩
    else ⟨e, false, false⟩
  else if (touch : Int) ≤ d then
    (if deb ≤ e.conf + 1 then ⟨{ e with touched := true, conf := 0, neg := 0, since := now }, false, false⟩
     else ⟨{ e with conf := e.conf + 1, neg := 0 }, false, false⟩)
  else
    let e := { e with conf := 0 }
    let below := match neg with
      | none => false
      | some g => decide (d < -(g : Int))
    if below then
      (if e.neg + 1 = 8 then ⟨{ e with base := raw * 256, neg := 0 }, false, true⟩
       else ⟨{ e with neg := e.neg + 1 }, false, false⟩)
    else
      let e := { e with neg := 0 }
      if d < (touch : Int) - hyst then
        ⟨{ e with base := ((e.base : Int) + ((raw : Int) * 256 - e.base).tdiv 256).toNat }, false, false⟩
      else ⟨e, false, false⟩

/-- Electrode `e` has been touched for MAXT seconds, in a setting of TCH_IDLE (R355). -/
def Electrode.overdue (e : Electrode) (idle : Word) (now : Nat) : Bool :=
  decide (bits idle 16 8 ≠ 0) && decide (bits idle 16 8 * 32768 ≤ now - e.since)

/-- The electrode that the scan in progress measures (R350). -/
def Tch.measuring (t : Tch) : Option Nat := t.scan.bind fun sc => if sc.waiting then none else sc.left.head?

/-- A measurement of the scan in progress ends; `count` is the count that the capacitance gives at a gain of 1 (R350,
R353, R354). -/
def Tch.measured (t : Tch) (asleep : Bool) (count : Nat) : Tch :=
  match t.scan with
  | none => t
  | some sc =>
    match sc.left with
    | [] => t
    | k :: left =>
      if sc.waiting then t
      else
        let gained := count * 2 ^ gainCode sc.cfg.ctl sc.cfg.meas k
        let raw := min gained 0xFFFF
        let e := vget sc.work k Electrode.reset
        let thr := if k = 24 then sc.cfg.pthr else sc.cfg.thr
        let deb := if asleep then 1 else bits sc.cfg.ctl 5 2 + 1
        let r := decideTouch e raw (bits thr 0 12) (bits thr 12 8)
          (if k = 24 then none else some (bits thr 20 8)) deb (e.overdue sc.cfg.idle t.now) t.now
        let burst := sc.burst - 1
        let wait := syncOn sc.cfg.sync && !t.free && !asleep && decide (bits sc.cfg.sync 16 6 ≠ 0) && decide (burst = 0) &&
          !left.isEmpty
        let stat := if 0xFFFF < gained then setBit t.stat 5 true else t.stat
        let stat := if r.stuck then setBit stat 3 true else stat
        let stat := if r.snap then setBit stat 7 true else stat
        { t with
          stat := stat
          stuck := if r.stuck && decide (k < 24) then setBit t.stuck k true else t.stuck
          scan := some { sc with left := left, burst := burst, waiting := wait,
                                 work := vset sc.work k r.el } }

/-- The electrodes whose touched state a commit changes. -/
def Tch.changed (t : Tch) (work : Vector Electrode 25) : List Nat :=
  indices 25 fun k => (t.elAt k).touched != (vget work k Electrode.reset).touched

/-- The scan ends and commits (R351, R352); events are the caller's. -/
def Tch.commit (t : Tch) (sc : Scan) : Tch :=
  let ch := t.changed sc.work
  let el := Vector.ofFn fun k : Fin 25 =>
    { sc.work[k] with rebase := sc.work[k].rebase || bit sc.asked k }
  let stat := setBit t.stat 1 true
  { t with
    el := el
    scan := none
    stat := if ch.isEmpty then stat else setBit stat 0 true
    chg := ch.foldl (fun w k => setBit w k true) t.chg
    quiet := if ch.isEmpty then t.quiet else 0 }

/-- A scan in progress is abandoned: it commits nothing (R351, R357). -/
def Tch.abandon (t : Tch) : Tch :=
  match t.scan with
  | none => t
  | some sc =>
    ({ t with
      scan := none
      el := Vector.ofFn fun k : Fin 25 =>
        { t.el[k] with rebase := t.el[k].rebase || bit sc.asked k } }).schedule false

/-- The radio suspends scanning (R357). -/
def Tch.suspend (t : Tch) : Tch :=
  let u := { t.abandon with susp := true }
  if t.scan.isSome then { u with stat := setBit u.stat 4 true } else u

/-- The suspension ends (R357). -/
def Tch.resume (t : Tch) (p : Pin) (asleep : Bool) : Tch :=
  ({ t with susp := false }).tryStart p asleep

/-! ## Register accesses (R352, R356, R358, R363) -/

/-- A rebase is requested at the next measurement of each channel of a set (R356, R362). -/
def Tch.askRebase (t : Tch) (m : BitVec 25) : Tch :=
  match t.scan with
  | some sc => { t with scan := some { sc with asked := sc.asked ||| m } }
  | none => { t with el := Vector.ofFn fun k : Fin 25 =>
      { t.el[k] with rebase := t.el[k].rebase || bit m k } }

/-- The channels whose gain or integration differs between two settings of CTL and MEAS (R356). -/
def gainChange (c1 m1 c2 m2 : Word) : BitVec 25 :=
  let el := fun c m => (raised (bits m 0 2) (bits c 2 1), raised (bits m 2 2) (bits c 2 1))
  let px := fun c m => (raised (bits m 4 2) (2 * bits c 3 1), raised (bits m 6 2) (2 * bits c 3 1))
  (if el c1 m1 ≠ el c2 m2 then 0xFFFFFF#25 else 0#25) |||
    (if px c1 m1 ≠ px c2 m2 then 0x1000000#25 else 0#25)

/-- A write to TCH_CTL. -/
def Tch.writeCtl (t : Tch) (v : Word) : Tch :=
  let v := (if bits v 0 2 = 3 then setBits v 0 2 0 else v) &&& 0x7F#32
  let u := { t with ctl := v }.askRebase (gainChange t.ctl t.meas v t.meas)
  if u.mode = 0 then
    { u.abandon with
      due := false
      quiet := 0
      wait := none
      el := u.abandon.el.map fun e => { e with touched := false } }
  else
    let w := if u.mode = 1 then u else { u with wait := none }
    if t.mode = 0 then { w with quiet := 0 }.askRebase 0x1FFFFFF#25 else w

/-- A 32-bit register of two periods, in which a period of 0 stores 1 (R352). -/
def periods (v : Word) : Word :=
  let v := if bits v 0 16 = 0 then setBits v 0 16 1 else v
  if bits v 16 16 = 0 then setBits v 16 16 1 else v

/-- A write to TCH_CMD (R356, R358). -/
def Tch.writeCmd (t : Tch) (p : Pin) (v : Word) : Tch :=
  let t := if bit v 1 then t.askRebase 0x1FFFFFF#25 else t
  if bit v 0 ∧ t.mode ≠ 0 ∧ t.scan.isNone then t.request p false else t

/-- A write to the TCH block. The first scheduled scan is due when MODE becomes 1 (DEDUCED, unsafe: assumption 63). -/
def Tch.write (t : Tch) (p : Pin) (off : Nat) (v : Word) : Tch :=
  if off = 0 then
    let u := t.writeCtl v
    if u.mode = 1 ∧ t.mode ≠ 1 then u.request p false else u
  else if off = 4 then { t with stat := writeW1C 0xFF#32 t.stat v }
  else if off = 8 then { t with ie := v &&& 0xFF#32 }
  else if off = 0xC then t.writeCmd p v
  else if off = 0x10 then
    let w := v &&& 0xFFFFFF#32
    { t with en := w }.askRebase ((w &&& ~~~t.en).setWidth 25)
  else if off = 0x14 then { t with biven := v &&& 0x1FFFFFF#32 }
  else if off = 0x18 then
    { t with meas := v &&& 0xFF#32 }.askRebase (gainChange t.ctl t.meas t.ctl (v &&& 0xFF#32))
  else if off = 0x1C then { t with thr := v &&& 0xFFFFFFF#32 }
  else if off = 0x20 then { t with pthr := v &&& 0xFFFFF#32 }
  else if off = 0x24 then { t with per01 := periods v }
  else if off = 0x28 then { t with per23 := periods v }
  else if off = 0x2C then
    let w := v &&& 0xFFFFFF#32
    { t with idle := if bits w 8 8 < bits w 0 8 then setBits w 8 8 (bits w 0 8) else w }
  else if off = 0x30 then
    let w := v &&& 0x3FFF03#32
    { t with sync := if bits w 8 8 = 0 then setBits w 8 8 1 else w }
  else if off = 0x44 then { t with chg := writeW1C 0x1FFFFFF#32 t.chg v }
  else if off = 0x48 then { t with stuck := writeW1C 0xFFFFFF#32 t.stuck v }
  else t

/-- RAW and BASE of a channel. -/
def elWord (e : Electrode) : Word := BitVec.ofNat 32 (e.raw + e.base / 256 * 65536)

/-- A read of the TCH block. -/
def Tch.read (t : Tch) (asleep : Bool) (off : Nat) : Word :=
  if off = 0 then t.ctl
  else if off = 4 then t.status asleep
  else if off = 8 then t.ie
  else if off = 0x10 then t.en
  else if off = 0x14 then t.biven
  else if off = 0x18 then t.meas
  else if off = 0x1C then t.thr
  else if off = 0x20 then t.pthr
  else if off = 0x24 then t.per01
  else if off = 0x28 then t.per23
  else if off = 0x2C then t.idle
  else if off = 0x30 then t.sync
  else if off = 0x40 then t.touchBits
  else if off = 0x44 then t.chg
  else if off = 0x48 then t.stuck
  else if off = 0x4C then elWord (t.elAt 24)
  else if 0x80 ≤ off ∧ off < 0xE0 then elWord (t.elAt ((off - 0x80) / 4))
  else 0#32

/-- The requests of sources 38 and 39 (R360). -/
def Tch.request38 (t : Tch) : Bool := bit (t.stat &&& t.ie) 0
def Tch.request39 (t : Tch) : Bool := anyBit (t.stat &&& t.ie &&& 0xFE#32)

/-- The core domain sleeps, so the island scans at P3 (R352, R359). -/
def State.asleep (s : State) : Bool := decide (s.pwr.state = .bivouac)

end Sys2Proof.Machine
end

