-- ==== Sys2Proof/Machine/Radio.lean ====
section
/-! DEFINITION. The radio (R208-R226): configuration and admission checks, the transmit sequence,
reception, and register accesses. -/

namespace Sys2Proof.Machine

open Sys2Proof

def Rf.flag (r : Rf) (i : Nat) : Rf := { r with stat := setBit r.stat i true }

def Rf.active (r : Rf) : Bool := r.rxOn || r.txOn

/-- RF_STAT. -/
def Rf.status (r : Rf) : Word := setBit (setBit r.stat 0 r.active) 1 r.txOn

/-! ## Frames and times (R209, R211) -/

/-- Symbols of a frame: preamble, sync word and header, then the payload field (R211). -/
def frameSymbols (rate len : Nat) (code : Bool) : Nat :=
  124 + (if 3 ≤ rate then fieldBits len code / 2 else fieldBits len code)

/-- t_air in ms times the symbol rate (R211). -/
def airTime (rate len : Nat) (code : Bool) : Nat := 1000 * frameSymbols rate len code

/-- t_tx in us times the symbol rate (R220). -/
def txTime (r : Rf) (rate len : Nat) (code : Bool) : Nat :=
  1000000 * frameSymbols rate len code +
    (2000 + (if bit r.ctl 1 then bits r.txpwr 16 8 else 0)) * symbolRate rate

def ceilDiv (a b : Nat) : Nat := (a + b - 1) / b

/-- E_frame in uAh (R220). -/
def frameEnergy (r : Rf) (rate len : Nat) (code : Bool) : Nat :=
  ceilDiv (bits r.txpwr 8 8 * txTime r rate len code) (7200000 * symbolRate rate)

/-- ceil(t_tx) in ms (R221). -/
def frameDuty (r : Rf) (rate len : Nat) (code : Bool) : Nat :=
  ceilDiv (txTime r rate len code) (1000 * symbolRate rate)

/-! ## Configuration (R208, R209) -/

/-- The carrier and spacing are allowed (R208). -/
def carrierOk (r : Rf) : Bool :=
  let ch := bits r.freq 0 18
  let spc := bits r.freq 20 2
  let low := (decide (23680 ≤ ch) && decide (ch ≤ 27840)) ||
    (decide (64000 ≤ ch) && decide (ch ≤ 76800))
  let high := decide (137920 ≤ ch) && decide (ch ≤ 153600)
  if spc = 0 then low
  else if spc = 1 then (low || high) && decide (ch % 2 = 0)
  else if spc = 2 then (low || high) && decide (ch % 4 = 0)
  else false

/-- The rate may be used at the spacing (R209). -/
def rateOk (spc rate : Nat) : Bool :=
  if spc = 0 then decide (rate ≤ 1) else if spc = 1 then decide (rate ≤ 3) else decide (rate ≤ 4)

/-- A request at a rate is configured (R208, R209, R226). -/
def txConfigOk (r : Rf) (rate : Nat) : Bool :=
  bit r.ctl 0 && carrierOk r && rateOk (bits r.freq 20 2) rate

/-- The 2-FSK rate of the symbol rate that RXBAUD names, or the 4-FSK rate where there is no other (R209, R216). -/
def Rf.rxRate (r : Rf) : Nat := if bits r.rate 4 2 = 3 then 4 else bits r.rate 4 2

/-- The carrier offsets that the receiver acquires, in units of 10 Hz: 40 % of the spacing to either side (R216). -/
def Rf.acquires (r : Rf) (fofs : BitVec 16) : Bool := decide (fofs.toInt.natAbs ≤ 250 * 2 ^ bits r.freq 20 2)

/-- The word differs from RF_SYNC in at most TOL bits (R216). -/
def Rf.syncMatch (r : Rf) (w : Word) : Bool :=
  decide ((indices 32 fun i => bit (w ^^^ r.sync) i).length ≤ bits r.rate 12 2)

/-- Some 100 µs mean of the listen time exceeds THR (R218). A listen time that is no whole number of means holds one
less, and at least one. (DESIGN CHOICE, unsafe: assumption 109.) -/
def Rf.loud (r : Rf) (means : List Byte) : Bool :=
  (means.take (max 1 (bits r.lbt 16 16 / 100))).any fun m => (BitVec.ofNat 8 (bits r.lbt 8 8)).slt m

/-! ## Transmission (R218-R223, R225) -/

/-- What became of a frame that the network engine offered. -/
inductive Offer where
  | sent
  | config
  | duty
  | energy
  | busy
  deriving DecidableEq, Repr

/-- The energy check (R220). -/
def energyOk (h : Hrv) (main : Bool) (e : Nat) : Bool := main || decide (h.blz + e ≤ h.lchg)

/-- A frame of LEN bytes is offered: configuration, duty credit, energy, and listen-before-talk, whose
finding is `lbt` where it runs (R218, R220, R221, R223). -/
def Rf.offer (r : Rf) (h : Hrv) (main : Bool) (rate len : Nat) (code lbt : Bool) : Rf × Offer :=
  if !txConfigOk r rate then (r.flag 6, .config)
  else
    let need := frameDuty r rate len code
    let lim := bits r.duty 0 10
    if lim ≠ 0 ∧ r.credit < need then (r.flag 5, .duty)
    else
      let e := frameEnergy r rate len code
      let r := { r with adm := setBits r.adm 16 12 (min e 4095) }
      if !energyOk h main e then (r.flag 4, .energy)
      else
        let r := if lim = 0 then r else { r with credit := r.credit - need }
        if lbt then (r.flag 3, .busy)
        else
          let r := if r.rxOn && r.locked then r.flag 8 else r
          ({ r with txOn := true, begun := false, locked := false, closing := false, rxOn := false }, .sent)

/-- Step 4 to step 6 of the transmit sequence: TR_SW and PA_EN go high, scanning is suspended, and producer
178 fires (R219, R223, R357). (DEDUCED, unsafe: assumption 66.) -/
def State.txBegin (s : State) : State :=
  if s.per.rf.txOn && !s.per.rf.begun then
    (((s.onRf fun r => { r with begun := true, trSw := true, paEn := bit r.ctl 1 }).onTch
      Tch.suspend).fire 178)
  else s

/-- The PA is off: TR_SW and PA_EN go low (R223, R225). -/
def Rf.paOff (r : Rf) : Rf := { r with txOn := false, begun := false, trSw := false, paEn := false }

/-- The PA is off again: TR_SW and PA_EN go low, and scanning resumes (R223, R357). -/
def State.txOver (s : State) : State :=
  let s := s.onRf Rf.paOff
  s.onTch fun t => t.resume s.per.pin s.asleep

/-- A request to receive at the symbol rate of a RATE (R208, R209, R216, R224). A receiver that already listens at that
symbol rate goes on, and its window has not ended. -/
def Rf.listenAt (r : Rf) (rate : Nat) : Rf :=
  if r.rxOn && decide (r.baud = symbolRate rate) then { r with closing := false }
  else if txConfigOk r rate then
    { r with rxOn := true, locked := false, closing := false, baud := symbolRate rate }
  else r.flag 6

/-- A request to receive (R216). -/
def Rf.listen (r : Rf) : Rf := r.listenAt r.rxRate

/-- The listen window ends; a frame in progress extends it to the frame's end (R224). -/
def Rf.close (r : Rf) : Rf := if r.rxOn && r.locked then { r with closing := true } else { r with rxOn := false }

/-- The frame in progress ends, and with it a window that it has extended (R224). -/
def Rf.unlock (r : Rf) : Rf := { r with locked := false, rxOn := r.rxOn && !r.closing, closing := false }

/-- RF_RXINFO of a frame passed on (R217). -/
def Rf.passOn (r : Rf) (f : PhyFrame) : Rf :=
  { r.unlock with
    rxinfo := BitVec.ofNat 32 (f.rssi.toNat + 256 * f.lqi + 65536 * f.fofs.toNat) }

/-- A discarded frame counts in RF_RXERR (R212, R216). -/
def Rf.reject (r : Rf) (crc : Bool) : Rf :=
  { r.unlock with
    rxerr := setBits r.rxerr (if crc then 16 else 0) 16
      (satAdd 0xFFFF (bits r.rxerr (if crc then 16 else 0) 16) 1) }

/-! ## Register accesses (R219, R225, R226) -/

/-- A configuration write: discarded while the radio is active (R225). `k`: 0 FREQ, 1 RATE, 2 SYNC, 3
TXPWR, 4 LBT. -/
def Rf.configWrite (r : Rf) (k : Nat) (v : Word) : Rf :=
  if r.active then r.flag 7
  else if k = 0 then { r with freq := v &&& 0x133FFFF#32 }
  else if k = 1 then { r with rate := v &&& 0x3137#32 }
  else if k = 2 then { r with sync := v }
  else if k = 3 then
    let v := if 24 < bits v 0 5 then setBits v 0 5 24 else v
    { r with txpwr := v &&& 0xFFFF1F#32 }
  else
    let v := if bits v 16 16 = 0 then setBits v 16 16 100 else v
    { r with lbt := v &&& 0xFFFFFF01#32 }

/-- A write to RF_CTL; PA_EN and TR_SW are driven from the first write of 1 to EN (R219). -/
def Rf.writeCtl (r : Rf) (v : Word) : Rf :=
  { r with ctl := v &&& 3#32, driven := r.driven || bit v 0 }

/-- A write to the RF block. -/
def Rf.write (r : Rf) (off : Nat) (v : Word) : Rf :=
  if off = 0 then r.writeCtl v
  else if off = 4 then { r with stat := writeW1C 0x3FC#32 r.stat v }
  else if off = 8 then { r with ie := v &&& 0x3FC#32 }
  else if 0x10 ≤ off ∧ off ≤ 0x20 then r.configWrite ((off - 0x10) / 4) v
  else if off = 0x24 then
    { r with adm := setBits r.adm 0 12 (max 2800 (min 3600 (bits v 0 12))) }
  else if off = 0x28 then { r with duty := BitVec.ofNat 32 (min 1000 (bits v 0 10)) }
  else r

/-- A read of the RF block; `now` is the RSSI that the receiver measures at the moment (R226). -/
def Rf.read (r : Rf) (now : Byte) (off : Nat) : Word :=
  if off = 0 then r.ctl
  else if off = 4 then r.status
  else if off = 8 then r.ie
  else if off = 0x10 then r.freq
  else if off = 0x14 then r.rate
  else if off = 0x18 then r.sync
  else if off = 0x1C then r.txpwr
  else if off = 0x20 then r.lbt
  else if off = 0x24 then r.adm
  else if off = 0x28 then r.duty
  else if off = 0x2C then BitVec.ofNat 32 r.credit
  else if off = 0x30 then r.aborts
  else if off = 0x34 then r.rxinfo
  else if off = 0x38 then r.rxerr
  else if off = 0x3C then (if r.rxOn then now.setWidth 32 else 0x80#32)
  else 0#32

/-- What a read of the RF block changes: RC registers clear (R226). -/
def Rf.readEffect (r : Rf) (off : Nat) : Rf :=
  if off = 0x30 then { r with aborts := 0#32 }
  else if off = 0x38 then { r with rxerr := 0#32 }
  else r

/-- One second of duty credit (R221). -/
def Rf.accrue (r : Rf) : Rf :=
  let lim := bits r.duty 0 10
  { r with credit := max r.credit (min (r.credit + lim) (lim * 3600)) }

/-- The request of source 40 (R226). -/
def Rf.request (r : Rf) : Bool := anyBit (r.stat &&& r.ie &&& 0x3FC#32)

end Sys2Proof.Machine
end

