-- ==== Sys2Proof/Machine/Serial.lean ====
section
/-! DEFINITION. The four serial lines (R332-R348): queues, reception, transmission, RS-485 control and
register accesses. -/

namespace Sys2Proof.Machine

open Sys2Proof

def State.uaAt (s : State) (n : Nat) : Ua := vget s.per.ua n Ua.reset

def Ua.en (u : Ua) : Bool := bit u.ctl 0
def Ua.rxen (u : Ua) : Bool := bit u.ctl 1
def Ua.legacy (u : Ua) : Bool := bit u.ctl 3
def Ua.txen (u : Ua) : Bool := bit u.ctl 2
def Ua.txhold (u : Ua) : Bool := bit u.ctl 10
def Ua.deen (u : Ua) : Bool := bit u.ctl 11
def Ua.hdx (u : Ua) : Bool := bit u.ctl 13

/-- Queue depths (R340). -/
def Ua.rxDepth (u : Ua) : Nat := 16 * 2 ^ bits u.qcfg 0 2
def Ua.txDepth (u : Ua) : Nat := 16 * 2 ^ bits u.qcfg 2 2

/-- The trigger that a code sets for a depth (R343). -/
def trigger (code depth : Nat) : Nat :=
  if code = 0 then 1 else if code = 1 then depth / 4 else if code = 2 then depth / 2
  else if code = 3 then 3 * depth / 4 else depth - 2

/-- The receive and transmit triggers are met (R343). -/
def Ua.rxtrg (u : Ua) : Bool :=
  u.en && decide (trigger (bits u.qcfg 4 3) u.rxDepth ≤ u.rxq.length)
def Ua.txtrg (u : Ua) : Bool :=
  u.en && decide (u.txq.length ≤ trigger (bits u.qcfg 8 3) u.txDepth)

def Ua.divider (u : Ua) : BitVec 16 := u.div.setWidth 16

/-- UAn_STAT (R348). -/
def Ua.status (u : Ua) : Word :=
  (u.stat &&& 0xFC#32) ||| flagAt 0 u.rxtrg ||| flagAt 1 u.txtrg |||
    flagAt 8 (u.divTx != u.divider || u.divRx != u.divider) |||
    flagAt 9 (u.shift.isSome || u.lagging) ||| flagAt 10 u.rxBusy

/-- A 32-bit register of two 16-bit counts: 1 more in the half that starts at bit `lo`, saturating. -/
def satHalf (w : Word) (lo : Nat) : Word :=
  setBits w lo 16 (satAdd 0xFFFF (bits w lo 16) 1)

/-! ## The character frame (R332) -/

/-- The number of data bits, 7 to 9. -/
def Ua.dbits (u : Ua) : Nat := 7 + bits u.ctl 4 2

/-- The number of stop bits. -/
def Ua.stopBits (u : Ua) : Nat := if bit u.ctl 9 then 2 else 1

def Ua.hasParity (u : Ua) : Bool := decide (bits u.ctl 6 3 ≠ 0)

/-- The frame length F in bits. -/
def Ua.frameBits (u : Ua) : Nat := 1 + u.dbits + u.hasParity.toNat + u.stopBits

/-- The data bits that a line keeps: 7, 8 or 9 (R341). -/
def Ua.dataBits (u : Ua) (d : BitVec 9) : BitVec 9 := d &&& BitVec.ofNat 9 (2 ^ u.dbits - 1)

/-- The parity bit of the data: even, odd, mark or space. -/
def Ua.parityBit (u : Ua) (d : BitVec 9) : Bool :=
  let odd := decide (((List.range u.dbits).filter fun i => d.getLsbD i).length % 2 = 1)
  if bits u.ctl 6 3 = 1 then odd else if bits u.ctl 6 3 = 2 then !odd else decide (bits u.ctl 6 3 = 3)

/-- PCLK cycles of one bit sent (R333). -/
def Ua.bitTime (u : Ua) : Nat := 16 * u.divTx.toNat

/-- The levels of an entry on the line, each with its PCLK cycles: a character, or a break with one stop bit (R332,
R344). -/
def Ua.frame (u : Ua) (e : BitVec 10) : List (Bool × Nat) :=
  if e.getLsbD 9 then [(false, (u.frameBits + 1) * u.bitTime), (true, u.bitTime)]
  else
    (false, u.bitTime) :: ((List.range u.dbits).map fun i => (e.getLsbD i, u.bitTime)) ++
      (if u.hasParity then [(u.parityBit (e.setWidth 9), u.bitTime)] else []) ++
      [(true, u.stopBits * u.bitTime)]

/-! ## Transmission (R344, R345, R346) -/

/-- The DE lead before the start bit of a character sent from an idle line (R346). A character taken while DE is
still active starts at once (DESIGN CHOICE, unsafe: assumption 115). -/
def Ua.lead (u : Ua) : List (Bool × Nat) :=
  if u.deen && !u.deOn && decide (bits u.de 0 8 ≠ 0) then [(true, bits u.de 0 8 * u.divTx.toNat)] else []

/-- The transmitter takes the next entry when it may (R345). -/
def Ua.pump (u : Ua) : Ua :=
  match u.txq with
  | [] => u
  | e :: r =>
    if u.en && u.txen && u.shift.isNone && (!u.txhold || u.released) then
      { u with
        txq := r
        shift := some e
        line := u.lead ++ u.frame e
        lagging := false
        deOn := u.deen
        released := u.released && !r.isEmpty }
    else u

/-- A write to UAn_TX (R344): an entry is queued, or discarded with TXOVF. -/
def Ua.queueTx (u : Ua) (v : Word) : Ua :=
  if u.txDepth ≤ u.txq.length then { u with stat := setBit u.stat 6 true }
  else
    let first := u.txq.isEmpty
    { u with
      txq := u.txq ++ [(v &&& 0x3FF#32).setWidth 10]
      released := if first && u.relKept then true else u.released
      relKept := if first then false else u.relKept }.pump

/-- A release from consumer 60 + n (R345). -/
def Ua.release (u : Ua) : Ua :=
  if u.txq.isEmpty then { u with relKept := true } else { u with released := true }.pump

/-- The DE lag has run out (R345, R346). -/
def Ua.lagEnd (u : Ua) : Ua :=
  if u.lagging then
    { u with
      lagging := false
      lagLeft := 0
      deOn := false
      stat := if u.txq.isEmpty then setBit u.stat 3 true else u.stat }
  else u

/-- The entry in the transmit shifter has been sent (R334, R345, R346). -/
def Ua.sent (u : Ua) : Ua :=
  if u.shift.isNone then u
  else
    let v := { u with shift := none, line := [], divTx := u.divider }.pump
    if v.shift.isSome then v
    else
      let lag := if v.deen then bits v.de 8 8 * v.divTx.toNat else 0
      let w := { v with lagging := true, lagLeft := lag }
      if lag = 0 then w.lagEnd else w

/-- The transmitter takes a PCLK cycle (R333, R345, R346). -/
def Ua.clockTx (u : Ua) : Ua :=
  match u.line with
  | [] => if u.lagging then (if u.lagLeft ≤ 1 then u.lagEnd else { u with lagLeft := u.lagLeft - 1 }) else u
  | (l, k) :: r =>
    if 1 < k then { u with line := (l, k - 1) :: r }
    else if r.isEmpty then u.sent
    else { u with line := r }

/-! ## Reception (R335-R342) -/

/-- The receiver takes the RX ball: enabled, the ball claimed, and not its own transmission (R346). -/
def Ua.listens (u : Ua) (p : Pin) (n : Nat) : Bool :=
  u.en && u.rxen && rxClaimed p n && !(u.hdx && u.deOn)
where
  /-- The RX ball of line `n` is claimed for it (R395). -/
  rxClaimed (p : Pin) (n : Nat) : Bool :=
    decide (p.func (49 + 4 * n) = 5) && decide (p.owner (49 + 4 * n) < 4)

/-- A start bit is detected (R334, R335); with `high8` it is a false start. -/
def Ua.start (u : Ua) (high8 : Bool) : Ua :=
  { u with divRx := u.divider, brkHold := false, rxBusy := !high8, rx := { u.rx with quiet := 0 } }

/-- A completed character is stored, or lost to a full queue (R341, R342). -/
def Ua.store (u : Ua) (data : BitVec 9) (pe fe brk : Bool) : Ua :=
  let u := { u with
    rxBusy := false, idleArm := true, rx := { u.rx with pos := 0, got := [], quiet := 0 } }
  if u.rxDepth ≤ u.rxq.length then
    { u with stat := setBit u.stat 5 true, errcnt := satHalf u.errcnt 0, lost := true }
  else
    let tag := if u.lost then (if fe || brk then 7 else if pe then 5 else 4)
      else if brk then 6 else (if fe then 2 else 0) + (if pe then 1 else 0)
    let err := pe || fe || brk
    { u with
      rxq := u.rxq ++ [BitVec.ofNat 12 (tag * 512 + data.toNat)]
      lost := false
      stat := if err then setBit u.stat 4 true else u.stat
      errcnt := if err then satHalf u.errcnt 16 else u.errcnt }

/-- What a receiver makes of the samples of a character: the data bits, whether the parity is wrong, and whether a
stop bit read 0 (R332, R341). -/
structure UaChar where
  data : BitVec 9
  pe : Bool
  fe : Bool
  brk : Bool
  deriving DecidableEq, Repr

/-- A character judged from its data bits, its parity sample and the samples of its stop bits: a break when every
sample is 0 (R338). Any stop bit that reads 0 is a framing error (DEDUCED, unsafe: assumption 64). -/
def Ua.judge (u : Ua) (data : BitVec 9) (par stop1 stop2 : Bool) : UaChar :=
  let d := u.dataBits data
  let two := bit u.ctl 9
  { data := d
    pe := u.hasParity && (par != u.parityBit d)
    fe := !stop1 || (two && !stop2)
    brk := decide (d = 0#9) && !(u.hasParity && par) && !stop1 && !(two && stop2) }

/-- A character cut short in its stop bit: stored with FE (R337). -/
def Ua.judgeCut (u : Ua) (data : BitVec 9) (par : Bool) : UaChar :=
  let d := u.dataBits data
  { data := d, pe := u.hasParity && (par != u.parityBit d), fe := true, brk := false }

/-- The data bits among the samples of a character, the start bit first. -/
def Ua.sampledData (u : Ua) (got : List Bool) : BitVec 9 :=
  (List.range u.dbits).foldl (fun (d : BitVec 9) (i : Nat) =>
    if got.getD (1 + i) false then d ||| BitVec.ofNat 9 (2 ^ i) else d) 0#9

/-- The sample of the parity bit, and of stop bit `k`. -/
def Ua.sampledParity (u : Ua) (got : List Bool) : Bool := got.getD (1 + u.dbits) false
def Ua.sampledStop (u : Ua) (got : List Bool) (k : Nat) : Bool := got.getD (1 + u.dbits + u.hasParity.toNat + k) false

/-- The line has been idle for F bit times (R339); the result says that IDLE was set. -/
def Ua.idle (u : Ua) : Ua × Bool :=
  if u.en && u.rxen && u.idleArm && !u.rxBusy then
    ({ u with
      stat := setBit u.stat 2 true, idleArm := false, brkHold := false, rx := { u.rx with quiet := 0 } }, true)
  else (u, false)

/-- A read of UAn_RX: the word, and the line with the entry popped (R344). -/
def Ua.pop (u : Ua) : Word × Ua :=
  match u.rxq with
  | [] => (0#32, u)
  | e :: r => (e.setWidth 32 ||| flagAt 31 true, { u with rxq := r })

/-! ## Register accesses (R333, R334, R340, R347, R348) -/

/-- A write to UAn_CTL. A receiver that is turned off drops the character it was receiving (DESIGN CHOICE, unsafe:
assumption 115). -/
def Ua.writeCtl (u : Ua) (v : Word) : Ua :=
  let v := if bits v 4 2 = 3 then setBits v 4 2 1 else v
  let v := if 5 ≤ bits v 6 3 then setBits v 6 3 0 else v
  let w := { u with ctl := v &&& 0x3FFF#32 }
  if !w.en then
    { w with
      rxq := [], txq := [], shift := none, line := [], rxBusy := false, lagging := false, lagLeft := 0, deOn := false,
      released := false, relKept := false, rx := UaRx.reset,
      divTx := w.divider, divRx := w.divider }
  else
    let w := if w.rxen then w else { w with rxBusy := false, rx := UaRx.reset }
    if !u.en then { w with rxq := [], txq := [] } else w.pump

/-- A write to UAn_DIV (R333, R334, R347). -/
def Ua.writeDiv (u : Ua) (v : Word) : Ua :=
  let d := if v &&& 0xFFFF#32 = 0#32 then 1#32 else v &&& 0xFFFF#32
  let w := { u with div := d }
  if u.shift.isSome then w
  else if u.rxBusy then { w with divTx := w.divider }
  else { w with divTx := w.divider, divRx := w.divider }

/-- A write to UAn_QCFG (R340, R343). -/
def Ua.writeQcfg (u : Ua) (v : Word) : Ua :=
  if u.en then { u with stat := setBit u.stat 7 true }
  else
    let v := if 5 ≤ bits v 4 3 then setBits v 4 3 4 else v
    let v := if 5 ≤ bits v 8 3 then setBits v 8 3 4 else v
    { u with qcfg := v &&& 0x77F#32 }

/-- A write to the block of a line. -/
def Ua.write (u : Ua) (off : Nat) (v : Word) : Ua :=
  if off = 0 then u.writeCtl v
  else if off = 4 then u.writeDiv v
  else if off = 8 then u.writeQcfg v
  else if off = 0xC then { u with de := v &&& 0xFFFF#32 }
  else if off = 0x10 then { u with stat := writeW1C 0xFC#32 u.stat v }
  else if off = 0x14 then { u with ie := v &&& 0xFF#32 }
  else if off = 0x20 then u.queueTx v
  else u

/-- A read of the block of a line. -/
def Ua.read (u : Ua) (off : Nat) : Word :=
  if off = 0 then u.ctl
  else if off = 4 then u.div
  else if off = 8 then u.qcfg
  else if off = 0xC then u.de
  else if off = 0x10 then u.status
  else if off = 0x14 then u.ie
  else if off = 0x18 then BitVec.ofNat 32 (u.rxq.length + 65536 * u.txq.length)
  else if off = 0x1C then u.pop.1
  else if off = 0x24 then u.errcnt
  else 0#32

/-- What a read of a line's block changes (R344, R348). -/
def Ua.readEffect (u : Ua) (off : Nat) : Ua :=
  if off = 0x1C then u.pop.2
  else if off = 0x24 then { u with errcnt := 0#32 }
  else u

/-- The requests of sources 26 + n, 30 + n and 34 + n (R348). -/
def Ua.requestRx (u : Ua) : Bool := anyBit (u.status &&& u.ie &&& 5#32)
def Ua.requestTx (u : Ua) : Bool := anyBit (u.status &&& u.ie &&& 0xA#32)
def Ua.requestErr (u : Ua) : Bool := anyBit (u.status &&& u.ie &&& 0xF0#32)

end Sys2Proof.Machine
end

