-- ==== Sys2Proof/Machine/Timer.lean ====
section
/-! DEFINITION. The twelve timers (R299-R313): ticks, matches, late fires, captures, staggering, register
accesses, and the ball edges that they and the router see (R300, R399). -/

namespace Sys2Proof.Machine

open Sys2Proof

def State.timAt (s : State) (n : Nat) : Tim := vget s.per.tim n Tim.reset

def noChannel : TimCh := ⟨0x7F0000#32, 0#32, 0#32, 0#32, false⟩

def Tim.chan (t : Tim) (k : Nat) : TimCh := vget t.ch k noChannel

def Tim.enabled (t : Tim) : Bool := bit t.ctl 0
def Tim.clock (t : Tim) : Nat := bits t.ctl 4 2
def Tim.prescale (t : Tim) : Nat := bits t.ctl 16 8

/-- The mode of a channel: 0 off, 1 compare, 2 capture. -/
def TimCh.mode (c : TimCh) : Nat := bits c.ctl 0 2

/-- The resynchronised level of a ball; 96-127 read as low (R301). -/
def gateLevel (s : State) (b : Nat) : Bool := decide (b < 96) && bit s.per.pin.inp b

/-- The core whose debug halt a HCORE value names (R311). -/
def haltCore (s : State) (h : Nat) : CoreId :=
  if s.twin then (if h < 2 then 0 else 2) else Fin.ofNat 4 h

/-- Timer `n` is frozen by a debug halt (R311). -/
def timFrozen (s : State) (t : Tim) : Bool :=
  bit t.ctl 1 && s.cores[haltCore s (bits t.ctl 2 2)].halted

/-- The gate lets timer `t` count (R300). -/
def timGate (s : State) (t : Tim) : Bool :=
  !bit t.ctl 8 || (gateLevel s (bits t.inp 0 7) == bit t.ctl 9)

/-- Timer `t` can form a tick, its source apart (R300). -/
def timRuns (s : State) (t : Tim) : Bool := t.enabled && timGate s t && !timFrozen s t

/-! ## What a channel drives -/

/-- The output action of a match (R308). -/
def State.timOutput (s : State) (n : Nat) (c : TimCh) : State :=
  let act := bits c.ctl 2 2
  let b := bits c.ctl 16 7
  if act = 0 then s
  else if b < 96 ∧ s.per.pin.owner b < 4 ∧ s.per.pin.func b = 3 then
    s.driveBall b (actionLevel act (bit s.per.pin.out b))
  else s.onTim n fun t => { t with stat := setBit t.stat 12 true }

/-- The task release of a match or capture (R309). -/
def State.timRelease (s : State) (n k : Nat) (c : TimCh) : State :=
  if bit c.ctl 4 then
    s.makeReady (bits c.ctl 8 6) ⟨2, BitVec.ofNat 32 (4 * n + k)⟩
      (.event s.per.evt.time (96 + 4 * n + k))
  else s

/-- Channel `k` of timer `n` matches or fires late (R303, R304, R308, R309). -/
def State.timMatch (s : State) (n k : Nat) (late : Bool) : State :=
  let c := (s.timAt n).chan k
  let s := s.onTim n fun t =>
    { t with
      stat := let f := setBit t.stat k true; if late then setBit f (8 + k) true else f
      ch := vmod t.ch k fun c => if c.int = 0#32 then c else { c with cmp := c.cmp + c.int } }
  ((s.fire (96 + 4 * n + k)).timOutput n c).timRelease n k c

/-- The channels below `k` that compare and stand at `at_` match, in channel order (R303, R312). -/
def State.timMatches (s : State) (n : Nat) (at_ : Word) : Nat → State
  | 0 => s
  | k + 1 =>
    let s := s.timMatches n at_ k
    let c := (s.timAt n).chan k
    if c.mode = 1 ∧ c.cmp = at_ then s.timMatch n k false else s

/-- The counter of timer `n` steps to `next`: matches, and on a wrap OVF and producer 144 + n; the flag
of the result says that it overflowed (R300, R303). -/
def State.timStepTo (s : State) (n : Nat) (next : Word) : State × Bool :=
  let s := s.onTim n fun t => { t with cnt := next, presc := 0 }
  let wrap := decide (next = 0#32)
  let s := if wrap then
      (s.onTim n fun t => { t with stat := setBit t.stat 4 true }).fire (144 + n)
    else s
  (s.timMatches n next 4, wrap)

/-- One tick of timer `n` (R300). -/
def State.timTick (s : State) (n : Nat) : State × Bool :=
  let t := s.timAt n
  if timRuns s t then
    (if t.presc < t.prescale then (s.onTim n fun t => { t with presc := t.presc + 1 }, false)
     else s.timStepTo n (t.cnt + 1#32))
  else (s, false)

/-- An overflow of TIM0 or TIM2 carries to a partner that counts overflows (R300, R307). -/
def State.timCarry (s : State) (n : Nat) : State :=
  if (n = 0 ∨ n = 2) ∧ (s.timAt (n + 1)).clock = 2 then (s.timTick (n + 1)).1 else s

/-- One tick of timer `n` from its own source, with the carry. -/
def State.timClock (s : State) (n : Nat) : State :=
  let r := s.timTick n
  if r.2 then r.1.timCarry n else r.1

/-- Consumer 48 + n: counter and prescaler to zero (R198, R302). -/
def State.timRestart (s : State) (n : Nat) : State :=
  s.onTim n fun t => { t with cnt := 0#32, presc := 0 }

/-- Consumer 4n + k captures (R305); the channel is in capture mode and its flag is clear. -/
def State.timCapture (s : State) (n k : Nat) : State :=
  let c := (s.timAt n).chan k
  let s := s.onTim n fun t =>
    { t with
      stat := setBit t.stat k true
      ch := vmod t.ch k fun c => { c with cmp := t.cnt } }
  (s.fire (96 + 4 * n + k)).timRelease n k c

/-! ## Register accesses (R302, R304, R306, R307, R313) -/

/-- Compare value `v` lies behind the count within the window of a channel that compares (R304). -/
def TimCh.behind (c : TimCh) (cnt v : Word) : Bool :=
  decide (c.mode = 1) && decide (c.win ≠ 0#32) && decide ((cnt - v).toNat < c.win.toNat)

/-- A compare value takes effect; one that lies behind the count within WIN fires on the next edge (R304). -/
def State.timCmpSet (s : State) (n k : Nat) (v : Word) : State :=
  s.onTim n fun t => { t with ch := vmod t.ch k fun c => { c with cmp := v, late := c.behind t.cnt v } }

/-- The channels below `k` whose compare value lay behind the count fire late (R304). -/
def State.timLate (s : State) (n : Nat) : Nat → State
  | 0 => s
  | k + 1 =>
    let s := s.timLate n k
    let c := (s.timAt n).chan k
    let u := s.onTim n fun t => { t with ch := vmod t.ch k fun c => { c with late := false } }
    if c.late then (if c.mode = 1 then u.timMatch n k true else u) else s

/-- A write of a base to TIMn_STAG, for the channels below `k` (R306). -/
def State.timStag (s : State) (n : Nat) (b i0 : Word) : Nat → State
  | 0 => s
  | k + 1 =>
    let s := s.timStag n b i0 k
    if ((s.timAt n).chan k).mode = 1 then
      (s.onTim n fun t => { t with ch := vmod t.ch k fun c => { c with int := i0 } }).timCmpSet n k
        (b + BitVec.ofNat 32 (k * (i0.toNat / 4)))
    else s

/-- What TIMn_CTL stores (R307, R313), and whether CLK was replaced. -/
def timCtlValue (n : Nat) (v : Word) : Word × Bool :=
  let clk := bits v 4 2
  let bad := decide (clk = 3) || (decide (clk = 2) && decide (n ≠ 1 ∧ n ≠ 3))
  let v := if bad then setBits v 4 2 0 else v
  let v := if bits v 6 2 = 0 then setBits v 6 2 1 else v
  (v &&& 0xFF03FF#32, bad)

/-- A write to TIMn_CTL. -/
def Tim.writeCtl (t : Tim) (n : Nat) (v : Word) : Tim :=
  let r := timCtlValue n v
  { t with ctl := r.1, stat := if r.2 then setBit t.stat 13 true else t.stat }

/-- A write to a register of channel `k`, at offset `r` from its CTL. -/
def State.timChWrite (s : State) (n k r : Nat) (v : Word) : State :=
  let upd := fun f => s.onTim n fun t => { t with ch := vmod t.ch k f }
  if r = 0 then
    let v := if bits v 0 2 = 3 then setBits v 0 2 0 else v
    upd fun c => { c with ctl := v &&& 0x7F3F1F#32 }
  else if r = 4 then s.timCmpSet n k v
  else if r = 8 then upd fun c => { c with int := v }
  else upd fun c => { c with win := v }

/-- A write to the block of timer `n`. -/
def State.timWrite (s : State) (n off : Nat) (v : Word) : State :=
  if off = 0 then s.onTim n fun t => t.writeCtl n v
  else if off = 4 then s.onTim n fun t => { t with stat := writeW1C 0x3F1F#32 t.stat v }
  else if off = 8 then s.onTim n fun t => { t with ie := v &&& 0x301F#32 }
  else if off = 0xC then s.onTim n fun t => { t with cnt := v, presc := 0 }
  else if off = 0x14 then s.onTim n fun t => { t with inp := v &&& 0x7F7F#32 }
  else if off = 0x18 then s.timStag n v ((s.timAt n).chan 0).int 4
  else if 0x20 ≤ off ∧ off < 0x60 then s.timChWrite n ((off - 0x20) / 16) (off % 16) v
  else s

/-- A read of the block of a timer. -/
def Tim.read (t : Tim) (off : Nat) : Word :=
  if off = 0 then t.ctl
  else if off = 4 then t.stat
  else if off = 8 then t.ie
  else if off = 0xC then t.cnt
  else if off = 0x10 then t.cnth
  else if off = 0x14 then t.inp
  else if 0x20 ≤ off ∧ off < 0x60 then
    let c := t.chan ((off - 0x20) / 16)
    if off % 16 = 0 then c.ctl else if off % 16 = 4 then c.cmp
    else if off % 16 = 8 then c.int else c.win
  else 0#32

/-- A read of TIM0_CNT or TIM2_CNT copies the partner's count (R307). -/
def Periph.timLatch (p : Periph) (n : Nat) : Periph :=
  if n = 0 ∨ n = 2 then
    { p with tim := vmod p.tim n fun t => { t with cnth := (vget p.tim (n + 1) Tim.reset).cnt } }
  else p

/-- The request of source 14 + n (R310). -/
def Tim.request (t : Tim) : Bool := anyBit (t.stat &&& t.ie)

/-! ## Ball edges -/

/-- EDGE codes: 1 rising, 2 falling, 3 both. -/
def edgeSelected (code : Nat) (rise : Bool) : Bool :=
  decide (code = 3) || decide (code = if rise then 1 else 2)

/-- The timers below `n` whose count input is ball `b` take the edge (R300). -/
def State.timEdge (s : State) (b : Nat) (rise : Bool) : Nat → State
  | 0 => s
  | n + 1 =>
    let s := s.timEdge b rise n
    let t := s.timAt n
    if t.clock = 1 ∧ bits t.inp 8 7 = b ∧ edgeSelected (bits t.ctl 6 2) rise then s.timClock n else s

/-- The resynchronised level of ball `b` changes (R399). -/
def State.ballEdge (s : State) (b : Nat) (rise : Bool) : State :=
  let sel := edgeSelected (bits (s.per.pin.cfg b) 10 2) rise
  let s := s.onPin fun p =>
    { p with inp := setBit p.inp b rise, ef := if sel then setBit p.ef b true else p.ef }
  let s := if sel then s.fire b else s
  let sync := s.per.tch.syncCfg
  let s := if b = 31 ∧ s.per.pin.func 31 = 8 ∧ syncOn sync = true ∧ bit sync 1 ≠ rise then s.onTch fun t => t.dqi s.per.pin else s
  s.timEdge b rise 12

/-- The resynchronisers take the levels of the first `k` balls. -/
def State.resyncBalls (s : State) : Nat → State
  | 0 => s
  | k + 1 =>
    let s := s.resyncBalls k
    let l := ballLevel s k
    if l = bit s.per.pin.inp k then s else s.ballEdge k l

/-- The resynchronisers take the levels of the balls (R301, R399, R400). -/
def State.resync (s : State) : State := s.resyncBalls 96

end Sys2Proof.Machine
end

