-- ==== Sys2Proof/Machine/Warden.lean ====
section
/-! DEFINITION. The Site Warden: translation of object addresses (R105, R111), the PER journal (R113,
R114), rooms in banks (R119, R120), the Warden's commands (R107-R110, R127), costs and placement
(R117-R119), migration (R122-R125), tasks and dispatch (R31, R32, R126-R130) and retirement
(R131-R134). -/

namespace Sys2Proof.Machine

open Sys2Proof

/-! ## Objects and translation -/

/-- The entry translates accesses: its declaration is complete and its release is not (R110). -/
def ObjEntry.reachable (e : ObjEntry) : Bool := decide (e.phase = .live) || decide (e.phase = .releasing)

/-- The size of an object in bytes (R103). -/
def objBytes (size : Nat) : Nat := 256 * 2 ^ size

/-- The logical address of an object's first byte (R103). -/
def ObjEntry.logical (e : ObjEntry) : Nat := objBase + 256 * e.base.toNat

/-- The logical address `a` lies in the object's range. -/
def ObjEntry.covers (e : ObjEntry) (a : Nat) : Bool := inRange a e.logical (objBytes e.size)

/-- The physical address of the object's first byte. -/
def ObjEntry.physical (e : ObjEntry) : Nat := bankBase e.bank + 256 * e.offs

/-- The object that a logical address lies in (R111). -/
def Warden.find (w : Warden) (a : Nat) : Option ObjEntry :=
  w.obj.toList.find? fun e => e.reachable && e.covers a

/-- The index of that object. -/
def Warden.index (w : Warden) (a : Nat) : Option Nat :=
  w.obj.toList.findIdx? fun e => e.reachable && e.covers a

/-- The index of the object whose first byte has a logical address. -/
def Warden.indexAtBase (w : Warden) (a : Nat) : Option Nat :=
  w.obj.toList.findIdx? fun e => e.reachable && decide (e.logical = a)

/-- The physical address of a logical address inside an object. -/
def ObjEntry.translate (e : ObjEntry) (a : Nat) : Nat := e.physical + (a - e.logical)

def ObjEntry.mayRead (e : ObjEntry) (g : Nat) : Bool := bit e.rights (3 * g)
def ObjEntry.mayWrite (e : ObjEntry) (g : Nat) : Bool := bit e.rights (3 * g + 1)
/-- An execute right is effective only when XP is 1 (R105). -/
def ObjEntry.mayRun (e : ObjEntry) (g : Nat) : Bool := e.xp && bit e.rights (3 * g + 2)

/-- The quadrant of an SRAM bank index (R73). -/
def bankQuadrant (b : Nat) : Option Nat := if 16 ≤ b ∧ b < 48 then some ((b - 16) / 8) else none

def isSramBank (b : Nat) : Bool := decide (16 ≤ b) && decide (b < 48)

/-! ## The journal (R113) -/

def journalBase : Nat := mramBase + 0x4000

/-- A journal entry, taken apart. -/
structure Journal where
  index : Nat
  base : Nat
  size : Nat
  owner : Nat
  bank : Nat
  offs : Nat
  deriving DecidableEq, Repr

/-- Journal entry `j` when it is valid. -/
def Memory.journalAt (m : Memory) (j : Nat) : Option Journal :=
  let e : DWord := BitVec.ofNat 64 (m.num (journalBase + 8 * j) 8)
  if bit e 63 then
    some ⟨j, bits e 0 20, bits e 20 4, bits e 24 4, bits e 28 4, bits e 32 11⟩
  else none

/-- The valid journal entries, in index order. -/
def Memory.journal (m : Memory) : List Journal := (List.range 1024).filterMap m.journalAt

def Journal.logical (j : Journal) : Nat := objBase + 256 * j.base

/-- The 64-bit word of a journal entry with V 1. -/
def Journal.word (j : Journal) : Nat :=
  j.base % 2 ^ 20 + (j.size % 16) <<< 20 + (j.owner % 16) <<< 24 + (j.bank % 16) <<< 28 +
    (j.offs % 2 ^ 11) <<< 32 + 2 ^ 63

/-- One 64-bit write of a journal entry (R114, R122). -/
def State.putJournal (s : State) (j : Journal) : State :=
  s.writeWhole (journalBase + 8 * j.index) (bytesOfNat 8 j.word)

/-- A journal entry is freed: V becomes 0. (DESIGN CHOICE, unsafe: assumption 35.) -/
def State.freeJournal (s : State) (j : Journal) : State :=
  s.writeWhole (journalBase + 8 * j.index) (bytesOfNat 8 (j.word - 2 ^ 63))

/-- Two logical ranges overlap. -/
def overlap (a n b m : Nat) : Bool := decide (a < b + m) && decide (b < a + n)

/-- The journal entry names the object of a base, size and owner (R114). -/
def Journal.matches (j : Journal) (base size owner : Nat) : Bool :=
  decide (j.base = base) && decide (j.size = size) && decide (j.owner = owner)

/-- Does a valid journal entry name a declared PER object. -/
def Warden.named (w : Warden) (j : Journal) : Bool :=
  w.obj.toList.any fun e =>
    e.declared && decide (e.cls = .per) && j.matches e.base.toNat e.size e.owner

/-- The declared PER object that a journal entry names. -/
def Warden.namedBy (w : Warden) (j : Journal) : Option Nat :=
  w.obj.toList.findIdx? fun e =>
    e.declared && decide (e.cls = .per) && j.matches e.base.toNat e.size e.owner

/-- The ECC words of `n` bytes from `a` that are in error. -/
def State.badWords (s : State) (a n : Nat) : List Nat :=
  (s.mem.ecc.filter fun e => decide (a ≤ e.1) && decide (e.1 < a + n)).map (·.1)

/-- A master reads the words of a range: errors are corrected or reported (R79, R80). -/
def State.readRange (s : State) (master a n : Nat) : Beat := s.readWords master (s.badWords a n)

/-- The Warden searches the journal: errors in its words are corrected, or recorded as class UNC (R79, R80, R114,
R151). (DEDUCED, unsafe: assumption 45.) -/
def State.readJournal (s : State) : State :=
  let b := s.readRange copyEngine journalBase 0x2000
  b.s.reactUnc 0#32 b.unc

/-! ## Rooms -/

/-- The size in bytes of what a migration moves: an object, or the room of journal entry
`obj - 512` that no declared object names (R131). -/
def State.migBytes (s : State) (m : Migration) : Nat :=
  if m.obj < 512 then objBytes (s.objAt m.obj).size
  else match s.mem.journalAt (m.obj - 512) with
    | some j => objBytes j.size
    | none => 0

/-- The ranges in use in bank `b`, as offset and length in bytes: objects, rooms reserved for
migrations, and the rooms of the valid journal entries given (R110, R119). -/
def State.used (s : State) (jnl : List Journal) (b : Nat) : List (Nat × Nat) :=
  (s.wdn.obj.toList.filterMap fun e =>
      if e.declared && decide (e.bank = b) then some (256 * e.offs, objBytes e.size) else none) ++
    ((s.wdn.mig.toList ++ s.wdn.queue).filterMap fun m =>
      if m.bank = b then some (256 * m.offs, s.migBytes m) else none) ++
    jnl.filterMap fun j =>
      if j.bank = b then some (256 * j.offs, objBytes j.size) else none

def clear (used : List (Nat × Nat)) (o n : Nat) : Bool := used.all fun u => !overlap o n u.1 u.2

/-- The size of a bank in bytes (R73). -/
def bankBytes (b : Nat) : Nat := if b < 16 then 0x80000 else if b < 48 then 0x8000 else 0x10000

/-- The first offset of a bank that objects may use: the placeable half of DP (R87). -/
def bankFirst (b : Nat) : Nat := if b = 48 then 0x8000 else 0

/-- The lowest free aligned offset for `n` bytes in bank `b` (R119). -/
def State.roomIn (s : State) (jnl : List Journal) (b n : Nat) : Option Nat :=
  let used := s.used jnl b
  (List.range ((bankBytes b - bankFirst b) / n)).findSome? fun k =>
    if clear used (bankFirst b + k * n) n then some (bankFirst b + k * n) else none

/-- A bank takes nothing new (R131). -/
def State.closed (s : State) (b : Nat) : Bool :=
  bankRetired s b || (decide (b < 50) && bit s.wdn.retiring b)

/-- SRAM bank `b` is powered. -/
def State.sramOn (s : State) (b : Nat) : Bool := bit s.mm.sbOn (b - 16)

/-- SRAM banks powered for objects: WDN_USE.SBON. -/
def State.sbon (s : State) : Nat := (indices 32 fun i => bit s.mm.sbOn i).length

def State.sbmax (s : State) : Nat := bits s.wdn.lim 8 6

/-- An SRAM bank is powered on, and its controller clears every word (R86). -/
def State.powerSram (s : State) (b : Nat) : State :=
  if !isSramBank b || s.sramOn b then s
  else
    let lo := bankBase b
    let inBank := fun a : Nat => inRange a lo 0x8000
    (s.onMem fun m =>
      { cells := m.cells.filter fun c => !inBank c.1
        ecc := m.ecc.filter fun e => !inBank e.1
        writeback := m.writeback.filter fun x => !inBank x }).onMm
      fun r => { r with sbOn := setBit r.sbOn (b - 16) true }

/-- The first bank of a list with room: the bank, and the offset in units of 256 B. -/
def State.firstRoom (s : State) (jnl : List Journal) (n : Nat) : List Nat → Option (Nat × Nat)
  | [] => none
  | b :: bs =>
    if s.closed b then s.firstRoom jnl n bs
    else match s.roomIn jnl b n with
      | some o => some (b, o / 256)
      | none => s.firstRoom jnl n bs

/-- The MRAM banks that hold objects: MB5-MB15. -/
def mramBanks : List Nat := (List.range 11).map (· + 5)

/-- The banks that a hint names, in the order in which they are tried (R120). -/
def State.hinted (s : State) (hint : Nat) : List Nat :=
  if 1 ≤ hint ∧ hint ≤ 4 then
    let q := (List.range 8).map fun i => 16 + 8 * (hint - 1) + i
    (q.filter fun b => s.sramOn b) ++
      (if s.sbon < s.sbmax then q.filter fun b => !s.sramOn b else [])
  else mramBanks

/-- The first placement of an object: bank, offset, and whether FALLBACK shows that the hinted kind had no
room (R120). -/
def State.place (s : State) (jnl : List Journal) (cls : ObjClass) (hint size : Nat) :
    Option (Nat × Nat × Bool) :=
  let n := objBytes size
  let byHint := fun fall : Bool =>
    match s.firstRoom jnl n (s.hinted hint) with
    | some (b, o) => some (b, o, false)
    | none => (s.firstRoom jnl n mramBanks).map fun p => (p.1, p.2, fall)
  match cls with
  | .per => (s.firstRoom jnl n mramBanks).map fun p => (p.1, p.2, false)
  | .dpx => match s.roomIn jnl 48 n with
    | some o => some (48, o / 256, false)
    | none => if hint = 5 then (s.firstRoom jnl n mramBanks).map fun p => (p.1, p.2, true) else byHint false
  | _ => byHint true

/-! ## Commands (R109, R110) -/

def codeOk : Nat := 0
def codeBadarg : Nat := 1
def codeInuse : Nat := 2
def codeOverlap : Nat := 3
def codeNoroom : Nat := 4
def codeJfull : Nat := 5
def codeDenied : Nat := 6
def codeTaken : Nat := 7

/-- The context of a writer of WDN_CMD (R109). -/
def State.wdnCtx (s : State) : Agent → WdnCtx
  | .core c =>
    if bit s.cores[c].task 31 then .thread
    else .task (s.tskAt (bits s.cores[c].task 0 6)).group
  | _ => .ridgepole

def objClassOf (n : Nat) : ObjClass :=
  if n = 0 then .vol else if n = 1 then .per else if n = 2 then .dpx else .fix

def objClassCode : ObjClass → Nat
  | .vol => 0
  | .per => 1
  | .dpx => 2
  | .fix => 3

/-- The execute bits of RIGHTS (R103). -/
def execMask : BitVec 24 := 0x924924#24

/-- The physical place of LOAD's SOURCE: it lies wholly inside OBJ0 or OBJ1 (R107). -/
def State.sourcePlace (s : State) (source n : Nat) : Option Nat :=
  if source % 8 ≠ 0 then none
  else ([s.objAt 0, s.objAt 1].find? fun e =>
      e.reachable && e.covers source && e.covers (source + n - 1)).map fun e => e.translate source

/-- A FIX location that R104 allows, aligned to the size. -/
def fixOk (bank offs n owner : Nat) (byRidgepole : Bool) : Bool :=
  let o := 256 * offs
  let place := isSramBank bank || (decide (5 ≤ bank) && decide (bank < 16)) ||
    (decide (bank = 48) && decide (0x8000 ≤ o)) ||
    (byRidgepole && decide (owner = 8) && decide (1 ≤ bank) && decide (bank ≤ 4))
  place && decide (o % n = 0) && decide (o + n ≤ bankBytes bank)

/-- What OBJ_DECLARE settles on when every check passes. -/
structure Placement where
  bank : Nat
  offs : Nat
  fallback : Bool
  /-- journal entries freed because they overlap without matching -/
  drop : List Journal
  /-- the journal entry to write for a new PER object -/
  slot : Option Nat
  /-- the object takes over what its place holds: a FIX object, or a PER object that matched -/
  keep : Bool
  deriving DecidableEq, Repr

/-- The banked object registers as OBJ_DECLARE reads them. -/
def WdnBank.request (r : WdnBank) : ObjEntry :=
  { phase := .declaring, base := BitVec.ofNat 20 (bits r.objBase 8 20), size := bits r.objAttr 0 4,
    cls := objClassOf (bits r.objAttr 4 2), xp := bit r.objAttr 6, load := bit r.objAttr 7,
    hint := bits r.objAttr 8 3, owner := bits r.objAttr 12 4,
    rights := BitVec.ofNat 24 (bits r.objRights 0 24), source := r.objLoad,
    bank := bits r.objLoc 16 6, offs := bits r.objLoc 0 11, heat := Vector.replicate 4 0, hold := 0 }

/-- The checks of OBJ_DECLARE that give BADARG (R110). -/
def State.declareBad (s : State) (r : WdnBank) (e : ObjEntry) (ridge : Bool) : Bool :=
  decide (11 < e.size) || decide (bits r.objBase 28 4 ≠ 6) ||
    decide (e.logical % objBytes e.size ≠ 0) ||
    (decide (e.cls ≠ .fix) && (decide (6 ≤ e.hint) || (decide (e.hint = 5) && decide (e.cls ≠ .dpx)))) ||
    (decide (e.rights &&& execMask ≠ 0#24) && !e.xp) ||
    (e.load && (decide (e.cls ≠ .vol) ||
      (s.sourcePlace e.source.toNat (objBytes e.size)).isNone)) ||
    (decide (e.cls = .fix) && !fixOk e.bank e.offs (objBytes e.size) e.owner ridge) ||
    decide ((if ridge then 8 else 7) < e.owner)

/-- The place that OBJ_DECLARE gives an object, or the code of its first failing check after BADARG (R104,
R110, R114, R120). (DEDUCED, unsafe: assumption 36.) (DEDUCED, unsafe: assumption 37.) -/
def State.settle (s : State) (e : ObjEntry) : Placement ⊕ Nat :=
  let n := objBytes e.size
  let jnl := s.mem.journal
  if s.wdn.obj.toList.any fun o => o.declared && overlap e.logical n o.logical (objBytes o.size) then
    .inr codeOverlap
  else match e.cls with
    | .fix =>
      if !clear (s.used jnl e.bank) (256 * e.offs) n then .inr codeTaken
      else if s.closed e.bank then .inr codeNoroom
      else if isSramBank e.bank && !s.sramOn e.bank && decide (s.sbmax ≤ s.sbon) then
        .inr codeNoroom
      else .inl ⟨e.bank, e.offs, false, [], none, true⟩
    | .per =>
      let same := fun j : Journal => j.matches e.base.toNat e.size e.owner
      let drop := jnl.filter fun j => !same j && overlap e.logical n j.logical (objBytes j.size)
      match jnl.find? same with
      | some j => .inl ⟨j.bank, j.offs, false, drop, none, true⟩
      | none =>
        let rest := jnl.filter fun j => !decide (j ∈ drop)
        match s.place rest .per e.hint e.size with
        | none => .inr codeNoroom
        | some (b, o, f) =>
          match (List.range 1024).find? fun k => !rest.any fun j => decide (j.index = k) with
          | none => .inr codeJfull
          | some k => .inl ⟨b, o, f, drop, some k, false⟩
    | c => match s.place jnl c e.hint e.size with
      | none => .inr codeNoroom
      | some (b, o, f) => .inl ⟨b, o, f, [], none, false⟩

/-- The outcome of OBJ_DECLARE: a placement, or a code (R110). -/
def State.declareCheck (s : State) (r : WdnBank) (ctx : WdnCtx) : Placement ⊕ Nat :=
  let old := s.objAt (bits r.objSel 0 9)
  let ridge := decide (ctx = .ridgepole)
  if old.declared && decide (old.owner = 8) && !ridge then .inr codeDenied
  else if old.declared then .inr codeInuse
  else if s.declareBad r r.request ridge then .inr codeBadarg
  else s.settle r.request

/-- Undefined contents: `n` free bytes at `a` (R14, R104). -/
def State.fillFree (s : State) (a n : Nat) : State :=
  (s.onMem fun m => m.setBytes a (freeBytes s.free n)).useFree n

/-- Ridgepole copies LOAD's bytes into the object's place (R107). -/
def State.loadObject (s : State) (src dst n : Nat) : State :=
  let b := s.readWords 4 ((List.range (n / 8)).map fun k => src + 8 * k)
  (b.s.writeWhole dst (b.s.mem.bytes src n)).reactUnc 0#32 b.unc

/-- The object that a migration moves: the one it names, or the one that has matched the journal entry whose
room it moves (R114, R131). -/
def State.migObject (s : State) (m : Migration) : Nat :=
  if m.obj < 512 then m.obj
  else ((s.mem.journalAt (m.obj - 512)).bind fun j => s.wdn.namedBy j).getD m.obj

/-- Removes the migration of object `i`, queued or in progress; an abandoned migration sets ABANDON
(R124). -/
def State.dropMigration (s : State) (i : Nat) : State :=
  let hit := fun m : Migration => decide (m.obj = i) || decide (s.migObject m = i)
  let live := s.wdn.mig.any hit
  let s := if live then s.flushLook i else s
  (s.onWdn fun w =>
    { w with
      queue := w.queue.filter fun m => !hit m
      mig := if live then none else w.mig
      stat := if live then setBit w.stat 2 true else w.stat }).powerOffEmpty

/-- A journal entry is freed, and with it what moves its room (R114, R115). -/
def State.dropJournal (s : State) (j : Journal) : State := (s.freeJournal j).dropMigration (512 + j.index)

/-- OBJ_DECLARE carried out (R86, R107, R114, R120). -/
def State.declareAt (s : State) (i : Nat) (e : ObjEntry) (p : Placement) : State :=
  let n := objBytes e.size
  let s := p.drop.foldl State.dropJournal s
  let s := s.powerSram p.bank
  let dst := bankBase p.bank + 256 * p.offs
  let s := match p.slot with
    | some k => s.putJournal ⟨k, e.base.toNat, e.size, e.owner, p.bank, p.offs⟩
    | none => s
  let s := s.onObj i fun _ =>
    { e with bank := p.bank, offs := p.offs, hold := bits s.wdn.pol 24 4 }
  let s := if p.fallback then s.onWdn fun w => { w with stat := setBit w.stat 1 true } else s
  if p.keep then s
  else if e.load then
    (match s.sourcePlace e.source.toNat n with
     | some src => s.loadObject src dst n
     | none => s)
  else s.fillFree dst n

/-- A context may act on a declared object (R110). -/
def objAllowed (e : ObjEntry) : WdnCtx → Bool
  | .ridgepole => true
  | .thread => decide (e.owner ≠ 8)
  | .task g => decide (e.owner ≠ 8) && decide (e.owner = g)

/-- The object is the stack of a declared task (R110). -/
def Warden.isStack (w : Warden) (i : Nat) : Bool :=
  w.tsk.toList.any fun t => decide (t.state ≠ .free) && decide (t.stack = i)

/-- The checks of OBJ_RELEASE (R110). -/
def State.releaseCheck (s : State) (i : Nat) (ctx : WdnCtx) : Nat :=
  let e := s.objAt i
  if !e.declared then codeBadarg
  else if !objAllowed e ctx then codeDenied
  else if s.wdn.isStack i then codeInuse
  else codeOk

/-- The checks of OBJ_RIGHTS (R110). -/
def State.rightsCheck (s : State) (i : Nat) (rights : BitVec 24) (ctx : WdnCtx) : Nat :=
  let e := s.objAt i
  if !e.declared then codeBadarg
  else if !objAllowed e ctx then codeDenied
  else if decide (rights &&& execMask ≠ 0#24) && !e.xp then codeBadarg
  else codeOk

/-- A task may act only for its own group (R127). -/
def tskAllowed (g : Nat) : WdnCtx → Bool
  | .task h => decide (g = h)
  | _ => true

/-- The banked task registers as TSK_DECLARE reads them (R126). -/
def WdnBank.task (r : WdnBank) : TaskEntry :=
  { TaskEntry.empty with
    state := .idle, entry := r.tskEntry, stack := bits r.tskCfg 0 9, prio := bits r.tskCfg 9 3,
    aff := BitVec.ofNat 4 (bits r.tskCfg 12 4), group := bits r.tskCfg 16 3 }

/-- The checks of TSK_DECLARE (R110, R127). -/
def State.tskDeclareCheck (s : State) (i : Nat) (t : TaskEntry) (ctx : WdnCtx) : Nat :=
  let st := s.objAt t.stack
  if !tskAllowed t.group ctx then codeDenied
  else if (s.tskAt i).state ≠ .free then codeInuse
  else if bit t.entry 0 || decide (t.aff = 0#4) || !st.declared || decide (st.owner = 8) ||
      !st.mayRead t.group || !st.mayWrite t.group then codeBadarg
  else codeOk

/-- A task is dispatched and not ended. -/
def TaskEntry.isRunning (t : TaskEntry) : Bool :=
  decide (t.state = .running) || decide (t.state = .runningPending)

/-- The checks of TSK_RELEASE (R110, R127). -/
def State.tskReleaseCheck (s : State) (i : Nat) (ctx : WdnCtx) : Nat :=
  let t := s.tskAt i
  if t.state = .free then codeBadarg
  else if !tskAllowed t.group ctx then codeDenied
  else if t.isRunning then codeInuse
  else codeOk

/-- JNL_PURGE frees every valid entry that matches no declared PER object (R115). -/
def State.purgeJournal (s : State) : State :=
  (s.mem.journal.filter fun j => !s.wdn.named j).foldl State.dropJournal s

/-- A command of a writer with what it does at once: the state and the outcome code. -/
structure Done where
  s : State
  code : Nat
  deriving DecidableEq, Repr

/-- The command searches the PER journal: a declaration of a PER object, and JNL_PURGE (R114, R115). -/
def searchesJournal (r : WdnBank) (op : Nat) : Bool :=
  decide (op = 6) || (decide (op = 1) && decide (r.request.cls = .per))

/-- Carries out command `op` of a bank's registers in a context (R109). -/
def State.runWarden (s : State) (r : WdnBank) (ctx : WdnCtx) (op : Nat) : Done :=
  let i := bits r.objSel 0 9
  let t := bits r.tskSel 0 6
  let mode := s.rp.mode
  let s := if searchesJournal r op then s.readJournal else s
  if s.rp.mode ≠ mode then ⟨s, codeOk⟩
  else if op = 1 then
    match s.declareCheck r ctx with
    | .inl p => ⟨s.declareAt i r.request p, codeOk⟩
    | .inr c => ⟨s, c⟩
  else if op = 2 then
    let c := s.releaseCheck i ctx
    ⟨if c = codeOk then (s.dropMigration i).onObj i fun e => { e with phase := .releasing } else s, c⟩
  else if op = 3 then
    let rights := BitVec.ofNat 24 (bits r.objRights 0 24)
    let c := s.rightsCheck i rights ctx
    ⟨if c = codeOk then (s.flushLook i).onObj i fun e => { e with rights := rights } else s, c⟩
  else if op = 4 then
    let c := s.tskDeclareCheck t r.task ctx
    ⟨if c = codeOk then s.onTsk t fun _ => r.task else s, c⟩
  else if op = 5 then
    let c := s.tskReleaseCheck t ctx
    ⟨if c = codeOk then s.onTsk t fun _ => TaskEntry.empty else s, c⟩
  else ⟨s.purgeJournal, codeOk⟩

def State.onWdnBank (s : State) (b : Nat) (f : WdnBank → WdnBank) : State :=
  s.onWdn fun w => { w with bank := vmod w.bank b f }

def State.wdnBank (s : State) (b : Nat) : WdnBank := vget s.wdn.bank b WdnBank.reset

/-- The Warden takes the command of bank `b`. One whose reads reset the device leaves no command (R145). (DEDUCED,
unsafe: assumption 38.) -/
def State.wdnStart (s : State) (b : Nat) (ctx : WdnCtx) (op : Nat) : State :=
  let d := s.runWarden (s.wdnBank b) ctx op
  if d.s.rp.mode ≠ s.rp.mode then d.s
  else d.s.onWdnBank b fun r => { r with cmd := some ⟨op, bits r.objSel 0 9, d.code⟩, wait := none }

/-- BUSY of bank `b`: its command waits or is being executed (R109). -/
def WdnBank.busy (r : WdnBank) : Bool := r.cmd.isSome || r.wait.isSome

/-- A write to WDN_CMD by the agent of bank `b`: discarded with LOST while BUSY; an OP outside the table
completes at once with BADARG; and the Warden takes the command once it executes no other (R109). -/
def State.wdnCommand (s : State) (b : Nat) (ctx : WdnCtx) (op : Nat) : State :=
  if (s.wdnBank b).busy then s.onWdnBank b fun r => { r with lost := true }
  else if op < 1 ∨ 6 < op then s.onWdnBank b fun r => { r with code := codeBadarg }
  else if s.wdn.bank.toList.any fun r => r.cmd.isSome then
    s.onWdnBank b fun r => { r with wait := some (op, ctx) }
  else s.wdnStart b ctx op

/-- A released object leaves the table: a PER object's journal entry is freed, and its room (R86,
R115). -/
def State.releaseDone (s : State) (i : Nat) : State :=
  let e := s.objAt i
  let s := if e.cls = .per then
      (s.mem.journal.filter fun j => j.matches e.base.toNat e.size e.owner).foldl State.dropJournal s
    else s
  ((s.flushLook i).onObj i fun _ => ObjEntry.empty).powerOffEmpty

/-- The command of bank `b` takes effect as it completes: BUSY is 0, CODE holds the outcome, and a declaration
or a release is whole (R109, R110). -/
def State.wdnFinish (s : State) (b : Nat) (c : WdnCmd) : State :=
  let s := s.onWdnBank b fun r => { r with cmd := none, code := c.code }
  let e := s.objAt c.entry
  if c.code ≠ codeOk then s
  else if c.op = 1 ∧ e.phase = .declaring then s.onObj c.entry fun e => { e with phase := .live }
  else if c.op = 2 ∧ e.phase = .releasing then s.releaseDone c.entry
  else s

/-- The waiting command that comes next in round-robin order of master number after bank `b` (R109). -/
def State.wdnNext (s : State) (b : Nat) : Option (Nat × Nat × WdnCtx) :=
  ((List.range 5).map fun k => (b + 1 + k) % 5).findSome? fun k =>
    (s.wdnBank k).wait.map fun w => (k, w)

/-- The command of bank `b` completes, and the Warden takes the next (R109). -/
def State.wdnComplete (s : State) (b : Nat) : State :=
  match (s.wdnBank b).cmd with
  | none => s
  | some c =>
    let s := s.wdnFinish b c
    match s.wdnNext b with
    | none => s
    | some (k, op, ctx) => s.wdnStart k ctx op

/-! ## Snapshots (R108) -/

/-- A migration of object `i` is queued or in progress. -/
def Warden.migrating (w : Warden) (i : Nat) : Bool :=
  (w.mig.toList ++ w.queue).any fun m => decide (m.obj = i)

/-- Object `o` migrates, or the room of the journal entry that names it does (R119, R131). -/
def State.moving (s : State) (jnl : List Journal) (o : Nat) : Bool :=
  s.wdn.migrating o || jnl.any fun j => s.wdn.migrating (512 + j.index) && s.wdn.namedBy j == some o

/-- A write to WDN_OBJ_SEL copies the entry into the writer's registers (R108). A free entry shows zeros (DESIGN
CHOICE, unsafe: assumption 95). -/
def State.selectObj (s : State) (b : Nat) (v : Word) : State :=
  let i := bits v 0 9
  let e := s.objAt i
  s.onWdnBank b fun r =>
    { r with
      objSel := field 0 i
      objBase := if e.declared then BitVec.ofNat 32 e.logical else 0#32
      objAttr := field 0 e.size ||| field 4 (objClassCode e.cls) ||| flagAt 6 e.xp |||
        flagAt 7 e.load ||| field 8 e.hint ||| field 12 e.owner
      objRights := e.rights.setWidth 32
      objLoad := e.source
      objLoc := field 0 e.offs ||| field 16 e.bank ||| flagAt 30 (s.moving s.mem.journal i) |||
        flagAt 31 e.reachable
      objHeat0 := field 0 e.heat[0] ||| field 16 e.heat[1]
      objHeat1 := field 0 e.heat[2] ||| field 16 e.heat[3] }

def taskStateCode : TaskState → Nat
  | .free => 0
  | .idle => 1
  | .ready => 2
  | .running => 3
  | .runningPending => 4

/-- A write to WDN_TSK_SEL copies the entry into the writer's registers (R108). -/
def State.selectTsk (s : State) (b : Nat) (v : Word) : State :=
  let i := bits v 0 6
  let t := s.tskAt i
  s.onWdnBank b fun r =>
    { r with
      tskSel := field 0 i
      tskEntry := t.entry
      tskCfg := field 0 t.stack ||| field 9 t.prio ||| field 12 t.aff.toNat ||| field 16 t.group |||
        field 24 (taskStateCode t.state) ||| field 27 t.core }

/-! ## Cost and placement (R117-R119) -/

/-- The heat of an object (R116). -/
def ObjEntry.heatSum (e : ObjEntry) : Nat := e.heat[0] + e.heat[1] + e.heat[2] + e.heat[3]

/-- An access by quadrant `q` that the sample counter picks adds 1 to HEATq (R116). -/
def ObjEntry.addHeat (e : ObjEntry) (q : Nat) : ObjEntry :=
  { e with heat := vmod e.heat q (satAdd 0xFFFF · 1) }

/-- L(q, b) of R118. -/
def distance (q b : Nat) : Nat :=
  match bankQuadrant b with
  | some p => if p = q then 1 else 2
  | none => if b = 48 then 2 else 3

/-- S(b) of R118: the heat of the other objects that lie in or are reserved into bank `b`. -/
def State.bankHeat (s : State) (o b : Nat) : Nat :=
  let w := s.wdn
  min 1048575 ((indices 512 fun i =>
    decide (i ≠ o) && (s.objAt i).declared &&
      ((decide ((s.objAt i).bank = b) && !w.queue.any fun m => decide (m.obj = i)) ||
        (w.mig.toList ++ w.queue).any fun m => decide (m.obj = i) && decide (m.bank = b))).foldl
    (fun n i => n + (s.objAt i).heatSum) 0)

/-- The bank has nothing in it and nothing reserved into it. -/
def State.bankEmpty (s : State) (b : Nat) : Bool :=
  !(s.wdn.obj.toList.any fun e => e.declared && decide (e.bank = b)) &&
    !(s.wdn.mig.toList ++ s.wdn.queue).any fun m => decide (m.bank = b)

/-- The wear count of an MRAM bank, in units of 256 writes (R90). -/
def State.wearOf (s : State) (b : Nat) : Nat := vget s.mm.wear b 0 / 256

/-- E(b) of R118. -/
def State.wearCost (s : State) (b : Nat) : Nat :=
  if b < 16 then
    let least := (mramBanks.filter fun k => !bankRetired s k).foldl
      (fun n k => min n (s.wearOf k)) (s.wearOf b)
    min 255 ((s.wearOf b - least) / 2 ^ 20)
  else 0

/-- The weights WC and WP of the policy in force (R118). -/
def Warden.weights (w : Warden) : Nat × Nat :=
  if bits w.pol 0 2 = 1 then (0, 255)
  else if bits w.pol 0 2 = 2 then (15, 0)
  else (bits w.pol 4 4, bits w.pol 8 8)

/-- cost(o, b) of R118. -/
def State.cost (s : State) (o b : Nat) : Nat :=
  let e := s.objAt o
  let w := s.wdn.weights
  e.heat[0] * distance 0 b + e.heat[1] * distance 1 b + e.heat[2] * distance 2 b +
    e.heat[3] * distance 3 b + w.1 * s.bankHeat o b / 16 +
    w.2 * 64 * (isSramBank b && s.bankEmpty b && decide (b ≠ e.bank)).toNat + 64 * s.wearCost b

/-- The banks allowed to a class, in the order of MEM_BANK_SEL (R104). -/
def classBanks : ObjClass → List Nat
  | .vol => mramBanks ++ (List.range 32).map (· + 16)
  | .per => mramBanks
  | .dpx => mramBanks ++ (List.range 33).map (· + 16)
  | .fix => []

/-- A candidate location of object `o`: open, with room, and within SBMAX (R119). -/
def State.candidate (s : State) (jnl : List Journal) (e : ObjEntry) (b : Nat) : Bool :=
  decide (b ≠ e.bank) && !s.closed b && (s.roomIn jnl b (objBytes e.size)).isSome &&
    !(isSramBank b && !(s.wdn.obj.toList.any fun o => o.declared && decide (o.bank = b)) &&
      decide (s.sbon = s.sbmax))

/-- The locations that the decision prices for object `o` (R119). -/
def State.candidates (s : State) (jnl : List Journal) (e : ObjEntry) : List Nat :=
  let all := (classBanks e.cls).filter (s.candidate jnl e)
  if e.cls = .dpx ∧ e.bank ≠ 48 ∧ 48 ∈ all then [48] else all

/-- The better of two priced locations; the earlier one stands on a tie. -/
def cheaper (s : State) (o : Nat) (best : Nat × Nat) (b : Nat) : Nat × Nat :=
  if s.cost o b < best.2 then (b, s.cost o b) else best

/-- The budget left for migrations (R119). -/
def State.budget (s : State) : Nat :=
  bits s.wdn.lim 4 3 - (s.wdn.queue.length + s.wdn.mig.toList.length)

/-- Room is reserved in bank `b` and the migration is queued (R119). -/
def State.enqueue (s : State) (jnl : List Journal) (obj b n : Nat) : State :=
  match s.roomIn jnl b n with
  | some o => s.onWdn fun w => { w with queue := w.queue ++ [⟨obj, b, o / 256⟩] }
  | none => s

/-- The decision for one object (R119). -/
def State.decidePlace (jnl : List Journal) (s : State) (o : Nat) : State :=
  let e := s.objAt o
  if s.budget = 0 then s
  else if e.phase ≠ .live ∨ e.cls = .fix ∨ e.owner = 8 ∨ 0 < e.hold ∨ s.moving jnl o = true then s
  else if e.cls = .dpx ∧ e.bank = 48 then s
  else
    let here := s.cost o e.bank
    let best := (s.candidates jnl e).foldl (cheaper s o) (e.bank, here)
    if best.1 ≠ e.bank ∧ 16 * bits s.wdn.pol 16 8 ≤ here - best.2 then
      s.enqueue jnl o best.1 (objBytes e.size)
    else s

/-- Inserts an object number into a list in descending order of heat, ties to the lower number. -/
def State.insertByHeat (s : State) : List Nat → Nat → List Nat
  | [], o => [o]
  | p :: ps, o =>
    if (s.objAt p).heatSum < (s.objAt o).heatSum then o :: p :: ps else p :: s.insertByHeat ps o

/-- The declared objects in descending order of heat, ties to the lower number (R119). -/
def State.byHeat (s : State) : List Nat :=
  (indices 512 fun i => (s.objAt i).declared).foldl s.insertByHeat []

/-- The cheapest allowed location of an object that must leave its bank, its own bank not counted
(R131). -/
def State.cheapest (s : State) (jnl : List Journal) (o : Nat) : Option Nat :=
  let e := s.objAt o
  match s.candidates jnl e with
  | [] => none
  | b :: bs => some (bs.foldl (cheaper s o) (b, s.cost o b)).1

/-- A retirement migration of an object in a retiring bank, or of the room of a journal entry that no
declared object names (`o` from 512 on) (R131, R132). -/
def State.evacuate (jnl : List Journal) (s : State) (o : Nat) : State :=
  if s.budget = 0 ∨ s.moving jnl o = true then s
  else if o < 512 then
    let e := s.objAt o
    if e.phase ≠ .live ∨ e.cls = .fix ∨ 0 < e.hold then s
    else match s.cheapest jnl o with
      | some b => s.enqueue jnl o b (objBytes e.size)
      | none => s
  else match s.mem.journalAt (o - 512) with
    | none => s
    | some j =>
      let open_ := mramBanks.filter fun b =>
        decide (b ≠ j.bank) && !s.closed b && (s.roomIn jnl b (objBytes j.size)).isSome
      match open_ with
      | [] => s
      | b :: bs =>
        let price := fun b => s.wdn.weights.1 * s.bankHeat 512 b / 16 + 64 * s.wearCost b
        s.enqueue jnl o (bs.foldl (fun best b => if price b < price best then b else best) b)
          (objBytes j.size)

/-- A bank index is marked retiring. -/
def Warden.isRetiring (w : Warden) (b : Nat) : Bool := decide (b < 50) && bit w.retiring b

/-- What must leave the retiring banks, objects first, then rooms of the journal (R131). -/
def State.toEvacuate (s : State) (jnl : List Journal) : List Nat :=
  (indices 512 fun i => (s.objAt i).declared && s.wdn.isRetiring (s.objAt i).bank) ++
    (jnl.filter fun j => s.wdn.isRetiring j.bank && !s.wdn.named j).map fun j => 512 + j.index

/-- A core does nothing but wait: in WAIT, stopped by a double fault, or not started (R25, R117). -/
def Core.waiting (k : Core) : Bool :=
  !k.halted && decide (k.phase = .wait ∨ k.phase = .stopped ∨ k.phase = .off)

/-- Every Canvas core is in WAIT (R117, R125). -/
def State.allWaiting (s : State) : Bool := s.cores.toList.all Core.waiting

/-- The placement decision: retirement migrations first, then every object (R119, R131). -/
def State.decidePlacement (s : State) : State :=
  let jnl := s.mem.journal
  let s := (s.toEvacuate jnl).foldl (State.evacuate jnl) s
  s.byHeat.foldl (State.decidePlace jnl) s

/-- The end of an epoch (R117). -/
def State.epochEnd (s : State) : State :=
  let s := if s.allWaiting then s else s.decidePlacement
  s.onWdn fun w =>
    { w with obj := w.obj.map fun e => { e with heat := e.heat.map (· / 2), hold := e.hold - 1 } }

/-! ## Migration (R122-R125) -/

/-- The physical source of a migration. -/
def State.migSource (s : State) (m : Migration) : Nat :=
  if m.obj < 512 then (s.objAt m.obj).physical
  else match s.mem.journalAt (m.obj - 512) with
    | some j => bankBase j.bank + 256 * j.offs
    | none => 0

def migDest (m : Migration) : Nat := bankBase m.bank + 256 * m.offs

/-- The first queued migration starts (R122, R125). -/
def State.migrationStart (s : State) : State :=
  if s.wdn.mig.isSome || s.allWaiting then s
  else match s.wdn.queue with
    | [] => s
    | m :: q =>
      ((s.flushLook m.obj).onWdn fun w => { w with mig := some m, queue := q }).powerSram m.bank

/-- The migration in progress is abandoned: the object stays at its source, and HOLD stands as it is (R124;
DESIGN CHOICE, unsafe: assumption 96). -/
def State.abandon (s : State) : State :=
  match s.wdn.mig with
  | none => s
  | some m =>
    ((s.flushLook (s.migObject m)).onWdn fun w =>
      { w with mig := none, stat := setBit w.stat 2 true }).powerOffEmpty

/-- The source of the migration in progress lies in a retiring bank: its abandonment for an uncorrectable word sets
STUCK (R132). -/
def State.stuckSource (s : State) : Bool :=
  s.wdn.mig.any fun m =>
    if m.obj < 512 then s.wdn.isRetiring (s.objAt m.obj).bank
    else (s.mem.journalAt (m.obj - 512)).any fun j => s.wdn.isRetiring j.bank

/-- The copy of a migration waits until its destination has been cleared (R86, R122). -/
def State.destReady (s : State) (m : Migration) : Bool :=
  !isSramBank m.bank || bit s.mm.sbPwr (m.bank - 16)

/-- The copy engine has read an uncorrectable word of the source (R80, R124). -/
def State.copyBad (s : State) : State :=
  match s.wdn.mig with
  | none => s
  | some m =>
    let bad := (s.badWords (s.migSource m) (s.migBytes m)).find? fun w =>
      (s.mem.eccOf w).any uncorrectable
    match bad with
    | none => s
    | some w =>
      if s.destReady m then
        let t := (s.readWord copyEngine w).s
        let t := if t.stuckSource then t.onWdn fun v => { v with stat := setBit v.stat 3 true } else t
        t.abandon
      else s

/-- The copy is complete: the destination takes over (steps 3 to 6 of R122). -/
def State.migrationDone (s : State) (m : Migration) : State :=
  let src := s.migSource m
  let n := s.migBytes m
  let o := s.migObject m
  let per := if m.obj < 512 then decide ((s.objAt m.obj).cls = .per) else true
  let entry := if m.obj < 512 then
      s.mem.journal.find? fun j =>
        j.matches (s.objAt m.obj).base.toNat (s.objAt m.obj).size (s.objAt m.obj).owner
    else s.mem.journalAt (m.obj - 512)
  let s := (s.readWords copyEngine (s.badWords src n)).s
  let s := s.writeWhole (migDest m) (s.mem.bytes src n)
  let s := if per then
      (match entry with
       | some j => s.putJournal { j with bank := m.bank, offs := m.offs }
       | none => s)
    else s
  let s := ((s.flushLook o).onObj o fun e =>
    { e with bank := m.bank, offs := m.offs, hold := bits s.wdn.pol 24 4 }).conflict copyEngine
  (((s.onWdn fun w => { w with mig := none, migcnt := w.migcnt + 1#32 }).powerOffEmpty).countSys 14
    1).countSys 15 (n / 8)

/-- The migration in progress completes; a source word that cannot be corrected has it abandoned
instead (R122, R124). -/
def State.migrationComplete (s : State) : State :=
  match s.wdn.mig with
  | none => s
  | some m =>
    if !s.destReady m then s
    else if (s.badWords (s.migSource m) (s.migBytes m)).any fun w =>
        (s.mem.eccOf w).any uncorrectable then s.copyBad
    else s.migrationDone m

/-- A master stores one beat; the copy of an object under migration takes it too (R122, R123). -/
def State.store (s : State) (master a : Nat) (bs : List Byte) : Beat :=
  let b := s.storeBeat master a bs
  match s.wdn.mig with
  | none => b
  | some m =>
    let src := s.migSource m
    if inRange a src (s.migBytes m) then
      ⟨b.s.writeBeat master (migDest m + (a - src)) bs, b.unc⟩
    else b

/-- The even addresses of the halfwords that `n` bytes from `a` touch. -/
def halfwordsOf (a n : Nat) : List Nat :=
  (List.range ((a % 2 + n + 1) / 2)).map fun k => a / 2 * 2 + 2 * k

/-- A store of `n` bytes at the window address `a` of object `i` invalidates the matching prefetch-buffer lines
of all four cores when the object has execute permission (R49). -/
def State.invalidateCode (s : State) (i a n : Nat) : State :=
  if (s.objAt i).xp then
    { s with stale := s.stale.map fun l =>
        (halfwordsOf a n).foldl (fun l h => if h ∈ l then l else l ++ [h]) l }
  else s

/-- A fetch of core `c` at `a` misses its prefetch buffer and fills a line. The specification gives no line
size, so every halfword of the 2 KiB around may have come back with it. (DESIGN CHOICE, safe: assumption
17.) -/
def State.refill (s : State) (c : CoreId) (a : Nat) : State :=
  { s with stale := s.stale.set c (s.stale[c].filter fun h => decide (h / 2048 ≠ a / 2048)) }

/-! ## Tasks (R31-R34, R126-R130) -/

/-- A cancelled multiply or divide and cleared result registers (R32, R34). -/
def Core.clearMath (k : Core) : Core :=
  { k with pl := 0#32, ph := 0#32, qt := 0#32, rm := 0#32, mul := none, div := none }

/-- The affinity mask allows core `c`; under Twin-skin either bit of a pair allows its leader (R50). -/
def State.affine (s : State) (t : TaskEntry) (c : Nat) : Bool :=
  if s.twin then
    decide (c % 2 = 0) && (bit t.aff c || bit t.aff (c + 1))
  else bit t.aff c

/-- Core `c` takes a dispatch: in WAIT, in thread code, at running priority 0, with no acceptable
interrupt at hand, and not retired (R31, R129). -/
def State.freeCore (s : State) (c : CoreId) : Bool :=
  let k := s.cores[c]
  let q := vget s.irq c IrqBank.reset
  decide (k.phase = .wait) && !k.halted && bit k.task 31 && decide (q.running = 0) &&
    !s.coreRetired c && (s.waymark || q.acceptable.isNone)

/-- The size of an entry in units of 256 B. -/
def ObjEntry.units (e : ObjEntry) : Nat := 2 ^ e.size

/-- GQ[g][q] of R129. -/
def Warden.groupSize (w : Warden) (g q : Nat) : Nat :=
  w.obj.toList.foldl (fun n e =>
    if e.declared && decide (e.owner = g) && decide (bankQuadrant e.bank = some q) then n + e.units
    else n) 0

/-- score(t, c) of R129. -/
def State.score (s : State) (t : TaskEntry) (c : Nat) : Nat :=
  let st := s.objAt t.stack
  s.wdn.groupSize t.group c +
    if decide (bankQuadrant st.bank = some c) && decide (st.owner ≠ t.group) then st.units else 0

/-- The best eligible core for a task: the greatest score, ties to the lower number (R129). -/
def State.bestCore (s : State) (t : TaskEntry) : Option CoreId :=
  ([0, 1, 2, 3] : List CoreId).foldl (fun (best : Option CoreId) (c : CoreId) =>
    if s.affine t c && s.freeCore c then
      match best with
      | none => some c
      | some b => if s.score t b < s.score t c then some c else best
    else best) none

/-- Every core that the affinity mask names is retired (R130). -/
def State.stranded (s : State) (t : TaskEntry) : Bool :=
  (indices 4 fun c => bit t.aff c && !s.coreRetired c).isEmpty

/-- The tasks to consider, in order: by priority, or by number alone under Waymark (R129). -/
def State.readyTasks (s : State) : List Nat :=
  let ready := indices 64 fun i => decide ((s.tskAt i).state = .ready)
  if s.waymark then ready.filter fun i => (s.tskAt i).released
  else (List.range 8).reverse.flatMap fun p => ready.filter fun i => decide ((s.tskAt i).prio = p)

/-- The core side of a dispatch (R32): the context is saved, and the task starts 12 CCLK later. -/
def Core.start (k : Core) (i : Nat) (t : TaskEntry) (top : Word) : Core :=
  { k.clearMath with
    shadow := some ⟨k.w, k.pc, k.flg, k.epc, k.eflg, k.ecause⟩
    w := ((((Vector.replicate 16 0#32).set 0 (BitVec.ofNat 32 t.readiness.cause)).set 1
      t.readiness.detail).set 15 top)
    pc := t.entry
    flg := 0#32
    task := BitVec.ofNat 32 i
    phase := .run
    repOpen := false
    cyc := k.cyc + 12#64 }

/-- A task is dispatched to a core (R32). -/
def State.dispatchTo (s : State) (i : Nat) (c : CoreId) : State :=
  let t := s.tskAt i
  let st := s.objAt t.stack
  let s := if s.waymark then s else s.clearIdle
  (((s.onCore c fun k => k.start i t (BitVec.ofNat 32 (st.logical + objBytes st.size))).onTsk i
    fun t => { t with state := .running, core := c, released := false }).countCore c 25 1).countSys 18 1

/-- The first ready task with an eligible core is dispatched; tasks that no core can ever take set
STRAND (R129, R130). -/
def State.dispatchFirst (s : State) : List Nat → State
  | [] => s
  | i :: is =>
    let t := s.tskAt i
    match s.bestCore t with
    | some c => s.dispatchTo i c
    | none =>
      let s := if s.stranded t then s.onWdn fun w => { w with stat := setBit w.stat 4 true } else s
      s.dispatchFirst is

/-- One decision of the Warden on a BCLK (R129). -/
def State.dispatch (s : State) : State := s.dispatchFirst s.readyTasks

/-- A running task ends: what it was released with while it ran makes it ready again (R33, R34). -/
def TaskEntry.finish (t : TaskEntry) : TaskEntry :=
  match t.state with
  | .running => { t with state := .idle }
  | .runningPending => { t with state := .ready }
  | _ => t

/-- The core side of the end of a task: the thread resumes after its WAIT (R34). -/
def Core.endTask (k : Core) : Core :=
  let k := { k.clearMath with task := 0x80000000#32, repOpen := false }
  match k.shadow with
  | none => k
  | some x =>
    { k with w := x.w, pc := x.pc, flg := x.flg, epc := x.epc, eflg := x.eflg, ecause := x.ecause
             shadow := none }

/-- The task of core `c` ends as if by TEND (R34). -/
def State.endTask (s : State) (c : CoreId) : State :=
  (s.onTsk (bits s.cores[c].task 0 6) TaskEntry.finish).onCore c Core.endTask

/-! ## Retirement (R131-R134) -/

/-- Nothing remains in a bank: no object, no reservation and no room of the journal (R131). -/
def State.vacant (s : State) (jnl : List Journal) (b : Nat) : Bool :=
  s.bankEmpty b && !jnl.any fun j => decide (j.bank = b)

/-- A bank is retired (R131). -/
def Warden.retireBank (w : Warden) (b : Nat) : Warden :=
  { w with
    retiring := setBit w.retiring b false
    retSb := if isSramBank b then setBit w.retSb (b - 16) true else w.retSb
    retire := if b < 16 then setBit w.retire b true else w.retire
    stat := setBit w.stat 6 true }

/-- A retiring bank that is empty is retired (R131). -/
def State.settleRetiring (s : State) : State :=
  if s.wdn.retiring = 0#50 then s
  else
    let jnl := s.mem.journal
    (indices 50 fun b => s.wdn.isRetiring b && s.vacant jnl b).foldl
      (fun s b => s.onWdn fun w => w.retireBank b) s

/-- Does bank `b` hold a FIX object. -/
def Warden.holdsFix (w : Warden) (b : Nat) : Bool :=
  w.obj.toList.any fun e => e.declared && decide (e.cls = .fix) && decide (e.bank = b)

/-- Banks newly marked retiring that hold a FIX object set STUCK (R132). -/
def State.stuckNew (old s : State) : State :=
  if s.wdn.retiring = old.wdn.retiring then s
  else if (indices 50 fun b => s.wdn.isRetiring b && !old.wdn.isRetiring b && s.wdn.holdsFix b).isEmpty
  then s
  else s.onWdn fun w => { w with stat := setBit w.stat 3 true }

/-- A core is retired: a task on it ends without TEND (R134). (DEDUCED, unsafe: assumption 39.) -/
def State.retireCore (s : State) (c : CoreId) : State :=
  let k := s.cores[c]
  let s := if bit k.task 31 then s
    else
      let i := bits k.task 0 6
      (s.onTsk i TaskEntry.finish).onWdn fun w =>
        { w with stat := setBits (setBit w.stat 5 true) 8 6 i }
  (s.onCore c fun k =>
    { k with
      phase := .off, task := 0x80000000#32, shadow := none, mul := none, div := none
      asked := none, trap := none }).dropService c

/-! ## Limits (R121, R135) -/

/-- The policy number `p` is allowed. -/
def Warden.policyOk (w : Warden) (p : Nat) : Bool := decide (p < 3) && bit w.lim p

/-- A write to WDN_POL, by Canvas or by Ridgepole (R121, R135). -/
def Warden.writePol (w : Warden) (canvas : Bool) (v : Word) : Warden :=
  let p := bits v 0 2
  if p = 3 ∨ (canvas = true ∧ w.policyOk p = false) then { w with stat := setBit w.stat 0 true }
  else { w with pol := writeRW 0x7FFFFFF3#32 w.pol v }

/-- A write to WDN_EPOCH (R121, R135). -/
def Warden.writeEpoch (w : Warden) (canvas : Bool) (v : Word) : Warden :=
  let n := bits v 0 10
  if canvas = true ∧ (n < bits w.epochLim 0 10 ∨ bits w.epochLim 16 10 < n) then
    { w with stat := setBit w.stat 0 true }
  else { w with epoch := writeRW 0x3FF#32 w.epoch v }

/-- WDN_LIM as a write stores it. (DEDUCED, safe: assumption 7.) -/
def limStored (v : Word) : Word :=
  let pol := if bits v 0 3 = 0 then 1 else bits v 0 3
  let mig := if 4 < bits v 4 3 then 4 else bits v 4 3
  let sb := bits v 8 6
  field 0 pol ||| field 4 mig ||| field 8 (if sb = 0 then 1 else if 32 < sb then 32 else sb)

/-- Ridgepole writes WDN_LIM; a policy that is no longer allowed gives way to the lowest one that is
(R121). -/
def Warden.writeLim (w : Warden) (v : Word) : Warden :=
  let w := { w with lim := limStored v }
  if w.policyOk (bits w.pol 0 2) then w
  else
    let p := if bit w.lim 0 then 0 else if bit w.lim 1 then 1 else 2
    { w with pol := setBits w.pol 0 2 p }

/-- Ridgepole writes WDN_EPOCH_LIM; an epoch outside the limits moves to the nearer one (R121). -/
def Warden.writeEpochLim (w : Warden) (v : Word) : Warden :=
  let lo := max 16 (bits v 0 10)
  let hi := max lo (bits v 16 10)
  let n := bits w.epoch 0 10
  { w with
    epochLim := field 0 lo ||| field 16 hi
    epoch := setBits w.epoch 0 10 (if n < lo then lo else if hi < n then hi else n) }

/-- Ridgepole sets retired bits of WDN_RET_SB, or of WDN_RETIRE.MB and CORE (R133-R135). -/
def Warden.writeRetired (w : Warden) (sb : Bool) (v : Word) : Warden :=
  if sb then { w with retSb := w.retSb ||| v }
  else { w with retire := w.retire ||| (v &&& 0xFFFE0#32) }

/-! ## The registers (R135) -/

/-- WDN_STAT as read. -/
def Warden.status (w : Warden) : Word :=
  (w.stat &&& 0x3FFF#32) ||| flagAt 16 w.mig.isSome ||| field 17 w.queue.length

/-- WDN_USE as read. -/
def State.wdnUse (s : State) : Word :=
  let objs := (s.wdn.obj.toList.filter ObjEntry.declared).length
  let tsks := (s.wdn.tsk.toList.filter fun t => decide (t.state ≠ .free)).length
  field 0 objs ||| field 10 tsks ||| field 17 s.sbon |||
    field 23 (min 511 (1024 - s.mem.journal.length))

/-- A read of a WDN register by the agent of bank `b`, at an offset from 0x4009_0000. -/
def State.wdnRead (s : State) (b off : Nat) : Word :=
  let r := s.wdnBank b
  let w := s.wdn
  if off = 0x004 then flagAt 0 r.busy ||| flagAt 1 r.lost ||| field 4 r.code
  else if off = 0x010 then r.objSel
  else if off = 0x014 then r.objBase
  else if off = 0x018 then r.objAttr
  else if off = 0x01C then r.objRights
  else if off = 0x020 then r.objLoad
  else if off = 0x024 then r.objLoc
  else if off = 0x028 then r.objHeat0
  else if off = 0x02C then r.objHeat1
  else if off = 0x040 then r.tskSel
  else if off = 0x044 then r.tskEntry
  else if off = 0x048 then r.tskCfg
  else if off = 0x080 then w.pol
  else if off = 0x084 then w.epoch
  else if off = 0x088 then w.lim
  else if off = 0x08C then w.epochLim
  else if off = 0x090 then w.status
  else if off = 0x094 then w.migcnt
  else if off = 0x098 then w.retSb
  else if off = 0x09C then w.retire
  else if off = 0x0A0 then s.wdnUse
  else 0#32

/-- A write to a banked WDN register other than WDN_CMD (R108). -/
def State.wdnBankWrite (s : State) (b off : Nat) (v : Word) : State :=
  if off = 0x004 then s.onWdnBank b fun r => { r with lost := r.lost && !bit v 1 }
  else if off = 0x010 then s.selectObj b v
  else if off = 0x014 then s.onWdnBank b fun r => { r with objBase := v &&& 0xFFFFFF00#32 }
  else if off = 0x018 then s.onWdnBank b fun r => { r with objAttr := v &&& 0xF7FF#32 }
  else if off = 0x01C then s.onWdnBank b fun r => { r with objRights := v &&& 0xFFFFFF#32 }
  else if off = 0x020 then s.onWdnBank b fun r => { r with objLoad := v }
  else if off = 0x024 then s.onWdnBank b fun r => { r with objLoc := writeRW 0x3F07FF#32 r.objLoc v }
  else if off = 0x040 then s.selectTsk b v
  else if off = 0x044 then s.onWdnBank b fun r => { r with tskEntry := v }
  else if off = 0x048 then s.onWdnBank b fun r => { r with tskCfg := writeRW 0x7FFFF#32 r.tskCfg v }
  else s

end Sys2Proof.Machine
end

