-- ==== Sys2Proof/Machine/Power.lean ====
section
/-! DEFINITION. Power and clocks: operating points (R285-R287), Hearth and the crystal (R282, R284), the
Strike and its end (R10, R16, R97-R99), the idle timer (R288, R289), wakes (R290-R292), the loss and
return of VMAIN (R293, R325, R327), the Lantern update (R271, R276, R278) and the cell protections
(R262), with the PWR and CLK registers (R297, R298). -/

namespace Sys2Proof.Machine

open Sys2Proof

/-! ## Operating points -/

/-- The lowest point that allows a DIV value (R285). -/
def divPoint (d : Nat) : Nat := if d = 0 then 2 else if d = 1 then 1 else 0

/-- The DIV of the top CCLK of a point (R285, R286). -/
def topDiv (p : Nat) : Nat := 2 - min p 2

def Pwr.vpt (p : Pwr) : Nat := bits p.opp 0 2
def Pwr.vnow (p : Pwr) : Nat := bits p.opp 4 2
/-- The divider in force (R298). -/
def Clk.divNow (k : Clk) : Nat := bits k.stat 8 2
/-- The divider requested (R298). -/
def Clk.divReq (k : Clk) : Nat := bits k.div 0 2

/-- Nothing of the requests remains to be done. -/
def State.oppDone (s : State) : Bool :=
  decide (s.pwr.vpt = s.pwr.vnow) && s.clk.ramp.isNone && decide (s.clk.divReq = s.clk.divNow)

/-- The buck starts to move once the CCLK in force is allowed at the target; until then VPEND is set
(R286). -/
def State.startRamp (s : State) : State :=
  if s.clk.ramp.isSome || decide (s.pwr.vpt = s.pwr.vnow) then s
  else if divPoint s.clk.divNow ≤ s.pwr.vpt then
    (s.onClk fun k => { k with ramp := some s.pwr.vpt }).onPwr fun p =>
      { p with opp := setBit p.opp 8 false }
  else s.onPwr fun p => { p with stat := setBit p.stat 4 true }

/-- A DIV that needs a higher point than the one in force is held pending (R286). -/
def State.holdDiv (s : State) : State :=
  if s.clk.divReq ≠ s.clk.divNow ∧ s.pwr.vnow < divPoint s.clk.divReq then
    s.onPwr fun p => { p with stat := setBit p.stat 5 true }
  else s

/-- What a request leaves pending is judged anew; a request equal to what is in force is no change. -/
def State.judgeOpp (s : State) : State :=
  let s := s.startRamp.holdDiv
  if s.oppDone then
    s.onPwr fun p => { p with stat := setBit (setBit p.stat 4 false) 5 false }
  else s

/-- A change completes: its pending flag, `k` of PWR_STAT, clears, DVDONE is set and producer 189 fires
(R287). -/
def State.oppComplete (s : State) (k : Nat) : State :=
  (s.onPwr fun p => { p with stat := setBit (setBit p.stat k false) 8 true }).fire 189

/-- The voltage that was requested is in force (R287). -/
def State.vptDone (s : State) : Bool := decide (s.pwr.vpt = s.pwr.vnow) && s.clk.ramp.isNone

/-- The divider that was requested is in force (R287). -/
def State.divDone (s : State) : Bool := decide (s.clk.divReq = s.clk.divNow)

/-- VPT is written; 3 is stored as 2 (R297). -/
def State.setVpt (s : State) (v : Word) : State :=
  (s.onPwr fun p => { p with opp := setBits p.opp 0 2 (min 2 (bits v 0 2)) }).judgeOpp

/-- DIV is written: a value that the target VPT does not allow is discarded with DIVERR (R286). -/
def State.setDiv (s : State) (v : Word) : State :=
  if s.pwr.vpt < divPoint (bits v 0 2) then
    s.onPwr fun p => { p with stat := setBit p.stat 9 true }
  else (s.onClk fun k => { k with div := field 0 (bits v 0 2), alone := true }).judgeOpp

/-- The buck reports that VCORE has settled: that completes the change unless a divider requested with this
voltage is still to come, and a later request then follows (R287, R296). -/
def State.buckSettled (s : State) : State :=
  match s.clk.ramp with
  | none => s
  | some t =>
    let s := (s.onClk fun k => { k with ramp := none }).onPwr fun p =>
      { p with opp := setBit (setBits p.opp 4 2 t) 8 true }
    let s := if s.vptDone && !s.divDone && !s.clk.alone then s.onPwr fun p => { p with stat := setBit p.stat 4 false }
      else s.oppComplete 4
    s.startRamp

/-- The divider changes, once the point in force allows it; that completes the change unless a voltage requested
with it is still to come (R286, R287). -/
def State.dividerChange (s : State) : State :=
  if s.divDone ∨ s.pwr.vnow < divPoint s.clk.divReq then s
  else
    let solo := s.clk.alone || s.vptDone
    let s := s.onClk fun k => { k with stat := setBits k.stat 8 2 k.divReq, alone := false }
    let s := if solo then s.oppComplete 5 else s.onPwr fun p => { p with stat := setBit p.stat 5 false }
    s.startRamp

/-- An operating-point change is in progress (R288). -/
def State.oppBusy (s : State) : Bool :=
  s.clk.ramp.isSome || bit s.pwr.stat 4 || bit s.pwr.stat 5 ||
    decide (s.clk.divReq ≠ s.clk.divNow)

/-! ## Hearth and the crystal (R282, R284) -/

/-- The crystal is qualified: the tick moves to it, and the loop begins (R284). -/
def Clk.qualified (k : Clk) : Clk :=
  if bit k.stat 0 then k
  else
    { k with
      stat := setBit (setBit (setBit k.stat 0 true) 2 false) 4 (k.lost || bit k.stat 4)
      dco := setBit k.dco 31 false
      lost := false
      good := 0 }

/-- The crystal is lost (R284). -/
def Clk.lose (k : Clk) : Clk :=
  { k with
    stat := setBit (setBit (setBit (setBit k.stat 0 false) 1 false) 2 true) 3 true
    dco := setBit k.dco 31 true
    lost := true
    good := 0 }

/-- CODE moves one step toward a count of 10,800 (R282). -/
def codeStep (code count : Nat) : Nat :=
  if count = 10800 then code
  else if (count < 10800) = (Config.dcoRises = true) then min 4095 (code + 1)
  else code - 1

/-- One count of the loop (R282). (DEDUCED, unsafe: assumption 44.) -/
def Clk.fllCount (k : Clk) (count : Nat) : Clk :=
  let good := if 10789 ≤ count ∧ count ≤ 10811 then min 8 (k.good + 1) else 0
  { k with
    good := good
    stat := setBit k.stat 1 (bit k.stat 1 || decide (good = 8))
    dco := setBits k.dco 0 12 (codeStep (bits k.dco 0 12) count) }

/-! ## Conditions of Bivouac (R15, R176, R288) -/

/-- The network engine holds a stay-awake (R15). -/
def Net.stays (n : Net) : Bool :=
  (n.await.toList ++ n.txq).any (fun f => !f.refused) || !n.trans.isEmpty

/-- A session of the Peg port is open (R176). -/
def Peg.sessionOpen (p : Peg) : Bool := decide (p.sess.state = .opened)

/-- GS_WRITE or KEY_SET is being carried out (R176, R377). -/
def Peg.storing (p : Peg) : Bool := p.cmd.busy && decide (p.cmd.op = 2 ∨ p.cmd.op = 4)

/-- A core that is not retired withholds consent (R176). -/
def State.staying (s : State) : Bool :=
  !(indices 4 fun c => bit s.rp.stay c && !s.coreRetired c).isEmpty

/-- 24 h have passed since the current scrub pass began (R83). -/
def State.scrubOverdue (s : State) : Bool :=
  s.rp.scrubLate || decide (s.rp.passStart + 86400 ≤ s.per.rtc.secs)

/-- Ridgepole gives Bivouac consent (R176). -/
def State.consent (s : State) : Bool :=
  decide (s.rp.mode = .up ∨ s.rp.mode = .stopped) && !s.scrubOverdue && !s.staying &&
    !s.peg.sessionOpen && !s.peg.storing && !s.rp.trail.isOpen &&
    !s.cores.toList.any fun k => decide (k.phase = .trap)

/-- A core that is not retired stands in WAIT or FRAME (R162, R297). -/
def Core.halting (k : Core) : Bool := k.waiting || (!k.halted && decide (k.phase = .frame))

def State.allHalted (s : State) : Bool := s.cores.toList.all Core.halting

/-- A Warden command is in progress. -/
def Warden.commanding (w : Warden) : Bool := w.bank.toList.any WdnBank.busy

/-- Every condition of the idle timer but those on migration and on the cores (R288). -/
def State.quiet (s : State) : Bool :=
  !s.wdn.commanding && !s.per.net.stays && !s.per.net.holdOff && !s.peg.writing && !s.oppBusy &&
    s.consent

/-- The cores let the idle timer count (R162, R288). -/
def State.coresIdle (s : State) : Bool :=
  s.waymark || decide (s.rp.mode = .stopped) || s.allWaiting

/-- Every condition of R288 holds. -/
def State.mayCount (s : State) : Bool := s.coresIdle && s.quiet && s.wdn.mig.isNone

/-- When every condition but the absence of migration holds, the queued migrations that have not
started are discarded (R125). -/
def State.discardQueue (s : State) : State :=
  if s.coresIdle && s.quiet && !s.wdn.queue.isEmpty then s.onWdn fun w => { w with queue := [] }
  else s

/-- PWR_STAT as read (R297). -/
def State.pwrStat (s : State) : Word :=
  (s.pwr.stat &&& 0x330#32) ||| flagAt 0 s.allHalted |||
    flagAt 1 (s.wdn.commanding || s.wdn.mig.isSome || s.peg.writing || s.oppBusy) |||
    flagAt 2 (s.per.net.stays || s.per.net.holdOff) ||| flagAt 3 s.consent

/-! ## The Strike (R10, R97-R99) -/

/-- A Strike begins: it aborts any migration, and no other master is granted again (R10, R124). -/
def State.strikeBegin (s : State) (kind : StrikeKind) (causes : Word) : State :=
  let s := s.abandon.onWdn fun w => { w with queue := [] }
  let s := if kind = .final ∨ kind = .drain then s.onRf Rf.paOff else s
  s.onPwr fun p =>
    { p with
      strike := some ⟨kind, causes, 0#32, false⟩
      fstrike :=
        (match kind with
         | .entry => p.fstrike
         | .commanded => setBits p.fstrike 16 16 (satAdd 0xFFFF (bits p.fstrike 16 16) 1)
         | _ => setBits p.fstrike 0 16 (satAdd 0xFFFF (bits p.fstrike 0 16) 1)) }

/-- The dirty lines, in ascending order (R97). -/
def MemRegs.dirtyLines (r : MemRegs) : List Nat := indices 256 fun i => bit r.dirty i

/-- The image slot that the version map does not name (R97). -/
def MemRegs.freeImage (r : MemRegs) (line : Nat) : Nat :=
  mramBase + (if bit r.map line then 0x8000 else 0xC000) + 64 * line

/-- The words of step 2 of R97: address, bytes, and whether the word keeps an uncorrectable error. -/
def State.strikeLines (s : State) : List (Nat × List Byte × Bool) :=
  s.mm.dirtyLines.flatMap fun l => (List.range 8).map fun k =>
    let a := emberBase + 64 * l + 8 * k
    (s.mm.freeImage l + 8 * k, s.mem.bytes a 8,
      (s.mem.eccOf a).any uncorrectable || (s.mem.eccOf (a + 4)).any uncorrectable)

/-- One 64-bit write of the Strike (R90, R97). -/
def State.strikeWord (s : State) (w : Nat × List Byte × Bool) : State :=
  let s := s.writeWhole w.1 w.2.1
  if w.2.2 then s.onMem fun m => { m with ecc := m.ecc ++ [(w.1, .double)] } else s

/-- The new version map: the bits of the dirty lines inverted (R99). -/
def MemRegs.nextMap (r : MemRegs) : BitVec 256 := r.map ^^^ r.dirty

/-- The wear that the new record holds: the counts as they stand, and the 24 writes of the record in force, which
are counted in the one that follows it (R90, R99). -/
def MemRegs.recordWears (r : MemRegs) : Vector Nat 16 :=
  if r.norec then r.wear else vmod r.wear 0 (· + 24)

/-- The first 188 bytes of the new commit record (R99). -/
def MemRegs.recordBody (r : MemRegs) : List Byte :=
  bytesOf (r.seq + 1#32) ++ bytesOfNat 4 (r.scrub % 2 ^ 20) ++ bytesOfNat 32 r.nextMap.toNat ++
    List.replicate 8 0#8 ++
    r.recordWears.toList.flatMap (fun n => bytesOfNat 8 (n / 256 % 2 ^ 48 + (n % 256) * 2 ^ 48)) ++
    List.replicate 12 0#8

/-- The 192 bytes of the record. -/
def MemRegs.record (r : MemRegs) : List Byte := r.recordBody ++ bytesOf (crc32 r.recordBody)

/-- The slot that does not hold the current record: slot A when there is none. (DEDUCED, unsafe: assumption
47.) -/
def MemRegs.nextSlot (r : MemRegs) : Bool := !r.norec && !r.slot

/-- The 24 words of step 3 of R97. -/
def State.strikeRecord (s : State) : List (Nat × List Byte × Bool) :=
  (List.range 24).map fun k =>
    (recordBase s.mm.nextSlot + 8 * k, (s.mm.record.drop (8 * k)).take 8, false)

/-- The first `n` words that a Strike writes: the lines, then the record, which holds the wear counts
as they stand when step 3 begins (R97, R99). -/
def State.strikeWrite (s : State) (n : Nat) : State :=
  let lines := s.strikeLines
  let s := (lines.take n).foldl State.strikeWord s
  (s.strikeRecord.take (n - lines.length)).foldl State.strikeWord s

/-- The words of a whole Strike. -/
def State.strikeLength (s : State) : Nat := 8 * s.mm.dirtyLines.length + 24

/-- The Strike reads the words of the dirty lines; one that is uncorrectable is logged and reported
(R80, R151). -/
def State.strikeReads (s : State) : Beat :=
  s.readWords strikeEngine ((s.mem.ecc.map (·.1)).filter fun a =>
    inEmber a && bit s.mm.dirty ((a - emberBase) / 64))

/-! ## Supplies -/

/-- The cell supplies the Porch: it is connected and the protection switch is closed (R262, R325). -/
def State.cellUp (s : State) : Bool := s.pwr.cell && !s.per.hrv.switchOpen

/-- The memories lose power while Ridgepole writes its store or blows fuses (R170, R171). -/
def State.cutWrites (s : State) : State := (s.useFree 1).onRp fun r => (r.cutFuses s.free).cutKey s.free

/-- The fuses can be blown no further: VMAIN is absent or below 2.50 V. The service then ends, and how many fuses
it had blown is a free value (R170). -/
def State.judgeFuses (s : State) : State :=
  if s.pwr.main && s.pwr.fuseSupply then s else (s.useFree 1).onRp fun r => r.cutFuses s.free

/-- The Porch enters the depleted state when the cell still supplies it, and otherwise loses its supply
(R278, R293). -/
def State.enterDepleted (s : State) : State :=
  let s := s.cutWrites
  if s.cellUp then
    ((s.onHrv fun h => h.flag 24).onPwr fun p => { p with state := .depleted, strike := none }).onTch
      fun t => { t.abandon with biv := false }
  else s.onPwr fun p => { p with state := .unpowered, strike := none }

/-- The held-pin latches hold the driven levels (R400). -/
def Pin.hold_ (p : Pin) : Pin := { p with latch := p.out.setWidth 16 }

/-- Bivouac is entered: BIVCNT adds 1, and a wake latched during the Strike acts at once (R289). -/
def State.enterBivouac (s : State) (wake : Word) : State :=
  let s := ((s.onPin Pin.hold_).onPwr fun p =>
    { p with state := .bivouac, strike := none, bivcnt := p.bivcnt + 1#32 }).onTch fun t =>
      { t with biv := bit s.pwr.wakeEn 4 }
  if wake = 0#32 then s else s.deviceReset 8#32 wake

/-- What follows the end of a Strike (R16, R97, R289, R293). -/
def State.strikeEnd (s : State) (k : Strike) : State :=
  if anyBit k.causes then
    (if s.pwr.state = .held then
       (s.deviceReset k.causes 0#32).onPwr fun p => { p with state := .held }
     else
       (s.deviceReset k.causes 0#32).onHrv fun h =>
         if k.kind = .drain then h.flag 24 else h)
  else match k.kind with
    | .entry =>
      if k.mainLost then
        ((s.onPin Pin.hold_).onPwr fun p => { p with bivcnt := p.bivcnt + 1#32 }).enterDepleted
      else s.enterBivouac k.wake
    | _ => (s.onPin Pin.hold_).enterDepleted

/-- The Strike is complete (R97). -/
def State.strikeComplete (s : State) : State :=
  match s.pwr.strike with
  | none => s
  | some k =>
    let b := s.strikeReads
    if s.twin && !b.unc.isEmpty then b.s.reactUnc 0#32 b.unc
    else
      let s := b.s.strikeWrite b.s.strikeLength
      (s.reactUnc 0#32 b.unc).strikeEnd k

/-- The causes of resets that no Strike precedes: the NRST ball and the watchdogs (R16). -/
def dueMask : Word := 0x22#32

/-- Such a reset becomes due while the Strike runs: it takes the place of whatever the Strike would have led to
(R16). -/
def Strike.due (k : Strike) (cause : Word) : Strike :=
  { k with causes := (k.causes &&& dueMask) ||| cause }

/-- A reset that no Strike precedes becomes due: at the end of a Strike that runs, and otherwise at once
(R16). -/
def State.resetDue (s : State) (cause : Word) : State :=
  match s.pwr.strike with
  | some k => s.onPwr fun p => { p with strike := some (k.due cause) }
  | none => s.deviceReset cause 0#32

/-- A commanded reset: an entry Strike that runs serves it, and otherwise a Strike begins (R16, R173). -/
def State.commandReset (s : State) (cause : Word) : State :=
  match s.pwr.strike with
  | some k =>
    if k.kind = .entry then
      s.onPwr fun p =>
        { p with
          strike := some { k with
            kind := .commanded
            causes := if anyBit (k.causes &&& dueMask) then k.causes else cause
            wake := 0#32 }
          fstrike := setBits p.fstrike 16 16 (satAdd 0xFFFF (bits p.fstrike 16 16) 1) }
    else s
  | none => s.strikeBegin .commanded cause

/-! ## Wakes (R290-R292) -/

/-- A wake source is enabled (R290). `pin` and `rise` belong to source 5. -/
def State.wakeEnabled (s : State) (k pin : Nat) (rise : Bool) : Bool :=
  if k = 3 then s.per.net.timing
  else if k = 5 then bit s.pwr.wakePin (if rise then pin else 16 + pin)
  else if k = 6 then true
  else bit s.pwr.wakeEn k

/-- PWR_WAKE_SRC after source `k` has qualified (R292, R297). -/
def wakeWord (w : Word) (k pin : Nat) (late : Bool) : Word :=
  let fresh := decide (w = 0#32)
  let pins := if k = 5 then (if bit w 5 then min pin (bits w 16 4) else pin) else bits w 16 4
  let w := setBits (setBit w k true) 16 4 pins
  if fresh then setBit (setBits w 24 4 k) 31 late else w

/-- The reset of a Bivouac wake, and of nothing else, is in progress: it has begun and the wake's boot has not
(R292). (DEDUCED, unsafe: assumption 52.) -/
def State.waking (s : State) : Bool :=
  s.running && decide (s.rp.mode = .cold) && decide (s.pwr.cause = 8#32)

/-- A wake source qualifies: latched during an entry Strike, a reset in Bivouac, and recorded with the first
one until reset release (R16, R292). (DEDUCED, unsafe: assumption 52.) -/
def State.wake (s : State) (k pin : Nat) (rise : Bool) : State :=
  if !s.wakeEnabled k pin rise then s
  else match s.pwr.strike with
    | some x =>
      if x.kind = .entry then
        s.onPwr fun p => { p with strike := some { x with wake := wakeWord x.wake k pin true } }
      else s
    | none =>
      if s.pwr.state = .bivouac then s.deviceReset 8#32 (wakeWord 0#32 k pin false)
      else if s.waking then s.onPwr fun p => { p with wakeSrc := wakeWord p.wakeSrc k pin false }
      else s

/-- The level of Porch pin `b` changes: an edge back cancels the edge that waits, and the new edge is qualified at
once with DEB 0, and otherwise after DEB Porch ticks (R291). -/
def State.porchEdge (s : State) (b : Nat) (rise : Bool) : State :=
  let n := bits s.pwr.wakeEn 16 4
  if 16 ≤ b then s
  else if n = 0 then (s.onPwr fun p => { p with deb := vset p.deb b none }).wake 5 b rise
  else s.onPwr fun p => { p with deb := vset p.deb b (some ⟨rise, n⟩) }

/-- A Porch tick of the edge that waits at pin `b` (R291). -/
def State.debounce (s : State) (b : Nat) : State :=
  match vget s.pwr.deb b none with
  | none => s
  | some d =>
    if d.left ≤ 1 then (s.onPwr fun p => { p with deb := vset p.deb b none }).wake 5 b d.rise
    else s.onPwr fun p => { p with deb := vset p.deb b (some { d with left := d.left - 1 }) }

/-- A Porch tick of every edge that waits, the lower pin first (R291, R296). -/
def State.debounceAll (s : State) : State := (List.range 16).foldl State.debounce s

/-! ## The idle timer (R288, R289) -/

/-- The idle timer expires and entry begins (R289). -/
def State.idleExpire (s : State) : State := s.strikeBegin .entry 0#32

/-- One Porch tick of the idle timer; under Waymark, expiry waits until every core is halted (R162,
R288). -/
def State.idleTick (s : State) : State :=
  if !s.running then s
  else
    let s := s.discardQueue
    if !s.mayCount then s.clearIdle
    else
      let n := s.pwr.count.toNat + 1
      if s.pwr.ticks ≠ 0#16 ∧ s.pwr.ticks.toNat ≤ n then
        let s := s.onPwr fun p => { p with count := p.ticks }
        if s.waymark && decide (s.rp.mode ≠ .stopped) && !s.allHalted then s else s.idleExpire
      else s.onPwr fun p => { p with count := BitVec.ofNat 16 (min 0xFFFF n) }

/-- The instant at which COUNT reaches TICKS (R289). -/
def State.idleDue (s : State) : State :=
  if s.running && decide (s.pwr.ticks ≠ 0#16) && s.mayCount &&
      (s.waymark.not || decide (s.rp.mode = .stopped) || s.allHalted) then
    (s.onPwr fun p => { p with count := p.ticks }).idleExpire
  else s

/-! ## Loss and return of VMAIN (R16, R293, R325, R327) -/

/-- CHARGE exceeds Reserve and the protection switch is closed (R293). -/
def State.carriesOn (s : State) : Bool :=
  decide (s.per.hrv.res < s.per.hrv.lchg) && !s.per.hrv.switchOpen

/-- RMET falls with the crossing that a final Strike marks (R276, R280). -/
def State.reserveFalls (s : State) : State :=
  if s.per.hrv.met 0 then (s.onHrv fun h => h.setMet 0 false).fire 173 else s

/-- A Strike that runs when VMAIN is lost serves as the final Strike: a commanded reset does not take
place (R16). -/
def Strike.loseMain (k : Strike) : Strike :=
  { k with
    kind := if k.kind = .commanded then .final else k.kind
    causes := k.causes &&& ~~~0xC4#32
    mainLost := true }

/-- VMAIN returns during a Strike that serves as the final one: a brown-out reset follows (R16). -/
def Strike.regainMain (k : Strike) : Strike :=
  { k with causes := if anyBit (k.causes &&& dueMask) then k.causes else k.causes ||| 4#32, mainLost := false }

/-- VMAIN is lost (R293). (DEDUCED, unsafe: assumption 53.) -/
def State.vmainLost (s : State) : State :=
  if !s.pwr.main || decide (s.pwr.state = .unpowered) then s
  else
    let s := (s.onPwr fun p => { p with main := false }).judgeFuses
    let s := if s.cellUp then s.onRtc Rtc.switchOver else s
    if s.carriesOn then s.onPwr fun p => { p with cell := true }
    else match s.pwr.strike with
      | some k =>
        s.onPwr fun p => { p with strike := some k.loseMain }
      | none =>
        if s.pwr.state = .awake then s.reserveFalls.strikeBegin .final 0#32
        else s.enterDepleted

/-- VMAIN is selected again (R16, R278, R293, R325). -/
def State.vmainBack (s : State) : State :=
  if s.pwr.main || decide (s.pwr.state = .unpowered) then s
  else
    let s := s.onPwr fun p => { p with main := true }
    match s.pwr.strike with
    | some k =>
      if k.kind = .final ∨ k.kind = .drain ∨ k.mainLost = true then
        s.onPwr fun p => { p with strike := some k.regainMain }
      else s.wake 10 0 false
    | none =>
      if s.pwr.state = .depleted then s.deviceReset 4#32 0#32 else s.wake 10 0 false

/-! ## Lantern's update (R271, R276, R278, R279) -/

/-- One threshold is re-evaluated, and a change fires its producer (R275, R276). -/
def State.judgeLevel (s : State) (k : Nat) : State :=
  let now := s.per.hrv.meets s.pwr.main k
  if s.per.hrv.met k = now then s else (s.onHrv fun h => h.setMet k now).fireAwake (173 + k)

/-- A change of threshold `k` since `old` is a wake source (R276, R290). -/
def State.levelWake (s : State) (old : Hrv) (k : Nat) : State :=
  if old.met k = s.per.hrv.met k then s else s.wake (7 + k) 0 false

/-- The fall of RMET while VMAIN is absent; a Strike that runs serves as the final one (R16, R278). -/
def State.drained (s : State) : State :=
  if s.pwr.main then s
  else match s.pwr.strike with
    | some k => s.onPwr fun p => { p with strike := some k.loseMain }
    | none =>
      if s.pwr.state = .awake then s.strikeBegin .drain 0#32
      else if s.pwr.state = .bivouac then s.enterDepleted
      else s

/-- The 125 ms update, with the charge in nAh that passed since the last one (R271, R276, R278). -/
def State.lanternUpdate (s : State) (delta : Int) : State :=
  if s.pwr.state = .unpowered then s
  else
    let h := s.per.hrv
    let s := (s.countSys 33 (microEvents (h.outRes % 1000) (-delta).toNat)).countSys 34
      (microEvents (h.inRes % 1000) delta.toNat)
    let s := s.onHrv fun h => h.integrate delta
    let before := s.per.hrv
    let s := ((s.judgeLevel 0).judgeLevel 1).judgeLevel 2
    if before.met 0 && !s.per.hrv.met 0 && !s.pwr.main then s.drained
    else if !before.met 1 && s.per.hrv.met 1 && decide (s.pwr.state = .depleted) then
      s.deviceReset 4#32 0#32
    else ((s.levelWake before 0).levelWake before 1).levelWake before 2

/-! ## Protections (R262, R263) -/

/-- The switch opens and, with VMAIN absent, the Porch has no supply (R262, R263). -/
def State.switchOff (s : State) : State :=
  if s.pwr.main then s else s.onPwr fun p => { p with state := .unpowered, strike := none }

/-- A trip that runs a final Strike before the switch opens (R262). -/
def State.tripStrike (s : State) : State :=
  match s.pwr.strike with
  | some k => s.onPwr fun p => { p with strike := some k.loseMain }
  | none =>
    if s.pwr.state = .awake then s.strikeBegin .final 0#32 else s.switchOff

/-! ## Registers (R297, R298) -/

def State.pwrRead (s : State) (off : Nat) : Word :=
  let p := s.pwr
  if off = 0x00 then p.cause
  else if off = 0x04 then p.wakeSrc
  else if off = 0x08 then p.wakeEn
  else if off = 0x0C then p.wakePin
  else if off = 0x10 then p.ticks.setWidth 32 ||| (p.count.setWidth 32) <<< 16
  else if off = 0x14 then p.bivcnt
  else if off = 0x18 then p.fstrike
  else if off = 0x20 then s.pwrStat
  else if off = 0x24 then p.ie
  else if off = 0x28 then p.opp
  else 0#32

/-- A write to PWR, after R6 has been judged. -/
def State.pwrWrite (s : State) (off : Nat) (v : Word) : State :=
  if off = 0x08 then s.onPwr fun p => { p with wakeEn := writeRW 0xF0797#32 p.wakeEn v }
  else if off = 0x0C then s.onPwr fun p => { p with wakePin := v }
  else if off = 0x10 then s.onPwr fun p => { p with ticks := v.setWidth 16 }
  else if off = 0x20 then s.onPwr fun p => { p with stat := writeW1C 0x300#32 p.stat v }
  else if off = 0x24 then s.onPwr fun p => { p with ie := v &&& 0x300#32 }
  else if off = 0x28 then s.setVpt v
  else s

def Clk.read (k : Clk) (off : Nat) : Word :=
  if off = 0 then k.stat else if off = 4 then k.ie else if off = 8 then k.div
  else if off = 0xC then k.dco else 0#32

def State.clkWrite (s : State) (off : Nat) (v : Word) : State :=
  if off = 0 then s.onClk fun k => { k with stat := writeW1C 0x18#32 k.stat v }
  else if off = 4 then s.onClk fun k => { k with ie := v &&& 0x18#32 }
  else if off = 8 then s.setDiv v
  else s

end Sys2Proof.Machine
end

