-- ==== Sys2Proof/Machine/Guyline.lean ====
section
/-! DEFINITION. The interrupt controllers' registers (R185-R193, R206) and the Guyline router: the delivery
of events to channels and consumers (R195-R199, R205), ownership (R200-R204) and the EVT registers
(R207). -/

namespace Sys2Proof.Machine

open Sys2Proof

/-! ## Channels -/

/-- EVT_CHn_CFG; outside the 64, the word of a channel without owner. -/
def Evt.cfg (e : Evt) (n : Nat) : Word := vget e.ch n 0x7000#32

def Evt.prod (e : Evt) (n : Nat) : Nat := bits (e.cfg n) 0 8
def Evt.enabled (e : Evt) (n : Nat) : Bool := bit (e.cfg n) 8
/-- OWNER: 0-3 a core, 4 Ridgepole, 7 none. -/
def Evt.owner (e : Evt) (n : Nat) : Nat := bits (e.cfg n) 12 3
def Evt.trusted (e : Evt) (n : Nat) : Bool := bit (e.cfg n) 15

/-- Consumer `k` names a channel while its EN is 1 (R201). -/
def Evt.names (e : Evt) (k : Nat) : Option Nat :=
  let w := vget e.cons k 0#32
  if bit w 6 then some (bits w 0 6) else none

/-- The owner of consumer `k`: that of the channel it names, or none while it is free (R200). -/
def Evt.consOwner (e : Evt) (k : Nat) : Option Nat := (e.names k).map e.owner

/-- Who an agent is among the owners of channels. -/
def ownerOf : Agent → Nat
  | .core c => c
  | .ridgepole => 4
  | .host => 7

/-- A channel that its owner no longer holds (R204). -/
def State.freeChannel (s : State) (n : Nat) : State :=
  let o := s.per.evt.owner n
  let s := s.onEvt fun e =>
    { e with
      ch := vset e.ch n 0x7000#32
      fired := setBit e.fired n false
      cons := e.cons.map fun w => if bit w 6 && decide (bits w 0 6 = n) then setBit w 6 false else w }
  let s := { s with inflight := s.inflight.map fun f => { f with gone := n :: f.gone } }
  if o < 4 then
    s.onIrq o fun q =>
      { q with en := setBit q.en (64 + n) false, pend := setBit q.pend (64 + n) false }
  else s

/-- A channel is claimed for a core: OWNER is written and SEC is Open (R174, R195). -/
def State.claimChannel (s : State) (n c : Nat) : State :=
  s.onEvt fun e => { e with ch := vmod e.ch n fun w => setBit (setBits w 12 3 c) 15 false }

/-- The channels of a retired core are freed (R194). -/
def State.freeChannelsOf (s : State) (c : Nat) : State :=
  (indices 62 fun n => decide (s.per.evt.owner n = c)).foldl State.freeChannel s

/-! ## Delivery (R195-R199, R205) -/

/-- Consumer `k` is busy (R198). -/
def State.consBusy (s : State) (k : Nat) : Bool :=
  if k < 48 then bit (s.timAt (k / 4)).stat (k % 4)
  else if 60 ≤ k ∧ k < 64 then (s.uaAt (k - 60)).shift.isSome
  else if k = 88 then s.per.tch.scan.isSome
  else if k = 90 then bit s.per.rtc.stat 7
  else if k = 91 then s.per.hrv.sampling
  else if k = 93 then s.per.net.alarmNow
  else false

/-- The pin action of EVT_POUTn (R199). -/
def State.pinAction (s : State) (n : Nat) : State :=
  let w := vget s.per.evt.pout n 0#32
  let b := bits w 0 7
  let act := bits w 8 2
  if 96 ≤ b ∨ act = 0 then s
  else
    let p := s.per.pin
    if p.isOutput b && decide (s.per.evt.consOwner (80 + n) = some (p.owner b)) then
      s.driveBall b (actionLevel act (bit p.out b))
    else s.onEvt fun e => { e with deny := true }

/-- What a consumer does with an event of channel `n` that reached it at `t` (R198). -/
def State.consume (s : State) (n prod : Nat) (t : Word) (k : Nat) : State :=
  if k < 48 then
    (if ((s.timAt (k / 4)).chan (k % 4)).mode = 2 then s.timCapture (k / 4) (k % 4) else s)
  else if k < 60 then s.timRestart (k - 48)
  else if k < 64 then s.onUa (k - 60) Ua.release
  else if k < 80 then
    s.makeReady (bits (vget s.per.evt.trel (k - 64) 0#32) 0 6) ⟨1, BitVec.ofNat 32 n⟩ (.event t prod)
  else if k < 88 then s.pinAction (k - 80)
  else if k = 88 then s.onTch fun c => if c.mode = 0 then c else c.request s.per.pin s.asleep
  else if k = 89 then s.onCnt Cnt.capture
  else if k = 90 then s.onRtc Rtc.eventCapture
  else if k = 91 then s.onHrv fun h => { h with sampling := true }
  else if k = 92 then s.clearIdle
  else if k = 93 then s.onNet fun m => { m with alarmNow := m.txq.any fun f => f.alarm && f.own }
  else s.onCnt fun c => c.setRun (decide (k = 94))

/-- A consumer that names the channel takes the event; a busy one ignores it and sets its overrun bit
(R198). -/
def State.offerConsumer (n prod : Nat) (t : Word) (s : State) (k : Nat) : State :=
  if s.per.evt.names k ≠ some n then s
  else if s.consBusy k then
    (s.onEvt fun e => { e with covr := setBit e.covr k true }).countSys 20 1
  else s.consume n prod t k

/-- A channel fires (R155, R195). -/
def State.fireChannel (prod : Nat) (s : State) (n : Nat) : State :=
  let e := s.per.evt
  let o := e.owner n
  let t := e.time
  let s := (s.onEvt fun e => { e with fired := setBit e.fired n true }).countSys 19 1
  let s := if o < 4 then s.fireSource o (64 + n) else if o = 4 ∧ 62 ≤ n then s.fireSource 4 n else s
  let s := if s.waymark && decide (o < 4) && !e.trusted n then
      s.onItg fun g => { g with coll := g.coll ++ [⟨t, prod, n⟩] }
    else s
  (List.range 96).foldl (State.offerConsumer n prod t) s

/-- The channels that an event of producer `p` fires; only a Trusted channel takes producer 190
(R195, R196). -/
def Evt.listeners (e : Evt) (p : Nat) : List Nat :=
  indices 64 fun n => e.enabled n && decide (e.prod n = p) && (decide (p ≠ 190) || e.trusted n)

/-- The channels that an event reaches: a producer's every channel that selects it, and a software fire its own,
those freed since it entered the resynchronisers apart (R195, R203, R204). -/
def Evt.reached (e : Evt) (f : Flight) : List Nat :=
  (if f.ev < 1000 then e.listeners f.ev
   else (e.listeners 188).filter fun n => decide (1000 + n = f.ev)).filter fun n => !decide (n ∈ f.gone)

/-- An event that has left the resynchronisers acts on the channels that it reaches (R195, R197). -/
def State.arrive (s : State) (f : Flight) : State :=
  (s.per.evt.reached f).foldl (State.fireChannel (if f.ev < 1000 then f.ev else 188)) s

/-- An event leaves the resynchronisers (R197). -/
def State.deliverEvent (s : State) (f : Flight) : State :=
  ({ s with inflight := s.inflight.filter (· ≠ f) }).arrive f

/-- The event for which channel `n` fires, when one is in the resynchronisers. -/
def State.eventFor (s : State) (n : Nat) : Option Flight :=
  (s.inflight.find? fun f => decide (f.ev = 1000 + n)).or
    (s.inflight.find? fun f => s.per.evt.enabled n && decide (f.ev = s.per.evt.prod n))

/-! ## EVT registers (R200-R203, R207) -/

/-- EVT_STAT as read. -/
def Evt.stat (e : Evt) : Word := flagAt 0 e.deny ||| flagAt 1 (anyBit e.covr) ||| flagAt 2 e.swerr

/-- Word `i` of a register bank kept as one vector of bits. -/
def word32 {n : Nat} (v : BitVec n) (i : Nat) : Word := (v >>> (32 * i)).setWidth 32

def setWord32 {n : Nat} (v : BitVec n) (i : Nat) (w : Word) : BitVec n :=
  (v &&& ~~~(((BitVec.allOnes 32).setWidth n) <<< (32 * i))) ||| ((w.setWidth n) <<< (32 * i))

/-- The bits below `k` of word `i` whose channel the agent does not see: those of Trusted channels
(R201). -/
def Evt.hidden (e : Evt) (i : Nat) : Word :=
  BitVec.ofNat 32 ((indices 32 fun k => e.trusted (32 * i + k)).foldl (fun n k => n + 2 ^ k) 0)

/-- A read of the EVT block. -/
def Evt.read (e : Evt) (canvas : Bool) (off : Nat) : Word :=
  if off = 0 then e.stat
  else if off = 4 then e.time
  else if 0x10 ≤ off ∧ off ≤ 0x14 then
    let i := (off - 0x10) / 4
    if canvas then word32 e.fired i &&& ~~~(e.hidden i) else word32 e.fired i
  else if 0x20 ≤ off ∧ off ≤ 0x28 then word32 e.covr ((off - 0x20) / 4)
  else if 0x100 ≤ off ∧ off < 0x200 then
    let n := (off - 0x100) / 4
    if canvas && e.trusted n then 0#32 else e.cfg n
  else if 0x200 ≤ off ∧ off < 0x380 then vget e.cons ((off - 0x200) / 4) 0#32
  else if 0x380 ≤ off ∧ off < 0x3C0 then vget e.trel ((off - 0x380) / 4) 0#32
  else if 0x3C0 ≤ off ∧ off < 0x3E0 then vget e.pout ((off - 0x3C0) / 4) 0#32
  else 0#32

def Evt.refuse (e : Evt) : Evt := { e with deny := true }

/-- Owner `o` has the say over consumer `k`: it is free or the owner's (R200, R207). -/
def Evt.mayTouch (e : Evt) (o k : Nat) : Bool :=
  match e.consOwner k with
  | none => true
  | some p => decide (p = o)

/-- A write to EVT_CONSn (R200). -/
def Evt.writeCons (e : Evt) (a : Agent) (k : Nat) (v : Word) : Evt :=
  let w := v &&& 0x7F#32
  let ok := match a with
    | .core c => (!bit v 6 || decide (e.owner (bits v 0 6) = c)) && e.mayTouch c k
    | _ => true
  if ok then { e with cons := vset e.cons k w } else e.refuse

/-- A write to EVT_CHn_CFG: Canvas writes PROD and EN of its own channels, Ridgepole every field
(R200, R207). -/
def Evt.writeCh (e : Evt) (a : Agent) (n : Nat) (v : Word) : Evt :=
  match a with
  | .core c =>
    if e.owner n = c then { e with ch := vmod e.ch n fun w => writeRW 0x1FF#32 w v } else e.refuse
  | _ =>
    let v := if bits v 12 3 = 5 ∨ bits v 12 3 = 6 then setBits v 12 3 7 else v
    { e with ch := vset e.ch n (v &&& 0xF1FF#32) }

/-- EVT_TRELn and EVT_POUTn are governed as consumers 64 + n and 80 + n (R200). -/
def Evt.mayWrite (e : Evt) (a : Agent) (k : Nat) : Bool :=
  match a with
  | .core c => e.mayTouch c k
  | _ => true

/-- The bits of a COVR word that the agent may clear: its own consumers and the free ones (R207). -/
def Evt.covrMask (e : Evt) (a : Agent) (i : Nat) : Word :=
  BitVec.ofNat 32 ((indices 32 fun k => e.mayTouch (ownerOf a) (32 * i + k)).foldl (fun n k => n + 2 ^ k) 0)

/-- The fired flags that the agent may clear: those of its own channels (R202). -/
def Evt.firedMask (e : Evt) (a : Agent) (i : Nat) : Word :=
  BitVec.ofNat 32 ((indices 32 fun k => decide (e.owner (32 * i + k) = ownerOf a)).foldl
    (fun n k => n + 2 ^ k) 0)

/-- A write to the EVT block other than EVT_SWFIRE, after R6 has been judged. -/
def Evt.write (e : Evt) (a : Agent) (off : Nat) (v : Word) : Evt :=
  if off = 0 then { e with deny := e.deny && !bit v 0, swerr := e.swerr && !bit v 2 }
  else if 0x10 ≤ off ∧ off ≤ 0x14 then
    let i := (off - 0x10) / 4
    { e with fired := setWord32 e.fired i (writeW1C (e.firedMask a i) (word32 e.fired i) v) }
  else if 0x20 ≤ off ∧ off ≤ 0x28 then
    let i := (off - 0x20) / 4
    { e with covr := setWord32 e.covr i (writeW1C (e.covrMask a i) (word32 e.covr i) v) }
  else if 0x100 ≤ off ∧ off < 0x200 then e.writeCh a ((off - 0x100) / 4) v
  else if 0x200 ≤ off ∧ off < 0x380 then e.writeCons a ((off - 0x200) / 4) v
  else if 0x380 ≤ off ∧ off < 0x3C0 then
    let n := (off - 0x380) / 4
    if e.mayWrite a (64 + n) then { e with trel := vset e.trel n (v &&& 0x3F#32) } else e.refuse
  else if 0x3C0 ≤ off ∧ off < 0x3E0 then
    let n := (off - 0x3C0) / 4
    if e.mayWrite a (80 + n) then { e with pout := vset e.pout n (v &&& 0x37F#32) } else e.refuse
  else e

/-- A write to EVT_SWFIRE (R203). -/
def State.swFire (s : State) (a : Agent) (v : Word) : State :=
  let n := bits v 0 6
  if s.per.evt.prod n = 188 ∧ s.per.evt.owner n = ownerOf a then s.fire (1000 + n)
  else s.onEvt fun e => { e with swerr := true }

/-- A Canvas write to EVT that R6 and R201 stop: it would change an owned field, or it touches a Trusted
channel. -/
def Evt.owned (e : Evt) (off : Nat) (v : Word) : Bool :=
  if 0x100 ≤ off ∧ off < 0x200 then
    let w := e.cfg ((off - 0x100) / 4)
    e.trusted ((off - 0x100) / 4) || decide ((w ^^^ v) &&& 0xF000#32 ≠ 0#32)
  else if 0x200 ≤ off ∧ off < 0x380 then
    (e.names ((off - 0x200) / 4)).any e.trusted || (bit v 6 && e.trusted (bits v 0 6))
  else if 0x380 ≤ off ∧ off < 0x3C0 then (e.names (64 + (off - 0x380) / 4)).any e.trusted
  else if 0x3C0 ≤ off ∧ off < 0x3E0 then (e.names (80 + (off - 0x3C0) / 4)).any e.trusted
  else if 0x10 ≤ off ∧ off ≤ 0x14 then
    decide (v &&& e.hidden ((off - 0x10) / 4) ≠ 0#32)
  else false

/-! ## IRQ registers (R185-R193, R206) -/

/-- Bank `b` reads as zero and ignores writes: C1 and C3 under Twin-skin (R191). -/
def State.irqDead (s : State) (b : Nat) : Bool := s.twin && decide (b = 1 ∨ b = 3)

/-- Source `i` may be enabled on bank `b` (R188). -/
def State.mayEnable (s : State) (b i : Nat) : Bool :=
  if b = 4 then decide (i < 64)
  else if i < 4 ∨ i = 56 then true
  else if i < 64 then bit (vget s.irq b IrqBank.reset).permit i
  else decide (s.per.evt.owner (i - 64) = b)

/-- The bits of word `n` of a bank's registers for which `p` holds. -/
def maskOf (n : Nat) (p : Nat → Bool) : Word :=
  BitVec.ofNat 32 ((indices 32 fun k => p (32 * n + k)).foldl (fun m k => m + 2 ^ k) 0)

/-- A write to IRQ_ENn: a 1 that is not permitted leaves its bit 0 and sets DENY (R188). -/
def State.irqEnable (s : State) (b n : Nat) (v : Word) : State :=
  let m := maskOf n (s.mayEnable b)
  s.onIrq b fun q =>
    { q with
      en := setWord32 q.en n (v &&& m)
      deny := q.deny || (decide (b < 4) && anyBit (v &&& ~~~m)) }

/-- A write to IRQ_PSETn: pending bits are set without a lost-event count, those of channels that the
writer does not own excepted (R206). -/
def State.irqPset (s : State) (a : Agent) (b n : Nat) (v : Word) : State :=
  let m := maskOf n fun i => decide (i < 64) || (decide (b < 4) && decide (s.per.evt.owner (i - 64) = ownerOf a))
  s.onIrq b fun q => { q with pend := setWord32 q.pend n (word32 q.pend n ||| (v &&& m)) }

/-- A write to IRQ_EOI (R186). -/
def IrqBank.eoi (q : IrqBank) : IrqBank :=
  match q.stack with
  | [] => { q with eoierr := true }
  | e :: r => { q with stack := r, act := setBit q.act e.src false }

/-- A write to IRQ_SWSET by core `k` (R190, R191). -/
def State.irqSwset (s : State) (k : CoreId) (v : Word) : State :=
  let hit := fun c : Nat => if s.twin then (decide (c % 2 = 0) && (bit v c || bit v (c + 1))) else bit v c
  (indices 4 hit).foldl (fun s c => s.fireSource c k) s

/-- A write to IRQ_PERMITn by Ridgepole: an IRQ_EN bit that loses its permit clears (R188, R206). -/
def State.irqPermit (s : State) (b n : Nat) (v : Word) : State :=
  let fixed := maskOf n fun i => decide (i < 4) || decide (i = 56)
  s.onIrq b fun q =>
    let permit := setWord32 q.permit n (v ||| fixed)
    { q with
      permit := permit
      en := if n < 2 then setWord32 q.en n (word32 q.en n &&& word32 permit n) else q.en }

/-- IRQ_STAT as read (R206). -/
def IrqBank.status (q : IrqBank) : Word :=
  flagAt 0 q.eoierr ||| flagAt 1 q.deny ||| field 8 q.running ||| field 12 q.stack.length |||
    match q.stack with
    | [] => 0#32
    | e :: _ => field 16 e.src

/-- IRQ_LOSTn: the counters of groups 2n and 2n + 1. -/
def IrqBank.lostWord (q : IrqBank) (n : Nat) : Word :=
  (vget q.lost (2 * n) 0#16).setWidth 32 ||| ((vget q.lost (2 * n + 1) 0#16).setWidth 32) <<< 16

/-- A read of bank `b`, at an offset from its base. -/
def State.irqRead (s : State) (b off : Nat) : Word :=
  let q := vget s.irq b IrqBank.reset
  if s.irqDead b then 0#32
  else if off = 0 then flagAt 0 (q.gie && !(s.waymark && decide (b < 4)))
  else if off = 4 then q.status
  else if 0x10 ≤ off ∧ off < 0x20 then word32 q.en ((off - 0x10) / 4)
  else if 0x20 ≤ off ∧ off < 0x30 then word32 q.pend ((off - 0x20) / 4)
  else if 0x30 ≤ off ∧ off < 0x40 then word32 q.pend ((off - 0x30) / 4)
  else if 0x40 ≤ off ∧ off < 0x50 then word32 q.act ((off - 0x40) / 4)
  else if 0x60 ≤ off ∧ off < 0xA0 then vget q.pri ((off - 0x60) / 4) 0#32
  else if 0xA0 ≤ off ∧ off < 0xB0 then q.lostWord ((off - 0xA0) / 4)
  else if 0xB0 ≤ off ∧ off < 0xB8 ∧ b < 4 then word32 q.permit ((off - 0xB0) / 4)
  else 0#32

/-- What a read changes: IRQ_LOSTn clears (R5, R206). -/
def State.irqReadEffect (s : State) (b off : Nat) : State :=
  if 0xA0 ≤ off ∧ off < 0xB0 ∧ s.irqDead b = false then
    let n := (off - 0xA0) / 4
    s.onIrq b fun q => { q with lost := vset (vset q.lost (2 * n) 0#16) (2 * n + 1) 0#16 }
  else s

/-- A write to bank `b` by agent `a`, after R6 and R189 have been judged. -/
def State.irqWrite (s : State) (a : Agent) (b off : Nat) (v : Word) : State :=
  if s.irqDead b then s
  else if off = 0 then
    (if s.waymark && decide (b < 4) then s else s.onIrq b fun q => { q with gie := bit v 0 })
  else if off = 4 then
    s.onIrq b fun q => { q with eoierr := q.eoierr && !bit v 0, deny := q.deny && !bit v 1 }
  else if off = 8 then s.onIrq b IrqBank.eoi
  else if off = 0xC then
    (match a with
     | .core k => s.irqSwset k v
     | _ => s)
  else if 0x10 ≤ off ∧ off < 0x20 then s.irqEnable b ((off - 0x10) / 4) v
  else if 0x20 ≤ off ∧ off < 0x30 then
    let n := (off - 0x20) / 4
    s.onIrq b fun q => { q with pend := setWord32 q.pend n (word32 q.pend n &&& ~~~v) }
  else if 0x30 ≤ off ∧ off < 0x40 then s.irqPset a b ((off - 0x30) / 4) v
  else if 0x60 ≤ off ∧ off < (if b < 4 then 0xA0 else 0x80) then
    s.onIrq b fun q => { q with pri := vset q.pri ((off - 0x60) / 4) v }
  else if 0xB0 ≤ off ∧ off < 0xB8 ∧ b < 4 ∧ isCanvas a = false then
    s.irqPermit b ((off - 0xB0) / 4) v
  else s

end Sys2Proof.Machine
end

