-- ==== Sys2Proof/Machine/Ridgepole.lean ====
section
/-! DEFINITION. Ridgepole: the Groundsheet (R92, R166, R167), images (R168, R169), the full boot and the
Pitch path (R164, R165), the services behind TRAP (R170-R178), and the Trail port (R180, R181). -/

namespace Sys2Proof.Machine

open Sys2Proof

/-! ## Reads by Ridgepole -/

def ridgepoleMaster : Nat := 4

/-- Ridgepole reads a range; an uncorrectable word is an integrity event, whose record shows an address of Ridgepole's
own, a free value (R80, R150, R151; DEDUCED, safe: assumption 30). -/
def State.ridgeRead (s : State) (a n : Nat) : State :=
  let b := (s.useFree 1).readRange ridgepoleMaster a n
  b.s.reactUnc (Config.freeWord s.free) b.unc

/-- Ridgepole's access outside every region is recorded, with an address of its own, a free value (R74, R150; DEDUCED,
safe: assumption 30). -/
def State.ridgeOutside (s : State) (a : Nat) : State :=
  (s.useFree 1).recordFault
    { cls := 0x0D, unit := ridgepoleMaster, addr := BitVec.ofNat 32 a, pc0 := Config.freeWord s.free } 0

/-! ## The Groundsheet (R92, R166, R167) -/

def gsBase (copy : Bool) : Nat := mramBase + (if copy then 0x800 else 0)

/-- A copy is valid: MAGIC and CRC (R166). -/
def gsValid (m : Memory) (copy : Bool) : Bool :=
  decide (m.word (gsBase copy) = 0x47534E44#32) &&
    decide (crc32 (m.bytes (gsBase copy) 0x7FC) = m.word (gsBase copy + 0x7FC))

/-- The fields of a copy (R166). -/
def gsAt (m : Memory) (copy : Bool) : Groundsheet :=
  let f := fun k : Nat => m.word (gsBase copy + 4 * k)
  { gen := f 1, sel := f 2, boot := f 3, wlim := f 4, wepoch := f 5, ecclim := f 6, misc := f 7
    dbg := f 8 }

/-- The copy in force (R92, R166). -/
def gsChoose (m : Memory) : Option Bool :=
  match gsValid m false, gsValid m true with
  | false, false => none
  | true, false => some false
  | false, true => some true
  | true, true => some (decide ((gsAt m false).gen.toNat < (gsAt m true).gen.toNat))

/-- The words of a Groundsheet from offset 0x004. -/
def Groundsheet.words (g : Groundsheet) : List Word :=
  [g.gen, g.sel, g.boot, g.wlim, g.wepoch, g.ecclim, g.misc, g.dbg]

/-- The first 2,044 bytes of a copy (R166). -/
def Groundsheet.body (g : Groundsheet) : List Byte :=
  bytesOf 0x47534E44#32 ++ g.words.flatMap bytesOf ++ List.replicate 2008 0#8

/-- GEN can still rise by 1 (R167). -/
def State.gsRoom (s : State) : Bool := decide (s.rp.gs.gen.toNat < 0xFFFFFFFE)

/-- A Groundsheet with GEN + 1 is written into the copy that is not in force (R92, R166). (DEDUCED, unsafe:
assumption 48.) -/
def State.writeGs (s : State) (g : Groundsheet) : State :=
  let g := { g with gen := s.rp.gs.gen + 1#32 }
  let copy := match s.rp.gsCopy with
    | none => false
    | some c => !c
  (s.writeWhole (gsBase copy) (g.body ++ bytesOf (crc32 g.body))).onRp fun r =>
    { r with gs := g, gsCopy := some copy }

def Groundsheet.pref (g : Groundsheet) : Bool := bit g.boot 0
def Groundsheet.trial (g : Groundsheet) : Bool := bit g.boot 1
def Groundsheet.tries (g : Groundsheet) : Nat := bits g.boot 2 2
/-- PMAX: the highest operating point that Canvas may request (R166). -/
def Groundsheet.pmax (g : Groundsheet) : Nat := bits g.misc 8 2
/-- WDDEF: the default watchdog period (R166). -/
def Groundsheet.wddef (g : Groundsheet) : Nat := bits g.misc 16 16

/-- PEG_GS0-PEG_GS7 take the copy in force (R382). -/
def State.reloadGs (s : State) : State :=
  let g := s.rp.gs
  s.onPeg fun p => { p with gs := #v[g.gen, g.sel, g.boot, g.wlim, g.wepoch, g.ecclim, g.misc, g.dbg] }

/-- PER as ITG_STEST stores it (R163). -/
def stestPer (n : Nat) : Nat := if n = 0 then 1 else min n 100

/-- Limits take effect: the Warden's, ECC's and the self-test period (R121, R175). -/
def State.loadLimits (s : State) (wlim wepoch ecc misc : Word) : State :=
  ((s.onWdn fun w => (w.writeLim wlim).writeEpochLim wepoch).onMm fun r =>
      { r with eccLim := ecc &&& 0xFFF#32 }).onItg fun g =>
    { g with stest := setBits g.stest 0 7 (stestPer (bits misc 0 7)) }

/-- The limits of the Groundsheet in force are loaded and recorded (R164, R175). -/
def State.adoptLimits (s : State) : State :=
  let g := s.rp.gs
  (s.loadLimits g.wlim g.wepoch g.ecclim g.misc).onRp fun r =>
    { r with limWlim := g.wlim, limWepoch := g.wepoch, limEcc := g.ecclim, limMisc := g.misc }

/-! ## Images (R168, R169) -/

/-- The physical address of image A or B. -/
def imageBase (p : Bool) : Nat := mramBase + (if p then 0x180000 else 0x80000)

def imageWord (m : Memory) (p : Bool) (off : Nat) : Nat := m.num (imageBase p + off) 4

/-- A range of bytes is zero. -/
def zeroBytes (m : Memory) (a n : Nat) : Bool := (m.bytes a n).all (· = 0#8)

/-- The header fields lie within the table, and ROLLBACK is at least CTR (R168). -/
def headerOk (m : Memory) (p : Bool) (ctr : Nat) : Bool :=
  let len := imageWord m p 4
  let entry := imageWord m p 8
  let rb := imageWord m p 0x10
  decide (imageWord m p 0 = 0x4B394657) && decide (len % 256 = 0) && decide (1024 ≤ len) &&
    decide (len ≤ 1048320) && decide (entry % 2 = 0) && decide (0x60000400 ≤ entry) &&
    decide (entry ≤ 0x60000100 + len - 2) && decide (imageWord m p 0xC = 0) && decide (rb ≤ 64) &&
    decide (ctr ≤ rb) && zeroBytes m (imageBase p + 0x18) 40 && zeroBytes m (imageBase p + 0x80) 128

/-- The signature is valid for the digest of the header and the body (R168). -/
def signatureOk (m : Memory) (p : Bool) : Bool :=
  match Config.makerKey with
  | none => false
  | some key => ed25519 key
      (sha256 (m.bytes (imageBase p) 0x40 ++ m.bytes (imageBase p + 0x100) (imageWord m p 4)))
      (m.bytes (imageBase p + 0x40) 64)

/-- The image passes verification (R168). -/
def imageOk (m : Memory) (p : Bool) (ctr : Nat) : Bool := headerOk m p ctr && signatureOk m p

/-- Ridgepole verifies an image, reading what it hashes (R80, R168). -/
def State.verify (s : State) (p : Bool) : State × Bool :=
  let ok := imageOk s.mem p s.rp.ctr
  let n := if headerOk s.mem p s.rp.ctr then 0x100 + imageWord s.mem p 4 else 0x100
  (s.ridgeRead (imageBase p) n, ok)

/-- The Groundsheet falls back to the other image and ends the trial (R169). -/
def State.fallBack (s : State) : State :=
  let g := s.rp.gs
  s.writeGs { g with boot := setBit (setBit g.boot 0 !g.pref) 1 false }

/-- The image that the boot tries first, and the Groundsheet writes before it is verified; a Groundsheet that GEN
does not let rise is not written (R167, R169). -/
def State.tryStep (s : State) : State × Bool :=
  let g := s.rp.gs
  let p := g.pref
  if !g.trial then (s, p)
  else if g.tries = 0 then ((if s.gsRoom then s.fallBack else s), !p)
  else ((if s.gsRoom then s.writeGs { g with boot := setBits g.boot 2 2 (g.tries - 1) } else s), p)

/-- The image that the boot runs, when one passes (R169). A fault that a verification raises resets the device, and
the selection then ends (R80, R151). -/
def State.selectImage (s : State) : State × Option Bool :=
  let t := s.tryStep
  let p := t.2
  let a := t.1.verify p
  if a.1.rp.itgPend.isSome then (a.1, none)
  else if a.2 then (a.1, some p)
  else
    let b := a.1.verify (!p)
    if b.2 && b.1.rp.itgPend.isNone then
      ((if b.1.rp.gs.trial && b.1.gsRoom then b.1.writeGs { b.1.rp.gs with
          boot := setBit (setBit b.1.rp.gs.boot 0 !p) 1 false } else b.1), some (!p))
    else (b.1, none)

/-! ## Retired bits and the reaction to a fault (R133, R146, R147) -/

/-- The cores of a pair. -/
def pairMask (p : Nat) : Word := field (16 + 2 * p) 3

/-- Both cores of pair `p` are retired. -/
def pairRetired (retire : Word) (p : Nat) : Bool := bit retire (16 + 2 * p) && bit retire (17 + 2 * p)

/-- The reaction to a recorded integrity fault: retirement, or the stopped state (R146). -/
def Ridgepole.applyFault (r : Ridgepole) : Ridgepole :=
  match r.itgPend with
  | none => r
  | some f =>
    { r with
      itgPend := none
      retire := if f.action = 2 then r.retire ||| pairMask f.pair else r.retire
      stoppedRec := r.stoppedRec || decide (f.action = 3) }

/-- A core may start: it is not retired, and under Twin-skin it leads its pair (R20). -/
def State.startable (s : State) (c : Nat) : Bool :=
  !s.coreRetired c && (!s.twin || decide (c % 2 = 0))

/-- ITG_STAT.RET shows the retired pairs (R163). -/
def Itg.showRetired (g : Itg) (retire : Word) : Itg :=
  { g with stat := setBit (setBit g.stat 2 (pairRetired retire 0)) 3 (pairRetired retire 1) }

/-- The stored retired bits are set, and ITG_STAT shows the retired pairs (R133, R163). -/
def State.restoreRetired (s : State) : State :=
  (s.onWdn fun w => { w with retSb := s.rp.retSb, retire := s.rp.retire }).onItg fun g =>
    g.showRetired s.rp.retire

/-- The stopped state is entered (R147). -/
def State.enterStopped (s : State) : State :=
  (s.onRp fun r => { r with mode := .stopped, record := none }).onItg fun g =>
    { g with stat := setBit g.stat 1 true }

/-! ## Starting Canvas (R20, R106, R174) -/

/-- An entry that Ridgepole declares before the first fetch (R106); its HINT shows 0 (DESIGN CHOICE, unsafe:
assumption 97). -/
def bootEntry (base size : Nat) (cls : ObjClass) (rights : BitVec 24) (xp : Bool) (bank : Nat) :
    ObjEntry :=
  { ObjEntry.empty with
    phase := .live, base := BitVec.ofNat 20 base, size := size, cls := cls, xp := xp, owner := 8,
    rights := rights, bank := bank }

/-- Read and execute for all eight groups. -/
def imageRights : BitVec 24 := 0xB6DB6D#24

/-- OBJ0 and OBJ1 hold the image (R20, R106). -/
def State.declareImage (s : State) (p : Bool) : State :=
  let b := if p then 3 else 1
  (s.onObj 0 fun _ => bootEntry 0 11 .fix imageRights true b).onObj 1 fun _ =>
    bootEntry 0x800 11 .fix imageRights true (b + 1)

/-- The boot stack of core `c`, in its own quadrant where that has room (R106, R120). -/
def State.declareStack (s : State) (c : Nat) : State :=
  let e := bootEntry (0xFFFF0 + 4 * c) 2 .vol 3#24 false 0
  match s.place s.mem.journal .vol (c + 1) 2 with
  | some (b, o, f) =>
    (s.declareAt (508 + c) e ⟨b, o, f, [], none, false⟩).onMm fun r =>
      { r with sbPwr := if isSramBank b then setBit r.sbPwr (b - 16) true else r.sbPwr }
  | none => s

/-- A core starts at the entry point (R20). (DESIGN CHOICE, unsafe: assumption 4.) -/
def Core.boot (c : Nat) (entry : Word) : Core :=
  { Core.reset with
    w := Core.reset.w.set 15 (BitVec.ofNat 32 (0x6FFFF400 + 0x400 * c))
    pc := entry
    phase := .run }

/-- The cores that may start do (R20). -/
def State.startCores (s : State) (entry : Word) : State :=
  { s with cores := Vector.ofFn fun c : Fin 4 =>
      if s.startable c then Core.boot c entry else Core.reset }

/-- Ridgepole's own channels 62 and 63 (R195). (DEDUCED, unsafe: assumption 43.) -/
def State.ownChannels (s : State) : State :=
  s.onEvt fun e => { e with ch := vset (vset e.ch 62 0xC000#32) 63 0xC000#32 }

/-- PCLK cycles in a watchdog period in units of 10 ms (R178, R283). -/
def wdogCycles (n : Nat) : Nat := n * 221184

/-- Canvas starts on the image: step 6 of R164, and the end of the Pitch path. -/
def State.startCanvas (s : State) (p : Bool) : State :=
  let s := s.declareImage p
  let s := (indices 4 s.startable).foldl State.declareStack s
  let s := s.onRp fun r =>
    { r with
      mode := .up
      running := some p
      rollback := imageWord s.mem p 0x10
      version := BitVec.ofNat 32 (imageWord s.mem p 0x14)
      wdog := r.gs.wddef
      wdogLeft := wdogCycles r.gs.wddef }
  let s := s.ownChannels.startCores (BitVec.ofNat 32 (imageWord s.mem p 8))
  { s with snap := s.live }

/-- Step 3 of R164: the Groundsheet in force, its selections and its limits. -/
def State.loadGs (s : State) : State :=
  let copy := gsChoose s.mem
  let g := match copy with
    | none => Groundsheet.default
    | some c => gsAt s.mem c
  let s := (s.onRp fun r => { r with gs := g, gsCopy := copy, dbgen := bit g.dbg 0 }).onItg fun i =>
    { i with cfg := g.sel &&& 0x1F#32 }
  s.adoptLimits.reloadGs.onPeg fun p => { p with ready := true }

/-- Step 4 of R164: the stopped state ends at a power-on, an NRST or a Peg reset (R147), the reaction to
a fault is applied, and retired bits are set. -/
def State.settleBoot (s : State) : State :=
  let clear := anyBit (s.pwr.cause &&& 0x83#32)
  (s.onRp fun r => { r with stoppedRec := r.stoppedRec && !clear }.applyFault).restoreRetired

/-- No core is left to start (R146). -/
def State.noCore (s : State) : Bool := (indices 4 s.startable).isEmpty

/-- Steps 5 and 6 of R164. -/
def State.bootImage (s : State) : State :=
  let r := s.selectImage
  match r.2 with
  | none => if r.1.rp.itgPend.isSome then r.1 else r.1.enterStopped
  | some p =>
    (r.1.onRp fun k => { k with record := some ⟨p, r.1.itg.cfg⟩ }).startCanvas p

/-- A full boot is due: reset has been released, and the cause is not that of a Bivouac wake that may
take the Pitch path (R164, R165). -/
def State.bootDue (s : State) : Bool :=
  s.running && decide (s.rp.mode = .cold) &&
    !(decide (s.pwr.cause = 8#32) && s.rp.record.isSome)

/-- Pitch's reads of both commit records after a reset are corrected, counted and logged as any read (R79, R80,
R100). -/
def State.pitchReads (s : State) : State :=
  let b := s.readWords strikeEngine ((recordErrors s.mem false ++ recordErrors s.mem true).map (·.1))
  b.s.reactUnc 0#32 b.unc

/-- The full boot (R164). (DEDUCED, unsafe: assumption 82.) -/
def State.fullBoot (s : State) : State :=
  if !s.bootDue then s
  else
    let s := (s.pitchReads.ridgeRead mramBase 0x80000).useFree 1
    if s.rp.mode ≠ .cold ∨ s.running = false then s
    else if !Config.startTest (s.free - 1) then s.onRp fun r => { r with mode := .halted }
    else
      let s := s.loadGs.settleBoot
      if s.rp.stoppedRec || s.noCore then s.enterStopped else s.bootImage

/-- The Pitch path of a Bivouac wake (R13, R165). -/
def State.pitchPath (s : State) : State :=
  match s.rp.record with
  | none => s
  | some b =>
    if s.running && decide (s.rp.mode = .cold) && decide (s.pwr.cause = 8#32) then
      let s := (s.pitchReads.loadLimits s.rp.limWlim s.rp.limWepoch s.rp.limEcc s.rp.limMisc).onItg fun i =>
        { i with cfg := b.sel }
      let s := s.restoreRetired.reloadGs.onPeg fun p => { p with ready := true }
      s.startCanvas b.image
    else s

/-- Ridgepole copies each new retired bit into its store (R133). (DEDUCED, unsafe: assumption 40.) -/
def State.copyRetired (s : State) : State :=
  if (s.rp.mode = .up || s.rp.mode = .stopped) &&
      (s.rp.retSb != s.wdn.retSb || s.rp.retire != s.wdn.retire) then
    ((s.onRp fun r => { r with retSb := s.wdn.retSb, retire := s.wdn.retire }).onItg fun g =>
      g.showRetired s.wdn.retire).storeWrites
  else s

/-! ## Services (R170-R178) -/

/-- A status word of R172. -/
def status (n : Nat) : Word := 0#32 - BitVec.ofNat 32 n

/-- The state after a service, and its answer. -/
structure Served where
  s : State
  r : TrapAnswer
  deriving DecidableEq, Repr

/-- A service that fails, with nothing but its status. -/
def State.fails (s : State) (n : Nat) : Served := ⟨s, ⟨status n, 0#32, 0#32, 0#32⟩⟩

/-- A service that succeeds, with its results. -/
def State.serves (s : State) (w1 w2 w3 : Word) : Served := ⟨s, ⟨0#32, w1, w2, w3⟩⟩

def errUnknown : Nat := 1
def errBadarg : Nat := 2
def errDenied : Nat := 3
def errBusy : Nat := 4
def errRights : Nat := 5
def errNores : Nat := 6
def errSupply : Nat := 7
def errInvalid : Nat := 8

/-- INFO (R173). -/
def State.svcInfo (s : State) : Served :=
  let r := s.rp
  s.serves (Config.romRev.setWidth 32)
    (flagAt 0 (r.running = some true) ||| flagAt 1 r.gs.trial ||| field 2 r.gs.tries |||
      field 8 r.rollback ||| field 16 r.ctr) r.version

/-- IMG_CONFIRM (R173). -/
def State.svcConfirm (s : State) : Served :=
  let g := s.rp.gs
  if !g.trial then s.serves 0#32 0#32 0#32
  else if !s.gsRoom then s.fails errNores
  else (s.writeGs { g with boot := setBit g.boot 1 false }).serves 0#32 0#32 0#32

/-- IMG_SWITCH to image `p`, by a service or a Peg command (R173, R377): the state and the status. -/
def State.imgSwitch (s : State) (n : Nat) : State × Nat :=
  let p := decide (n = 1)
  if 1 < n ∨ s.rp.running = some p then (s, errBadarg)
  else
    let v := s.verify p
    if !v.2 || decide (v.1.rp.mode ≠ s.rp.mode) then (v.1, errInvalid)
    else if !v.1.gsRoom then (v.1, errNores)
    else
      let g := v.1.rp.gs
      (v.1.writeGs { g with boot := setBits (setBit (setBit g.boot 0 p) 1 true) 2 2 3 }, 0)

/-- ROLLBACK_COMMIT is taken: it begins to blow fuses, while the supply allows it; its answer is made when it ends
(R170, R173). (DEDUCED, safe: assumption 56.) -/
def State.svcRollback (s : State) : Served :=
  let r := s.rp
  if r.gs.trial then s.fails errDenied
  else if r.rollback ≤ r.ctr then s.serves (BitVec.ofNat 32 r.ctr) 0#32 0#32
  else if s.pwr.main && s.pwr.fuseSupply then
    (s.onRp fun r => { r with fusing := true }).serves (BitVec.ofNat 32 r.rollback) 0#32 0#32
  else ⟨s, ⟨status errSupply, BitVec.ofNat 32 r.ctr, 0#32, 0#32⟩⟩

/-- ROLLBACK_COMMIT ends: the fuses that remain are blown, unless the supply failed meanwhile; the answer then is
SUPPLY, with CTR as far as it was raised (R170, R173). -/
def State.endRollback (s : State) (r : TrapAnswer) : Served :=
  if s.rp.fusing then ⟨s.onRp fun r => { r with ctr := max r.ctr r.rollback, fusing := false }, r⟩
  else if r.w0 = 0#32 ∧ s.rp.ctr < s.rp.rollback then
    ⟨s, ⟨status errSupply, BitVec.ofNat 32 s.rp.ctr, 0#32, 0#32⟩⟩
  else ⟨s, r⟩

/-- PIN_CLAIM (R395, R396). -/
def State.svcPinClaim (s : State) (c : CoreId) (w1 w2 : Word) : Served :=
  let b := w1.toNat
  let f := bits w2 0 4
  if 96 ≤ b ∨ claimAllowed f b = false then s.fails errBadarg
  else if s.per.pin.owner b < 4 then
    (s.onPin fun p => { p with stat := setBit p.stat 0 true }).fails errBusy
  else (s.onPin fun p => p.claim b f c (bit w2 8)).serves 0#32 0#32 0#32

/-- PIN_FREE (R396). -/
def State.svcPinFree (s : State) (c : CoreId) (w1 : Word) : Served :=
  let b := w1.toNat
  if 96 ≤ b then s.fails errBadarg
  else if s.per.pin.owner b ≠ c then s.fails errDenied
  else (s.onPin fun p => p.free b).serves 0#32 0#32 0#32

/-- CHAN_CLAIM (R173, R174). -/
def State.svcChanClaim (s : State) (c : CoreId) (w1 : Word) : Served :=
  let free := fun n : Nat => decide (4 < s.per.evt.owner n)
  if w1 = 0xFFFFFFFF#32 then
    match (List.range 62).find? free with
    | some n => (s.claimChannel n c).serves (BitVec.ofNat 32 n) 0#32 0#32
    | none => s.fails errNores
  else if 62 ≤ w1.toNat then s.fails errBadarg
  else if free w1.toNat then (s.claimChannel w1.toNat c).serves w1 0#32 0#32
  else s.fails errBusy

/-- CHAN_FREE (R173, R204). -/
def State.svcChanFree (s : State) (c : CoreId) (w1 : Word) : Served :=
  if 64 ≤ w1.toNat then s.fails errBadarg
  else if s.per.evt.owner w1.toNat ≠ c then s.fails errDenied
  else (s.freeChannel w1.toNat).serves 0#32 0#32 0#32

/-- DVFS: VPT and the top DIV of the point, the voltage first when it rises (R177, R286, R287). (DEDUCED,
unsafe: assumption 84.) -/
def State.requestPoint (s : State) (p : Nat) : State :=
  let v : Word := BitVec.ofNat 32 p
  let d : Word := BitVec.ofNat 32 (topDiv p)
  (if s.pwr.vpt ≤ p then (s.setVpt v).setDiv d else (s.setDiv d).setVpt v).onClk fun k =>
    { k with alone := false }

def State.svcDvfs (s : State) (w1 : Word) : Served :=
  if 3 ≤ w1.toNat then s.fails errBadarg
  else if s.rp.gs.pmax < w1.toNat then s.fails errDenied
  else (s.requestPoint w1.toNat).serves w1 0#32 0#32

/-- STAY (R176). -/
def State.svcStay (s : State) (c : CoreId) (w1 : Word) : Served :=
  if 2 ≤ w1.toNat then s.fails errBadarg
  else (s.onRp fun r => { r with stay := setBit r.stay c (bit w1 0) }).serves 0#32 0#32 0#32

/-- Rights group of a core: its task's, or group 0 in thread code (R21, R105). -/
def State.groupOf (s : State) (c : CoreId) : Nat :=
  if bit s.cores[c].task 31 then 0 else (s.tskAt (bits s.cores[c].task 0 6)).group

/-- The `n` bytes from a logical address lie in objects that group `g` may read (R38). -/
def State.readable (s : State) (g a n : Nat) : Bool :=
  (List.range n).all fun i => (s.wdn.find (a + i)).any fun e => e.mayRead g

/-- A key of the store; a slot whose CRC-32 is wrong reads as empty (R171). -/
def Ridgepole.key (r : Ridgepole) (slot : Nat) : Option (List Byte) :=
  (r.keys.find? fun k => decide (k.slot = slot) && k.whole).map (·.key)

/-- A slot takes a key, with its CRC-32 (R171). -/
def Ridgepole.setKey (r : Ridgepole) (slot : Nat) (key : List Byte) : Ridgepole :=
  { r with keys := ⟨slot, key, crc32 key⟩ :: r.keys.filter fun k => decide (k.slot ≠ slot) }

/-- A slot is emptied. -/
def Ridgepole.dropKey (r : Ridgepole) (slot : Nat) : Ridgepole :=
  { r with keys := r.keys.filter fun k => decide (k.slot ≠ slot) }

/-- Ridgepole reads one byte by a logical address. -/
def State.ridgeByte (s : State) (a : Nat) : State × Byte :=
  match s.wdn.index a with
  | none => (s, 0#8)
  | some i =>
    let p := (s.objAt i).translate a
    ((s.lookUp ridgepoleMaster i).ridgeRead (eccWord p) 1, s.mem.byte p)

/-- The bytes from a logical address (R38). -/
def State.ridgeBytes (s : State) (a : Nat) : Nat → State × List Byte
  | 0 => (s, [])
  | n + 1 =>
    let b := s.ridgeByte a
    let r := b.1.ridgeBytes (a + 1) n
    (r.1, b.2 :: r.2)

/-- KEY_LOAD (R171, R173). -/
def State.svcKeyLoad (s : State) (c : CoreId) (w1 w2 : Word) : Served :=
  let slot := w1.toNat
  if 1028 ≤ slot then s.fails errBadarg
  else if 1026 ≤ slot then s.fails errDenied
  else if !s.readable (s.groupOf c) w2.toNat 16 then s.fails errRights
  else
    let r := s.ridgeBytes w2.toNat 16
    if r.1.rp.mode = .up then
      (r.1.onRp fun k => { (k.setKey slot r.2) with keyWrite := some slot }).storeWrites.serves 0#32 0#32 0#32
    else r.1.fails errRights

/-- The check value of a key (R171, R173). -/
def checkValue (slot : Nat) (key : List Byte) : Word :=
  let b := if slot < 1026 then aes key (List.replicate 16 0#8) else hmac key []
  wordOf (b.take 3).reverse

/-- KEY_CHECK (R171, R173). -/
def State.svcKeyCheck (s : State) (w1 : Word) : Served :=
  if 1028 ≤ w1.toNat then s.fails errBadarg
  else match s.rp.key w1.toNat with
    | none => s.fails errNores
    | some k => s.serves (checkValue w1.toNat k) 0#32 0#32

/-- EMB_RIGHTS (R96, R173). -/
def State.svcEmbRights (s : State) (c : CoreId) (w1 w2 : Word) : Served :=
  let b := w1.toNat
  if 16 ≤ b ∨ 256 ≤ w2.toNat then s.fails errBadarg
  else if bit s.cores[c].task 31 = false then s.fails errDenied
  else (s.onMm fun r =>
      { r with rights := vmod r.rights (b / 4) fun w => setBits w (8 * (b % 4)) 8 w2.toNat }).serves
    0#32 0#32 0#32

/-- WDOG_SET (R173, R178). -/
def State.svcWdogSet (s : State) (w1 : Word) : Served :=
  let n := w1.toNat
  if n = 0 ∨ 6553 < n then s.fails errBadarg
  else if s.rp.wdog ≠ 0 ∧ s.rp.wdog < n then s.fails errDenied
  else (s.onRp fun r => { r with wdog := n, wdogLeft := wdogCycles n }).serves 0#32 0#32 0#32

/-- WDOG_KICK: the period begins again (R173, R178). -/
def State.svcWdogKick (s : State) : Served :=
  (s.onRp fun r => { r with wdogLeft := wdogCycles r.wdog }).serves 0#32 0#32 0#32

/-! ## One service at a time (R37, R173) -/

/-- Service `n` of R173 for core `c`; a number above 15 is unknown (R37). RESET begins its Strike. -/
def State.service (s : State) (c : CoreId) (n : Nat) : Served :=
  let w1 := s.cores[c].w[1]
  let w2 := s.cores[c].w[2]
  match n with
  | 0 => s.svcInfo
  | 1 => s.svcConfirm
  | 2 =>
    let r := s.imgSwitch w1.toNat
    ⟨r.1, ⟨status r.2, 0#32, 0#32, 0#32⟩⟩
  | 3 => s.svcRollback
  | 4 => s.svcPinClaim c w1 w2
  | 5 => s.svcPinFree c w1
  | 6 => s.svcChanClaim c w1
  | 7 => s.svcChanFree c w1
  | 8 => s.svcDvfs w1
  | 9 => s.svcStay c w1
  | 10 => s.svcKeyLoad c w1 w2
  | 11 => s.svcKeyCheck w1
  | 12 => s.svcEmbRights c w1 w2
  | 13 => s.svcWdogSet w1
  | 14 => s.svcWdogKick
  | 15 => (s.commandReset 0x40#32).serves 0#32 0#32 0#32
  | _ => s.fails errUnknown

/-- Ridgepole takes the request of core `c`, and its answer is made; a service that resets the device gives none
(R37, R173). (DEDUCED, unsafe: assumption 23.) -/
def State.takeService (s : State) (c : CoreId) (n : Nat) : State :=
  let t := (s.onCore c fun k => { k with asked := none }).onRp fun r => { r with serving := some (c, n), served := c }
  let v := t.service c n
  if v.s.canvasUp && decide (n ≠ 15) then v.s.onCore c fun k => { k with trap := some v.r } else v.s

/-- The core that Ridgepole serves next: the first that waits, in round-robin order of core number (R173). -/
def State.nextAsking (s : State) : Option (CoreId × Nat) :=
  ((List.range 4).map fun i => (Fin.ofNat 4 (s.rp.served.val + 1 + i) : CoreId)).findSome? fun c =>
    s.cores[c].asked.map fun n => (c, n)

/-- Ridgepole takes the next request, when it serves none (R173, R177). -/
def State.takeNext (s : State) : State :=
  if s.rp.serving.isSome then s
  else match s.nextAsking with
    | some (c, n) => s.takeService c n
    | none => s

/-! ## The Trail port (R180, R181) -/

/-- The device identity, most significant byte first (R373). -/
def uidBytes : List Byte := (bytesOfNat 8 Config.uid.toNat).reverse

/-- SCOPE names whole pairs under Twin-skin (R180). -/
def State.scopeOk (s : State) (scope : Word) : Bool :=
  !s.twin || (decide (bit scope 0 = bit scope 1) && decide (bit scope 2 = bit scope 3))

/-- DBGEN is 0 or the debug key is missing (R180). -/
def State.trailOff (s : State) : Bool := !s.rp.dbgen || (s.rp.key 1027).isNone

/-- The submission succeeds (R180). -/
def State.trailGood (s : State) (resp : List Byte) (scope : Word) : Bool :=
  !s.rp.trail.locked && !s.trailOff && s.scopeOk scope &&
    match s.rp.key 1027 with
    | none => false
    | some k => decide (resp = hmac k (s.rp.trail.chal ++ uidBytes ++ bytesOf scope))

/-- RESP and SCOPE are submitted (R180). -/
def State.trailSubmit (s : State) (resp : List Byte) (scope : Word) : State :=
  let scope := scope &&& 0xF#32
  let s := s.fireSource 4 58
  if s.trailGood resp scope then
    s.onRp fun r => { r with trail := { r.trail with scope := scope, isOpen := true } }
  else
    let n := min 3 (s.rp.trail.fails + 1)
    (s.onRp fun r =>
      { r with trail :=
        { r.trail with
          chal := freeBytes s.free 16
          scope := scope
          disabled := r.trail.disabled || s.trailOff
          fails := n
          locked := r.trail.locked || decide (n = 3) } }).useFree 16

/-- The debugger's session reaches core `c` (R181). -/
def State.debugs (s : State) (c : CoreId) : Bool :=
  s.running && s.rp.trail.isOpen && bit s.rp.trail.scope c

/-- The core that stands for `c`: the leader of its pair under Twin-skin (R138, R181). -/
def State.leadCore (s : State) (c : CoreId) : CoreId :=
  if s.twin && decide (c.val % 2 = 1) then haltCore s (c.val - 1) else c

end Sys2Proof.Machine
end

