-- ==== Sys2Proof/Machine/Net.lean ====
section
/-! DEFINITION. The network engine outside its slots: the table object (R228), slots and capacity
(R229-R236), frames and their protection (R237-R246), the neighbour and route tables (R245, R248-R250),
the frame buffers (R253), the commands of NET_CMD (R246, R247, R253-R256, R259) and the registers
(R259). -/

namespace Sys2Proof.Machine

open Sys2Proof

def netMaster : Nat := 6

def Net.flag (n : Net) (i : Nat) : Net := { n with stat := setBit n.stat i true }

def State.netFlag (s : State) (i : Nat) : State := s.onNet fun n => n.flag i

/-! ## Register fields (R259) -/

def Net.en (n : Net) : Bool := bit n.ctl 0
def Net.router (n : Net) : Bool := bit n.ctl 1
def Net.base (n : Net) : Bool := bit n.ctl 2
def Net.slen (n : Net) : Nat := bits n.ctl 4 2
/-- This node's ID. -/
def Net.me (n : Net) : Nat := bits n.id 0 10
/-- STATE. -/
def Net.state (n : Net) : Nat := bits n.stat 0 3
def Net.setState (n : Net) (k : Nat) : Net := { n with stat := setBits n.stat 0 3 k }
/-- The parent, this node's HOPS and the key generation, as the header's PARENT holds them (R228). -/
def Net.parent (n : Net) : Nat := bits n.par 0 10
def Net.hops (n : Net) : Nat := if n.base then 0 else bits n.par 12 4
def Net.gen (n : Net) : Nat := bits n.par 16 8

def netOff : Nat := 0
def netSeek : Nat := 1
def netJoining : Nat := 2
def netJoined : Nat := 3
def netOrphan : Nat := 4
def netBase : Nat := 5

/-- The node has a place in the tree: it is JOINED or the Basecamp. -/
def Net.placed (n : Net) : Bool := decide (n.state = netJoined) || decide (n.state = netBase)

/-- The node owns a slot: JOINED, ORPHAN or the Basecamp (R249). -/
def Net.slotted (n : Net) : Bool := n.placed || decide (n.state = netOrphan)

/-- The node listens whenever it is awake: it seeks, joins, surveys, or has lost its slot timer (R247,
R249). -/
def Net.seeking (n : Net) : Bool :=
  decide (n.state = netSeek) || decide (n.state = netJoining) || n.survey ||
    (decide (n.state = netOrphan) && !n.timing)

/-- A saturating 16-bit count in a half of NET_CNTn. -/
def bump (w : Word) (hi : Bool) : Word :=
  let lo := if hi then 16 else 0
  setBits w lo 16 (satAdd 0xFFFF (bits w lo 16) 1)

/-! ## Slots and capacity (R229, R236) -/

/-- The slot length S in ms. -/
def slotMs (slen : Nat) : Nat := 125 * 2 ^ slen

/-- Slot `k` is a shared alarm slot. -/
def alarmSlot (k : Nat) : Bool := decide (k % 9 = 8)

/-- The guard G and the turnaround T_TA, in ms (R231). -/
def guardMs : Nat := 6
def turnMs : Nat := 4

/-- A frame of payload M, coded, and its ACK fit in a slot (R236). -/
def payloadFits (rate slen m : Nat) : Bool :=
  decide ((2 * guardMs + turnMs) * symbolRate rate + airTime rate 11 true +
    airTime rate (m + 21) true ≤ slotMs slen * symbolRate rate)

/-- The largest MAC payload M; 0 where the combination is not usable, as with a RATE code above 4 (R228, R236). -/
def maxPayload (rate slen : Nat) : Nat :=
  if 4 < rate then 0
  else ((List.range 227).reverse.map (· + 8)).find? (payloadFits rate slen) |>.getD 0

def Rf.txRate (r : Rf) : Nat := bits r.rate 0 3
def Rf.code (r : Rf) : Bool := bit r.rate 8

/-- M for the rate and slot length in force. -/
def State.netM (s : State) : Nat := maxPayload s.per.rf.txRate s.per.net.slen

/-- The longest message (R236). -/
def State.netLongest (s : State) : Nat := min 1024 (64 * (s.netM - 7))

/-! ## The table object (R228) -/

/-- The live object that begins at a logical address. -/
def Warden.objAtBase (w : Warden) (a : Nat) : Option ObjEntry :=
  w.obj.toList.find? fun e => e.reachable && decide (e.logical = a)

/-- The table object: an 8 KiB PER object that gives no task group a write right. -/
def State.tableObj (s : State) : Option ObjEntry :=
  match s.wdn.objAtBase s.per.net.tbl.toNat with
  | none => none
  | some e =>
    if decide (e.cls = .per) && decide (e.size = 5) && (List.range 8).all fun g => !e.mayWrite g
    then some e else none

/-- The physical base of the table object; it is present while the engine runs (R258). -/
def State.tab (s : State) : Nat :=
  match s.tableObj with
  | some e => e.physical
  | none => 0

/-- The engine stores bytes at offset `off` of object `i`, in beats of 8 bytes at most; an executable object loses the
matching prefetch-buffer lines, and DP is reached through port A (R49, R88). -/
def State.netStore (s : State) (i off : Nat) (bs : List Byte) : State :=
  let e := s.objAt i
  let a := e.physical + off
  let s := (((s.lookUp netMaster i).invalidateCode i (e.logical + off) bs.length).notePortA a bs.length true)
  (List.range ((a % 8 + bs.length + 7) / 8)).foldl (fun (s : State) k =>
    let lo := if k = 0 then 0 else 8 * k - a % 8
    let hi := 8 * (k + 1) - a % 8
    (s.store netMaster (a + lo) ((bs.take hi).drop lo)).s) s

/-- The engine reads the ECC words of `n` bytes: corrections are counted, an uncorrectable word is logged and reported,
and says so (R79, R80). -/
def State.netWords (s : State) (a n : Nat) : State × Bool :=
  let hit := (s.mem.ecc.map (·.1)).filter fun w => decide (a < w + eccSize w) && decide (w < a + n)
  let b := (s.notePortA a n false).readWords netMaster hit
  (b.s.reactUnc 0#32 b.unc, !b.unc.isEmpty)

/-- What follows a read of the engine: `count` where a word was uncorrectable, unless that has reset the device
(R80, R145), and `go` otherwise. -/
def State.unlessBad (s : State) (r : State × Bool) (count go : State → State) : State :=
  if r.2 then (if s.twin then r.1 else count r.1) else go r.1

/-- The engine reads its tables. The model has it read them whole. (DESIGN CHOICE, unsafe: assumption 110.) -/
def State.readTable (s : State) : State × Bool :=
  match s.tableObj with
  | some e => s.netWords e.physical 0x1100
  | none => (s, false)

/-- The engine stores a number of `n` bytes in the table object, when it is present. -/
def State.tabPut (s : State) (off n v : Nat) : State :=
  match s.wdn.indexAtBase s.per.net.tbl.toNat with
  | some i => if s.tableObj.isSome then s.netStore i off (bytesOfNat n v) else s
  | none => s

def State.tabNum (s : State) (off n : Nat) : Nat :=
  if s.tableObj.isSome then s.mem.num (s.tab + off) n else 0

/-! ## The neighbour table (R228, R245, R248) -/

/-- A neighbour entry. -/
structure Nbr where
  index : Nat
  node : Nat
  slot : Nat
  hops : Nat
  energy : Nat
  accept : Bool
  lqi : Nat
  isParent : Bool
  isChild : Bool
  age : Nat
  lastFc : Nat
  txSeq : Nat
  rxSeq : Nat
  deriving DecidableEq, Repr

def nbrOff (i : Nat) : Nat := 0x100 + 32 * i

/-- Neighbour entry `i` when it is valid. -/
def State.nbrAt (s : State) (i : Nat) : Option Nbr :=
  let w := s.tabNum (nbrOff i) 32
  let f := fun lo len : Nat => w / 2 ^ lo % 2 ^ len
  if f 15 1 = 0 then none
  else some ⟨i, f 0 10, f 16 16, f 32 4, f 36 2, decide (f 38 1 = 1), f 40 8, decide (f 48 1 = 1),
    decide (f 49 1 = 1), f 56 8, f 64 48, f 112 16, f 128 16⟩

/-- The words of a neighbour entry. -/
def Nbr.num (n : Nbr) : Nat :=
  n.node + 2 ^ 15 + n.slot * 2 ^ 16 + n.hops * 2 ^ 32 + n.energy * 2 ^ 36 +
    n.accept.toNat * 2 ^ 38 + n.lqi * 2 ^ 40 + n.isParent.toNat * 2 ^ 48 +
    n.isChild.toNat * 2 ^ 49 + n.age * 2 ^ 56 + n.lastFc * 2 ^ 64 + n.txSeq * 2 ^ 112 +
    n.rxSeq * 2 ^ 128

/-- The valid neighbour entries. -/
def State.nbrs (s : State) : List Nbr := (List.range 64).filterMap s.nbrAt

def State.nbrOf (s : State) (node : Nat) : Option Nbr :=
  s.nbrs.find? fun n => decide (n.node = node)

/-- NET_COST's weight of an advertised ENERGY (R248). -/
def Net.energyCost (n : Net) (e : Nat) : Nat :=
  if e = 3 then 0 else if e = 2 then bits n.cost 0 8 else bits n.cost 8 8

/-- The cost of a neighbour as parent (R248). -/
def Net.costOf (n : Net) (b : Nbr) : Nat :=
  (255 - b.lqi) / 16 + n.energyCost b.energy + 4 * (b.hops + 1)

/-- A neighbour is eligible as parent (R248). -/
def Nbr.eligible (b : Nbr) : Bool :=
  decide (1 ≤ b.energy) && decide (b.hops ≤ 7) && b.accept && !b.isChild && decide (b.age ≤ 3)

/-- The eligible neighbour of lowest cost; ties to the lower entry. -/
def State.bestNbr (s : State) : Option Nbr :=
  s.nbrs.foldl (fun best b =>
    if b.eligible then
      match best with
      | none => some b
      | some t => if s.per.net.costOf b < s.per.net.costOf t then some b else best
    else best) none

/-- NET_PARENT.COST and NET_BUF.NBR follow the tables (R248, R259). -/
def State.netSync (s : State) : State :=
  let l := s.nbrs
  let p := l.find? fun b => b.isParent
  s.onNet fun n =>
    { n with
      nbrs := l.length
      pcost := match p with
        | none => 0
        | some b => if b.eligible then min 1023 (n.costOf b) else 1023 }

/-- A neighbour entry is written. -/
def State.putNbr (s : State) (b : Nbr) : State := (s.tabPut (nbrOff b.index) 32 b.num).netSync

/-- A neighbour entry is emptied. -/
def State.dropNbr (s : State) (b : Nbr) : State := (s.tabPut (nbrOff b.index) 32 0).netSync

/-- The entry that a new neighbour takes: a free one, or the one of highest AGE that is neither the
parent nor a child (R245). -/
def State.nbrSlot (s : State) : Option Nat :=
  match (List.range 64).find? fun i => (s.nbrAt i).isNone with
  | some i => some i
  | none =>
    (s.nbrs.foldl (fun (best : Option Nbr) b =>
      if b.isParent || b.isChild then best
      else match best with
        | none => some b
        | some t => if t.age < b.age then some b else best) none).map (·.index)

/-! ## Routes (R228, R250) -/

def routeOff (i : Nat) : Nat := 0x900 + 8 * i

/-- The destination and neighbour of route entry `i` when it is valid. -/
def State.routeAt (s : State) (i : Nat) : Option (Nat × Nat) :=
  let w := s.tabNum (routeOff i) 4
  if w / 2 ^ 15 % 2 = 0 then none else some (w % 1024, w / 2 ^ 16 % 1024)

def State.routeTo (s : State) (dest : Nat) : Option Nat :=
  ((List.range 256).filterMap s.routeAt).lookup dest

/-- No route entry is free. -/
def State.routesFull (s : State) : Bool := (List.range 256).all fun i => (s.routeAt i).isSome

/-- The route `dest` by `via` is written, replacing any other route to it (R250). -/
def State.putRoute (s : State) (dest via : Nat) : State :=
  let same := (List.range 256).find? fun i => (s.routeAt i).any fun r => decide (r.1 = dest)
  let free := (List.range 256).find? fun i => (s.routeAt i).isNone
  match (match same with
    | some i => some i
    | none => free) with
  | some i => s.tabPut (routeOff i) 8 (dest + 2 ^ 15 + via * 2 ^ 16)
  | none => s

/-- Every route by a neighbour is cleared (R249). -/
def State.dropRoutes (s : State) (via : Nat) : State :=
  ((List.range 256).filter fun i => (s.routeAt i).any fun r => decide (r.2 = via)).foldl
    (fun s i => s.tabPut (routeOff i) 8 0) s

/-! ## The header (R228) -/

/-- STATE of the header. -/
def State.putJoined (s : State) (joined : Bool) : State :=
  s.tabPut 8 4 (joined.toNat + s.per.net.own * 2 ^ 16)

/-- PARENT of the header, as `par` holds it. -/
def State.putParent (s : State) (w : Word) : State :=
  (s.onNet fun n => { n with par := w }).tabPut 12 4 w.toNat

/-- The object is cleared and a new header written (R228). -/
def State.freshTable (s : State) : State :=
  match s.tableObj, s.wdn.indexAtBase s.per.net.tbl.toNat with
  | some _, some i =>
    let s := s.netStore i 0 (List.replicate 0x2000 0#8)
    ((s.tabPut 0 4 0x52594B44).tabPut 4 4 s.per.net.id.toNat).putParent 0#32 |>.netSync
  | _, _ => s

/-! ## The wake map (R234) -/

/-- The slots that wake the device: the owned slot, the parent's, the children's and, with ROUTER,
every alarm slot. -/
def State.wakeSlots (s : State) : List Nat :=
  let n := s.per.net
  let links := (s.nbrs.filter fun b => b.isParent || b.isChild).map (·.slot)
  [n.own] ++ links ++ (if n.router then (List.range 128).map fun k => 9 * k + 8 else [])

/-- The alarm slots leave the wake map at the slot boundary after ROUTER has been written to 0 (R258). -/
def Net.dropAlarms (n : Net) : Net :=
  if n.unalarm then
    { n with
      map := (List.range 128).foldl (fun m k => setBit m (9 * k + 8) false) n.map
      unalarm := false }
  else n

/-- The wake map follows the tables while the engine runs. -/
def State.remap (s : State) : State :=
  if s.running && s.per.net.en && s.per.net.slotted then
    s.onNet fun n =>
      { n with map := s.wakeSlots.foldl (fun m k => if k < 1152 then setBit m k true else m) 0#1152 }
  else s

/-! ## Frames (R237-R239, R243) -/

/-- ENERGY of this node: the thresholds that the gauge shows as met (R237, R275). -/
def State.netEnergy (s : State) : Nat :=
  let h := s.per.hrv
  if s.pwr.main || h.met 2 then 3 else if h.met 1 then 2 else if h.met 0 then 1 else 0

/-- The 13 bytes of the MAC header (R237). -/
def macHeader (typ : Nat) (key more : Bool) (src energy hops dst : Nat) (bcast : Bool)
    (lseq fcnt : Nat) : List Byte :=
  [BitVec.ofNat 8 (typ % 8 + 8 * key.toNat + 16 * more.toNat)] ++
    bytesOfNat 2 (src % 1024 + energy % 4 * 1024 + hops % 16 * 4096) ++
    bytesOfNat 2 (dst % 1024 + bcast.toNat * 1024) ++ bytesOfNat 2 (lseq % 4096) ++
    bytesOfNat 6 fcnt

/-- The 13-byte nonce (R243). -/
def netNonce (netid src fcnt typ : Nat) (ack : Bool) : List Byte :=
  bytesOfNat 2 netid ++ bytesOfNat 2 src ++ bytesOfNat 6 fcnt ++
    [BitVec.ofNat 8 (typ % 8 + 8 * ack.toNat), 0#8, 0#8]

def Net.netid (n : Net) : Nat := bits n.id 16 16

def typBeacon : Nat := 0
def typData : Nat := 1
def typAck : Nat := 2
def typJoinReq : Nat := 3
def typJoinRsp : Nat := 4
def typAttach : Nat := 5
def typDetach : Nat := 6

/-- The payload of the type is encrypted (R238). -/
def encrypted (typ : Nat) : Bool := decide (typ = typData) || decide (typ = typAttach)

/-- The type is a JOIN frame, without a link MIC (R237). -/
def joinFrame (typ : Nat) : Bool := decide (typ = typJoinReq) || decide (typ = typJoinRsp)

/-- The key store slot that a frame's KEY bit selects (R243). -/
def Net.keySlot (n : Net) (key : Bool) : Nat := if key.toNat = n.gen % 2 then 0 else 1

/-- What the MIC of a frame covers as authenticated data, and as text (R243). -/
def micParts (typ : Nat) (hdr payload : List Byte) : List Byte × List Byte :=
  if typ = typBeacon then (hdr ++ payload, [])
  else if encrypted typ then (hdr, payload)
  else (hdr, [])

/-- A frame as it is sent: its header, its payload, encrypted where the type is, and its MIC (R237). -/
def sealFrame (key nonce : List Byte) (typ : Nat) (hdr payload : List Byte) : List Byte :=
  if joinFrame typ then hdr ++ payload
  else
    let p := micParts typ hdr payload
    hdr ++ (if encrypted typ then ccmStream key nonce payload else payload) ++ ccmMic key nonce p.1 p.2

/-- A received MAC frame: its header bytes and their fields, its payload as received, its MIC (none in a JOIN frame), and
what the radio has measured (R217, R233, R237). -/
structure RxFrame where
  head : List Byte
  typ : Nat
  key : Bool
  more : Bool
  src : Nat
  energy : Nat
  hops : Nat
  dst : Nat
  bcast : Bool
  lseq : Nat
  fcnt : Nat
  payload : List Byte
  mic : List Byte
  lqi : Nat
  rate : Nat
  late : Int
  deriving DecidableEq, Repr

/-- The MAC frame that a PHY frame carries (R237). -/
def rxFrame (p : PhyFrame) : RxFrame :=
  let b := p.body
  let at' := fun i n : Nat => numOf ((b.drop i).take n)
  let rest := b.drop 13
  let cut := if joinFrame (at' 0 1 % 8) then rest.length else rest.length - 8
  { head := b.take 13, typ := at' 0 1 % 8, key := decide (at' 0 1 / 8 % 2 = 1), more := decide (at' 0 1 / 16 % 2 = 1)
    src := at' 1 2 % 1024, energy := at' 1 2 / 1024 % 4, hops := at' 1 2 / 4096
    dst := at' 3 2 % 1024, bcast := decide (at' 3 2 / 1024 % 2 = 1), lseq := at' 5 2 % 4096, fcnt := at' 7 6
    payload := rest.take cut, mic := rest.drop cut, lqi := p.lqi, rate := p.rate, late := p.late }

/-- The inner MIC of a JOIN_REQ (R238, R257). (DEDUCED, unsafe: assumption 75.) -/
def Net.joinReqMic (n : Net) (key : List Byte) (joiner fcnt : Nat) : List Byte :=
  ccmMic key (netNonce n.netid joiner fcnt typJoinReq false) [] []

/-- The payload of a JOIN_RSP (R238, R257). -/
def Net.joinRsp (n : Net) (perNode key : List Byte) (joiner fcnt slot : Nat) : List Byte :=
  let nonce := netNonce n.netid joiner fcnt typJoinRsp false
  let sl := bytesOfNat 2 slot
  sl ++ ccmStream perNode nonce key ++ ccmMic perNode nonce sl key

/-- The content of a KEYSET message after its code (R257). -/
def Net.keyset (n : Net) (perNode key : List Byte) (ctr gen : Nat) : List Byte :=
  let nonce := netNonce n.netid 0 ctr typData false
  let head := bytesOfNat 6 ctr ++ bytesOfNat 1 gen
  head ++ ccmStream perNode nonce key ++ ccmMic perNode nonce head key

/-- The network header of a segment (R251). -/
def netHeader (orig segi final segl tid kind ttl : Nat) (alarm : Bool) : List Byte :=
  bytesOfNat 2 (orig % 1024 + segi * 1024) ++ bytesOfNat 2 (final % 1024 + segl * 1024) ++
    bytesOfNat 2 tid ++ [BitVec.ofNat 8 (kind % 4 + ttl % 16 * 4 + alarm.toNat * 64)]

/-! ## Frame buffers (R253) -/

/-- Buffers in use: those of queued frames and of segments held for reassembly or delivery. -/
def Net.bufs (n : Net) : List Nat :=
  (((n.await.toList ++ n.txq).map (·.buf)) ++
    (n.reasm ++ n.ready).flatMap fun r => r.segs.map fun g => g.2.2).filter fun b => decide (b < 96)

/-- NET_BUF.FREE. -/
def Net.free (n : Net) : Nat := 96 - n.bufs.length

/-- The lowest free buffer. -/
def Net.newBuf (n : Net) : Option Nat := (List.range 96).find? fun b => decide (b ∉ n.bufs)

/-- Bytes written into a frame buffer through port A (R76, R88). -/
def State.putBuf (s : State) (b : Nat) (bs : List Byte) : State :=
  (s.notePortA (dpBase + 320 * b) bs.length true).writeAll netMaster (dpBase + 320 * b) bs bs.length

/-- A frame that takes a new buffer joins a queue at its end; without a buffer it is lost with NOBUF. -/
def State.txPut (s : State) (f : TxFrame) : State :=
  match s.per.net.newBuf with
  | none => s.netFlag 10
  | some b => (s.putBuf b f.payload).onNet fun n => { n with txq := n.txq ++ [{ f with buf := b }] }

/-- An alarm slot among the next `2 ^ min (k + 1) 6`, for attempt `k` (R255). -/
def alarmWait (seed k : Nat) : Nat := 1 + Config.freeNat seed % 2 ^ min (k + 1) 6

/-- A frame of this node's own that is not part of a message. -/
def plainFrame (typ dst : Nat) (payload : List Byte) (alarm : Bool) (wait : Nat) : TxFrame :=
  { typ := typ, dst := dst, bcast := false, payload := payload, alarm := alarm, lseq := none,
    attempts := 0, refused := false, aborted := false, own := false, last := false, tid := none, wait := wait, buf := 0 }

/-- A frame that travels in an alarm slot is queued for its first attempt (R255). -/
def State.txPutAlarm (s : State) (typ dst : Nat) (payload : List Byte) : State :=
  (s.useFree 1).txPut (plainFrame typ dst payload true (alarmWait s.free 1))

/-! ## Messages (R250-R256) -/

/-- The next hop toward a destination: a route, or the parent, unless the message came from the parent
or this node is the Basecamp (R250). -/
def State.nextHop (s : State) (final : Nat) (fromParent : Bool) : Option Nat :=
  let n := s.per.net
  match s.routeTo final with
  | some v => some v
  | none => if n.base || fromParent then none else some n.parent

/-- The bytes of a message cut into segments of `d` bytes; the last carries the remainder. -/
def segments (d : Nat) : Nat → List Byte → List (List Byte)
  | 0, bs => [bs]
  | k + 1, bs => if bs.length ≤ d then [bs] else bs.take d :: segments d k (bs.drop d)

/-- The segments of a message enter the queue, toward `hop` (R252, R253). -/
def State.queueMessage (s : State) (hop final tid kind : Nat) (alarm : Bool) (trans : Option Nat)
    (wait : Nat) (bs : List Byte) : State :=
  let segs := segments (s.netM - 7) 64 bs
  let l := segs.length - 1
  segs.zipIdx.foldl (fun (s : State) (g : List Byte × Nat) =>
    s.txPut
      { typ := typData, dst := hop, bcast := false, alarm := alarm, lseq := none, attempts := 0
        payload := netHeader s.per.net.me g.2 final l tid kind 8 alarm ++ g.1
        refused := false, aborted := false, own := true, last := decide (g.2 = l), tid := trans, wait := wait, buf := 0 })
    s

/-- A control message of this node toward `final` (R257). -/
def State.queueControl (s : State) (final : Nat) (bs : List Byte) : State :=
  match s.nextHop final false with
  | none => s.netFlag 11
  | some hop =>
    (s.useFree 1).queueMessage hop final (Config.freeNat s.free % 65536) 3 false none 0 bs

def netOkCode : Nat := 0
def netBadlen : Nat := 1
def netNobuf : Nat := 2
def netBusy : Nat := 3
def netState : Nat := 4
def netBadarg : Nat := 5

/-- A command ends with a code (R253). -/
def State.netCode (s : State) (k : Nat) : State :=
  s.onNet fun n => { n with txstat := setBits n.txstat 4 4 k }

/-- SEND's refusal, by the first case that holds (R253, R255). (DEDUCED, unsafe: assumption 76.) -/
def State.sendCheck (s : State) : Nat :=
  let n := s.per.net
  let len := bits n.txcfg 0 11
  let d := s.netM - 7
  let alarm := bit n.txcfg 14
  if d = 0 ∨ len = 0 ∨ s.netLongest < len ∨ (alarm = true ∧ d < len) then netBadlen
  else if n.free < (len + d - 1) / d + 8 then netNobuf
  else if bits n.txcfg 12 2 = 1 ∧ 8 ≤ n.trans.length then netBusy
  else if !n.placed then netState
  else netOkCode

/-- A non-Canvas master's access outside its regions is logged (R7, R74). -/
def State.regionFault (s : State) (master a : Nat) : State :=
  s.recordFault { cls := 0x0D, unit := master, addr := BitVec.ofNat 32 a } 0

/-- The engine reads `n` bytes by a logical address: the state, whether a word was uncorrectable, and
the bytes. A byte outside every object reads as zero, and the access is logged (R7, R74, R80). -/
def State.netRead (s : State) (a n : Nat) : State × Bool × List Byte :=
  let at' := fun i => s.wdn.find (a + i)
  let bs := (List.range n).map fun i =>
    match at' i with
    | some e => s.mem.byte (e.translate (a + i))
    | none => 0#8
  let words := ((List.range n).filterMap fun i =>
    (at' i).map fun e => eccWord (e.translate (a + i))).dedup
  let bad := words.filter fun w => (s.mem.eccOf w).isSome
  let seen := ((List.range n).filterMap fun i => s.wdn.index (a + i)).dedup
  let b := (seen.foldl (fun s i => s.lookUp netMaster i) s).readWords netMaster bad
  let s' := match (List.range n).find? fun i => (at' i).isNone with
    | some i => b.s.regionFault netMaster (a + i)
    | none => b.s
  (s'.reactUnc 0#32 b.unc, !b.unc.isEmpty, bs)

/-- The transaction ID of a SEND: NEXTTID for a request, NET_TXHOP.TID for a response, and open for the
other kinds (R256). -/
def State.sendTid (s : State) : State × Nat :=
  let n := s.per.net
  let kind := bits n.txcfg 12 2
  if kind = 1 then
    let t := s.tabNum 16 2
    (s.tabPut 16 2 ((t + 1) % 65536), t)
  else if kind = 2 then (s, bits n.txhop 16 16)
  else (s.useFree 1, Config.freeNat s.free % 65536)

/-- SEND's message leaves for its next hop (R250, R253, R255, R256). (DEDUCED, unsafe: assumption 79.) -/
def State.sendMessage (s : State) (bs : List Byte) : State :=
  let n := s.per.net
  let kind := bits n.txcfg 12 2
  let alarm := bit n.txcfg 14
  let final := bits n.txcfg 16 10
  let t := s.sendTid
  let s := t.1.onNet fun n =>
    { n with
      txstat := setBits n.txstat 16 16 t.2
      trans := if kind = 1 then n.trans ++ [⟨t.2, final⟩] else n.trans }
  let hop := if bit n.txhop 15 then some (bits n.txhop 0 10) else s.nextHop final false
  match hop with
  | none => s.netFlag 11
  | some h =>
    let wait := if alarm then alarmWait s.free 1 else 0
    (s.useFree 1).queueMessage h final t.2 kind alarm (if kind = 1 then some t.2 else none) wait bs

/-- A message or a frame to be sent is discarded for an uncorrectable word: the specification says that it is counted,
and names no counter. (DESIGN CHOICE, unsafe: assumption 110.) -/
def State.netDropped (s : State) : State := s.onNet fun n => { n.flag 6 with cnt1 := bump n.cnt1 true }

/-- NET_CMD SEND (R253). -/
def State.netSend (s : State) : State :=
  let k := s.sendCheck
  if k ≠ netOkCode then
    (if k = netNobuf then s.netFlag 10 else s).netCode k
  else
    let r := s.netRead s.per.net.txaddr.toNat (bits s.per.net.txcfg 0 11)
    s.unlessBad (r.1, r.2.1) (fun s => s.netDropped.netCode netOkCode) fun s => (s.sendMessage r.2.2).netCode netOkCode

/-- An exchange is in progress. -/
def State.exchanging (s : State) : Bool :=
  s.per.rf.txOn || s.per.net.await.isSome || s.per.net.ackOn

/-- The receiver opens (R224, R232). -/
def State.netListen (s : State) : State :=
  if s.exchanging then s else s.onRf Rf.listen

/-- The listen window ends, unless the node listens continuously (R224, R232). -/
def State.netClose (s : State) : State :=
  if s.per.net.seeking && s.per.net.en then s.netListen else s.onRf Rf.close

/-- NET_CMD JOIN (R247). -/
def State.netJoin (s : State) : State :=
  let n := s.per.net
  if n.en && !n.base && decide (n.state = netOff ∨ n.state = netSeek ∨ n.state = netOrphan) then
    (((s.onNet fun n => { n.setState netSeek with cand := none }).putJoined false).netListen).netCode
      netOkCode
  else s.netCode netState

/-- NET_CMD LEAVE: the slot timer and the table state are cleared (R259). -/
def State.netLeave (s : State) : State :=
  let s := s.onNet fun n =>
    { n.setState netOff with
      own := 0, cur := 0, sfn := 0, map := 0#1152, timing := false, phase := 0, rateCorr := 0
      synced := false, sinceCorr := 0, aged := 0, load := false, unalarm := false, holdOff := false, inSlot := false, txq := [], trans := [], cand := none, oldParent := none
      pmiss := 0, survey := false }
  (s.freshTable.netClose).netCode netOkCode

/-- NET_CMD SURVEY (R249). -/
def State.netSurvey (s : State) : State :=
  if s.per.net.en && s.per.net.slotted then
    (s.onNet fun n => { n with survey := true }).netListen.netCode netOkCode
  else s.netCode netState

/-- A joiner's slot is an owned slot (R229). -/
def ownedSlot (k : Nat) : Bool := decide (k < 1152) && !alarmSlot k

/-- NET_CMD ADMIT (R247, R257). Where M is below 18 the JOIN_RSP does not fit, and the specification names no code for that
(R236; DESIGN CHOICE, unsafe: assumption 111). -/
def State.netAdmit (s : State) : State :=
  let n := s.per.net
  let joiner := bits n.txaddr 0 10
  let slot := bits n.txaddr 16 11
  let via := bits n.txcfg 16 10
  if n.state ≠ netBase then s.netCode netState
  else match s.rp.key (2 + joiner), s.rp.key 0, n.joins.lookup joiner with
    | some kj, some k0, some fc =>
      if !ownedSlot slot || decide (s.netM < 18) then s.netCode netBadarg
      else
        let rsp := n.joinRsp kj k0 joiner fc slot
        (if via = n.me then s.txPut (plainFrame typJoinRsp joiner rsp false 0)
          else s.queueControl via (2#8 :: bytesOfNat 2 joiner ++ rsp)).netCode netOkCode
    | _, _, _ => s.netCode netBadarg

/-- NET_CMD KEYSET to DST (R246, R257). -/
def State.netKeyset (s : State) : State :=
  let n := s.per.net
  let dst := bits n.txcfg 16 10
  if n.state ≠ netBase then s.netCode netState
  else match s.rp.key (2 + dst), s.rp.key 1 with
    | some kd, some k1 =>
      let c := n.keyCtr + 1
      let s := s.onNet fun n => { n with keyCtr := c }
      (s.queueControl dst (3#8 :: n.keyset kd k1 c ((n.gen + 1) % 256))).netCode netOkCode
    | _, _ => s.netCode netBadarg

/-- Slots 0 and 1 change places and the generation rises by 1 (R246). -/
def State.swapKeys (s : State) : State :=
  let a := s.rp.key 0
  let b := s.rp.key 1
  let put := fun (r : Ridgepole) (slot : Nat) (k : Option (List Byte)) =>
    match k with
    | some x => r.setKey slot x
    | none => r.dropKey slot
  let s := (s.onRp fun r => put (put r 0 b) 1 a).storeWrites
  let w := s.per.net.par
  (s.putParent (setBits w 16 8 (bits w 16 8 + 1))).onNet fun n => { n with oldKey := true }

/-- NET_CMD KEYUSE (R246). -/
def State.netKeyuse (s : State) : State :=
  if s.per.net.state ≠ netBase then s.netCode netState
  else if (s.rp.key 1).isNone then s.netCode netBadarg
  else s.swapKeys.netCode netOkCode

/-- A write to NET_CMD. -/
def State.netCommand (s : State) (op : Nat) : State :=
  if op = 1 then s.netSend
  else if op = 2 then s.netJoin
  else if op = 3 then s.netLeave
  else if op = 4 then s.netSurvey
  else if op = 5 then s.netAdmit
  else if op = 6 then s.netKeyset
  else if op = 7 then s.netKeyuse
  else s

/-! ## NET_CTL.EN (R228, R230, R257, R258) -/

/-- The engine stops: its queue is emptied, and the slot timer keeps counting (R258). -/
def State.netStop (s : State) : State :=
  (s.onNet fun n =>
    { n.setState netOff with
      txq := [], await := none, ackOn := false, inSlot := false, survey := false, cand := none, load := false }).onRf
    fun r => { r with rxOn := false, locked := false, closing := false }

/-- Entries of the receive object. -/
def Net.rxEntries (n : Net) : Nat := 2 ^ min 4 (bits n.rxcfg 0 3)

/-- The receive object. -/
def State.rxObj (s : State) : Option ObjEntry := s.wdn.objAtBase s.per.net.rxobj.toNat

/-- A write of 1 to EN may be taken (R227, R228, R257). -/
def State.enOk (s : State) (ctl : Word) : Bool :=
  let n := { s.per.net with ctl := ctl }
  s.tableObj.isSome && s.per.rf.code && decide (0 < maxPayload s.per.rf.txRate n.slen) &&
    (!n.base || decide (n.me = 0)) &&
    s.rxObj.any fun e => decide (1056 * n.rxEntries ≤ objBytes e.size)

/-- The Basecamp loads its slot timer from its RTC, at a slot boundary (R230). -/
def State.loadSlots (s : State) : State :=
  let t := s.per.rtc.time * 1000 / 32768 / slotMs s.per.net.slen
  s.onNet fun n => { n with cur := t % 1152, sfn := t / 1152 % 2 ^ 48, timing := true, load := false }

/-- The header of the table object names this node's network and ID (R228). -/
def State.tableMatches (s : State) : Bool :=
  decide (s.tabNum 0 4 = 0x52594B44) && decide (s.tabNum 4 4 = s.per.net.id.toNat)

/-- NET_PARENT shows the header of the table object that NET_TBL and NET_ID name, before the engine runs too (R259;
DEDUCED, unsafe: assumption 112). -/
def State.peekParent (s : State) : State :=
  if !s.per.net.en && s.tableObj.isSome && s.tableMatches then
    s.onNet fun n => { n with par := BitVec.ofNat 32 (s.tabNum 12 4) }
  else s

/-- The AGE of every neighbour moves on by `k` superframes (R228). -/
def State.ageTable (s : State) (k : Nat) : State :=
  s.nbrs.foldl (fun (s : State) b => s.putNbr { b with age := min 255 (b.age + k) }) s

/-- The engine starts: the header is read or written afresh, and the state follows it (R228). (DEDUCED,
unsafe: assumption 69.) -/
def State.netStart (s : State) : State :=
  let s := s.readTable.1
  let s := if s.tableMatches then s.ageTable s.per.net.aged else s.freshTable
  let s := (s.onNet fun n =>
    { n with par := BitVec.ofNat 32 (s.tabNum 12 4), aged := 0, fresh := true }).netSync
  let s := if s.per.net.base then s.onNet fun n => { n.setState netBase with load := true }
    else if s.tabNum 8 1 % 2 = 1 then
      s.onNet fun n =>
        { n.setState (if n.timing then netJoined else netOrphan) with
          own := s.tabNum 10 2 % 2048 }
    else s.onNet fun n => n.setState netOff
  (if s.per.net.seeking then s.netListen else s).remap

/-- A frame is being sent, awaited or received: an engine whose EN is cleared completes it first (R258). -/
def State.engaged (s : State) : Bool := s.exchanging || (s.per.rf.rxOn && s.per.rf.locked)

/-- NET_CTL takes a value; ROUTER 0 takes the alarm slots out of the wake map at the next slot boundary (R258). -/
def Net.setCtl (n : Net) (v : Word) : Net := { n with ctl := v, unalarm := !bit v 1 }

/-- A write to NET_CTL (R228, R258). A write that would have a node other than 0 go on running as the Basecamp is
discarded, with CFGERR (R227; DESIGN CHOICE, unsafe: assumption 113). (DEDUCED, unsafe: assumption 78.) -/
def State.netCtlWrite (s : State) (v : Word) : State :=
  let v := v &&& 0x3F#32
  let was := s.per.net.en
  if bit v 0 && !was then
    if s.enOk v then (s.onNet fun n => n.setCtl v).netStart
    else (s.onNet fun n => n.setCtl (setBit v 0 false)).netFlag 20
  else if bit v 0 && bit v 2 && decide (s.per.net.me ≠ 0) then s.netFlag 20
  else
    let s := s.onNet fun n => n.setCtl v
    if was && !bit v 0 && !s.engaged then s.netStop else s

/-- A write to NET_ID; while the engine runs as the Basecamp, one that would change its node from 0 is discarded, with
CFGERR (R227; DESIGN CHOICE, unsafe: assumption 113). -/
def State.netIdWrite (s : State) (v : Word) : State :=
  let n := s.per.net
  if n.en && n.base && decide (bits v 0 10 ≠ 0) then s.netFlag 20
  else (s.onNet fun n => { n with id := v &&& 0xFFFF03FF#32 }).peekParent

/-- At the end of an exchange an engine whose EN has been cleared stops (R258). -/
def State.netSettle (s : State) : State :=
  if !s.per.net.en && decide (s.per.net.state ≠ netOff) && !s.engaged then s.netStop else s

/-- The release of the table object stops the engine (R258). -/
def State.netGuard (s : State) : State :=
  if s.per.net.en && s.tableObj.isNone then
    (((s.onNet fun n => { n with ctl := setBit n.ctl 0 false }).netStop).netFlag 20).onRf Rf.paOff
  else s

/-! ## Registers (R259) -/

/-- A read of the NET block; `peg` reads through the Peg port. (DEDUCED, unsafe: assumption 73.) -/
def Net.read (n : Net) (peg : Bool) (off : Nat) : Word :=
  if off = 0x00 then n.ctl
  else if off = 0x04 then n.id
  else if off = 0x08 then n.stat
  else if off = 0x0C then n.ie
  else if off = 0x10 then n.tbl
  else if off = 0x14 then n.rxobj
  else if off = 0x18 then n.rxcfg
  else if off = 0x20 then n.txaddr
  else if off = 0x24 then n.txcfg
  else if off = 0x28 then n.txhop
  else if off = 0x30 then n.txstat
  else if off = 0x40 then field 0 n.own ||| field 16 n.cur
  else if off = 0x44 then BitVec.ofNat 32 n.sfn
  else if off = 0x48 then (if peg then n.sfnHiPeg else n.sfnHi)
  else if off = 0x4C then field 0 n.parent ||| field 12 n.hops ||| field 16 n.pcost
  else if off = 0x50 then n.cost
  else if off = 0x54 then n.tofs
  else if off = 0x58 then n.retry
  else if off = 0x60 then n.cnt0
  else if off = 0x64 then n.cnt1
  else if off = 0x68 then n.cnt2
  else if off = 0x6C then field 0 n.free ||| field 8 n.txq.length ||| field 16 (n.nbrs % 64)
  else 0#32

/-- What a read changes: NET_SFN_LO fills the shadow, and the counters clear except for the host. -/
def Net.readEffect (n : Net) (peg : Bool) (off : Nat) : Net :=
  let hi := BitVec.ofNat 32 (n.sfn / 2 ^ 32 % 65536)
  if off = 0x44 then (if peg then { n with sfnHiPeg := hi } else { n with sfnHi := hi })
  else if peg then n
  else if off = 0x60 then { n with cnt0 := 0#32 }
  else if off = 0x64 then { n with cnt1 := 0#32 }
  else if off = 0x68 then { n with cnt2 := 0#32 }
  else n

/-- NET_RETRY stores 1 for 0. -/
def retryValue (v : Word) : Word :=
  let v := v &&& 0xF0F#32
  let v := if bits v 0 4 = 0 then setBits v 0 4 1 else v
  if bits v 8 4 = 0 then setBits v 8 4 1 else v

/-- A write to a NET register other than NET_CTL, NET_ID and NET_CMD. -/
def Net.write (n : Net) (off : Nat) (v : Word) : Net :=
  if off = 0x08 then { n with stat := writeW1C 0x1FFFF0#32 n.stat v }
  else if off = 0x0C then { n with ie := v &&& 0x1FFFF0#32 }
  else if off = 0x10 then { n with tbl := v }
  else if off = 0x14 then { n with rxobj := v }
  else if off = 0x18 then
    { n with rxcfg := (let w := v &&& 0x3F07#32; if 4 < bits w 0 3 then setBits w 0 3 4 else w) }
  else if off = 0x20 then { n with txaddr := v }
  else if off = 0x24 then { n with txcfg := v &&& 0x3FF77FF#32 }
  else if off = 0x28 then { n with txhop := v &&& 0xFFFF83FF#32 }
  else if off = 0x40 then (if n.base && !n.en then { n with own := bits v 0 11 } else n)
  else if off = 0x50 then { n with cost := v &&& 0xFFFFFF#32 }
  else if off = 0x58 then { n with retry := retryValue v }
  else n

/-- A write to the NET block (R259). -/
def State.netWrite (s : State) (off : Nat) (v : Word) : State :=
  if off = 0 then s.netCtlWrite v
  else if off = 0x04 then s.netIdWrite v
  else if off = 0x2C then s.netCommand (bits v 0 3)
  else if off = 0x10 then (s.onNet fun n => n.write off v).peekParent
  else if off = 0x50 then
    (if s.per.net.en then (s.onNet fun n => n.write off v).netSync else s.onNet fun n => n.write off v)
  else s.onNet fun n => n.write off v

/-- The requests of sources 41-43 (R259). -/
def Net.request (n : Net) (k : Nat) : Bool :=
  let f := n.stat &&& n.ie
  if k = 0 then bit f 4 else if k = 1 then anyBit (f &&& 0xFE0#32) else anyBit (f &&& 0x1FF000#32)

end Sys2Proof.Machine
end

