-- ==== Sys2Proof/Machine/NetLink.lean ====
section
/-! DEFINITION. The network engine in its slots: sending and retrying frames (R231, R239-R244, R254,
R255), slots and the wake map (R230-R235), reception, joining, attaching and loss (R242-R250), and
messages in reassembly and delivery (R250-R252, R256, R257). -/

namespace Sys2Proof.Machine

open Sys2Proof

/-! ## Building and offering a frame (R231, R237-R244) -/

/-- FCNT moves on by 1; Ridgepole stores the next block when the low half passes 0xFFFF (R244). -/
def State.nextFcnt (s : State) : State :=
  let f := (s.per.net.fcnt + 1) % 2 ^ 48
  let s := s.onNet fun n => { n with fcnt := f }
  if f % 65536 = 0 then (s.onRp fun r => { r with fcntBlock := f / 65536 }).storeWrites else s

/-- The payload of a BEACON (R238). -/
def State.beacon (s : State) : List Byte :=
  let n := s.per.net
  bytesOfNat 6 n.sfn ++ bytesOfNat 2 n.cur ++
    [BitVec.ofNat 8 (((n.router || n.base) && !s.routesFull).toNat + 2 * (bit n.ctl 3).toNat +
      4 * n.slen)]

/-- The payload of a frame at the moment it is sent: a JOIN_REQ's inner MIC covers its FCNT (R257). -/
def State.payloadNow (s : State) (f : TxFrame) : List Byte :=
  let n := s.per.net
  if f.typ = typJoinReq then n.joinReqMic ((s.rp.key (2 + n.me)).getD []) n.me n.fcnt
  else f.payload

/-- The LSEQ of a frame: a retry keeps its own, and a new one to a neighbour takes TXSEQ + 1 (R242); a
broadcast's is open. -/
def State.takeLseq (s : State) (f : TxFrame) : State × Nat :=
  match f.lseq with
  | some q => (s, q)
  | none =>
    if f.bcast then (s.useFree 1, Config.freeNat s.free % 4096)
    else match s.nbrOf f.dst with
      | some b =>
        let q := (b.txSeq + 1) % 4096
        (s.putNbr { b with txSeq := q }, q)
      | none => (s.useFree 1, Config.freeNat s.free % 4096)

/-- The frame on air (R237, R243). -/
def State.airFrame (s : State) (f : TxFrame) (lseq : Nat) (more : Bool) : List Byte :=
  let n := s.per.net
  let hdr := macHeader f.typ (decide (n.gen % 2 = 1)) more n.me s.netEnergy n.hops f.dst f.bcast lseq
    n.fcnt
  sealFrame ((s.rp.key 0).getD []) (netNonce n.netid n.me n.fcnt f.typ false) f.typ hdr
    (s.payloadNow f)

/-- LEN of a frame (R237). -/
def TxFrame.len (f : TxFrame) : Nat :=
  13 + (if f.typ = typJoinReq then 8 else f.payload.length) + (if joinFrame f.typ then 0 else 8)

/-- A frame that is answered by an ACK (R231, R239). -/
def TxFrame.acked (f : TxFrame) : Bool := !f.bcast && !joinFrame f.typ

/-- How long the exchange of a frame lasts, in ms times the symbol rate (R231, R240). -/
def State.exchange (s : State) (f : TxFrame) : Nat :=
  let rate := s.per.rf.txRate
  airTime rate f.len s.per.rf.code +
    (if f.acked then turnMs * symbolRate rate + airTime rate 11 true else 0)

/-- An exchange that begins at `t` ends at least G before the end of the slot (R231). -/
def State.fitsAt (s : State) (t : Nat) (f : TxFrame) : Bool :=
  let sym := symbolRate s.per.rf.txRate
  decide (t + s.exchange f + guardMs * sym ≤ slotMs s.per.net.slen * sym)

/-- A frame of the owned queue that has not been tried in this slot. -/
def TxFrame.dueHere (f : TxFrame) : Bool := !f.alarm && decide (f.wait = 0)

/-- The frame that follows in the slot: it sets MORE when it fits too (R231). -/
def State.moreAfter (s : State) (f : TxFrame) (rest : List TxFrame) : Bool :=
  match rest.find? TxFrame.dueHere with
  | none => false
  | some g =>
    !f.alarm && s.fitsAt
      (s.per.net.slotUse + s.exchange f + turnMs * symbolRate s.per.rf.txRate) g

/-- A frame is made ready for the antenna: its bytes and its symbols (R210, R211). -/
def Rf.putOnAir (r : Rf) (rate : Nat) (code : Bool) (air : List Byte) : Rf :=
  { r with air := air, wave := phySymbols r.sync rate code air }

/-- The frame leaves its queue and goes on the air (R223, R242, R244). -/
def State.launch (s : State) (f : TxFrame) (rest : List TxFrame) (rf : Rf) : State :=
  let more := s.moreAfter f rest
  let q := s.takeLseq f
  let air := q.1.airFrame f q.2 more
  let t := s.per.net.slotUse + s.exchange f + turnMs * symbolRate rf.txRate
  let s := q.1.onRf fun _ => rf.putOnAir rf.txRate rf.code air
  (s.onNet fun n =>
    { n with
      txq := rest
      slotUse := t
      await := some { f with lseq := some q.2, attempts := f.attempts + 1, refused := false, aborted := false } }).nextFcnt

/-- A check of the radio refuses the frame: it stays queued, and the owner stops for the slot (R220, R221,
R254). (DEDUCED, unsafe: assumption 71.) -/
def State.refuseFrame (s : State) (f : TxFrame) (rest : List TxFrame) (rf : Rf) (o : Offer) : State :=
  ((s.onRf fun _ => rf).onNet fun n =>
    { n.flag 9 with
      cnt1 := bump n.cnt1 false
      stopped := true
      txq := { f with refused := decide (o = .energy) } :: rest }).countSys 27
    (if o = .energy ∨ o = .duty then 1 else 0)

/-- A frame counts as unacknowledged, or found its alarm slot busy: it is tried again up to its number
of attempts, and dropped after that (R254, R255). -/
def State.failFrame (s : State) (f : TxFrame) : State :=
  let n := s.per.net
  let lim := if f.alarm then bits n.retry 8 4 else bits n.retry 0 4
  if f.attempts < lim then
    let wait := if f.alarm then alarmWait s.free (f.attempts + 1) else 1
    (s.useFree 1).onNet fun n => { n with await := none, txq := { f with wait := wait } :: n.txq }
  else
    let s := s.onNet fun n =>
      { n with await := none, cand := if f.typ = typAttach ∨ f.typ = typJoinReq then none else n.cand }
    if f.own then
      let t := f.tid.isSome && (s.per.net.trans.any fun t => some t.tid = f.tid)
      let s := s.onNet fun n =>
        { n.flag 6 with
          trans := n.trans.filter fun t => decide (some t.tid ≠ f.tid)
          txq := n.txq.filter fun g =>
            !(g.own && decide ((g.payload.drop 4).take 2 = (f.payload.drop 4).take 2)) }
      if t then s.fire 183 else s
    else if f.typ = typData then s.onNet fun n => { n with cnt1 := bump n.cnt1 true }
    else s

/-- The engine reads what it needs to send a frame: its tables, and the frame's buffer through port A (R79, R80, R253).
-/
def State.readFrame (s : State) (f : TxFrame) : State × Bool :=
  let r := s.readTable
  if r.2 || decide (96 ≤ f.buf) then r else r.1.netWords (dpBase + 320 * f.buf) f.payload.length

/-- A frame is offered to the radio. Listen-before-talk runs where RF_LBT.EN is 1 and in alarm slots,
and measures the means of its operand (R218, R254, R255). -/
def State.offerReady (s : State) (f : TxFrame) (rest : List TxFrame) (means : List Byte) : State :=
  let lbt := (f.alarm || bit s.per.rf.lbt 0) && s.per.rf.loud means
  let r := s.per.rf.offer s.per.hrv s.pwr.main s.per.rf.txRate f.len s.per.rf.code lbt
  match r.2 with
  | .sent => s.launch f rest r.1
  | .busy =>
    if f.alarm then
      ((s.onRf fun _ => r.1).onNet fun n => { n with txq := rest }).failFrame
        { f with attempts := f.attempts + 1 }
    else s.refuseFrame f rest r.1 .busy
  | o => s.refuseFrame f rest r.1 o

/-- A frame is offered; where a word that it needs is uncorrectable it is discarded and counted (R80). -/
def State.offerFrame (s : State) (f : TxFrame) (rest : List TxFrame) (means : List Byte) : State :=
  s.unlessBad (s.readFrame f) (fun s => (s.onNet fun n => { n with txq := rest }).netDropped)
    fun s => s.offerReady f rest means

/-- The first frame of the queue that satisfies a test, and the rest. -/
def pick (p : TxFrame → Bool) : List TxFrame → Option (TxFrame × List TxFrame)
  | [] => none
  | f :: r => if p f then some (f, r) else (pick p r).map fun x => (x.1, f :: x.2)

/-- A BEACON frame (R238, R241). -/
def State.beaconFrame (s : State) : TxFrame :=
  { plainFrame typBeacon 0 s.beacon false 0 with bcast := true, buf := 96 }

/-- The owner's next exchange in its slot; a parent sends a BEACON when it has nothing else (R231, R241,
R254). -/
def State.sendNext (s : State) (first : Bool) (means : List Byte) : State :=
  let n := s.per.net
  if !n.en || n.stopped || s.exchanging || !n.inSlot || decide (n.cur ≠ n.own) then s
  else match pick TxFrame.dueHere n.txq with
    | some (f, rest) =>
      if s.fitsAt n.slotUse f then s.offerFrame f rest means
      else s.onNet fun n => { n with stopped := true }
    | none =>
      if first && (n.base || s.nbrs.any fun b => b.isChild) then
        s.offerFrame s.beaconFrame n.txq means
      else s

/-- A frame after the first in its slot. What listen-before-talk measures for it is open. -/
def State.sendMore (s : State) : State :=
  let k := max 1 (bits s.per.rf.lbt 16 16 / 100)
  (s.useFree k).sendNext false ((List.range k).map fun i => Config.freeByte (s.free + i))

/-! ## Ends of exchanges (R223, R239, R240, R247, R249, R254) -/

/-- This node takes a new parent: flags and PARENT move to it (R247, R248, R249). -/
def State.takeParent (s : State) (node : Nat) : State :=
  let s := s.nbrs.foldl (fun (s : State) b =>
    if b.isParent ∧ b.node ≠ node then s.putNbr { b with isParent := false } else s) s
  match s.nbrOf node with
  | none => s
  | some b =>
    let w := s.per.net.par
    ((s.putParent (setBits (setBits w 0 10 node) 12 4 (b.hops + 1))).putNbr
      { b with isParent := true }).remap

/-- An acknowledged frame, or one that needs no ACK, has been sent: what follows from it. -/
def State.sentFrame (s : State) (f : TxFrame) : State :=
  let s := s.onNet fun n => { n with await := none }
  if f.typ = typJoinReq then
    s.onNet fun n =>
      { n.setState netJoining with joinFc := numOf ((s.per.rf.air.drop 7).take 6) }
  else if f.typ = typJoinRsp then
    (match s.nbrOf f.dst with
     | some b => (s.putNbr { b with isChild := true, slot := numOf (f.payload.take 2) % 2048 }).remap
     | none => s)
  else if f.typ = typAttach then
    let old := s.per.net.parent
    let orphan := decide (s.per.net.state = netOrphan)
    let s := (s.takeParent f.dst).onNet fun n =>
      { n with
        stat := if orphan then setBits n.stat 0 3 netJoined else n.stat
        cand := none, pmiss := 0, oldParent := if old = f.dst then none else some old }
    if old = f.dst then s else s.txPut (plainFrame typDetach old [] false 0)
  else if f.typ = typDetach then s.onNet fun n => { n with oldParent := none }
  else if f.own && f.last then s.netFlag 5
  else s

/-- RF_TX_END: the ramp-down ends (R223). A frame without an ACK is complete; after another the
receiver waits for its ACK, at the symbol rate of the frame (R240). -/
def State.txEnd (s : State) : State :=
  if !s.running || !s.per.rf.txOn || !s.per.rf.begun then s
  else
    let s := ((s.txOver.fire 179).onNet fun n => { n with cnt0 := bump n.cnt0 false }).countSys 22 1
    if s.per.net.ackOn then
      let s := s.onNet fun n => { n with ackOn := false }
      (if s.per.net.en && (s.per.net.more || s.per.net.seeking) then s.netListen else s).netSettle
    else match s.per.net.await with
      | none => s
      | some f =>
        if f.acked then s.onRf fun r => r.listenAt r.txRate
        else
          let s := (s.sentFrame f).sendMore.netSettle
          if s.per.net.seeking && s.per.net.en then s.netListen else s

/-- The frame on the air is returned untransmitted, or cut and then marked aborted: it goes back to the head of its
queue, and that was no attempt (R222, R223, R254). -/
def State.returnFrame (s : State) (cut : Bool) : State :=
  let s := s.onNet fun n =>
    match n.await with
    | none => { n with ackOn := false, stopped := true }
    | some f =>
      { n with
        await := none, stopped := true
        txq := if f.typ = typBeacon then n.txq
          else { f with attempts := f.attempts - 1, wait := 0, aborted := cut } :: n.txq }
  s.netSettle

/-- RF_PLL_LOCK_FAIL (R223). -/
def State.pllFail (s : State) : State :=
  if s.running && s.per.rf.txOn && !s.per.rf.begun then
    (s.onRf fun r => { r.flag 9 with txOn := false }).returnFrame false
  else s

/-- RF_FRAME_ABORT: VCELL, in mV, has been below VABORT for 10 µs while the part runs from the cell, from the start of the
PA ramp (R222). -/
def State.txAbort (s : State) (vcell : Nat) : State :=
  if s.running && s.per.rf.txOn && s.per.rf.begun && !s.pwr.main && decide (vcell < bits s.per.rf.adm 0 12) then
    let s := (s.txOver.fire 180).onRf fun r =>
      { r.flag 2 with aborts := setBits r.aborts 0 16 (satAdd 0xFFFF (bits r.aborts 0 16) 1) }
    s.returnFrame true
  else s

/-- No sync word in the ACK's window (R240, R254). -/
def State.ackTimeout (s : State) : State :=
  match s.per.net.await with
  | none => s
  | some f =>
    if !s.running || s.per.rf.txOn || !f.acked || (s.per.rf.rxOn && s.per.rf.locked) then s
    else (((s.onNet fun n => { n with await := none }).netClose).failFrame f).sendMore.netSettle

/-- The ACK's nonce and authenticated data for the frame last sent (R239, R243). -/
def State.ackMic (s : State) (key : List Byte) (src fcnt typ : Nat) (head : List Byte) : List Byte :=
  ccmMic key (netNonce s.per.net.netid src fcnt typ true) head []

/-- The first three bytes of an ACK (R239). -/
def ackHead (key : Bool) (lseq energy : Nat) : List Byte :=
  BitVec.ofNat 8 (typAck + 8 * key.toNat) :: bytesOfNat 2 (lseq % 4096 + energy % 4 * 4096)

/-- A MIC fails (R237, R247, R259). -/
def State.micFail (s : State) : State :=
  s.onNet fun n => { n.flag 19 with cnt2 := bump n.cnt2 false }

/-! ## Slots (R229-R235, R248) -/

/-- NET_SLOT_WAKE (R234). -/
def State.slotWake (s : State) (slot : Nat) : State :=
  let n := s.per.net
  if !n.timing || !bit n.map slot || decide (s.pwr.state = .unpowered) then s
  else (s.onNet fun n => { n with holdOff := true }).wake 3 0 false

/-- A new superframe: SFN and every AGE move on (R228, R230). -/
def State.newSuperframe (s : State) : State :=
  let s := s.onNet fun n => { n with sfn := (n.sfn + 1) % 2 ^ 48 }
  if s.running && s.per.net.en then s.ageTable 1 else s.onNet fun n => { n with aged := n.aged + 1 }

/-- An alarm slot passes for the frames that wait for theirs. -/
def countAlarms (l : List TxFrame) : List TxFrame := l.map fun f => if f.alarm then { f with wait := f.wait - 1 } else f

/-- Consumer 93 has the queued alarm message sent in this slot, before any other, as its attempt 1 (R255). -/
def hastenAlarm (now : Bool) (l : List TxFrame) : List TxFrame :=
  match (if now then pick (fun f => f.alarm && f.own) l else none) with
  | some (f, rest) => { f with wait := 0, attempts := 0 } :: rest
  | none => l

/-- The first alarm frame that is due is sent; without one a router listens (R231, R255, R258). -/
def State.alarmTurn (s : State) (means : List Byte) : State :=
  let s := s.onNet fun n =>
    { n with
      txq := hastenAlarm n.alarmNow (countAlarms n.txq)
      alarmNow := false
      slotUse := guardMs * symbolRate s.per.rf.txRate }
  let may := s.per.net.slotted || decide (s.per.net.state = netSeek)
  match pick (fun f => f.alarm && decide (f.wait = 0)) s.per.net.txq with
  | some (f, rest) =>
    if may && s.fitsAt s.per.net.slotUse f then s.offerFrame f rest means else s
  | none => if s.per.net.router then s.netListen else s

/-- The slot of the parent, or of a child. -/
def State.linkSlot (s : State) (slot : Nat) : Bool :=
  s.nbrs.any fun b => (b.isParent || b.isChild) && decide (b.slot = slot)

/-- Slot `k` is the parent's owned slot. -/
def State.parentSlot (s : State) (slot : Nat) : Bool :=
  s.nbrs.any fun b => b.isParent && decide (b.slot = slot)

/-- The engine takes part in a slot: it sends in its own and in alarm slots, and listens to its
neighbours (R231, R232, R247, R249). -/
def State.takeSlot (s : State) (slot : Nat) (means : List Byte) : State :=
  let s := s.readTable.1.onNet fun n =>
    { n with
      inSlot := true, stopped := false, heard := false, more := false
      slotUse := guardMs * symbolRate s.per.rf.txRate }
  if alarmSlot slot then s.alarmTurn means
  else if s.per.net.slotted && decide (slot = s.per.net.own) then s.sendNext true means
  else if s.linkSlot slot || s.per.net.seeking then s.netListen
  else s

/-- The slot timer comes to a slot: the Basecamp's is loaded when that is due (R230), a slot number that does not lie
above the current one begins a new superframe, and the wake map follows (R234, R258). (DEDUCED, unsafe: assumption 70.)
(DEDUCED, unsafe: assumption 80.) -/
def State.turnSlot (s : State) (slot : Nat) : State :=
  let s := if s.per.net.load then s.loadSlots
    else (if slot ≤ s.per.net.cur then s.newSuperframe else s).onNet fun n => { n with cur := slot }
  (s.onNet fun n => { n.dropAlarms with inSlot := false }).remap

/-- NET_SLOT_START (R230, R234, R258). The engine takes part where EN was 1 by slot start − W: surely so where it has been 1
since an earlier slot start, and as `inTime` says where it has been set since. -/
def State.slotStart (s : State) (slot : Nat) (inTime : Bool) (means : List Byte) : State :=
  if !(s.per.net.timing || s.per.net.load) || decide (s.pwr.state = .unpowered) || s.exchanging then s
  else
    let takes := s.per.net.en && (!s.per.net.fresh || inTime)
    let s := s.turnSlot slot
    let mapped := bit s.per.net.map s.per.net.cur
    let s := s.onNet fun n => { n with holdOff := mapped, fresh := false }
    if !s.running then s
    else
      let s := if mapped then s.fire 181 else s
      if takes then s.takeSlot s.per.net.cur means
      else if mapped then s.netFlag 15
      else s

/-- The slot has passed without the parent's first frame (R249). -/
def State.missParent (s : State) : State :=
  if s.per.net.slotted && s.parentSlot s.per.net.cur && !s.per.net.heard then
    s.onNet fun n => { n with pmiss := n.pmiss + 1 }
  else s

/-- ATTACH is queued to a node (R249, R255). -/
def State.attachTo (s : State) (b : Nbr) : State :=
  (s.onNet fun n => { n with cand := some b.node }).txPutAlarm typAttach b.node
    (bytesOfNat 2 s.per.net.own)

/-- The cost of the present parent: 1,023 when it is no longer eligible (R248). -/
def State.parentCost (s : State) : Nat :=
  match s.nbrs.find? fun b => b.isParent with
  | some b => if b.eligible then s.per.net.costOf b else 1023
  | none => 1023

/-- A joined node re-evaluates its parent after the parent's slot, and attaches to a better one; an
orphan attaches to the best neighbour (R248, R249). -/
def State.reevaluate (s : State) : State :=
  let n := s.per.net
  match n.cand, s.bestNbr with
  | none, some b =>
    if n.state = netOrphan then s.attachTo b
    else if decide (n.state = netJoined) && s.parentSlot n.cur && !b.isParent &&
        decide (n.costOf b + bits n.cost 16 8 ≤ s.parentCost) then s.attachTo b
    else s
  | _, _ => s

/-- NET_SLOT_END (R234, R248, R254). -/
def State.slotEnd (s : State) : State :=
  let n := s.per.net
  if !n.timing || !(n.inSlot || n.holdOff) || s.exchanging then s
  else
    let s := if n.en then s.readTable.1.missParent.reevaluate else s
    (s.onNet fun n =>
      { n with
        holdOff := false, inSlot := false, stopped := false
        txq := n.txq.map fun f => if f.alarm then f else { f with wait := 0 } }).netClose

/-- LISTEN_WINDOW_CLOSE: only while no frame is locked, and the last frame heard had no MORE (R224, R232). -/
def State.windowClose (s : State) : State :=
  if !s.running || !s.per.rf.rxOn || s.per.rf.locked || s.exchanging || s.per.net.more then s else s.netClose

/-! ## Reception (R217, R233, R235, R242-R246) -/

/-- The receiver has locked to a frame, for an engine that runs or completes what it does (R216, R258). (DEDUCED, unsafe:
assumption 77.) -/
def State.hears (s : State) : Bool :=
  s.running && s.per.rf.rxOn && s.per.rf.locked && (s.per.net.en || decide (s.per.net.state ≠ netOff))

/-- The radio passes a frame on, in a buffer of DP when one is free (R216, R217). -/
def State.takeFrame (s : State) (p : PhyFrame) : State :=
  let s := ((s.onRf fun r => r.passOn p).onNet fun n => { n with more := (rxFrame p).more }).countSys 23 1
  match s.per.net.newBuf with
  | some b => s.putBuf b p.body
  | none => s

/-- After a frame that needs no ACK, the receiver stays open for MORE only (R232), or for the ACK that it waits for
(R240). -/
def State.afterFrame (s : State) : State :=
  (if s.exchanging || s.per.net.more then s else s.netClose).netSettle

/-- A frame in which the engine finds an uncorrectable word of its tables is discarded and counted; the specification
names no counter. (DESIGN CHOICE, unsafe: assumption 110.) -/
def State.frameSpoilt (s : State) : State := (s.onNet fun n => { n with cnt2 := bump n.cnt2 false }).afterFrame

/-- A frame of a type arrives: the radio passes it on, unless its header or its CRC-32 has it discarded, which is
RF_FRAME_REJECT's to do (R212, R216). One of TYPE 7 is then discarded (R237), and so is any that comes while the engine
waits for an ACK (DESIGN CHOICE, unsafe: assumption 114). -/
def State.arrives (s : State) (p : PhyFrame) (typ : Nat) (body : State → RxFrame → State) : State :=
  let f := rxFrame p
  if !s.hears || p.badHeader s.per.rf.baud || p.badCrc || decide (f.typ ≠ typ ∧ f.typ ≠ 7) then s
  else
    let t := s.takeFrame p
    if decide (f.typ = 7) || s.exchanging then t.afterFrame
    else t.unlessBad t.readTable State.frameSpoilt fun t => body t f

/-- The frame is for this node. -/
def State.isForMe (s : State) (f : RxFrame) : Bool := f.bcast || decide (f.dst = s.per.net.me)

/-- ACK_RECEIVED (R239, R240): the ACK of the frame last sent, with its LSEQ, completes the exchange; another is
discarded. -/
def State.ackReceived (s : State) (p : PhyFrame) : State :=
  let b := p.body
  let head := b.take 3
  let lseq := numOf ((b.drop 1).take 2) % 4096
  let energy := numOf ((b.drop 1).take 2) / 4096 % 4
  if !s.hears || p.badHeader s.per.rf.baud || p.badCrc || decide (numOf (b.take 1) % 8 ≠ typAck) then s
  else
    let s := s.takeFrame p
    match s.per.net.await with
    | none => s.afterFrame
    | some f =>
      if s.per.rf.txOn || !f.acked || decide (f.lseq ≠ some lseq) then s.afterFrame
      else
        let air := s.per.rf.air
        let key := decide (numOf (air.take 1) / 8 % 2 = 1)
        let mic := (s.rp.key (s.per.net.keySlot key)).map fun k =>
          s.ackMic k s.per.net.me (numOf ((air.drop 7).take 6)) f.typ head
        if mic ≠ some (b.drop 3) then s.micFail
        else
          let s := match s.nbrOf f.dst with
            | some b => s.putNbr { b with energy := energy, age := 0 }
            | none => s
          let s := s.onNet fun n => { n with await := none, cnt0 := bump n.cnt0 true }
          ((s.netClose.sentFrame f).sendMore).netSettle

/-- The plain payload of a frame whose MIC is right (R243). -/
def State.openFrame (s : State) (f : RxFrame) : Option (List Byte) :=
  match s.rp.key (s.per.net.keySlot f.key) with
  | none => none
  | some k =>
    let nonce := netNonce s.per.net.netid f.src f.fcnt f.typ false
    let plain := if encrypted f.typ then ccmStream k nonce f.payload else f.payload
    let p := micParts f.typ f.head plain
    if ccmMic k nonce p.1 p.2 = f.mic then some plain else none

/-- LQI's running average (R248). -/
def lqiStep (old new : Nat) : Nat := ((old : Int) + ((new : Int) - old).tdiv 8).toNat

/-- The owned slot of a new neighbour: the slot in which it is heard, or its default assignment when that is
an alarm slot (R228, R229). (DEDUCED, unsafe: assumption 72.) -/
def State.heardSlot (s : State) (node : Nat) : Nat :=
  if alarmSlot s.per.net.cur then 9 * (node / 8) + node % 8 else s.per.net.cur

/-- A neighbour's entry after a frame from it (R245, R248). -/
def Nbr.hear (b : Nbr) (f : RxFrame) : Nbr :=
  { b with
    hops := f.hops
    energy := f.energy
    age := 0
    lastFc := f.fcnt
    lqi := lqiStep b.lqi f.lqi }

/-- The frame is a replay: its FCNT does not exceed the neighbour's LASTFC (R245). -/
def State.replayed (s : State) (f : RxFrame) : Bool := (s.nbrOf f.src).any fun b => decide (f.fcnt ≤ b.lastFc)

/-- The neighbour entry that a frame updates or takes; none when it finds no entry (R245, R248). -/
def State.nbrFor (s : State) (f : RxFrame) : Option Nbr :=
  match s.nbrOf f.src with
  | some b => some (b.hear f)
  | none =>
    s.nbrSlot.map fun i =>
      ⟨i, f.src, s.heardSlot f.src, f.hops, f.energy, false, f.lqi, false, false, 0,
        f.fcnt, 0, 0⟩

/-- The RTC slew that removes an offset within one superframe, at most 1,000 ppm, as far as AMT reaches (R235). -/
def State.tofsSlew (s : State) (t : Int) : State :=
  if t.natAbs ≤ 2 then s
  else
    let amt := max (-(2 ^ 21)) (min (2 ^ 21 - 1) (t * 32768 / 1000))
    let sf := 1152 * slotMs s.per.net.slen
    let rate := min 1000 (max 1 ((t.natAbs * 1000000 + sf - 1) / sf))
    s.onRtc fun r => r.writeSlew (setBits (setBits 0#32 0 22 (amt % 2 ^ 22).toNat) 22 10 rate)

/-- Network time less RTC time in ms, at the end of the sync word of the first frame of the slot: G and 64 symbols after
the slot start (R211, R230, R231, R235). The RTC's fraction is cut to whole microseconds, and the result toward zero
(DESIGN CHOICE, unsafe: assumption 81). -/
def State.networkOffset (s : State) (rate : Nat) : Int :=
  let n := s.per.net
  let net := (n.sfn * 1152 + n.cur) * slotMs n.slen * 1000 + guardMs * 1000 + 64000000 / symbolRate rate
  let rtc := s.per.rtc.time * 1000000 / 32768
  ((net : Int) - (rtc : Int)).tdiv 1000

/-- The slot timer's rate takes half the rate error that a phase error of `late` µs shows since the last correction,
within 200 ppm; the first correction shows none (R233). -/
def Net.rateStep (n : Net) (late : Int) : Int :=
  if n.synced && decide (0 < n.sinceCorr) then
    max (-200) (min 200 (n.rateCorr + (late * 32768).tdiv (2 * (n.sinceCorr : Int))))
  else n.rateCorr

/-- The first frame of the parent's slot corrects the slot timer (R233, R235). -/
def State.phaseCorrect (s : State) (f : RxFrame) : State :=
  let t := max (-(2 ^ 31)) (min (2 ^ 31 - 1) (s.networkOffset f.rate))
  (s.onNet fun n =>
    { n with
      tofs := BitVec.ofInt 32 t
      phase := n.phase + f.late
      rateCorr := n.rateStep f.late
      synced := true
      sinceCorr := 0
      heard := true, pmiss := 0 }).tofsSlew t

/-- What a valid frame from the parent does besides its content: phase, HOPS, and the key change
(R233, R246, R248). -/
def State.fromParent (s : State) (f : RxFrame) (b : Nbr) : State :=
  if !b.isParent then s
  else
    let s := if s.per.net.slotted && decide (b.slot = s.per.net.cur) && !s.per.net.heard
      then s.phaseCorrect f else s
    let s := if b.hops + 1 = s.per.net.hops then s
      else s.putParent (setBits s.per.net.par 12 4 (b.hops + 1))
    if s.per.net.keySlot f.key = 1 then (s.swapKeys).netFlag 14 else s

/-- A frame that passed its checks: the neighbour entry, with ADV and LASTFC, and the counts. -/
def State.acceptFrame (s : State) (f : RxFrame) (b : Nbr) : State :=
  ((s.putNbr b).onNet fun n => { n with cnt0 := bump n.cnt0 true }).fromParent f b

/-- A replay is discarded and counted (R245, R259). -/
def State.discardDup (s : State) : State :=
  (s.onNet fun n => { n with cnt2 := bump n.cnt2 true }).afterFrame

/-- A frame whose MIC holds, or that has none, finds its neighbour entry, or is discarded (R245). -/
def State.accepted (s : State) (f : RxFrame) (go : State → Nbr → State) : State :=
  if s.replayed f then s.discardDup
  else match s.nbrFor f with
    | none => s.afterFrame
    | some b => go (s.acceptFrame f b) b

/-- The ACK of a frame is offered to the radio (R239, R240). -/
def State.sendAck (s : State) (f : RxFrame) : State :=
  let r := s.per.rf.offer s.per.hrv s.pwr.main f.rate 11 true false
  match r.2 with
  | .sent =>
    let head := ackHead f.key f.lseq s.netEnergy
    let k := (s.rp.key (s.per.net.keySlot f.key)).getD []
    (s.onRf fun _ => r.1.putOnAir f.rate true (head ++ s.ackMic k f.src f.fcnt f.typ head)).onNet
      fun n => { n with ackOn := true }
  | o =>
    (((s.onRf fun _ => r.1).onNet fun n => { n.flag 9 with cnt1 := bump n.cnt1 false }).countSys 27
      (if o = .energy ∨ o = .duty then 1 else 0)).afterFrame

/-- A unicast frame's place in its link (R242): new or duplicate. -/
def State.linkCheck (s : State) (f : RxFrame) (b : Nbr) : State × Bool :=
  let d := (f.lseq + 4096 - b.rxSeq % 4096) % 4096
  if d = 0 ∨ 4033 ≤ d then (s.onNet fun n => { n with cnt2 := bump n.cnt2 true }, false)
  else
    let s := match s.nbrOf b.node with
      | some e => s.putNbr { e with rxSeq := f.lseq }
      | none => s
    (if d ≤ 64 then s else s.netFlag 18, true)

/-- A frame with a link MIC: opened, accepted (it gives its sender's entry, and a parent's first frame the phase,
whomever it is for), and where it is for this node given to `body` with its neighbour and plain payload; a unicast one
is acknowledged where `may` says so (R232, R233, R239, R241, R242, R245). -/
def State.receive (s : State) (p : PhyFrame) (typ : Nat) (may : State → Bool)
    (body : State → Nbr → List Byte → State) : State :=
  s.arrives p typ fun s f =>
    match s.openFrame f with
    | none => s.micFail.afterFrame
    | some plain =>
      s.accepted f fun s b =>
        if !s.isForMe f then s.afterFrame
        else if f.bcast then (body s b plain).afterFrame
        else if s.per.net.newBuf.isNone then (s.netFlag 10).afterFrame
        else if !may s then s.afterFrame
        else
          let r := s.linkCheck f b
          (if r.2 then body r.1 b plain else r.1).sendAck f

/-! ## Beacons and joining (R238, R247) -/

/-- A joiner takes the time of a beacon for its slot timer (R247). -/
def State.adoptTime (s : State) (plain : List Byte) : State :=
  s.onNet fun n =>
    { n with sfn := numOf (plain.take 6), cur := numOf ((plain.drop 6).take 2) % 1152, timing := true }

/-- A seeking node chooses the eligible neighbour of lowest cost that advertises JOINOPEN as candidate,
and queues its JOIN_REQ for an alarm slot (R247). -/
def State.pickCandidate (s : State) (b : Nbr) (flags : Byte) (plain : List Byte) : State :=
  let n := s.per.net
  if n.state ≠ netSeek ∨ bit flags 0 = false ∨ bit flags 1 = false ∨ b.eligible = false then s
  else
    let s := s.adoptTime plain
    let better := match n.cand with
      | none => true
      | some c => match s.nbrOf c with
        | none => true
        | some o => decide (n.costOf b < n.costOf o)
    if !better then s
    else
      let s := s.onNet fun n =>
        { n with cand := some b.node, txq := n.txq.filter fun f => decide (f.typ ≠ typJoinReq) }
      s.txPutAlarm typJoinReq b.node []

/-- The content of a beacon: its sender's slot and ACCEPT (R228, R238). -/
def State.beaconBody (s : State) (b : Nbr) (plain : List Byte) : State :=
  if plain.length < 9 then s
  else
    let flags := (plain.drop 8).headD 0#8
    let b := { (s.nbrOf b.node).getD b with
      accept := bit flags 0, slot := numOf ((plain.drop 6).take 2) % 2048 }
    let s := s.putNbr b
    let s := if s.per.net.state = netOrphan ∧ s.per.net.timing = false then s.adoptTime plain else s
    s.pickCandidate b flags plain

/-- BEACON_RECEIVED (R238, R247): an unjoined node, which holds no network key, takes a beacon without its
MIC. (DEDUCED, unsafe: assumption 68.) -/
def State.beaconReceived (s : State) (p : PhyFrame) : State :=
  if s.per.net.state = netSeek then
    s.arrives p typBeacon fun s f => s.accepted f fun s b => (s.beaconBody b f.payload).afterFrame
  else s.receive p typBeacon (fun _ => true) fun s b plain => s.beaconBody b plain

/-- A message of this node's own making is complete at the Basecamp: the JOIN message of a joiner that
the Basecamp itself heard (R247). -/
def State.localMessage (s : State) (bs : List Byte) : State :=
  match s.per.net.newBuf with
  | none => s.netFlag 10
  | some b =>
    (s.useFree 1).onNet fun n =>
      { n with ready := n.ready ++
        [⟨n.me, Config.freeNat s.free % 65536, 3, false, 8, n.me, 0, [(0, bs, b)], n.cur,
          BitVec.ofNat 32 n.sfn, s.per.rf.rxinfo &&& 0xFFFF#32, false⟩] }

/-- The Basecamp checks a joiner's inner MIC under its per-node key (R227, R247). -/
def State.checkJoin (s : State) (bs : List Byte) : State × Bool :=
  let joiner := numOf ((bs.drop 1).take 2) % 1024
  let fc := numOf ((bs.drop 3).take 6)
  match s.rp.key (2 + joiner) with
  | none => (s.micFail, false)
  | some k =>
    if s.per.net.joinReqMic k joiner fc = (bs.drop 9).take 8 then
      (s.onNet fun n => { n with joins := (joiner, fc) :: n.joins.filter fun j => decide (j.1 ≠ joiner) },
        true)
    else (s.micFail, false)

/-- JOIN_REQ_RECEIVED: the candidate sends a JOIN control message to the Basecamp (R247, R257). -/
def State.joinReqReceived (s : State) (p : PhyFrame) : State :=
  s.arrives p typJoinReq fun s f =>
    if !s.isForMe f || !s.per.net.placed || !(s.per.net.router || s.per.net.base) then s.afterFrame
    else s.accepted f fun s _ =>
      let bs := 1#8 :: bytesOfNat 2 f.src ++ bytesOfNat 6 f.fcnt ++ f.payload.take 8
      if s.per.net.base then
        let r := s.checkJoin bs
        (if r.2 then r.1.localMessage bs else r.1).afterFrame
      else (s.queueControl 0 bs).afterFrame

/-- The joiner's place after a good JOIN_RSP (R247). -/
def State.joined (s : State) (f : RxFrame) (slot : Nat) (key : List Byte) : State :=
  let s := (s.onRp fun r => r.setKey 0 key).storeWrites
  let s := s.onNet fun n =>
    { (n.setState netJoined).flag 12 with own := slot % 2048, cand := none, timing := true, pmiss := 0 }
  (((s.putParent (setBits s.per.net.par 16 8 f.key.toNat)).takeParent f.src).putJoined true).remap

/-- JOIN_RSP_RECEIVED (R247, R257). -/
def State.joinRspReceived (s : State) (p : PhyFrame) : State :=
  s.arrives p typJoinRsp fun s f =>
    let n := s.per.net
    if n.state ≠ netJoining ∨ s.isForMe f = false ∨ n.cand ≠ some f.src then s.afterFrame
    else match s.rp.key (2 + n.me) with
      | some k =>
        let slot := f.payload.take 2
        let nonce := netNonce n.netid n.me n.joinFc typJoinRsp false
        let key := ccmStream k nonce ((f.payload.drop 2).take 16)
        if f.payload.length = 26 ∧ ccmMic k nonce slot key = f.payload.drop 18 then
          s.accepted f fun s _ => (s.joined f (numOf slot) key).afterFrame
        else s.micFail.afterFrame
      | none => s.micFail.afterFrame

/-- JOIN_TIMEOUT (R247). -/
def State.joinTimeout (s : State) : State :=
  if s.running && decide (s.per.net.state = netJoining) then
    (s.onNet fun n => { n.setState netSeek with cand := none }).netListen
  else s

/-! ## Attaching, detaching and loss (R249) -/

/-- ATTACH_RECEIVED (R249): a parent without ROUTER, or whose route table is full, does not acknowledge
it. -/
def State.attachReceived (s : State) (p : PhyFrame) : State :=
  s.receive p typAttach
    (fun s => s.per.net.router && s.per.net.slotted && !s.routesFull)
    fun s b plain =>
      match s.nbrOf b.node with
      | some e => (s.putNbr { e with isChild := true, slot := numOf (plain.take 2) % 2048 }).remap
      | none => s

/-- A child is removed, with every route by it (R249). -/
def State.removeChild (s : State) (node : Nat) : State :=
  match s.nbrOf node with
  | none => s
  | some e =>
    if e.isChild then ((s.putNbr { e with isChild := false }).dropRoutes node).remap else s

/-- DETACH_RECEIVED (R249). -/
def State.detachReceived (s : State) (p : PhyFrame) : State :=
  s.receive p typDetach (fun _ => true) fun s b _ => s.removeChild b.node

/-- CHILD_TIMEOUT: nothing has been heard from the child for 32 superframes (R249). -/
def State.childTimeout (s : State) (node : Nat) : State :=
  if s.running && s.per.net.en && (s.nbrOf node).any fun b => decide (32 ≤ b.age) then
    s.removeChild node
  else s

/-- KEEP_TIMER (R249). -/
def State.keepTimer (s : State) : State :=
  if s.running && s.per.net.en && decide (s.per.net.state = netJoined) then
    s.queueControl s.per.net.parent [0#8]
  else s

/-- PARENT_LOSS (R249). -/
def State.parentLoss (s : State) : State :=
  let n := s.per.net
  if !s.running || !n.en || decide (n.state ≠ netJoined) || decide (n.pmiss < 3) then s
  else
    let s := s.onNet fun n => (n.setState netOrphan).flag 13
    match s.bestNbr with
    | none => s
    | some b => s.attachTo b

/-- OLD_KEY_EXPIRY (R246). -/
def State.oldKeyExpiry (s : State) : State :=
  if s.running && s.per.net.oldKey then
    ((s.onRp fun r => r.dropKey 1).storeWrites).onNet fun n => { n with oldKey := false }
  else s

/-- SURVEY_END (R249). -/
def State.surveyEnd (s : State) : State :=
  if s.running && s.per.net.survey then (s.onNet fun n => { n with survey := false }).netClose else s

/-! ## Messages arriving (R250-R252, R256, R257) -/

/-- The network header of a segment, taken apart (R251). -/
structure SegHead where
  orig : Nat
  segi : Nat
  final : Nat
  segl : Nat
  tid : Nat
  kind : Nat
  ttl : Nat
  alarm : Bool
  deriving DecidableEq, Repr

def segHead (p : List Byte) : SegHead :=
  let a := numOf (p.take 2)
  let b := numOf ((p.drop 2).take 2)
  let k := numOf ((p.drop 6).take 1)
  ⟨a % 1024, a / 1024, b % 1024, b / 1024, numOf ((p.drop 4).take 2), k % 4, k / 4 % 16,
    decide (k / 64 % 2 = 1)⟩

/-- A router forwards one segment (R250, R251, R255). -/
def State.forward (s : State) (b : Nbr) (h : SegHead) (data : List Byte) : State :=
  if h.ttl ≤ 1 then s
  else
    match s.nextHop h.final b.isParent with
    | none => s.netFlag 11
    | some hop =>
      let up := decide (hop = s.per.net.parent) && !s.per.net.base
      let alarm := h.alarm && up
      let p := netHeader h.orig h.segi h.final h.segl h.tid h.kind (h.ttl - 1) h.alarm ++ data
      (s.useFree 1).txPut
        { plainFrame typData hop p alarm (if alarm then alarmWait s.free 1 else 0) with
          last := decide (h.segi = h.segl) }

/-- A segment joins its message; a duplicate is ignored (R252). -/
def Reasm.add (r : Reasm) (i : Nat) (data : List Byte) (buf slot : Nat) (sfn link : Word) : Reasm :=
  if r.segs.any fun g => decide (g.1 = i) then r
  else { r with segs := r.segs ++ [(i, data, buf)], slot := slot, sfn := sfn, link := link }

/-- Every segment is there. -/
def Reasm.whole (r : Reasm) : Bool :=
  (List.range (r.segl + 1)).all fun i => r.segs.any fun g => decide (g.1 = i)

/-- The bytes of a message (R252). -/
def Reasm.data (r : Reasm) : List Byte :=
  (List.range (r.segl + 1)).flatMap fun i =>
    ((r.segs.find? fun g => decide (g.1 = i)).map fun g => g.2.1).getD []

/-- An ADMIT message: the JOIN_RSP is queued, where it fits a frame (R236, R247, R257). -/
def State.admitted (s : State) (bs : List Byte) : State :=
  if s.netM < 18 then s
  else s.txPut (plainFrame typJoinRsp (numOf ((bs.drop 1).take 2) % 1024) ((bs.drop 3).take 26) false 0)

/-- A KEYSET message: the node's engine places the key into slot 1 when its MIC is right (R246, R257). -/
def State.keysetArrived (s : State) (bs : List Byte) : State :=
  let n := s.per.net
  let head := (bs.drop 1).take 7
  match s.rp.key (2 + n.me) with
  | none => s.micFail
  | some k =>
    let nonce := netNonce n.netid 0 (numOf (head.take 6)) typData false
    let key := ccmStream k nonce ((bs.drop 8).take 16)
    if ccmMic k nonce head key = (bs.drop 24).take 8 then (s.onRp fun r => r.setKey 1 key).storeWrites
    else s.micFail

/-- A complete message waits for a receive entry. -/
def State.makeReadyMessage (s : State) (r : Reasm) : State :=
  s.onNet fun n => { n with ready := n.ready ++ [r] }

/-- A complete message: control messages that the engine consumes, answers to transactions, and the rest
for delivery (R247, R256, R257). -/
def State.messageWhole (s : State) (r : Reasm) : State :=
  let bs := r.data
  let code := bs.headD 0xFF#8
  if r.kind = 3 ∧ code = 2#8 then s.admitted bs
  else if r.kind = 3 ∧ code = 3#8 then s.keysetArrived bs
  else if r.kind = 3 ∧ code = 1#8 ∧ s.per.net.base = true then
    let c := s.checkJoin bs
    if c.2 then c.1.makeReadyMessage r else c.1
  else if r.kind = 2 then
    if s.per.net.trans.any fun t => decide (t.tid = r.tid) && decide (t.peer = r.orig) then
      (((s.onNet fun n =>
        { n.flag 7 with
          trans := n.trans.filter fun t => !(decide (t.tid = r.tid) && decide (t.peer = r.orig)) }).fire
        183)).makeReadyMessage r
    else s.makeReadyMessage { r with stray := true }
  else s.makeReadyMessage r

/-- A segment for this node (R252). -/
def State.collect (s : State) (b : Nbr) (h : SegHead) (data : List Byte) (buf : Nat) : State :=
  let n := s.per.net
  let same := fun r : Reasm => decide (r.orig = h.orig) && decide (r.tid = h.tid) &&
    decide (r.kind = h.kind)
  let fresh : Reasm := ⟨h.orig, h.tid, h.kind, h.alarm, h.ttl, b.node, h.segl, [], n.cur, 0#32, 0#32, false⟩
  let r := ((n.reasm.find? same).getD fresh).add h.segi data buf n.cur (BitVec.ofNat 32 n.sfn)
    (s.per.rf.rxinfo &&& 0xFFFF#32)
  let rest := n.reasm.filter fun x => !same x
  if r.whole then (s.onNet fun n => { n with reasm := rest }).messageWhole r
  else s.onNet fun n => { n with reasm := rest ++ [r] }

/-- The content of a DATA frame (R250, R251). (DEDUCED, unsafe: assumption 74.) -/
def State.dataBody (s : State) (b : Nbr) (plain : List Byte) : State :=
  if plain.length < 7 then s
  else
    let h := segHead plain
    let s := if b.isChild then s.putRoute h.orig b.node else s
    if h.final = s.per.net.me then
      match s.per.net.newBuf with
      | some buf => s.collect b h (plain.drop 7) buf
      | none => s
    else s.forward b h (plain.drop 7)

/-- DATA_RECEIVED (R242, R250, R252). -/
def State.dataReceived (s : State) (p : PhyFrame) : State :=
  s.receive p typData (fun _ => true) fun s b plain =>
    s.dataBody ((s.nbrOf b.node).getD b) plain

/-- REASSEMBLY_TIMEOUT (R252). -/
def State.reassemblyTimeout (s : State) (orig tid : Nat) : State :=
  let late := fun r : Reasm => decide (r.orig = orig) && decide (r.tid = tid)
  if s.running && s.per.net.reasm.any late then
    s.onNet fun n => { n.flag 17 with reasm := n.reasm.filter fun r => !late r }
  else s

/-- TRANSACTION_TIMEOUT (R256). -/
def State.transactionTimeout (s : State) (tid : Nat) : State :=
  if s.running && s.per.net.trans.any fun t => decide (t.tid = tid) then
    (s.onNet fun n =>
      { n.flag 8 with trans := n.trans.filter fun t => decide (t.tid ≠ tid) }).fire 183
  else s

/-! ## Delivery (R257) -/

/-- The receive descriptor (R257). -/
def Reasm.descriptor (r : Reasm) : List Byte :=
  let w0 := field 0 1 ||| field 2 r.kind ||| flagAt 4 r.alarm ||| flagAt 5 r.stray |||
    field 16 r.data.length
  let w1 := field 0 r.orig ||| field 16 r.via ||| field 28 (8 - r.ttl)
  let w2 := field 0 (r.tid % 65536) ||| field 16 r.slot
  bytesOf w0 ++ bytesOf w1 ++ bytesOf w2 ++ bytesOf r.sfn ++ bytesOf r.link ++ List.replicate 12 0#8

/-- The engine reads what it needs to deliver a message: the first words of the descriptors, and the buffers that hold the
message (R79, R80). -/
def State.readMessage (s : State) (r : Reasm) (e : ObjEntry) : State × Bool :=
  let parts := ((List.range s.per.net.rxEntries).map fun i => (e.physical + 32 * i, 4)) ++
    (r.segs.filter fun g => decide (g.2.2 < 96)).map fun g => (dpBase + 320 * g.2.2, g.2.1.length)
  parts.foldl (fun (t : State × Bool) x =>
    if t.2 then t else t.1.netWords x.1 x.2) (s, false)

/-- A message is written into receive entry `i`: its data and then its descriptor (R257). -/
def State.writeMessage (s : State) (r : Reasm) (o i : Nat) : State :=
  let k := s.per.net.rxEntries
  let s := (s.netStore o (32 * k + 1024 * i) r.data).netStore o (32 * i) r.descriptor
  let s := (s.onNet fun n => { n.flag 4 with ready := n.ready.drop 1, rxNext := (i + 1) % k }).fire 182
  s.makeMail (bits s.per.net.rxcfg 8 6) ⟨3, BitVec.ofNat 32 i⟩

/-- The first message waiting is written into the next free entry (R257). One of which a word is uncorrectable is discarded
and counted (R80; DESIGN CHOICE, unsafe: assumption 110). -/
def State.deliver (s : State) : State :=
  let n := s.per.net
  match n.ready, s.rxObj, s.wdn.indexAtBase n.rxobj.toNat with
  | r :: rest, some e, some o =>
    s.unlessBad (s.readMessage r e)
      (fun s => s.onNet fun n => { n with ready := rest, cnt2 := bump n.cnt2 false })
      fun s =>
        let k := n.rxEntries
        match ((List.range k).map fun j => (n.rxNext + j) % k).find? fun i =>
            decide (s.mem.num (e.physical + 32 * i) 4 = 0) with
        | none => s.netFlag 16
        | some i => s.writeMessage r o i
  | _, _, _ => s

/-- MESSAGE_DELIVERY: under Waymark messages are written at the frame boundary only (R257). -/
def State.messageDelivery (s : State) : State :=
  if s.running && s.per.net.en && !s.waymark then s.deliver else s

/-- Messages in slot order, for the frame boundary (R257). -/
def Net.sorted (n : Net) : List Reasm :=
  sortBy (fun a b => decide (a.sfn.toNat * 1152 + a.slot ≤ b.sfn.toNat * 1152 + b.slot)) n.ready

/-- Every message that waits is delivered, in slot order, as far as entries are free (R257). -/
def State.deliverAll (s : State) : State :=
  if s.per.net.en then
    let s := s.onNet fun n => { n with ready := n.sorted }
    (List.range s.per.net.ready.length).foldl (fun s _ => s.deliver) s
  else s

end Sys2Proof.Machine
end

