-- ==== Sys2Proof/Machine/Blocks.lean ====
section
/-! DEFINITION. The registers of the MEM block (R102) and of the ITG block (R163). -/

namespace Sys2Proof.Machine

open Sys2Proof

/-! ## MEM (R102) -/

/-- Line `k` of the Ember window is restored and dirty (R93, R102). -/
def MemRegs.lineDirty (r : MemRegs) (k : Nat) : Bool := bit r.restored k && bit r.dirty k

/-- MEM_EMB_DIRTYn. -/
def MemRegs.dirtyWord (r : MemRegs) (n : Nat) : Word :=
  ((r.restored &&& r.dirty) >>> (32 * n)).setWidth 32

/-- The bank that MEM_BANK_SEL selects. -/
def MemRegs.bank (r : MemRegs) : Nat := bits r.sel 0 6

/-- Spare columns in use: at most 16 in an MRAM bank and 4 in an SRAM bank, and none elsewhere (R84). -/
def spareColumns (b : Nat) : Nat :=
  if b < 16 then Config.spares b % 17 else if b < 48 then Config.spares b % 5 else 0

/-- MEM_BANK_INFO; zero for an index that selects nothing. -/
def MemRegs.info (r : MemRegs) : Word :=
  let b := r.bank
  if 50 ≤ b then 0#32
  else
    field 0 (spareColumns b) ||| field 8 (min 255 (vget r.corr b 0)) |||
      flagAt 16 (bit r.retreq b) ||| flagAt 17 (bit r.unc b)

/-- The wear count of the selected bank, in units of 256 writes (R90). -/
def MemRegs.wearCount (r : MemRegs) : Nat := vget r.wear r.bank 0 / 256 % 2 ^ 48

/-- A read of the MEM block. -/
def MemRegs.read (r : MemRegs) (off : Nat) : Word :=
  if off = 0x00 then r.stat
  else if off = 0x04 then r.eccLim
  else if off = 0x08 then r.log0
  else if off = 0x0C then r.log1
  else if off = 0x10 then BitVec.ofNat 32 (r.scrub % 2 ^ 20)
  else if off = 0x14 then r.sbPwr
  else if off = 0x20 then flagAt 0 r.norec ||| flagAt 1 r.badrec ||| flagAt 2 r.slot
  else if off = 0x24 then r.seq
  else if 0x30 ≤ off ∧ off ≤ 0x3C then vget r.rights ((off - 0x30) / 4) 0#32
  else if 0x40 ≤ off ∧ off ≤ 0x5C then r.dirtyWord ((off - 0x40) / 4)
  else if 0x80 ≤ off ∧ off ≤ 0xA0 then vget r.conf ((off - 0x80) / 4) 0#32
  else if off = 0xA4 then r.confSat
  else if off = 0xC0 then r.sel
  else if off = 0xC4 then r.info
  else if off = 0xC8 then BitVec.ofNat 32 r.wearCount
  else if off = 0xCC then r.wearHi
  else 0#32

/-- What a read of the MEM block changes: RC registers clear, and WEAR_LO fills the shadow (R5, R90). -/
def MemRegs.readEffect (r : MemRegs) (off : Nat) : MemRegs :=
  if 0x80 ≤ off ∧ off ≤ 0xA0 then { r with conf := vset r.conf ((off - 0x80) / 4) 0#32 }
  else if off = 0xA4 then { r with confSat := 0#32 }
  else if off = 0xC8 then { r with wearHi := BitVec.ofNat 32 (r.wearCount / 2 ^ 32) }
  else r

/-- A Canvas write would change a Ridgepole-owned field of MEM (R6, R102). -/
def MemRegs.owned (r : MemRegs) (off : Nat) (v : Word) : Bool :=
  if off = 0x04 then decide (v &&& 0xFFF#32 ≠ r.eccLim)
  else if 0x30 ≤ off ∧ off ≤ 0x3C then decide (v ≠ vget r.rights ((off - 0x30) / 4) 0#32)
  else false

/-- A write to the MEM block. -/
def MemRegs.write (r : MemRegs) (off : Nat) (v : Word) : MemRegs :=
  if off = 0x00 then { r with stat := writeW1C 0x3F#32 r.stat v }
  else if off = 0x04 then { r with eccLim := v &&& 0xFFF#32 }
  else if off = 0x0C then { r with log1 := writeW1C 0x80000000#32 r.log1 v }
  else if 0x30 ≤ off ∧ off ≤ 0x3C then { r with rights := vset r.rights ((off - 0x30) / 4) v }
  else if off = 0xC0 then { r with sel := v &&& 0x3F#32 }
  else r

/-- The request of source 45 (R102). -/
def MemRegs.request (r : MemRegs) : Bool := anyBit (r.stat &&& 0x3F#32)

/-! ## ITG (R163) -/

/-- Fault log entry `i` is shown as VALID: its CRC is right and NUM is not 0. -/
def logValid (m : Memory) (i : Nat) : Bool :=
  let a := logBase + 64 * i
  decide (crc32 (m.bytes a 60) = m.word (a + 60)) && decide (m.word a ≠ 0#32)

/-- A write to ITG_LOG_SEL by the holder of a bank: the entry is copied (R163). -/
def State.selectLog (s : State) (b : Nat) (v : Word) : State :=
  let i := bits v 0 6
  let a := logBase + 64 * i
  s.onItg fun g =>
    { g with
      logSel := vset g.logSel b (field 0 i ||| flagAt 31 (logValid s.mem i))
      logData := vset g.logData b (Vector.ofFn fun k : Fin 16 => s.mem.word (a + 4 * k)) }

/-- ITG_WSTAT. -/
def Itg.wayStat (g : Itg) : Word := (g.wstat &&& 7#32) ||| field 16 (min 256 g.wev.length)

/-- The event that a core's ITG_WEV_SEL names. -/
def Itg.event (g : Itg) (b : Nat) : Option WayEvent := g.wev[bits (vget g.wevSel b 0#32) 0 8]?

/-- A read of the ITG block by the holder of a bank. -/
def Itg.read (g : Itg) (b off : Nat) : Word :=
  if off = 0x00 then g.cfg
  else if off = 0x04 then g.stat
  else if off = 0x08 then g.total
  else if off = 0x0C then vget g.logSel b 0#32
  else if off = 0x10 then g.stest
  else if off = 0x14 then g.frame
  else if off = 0x18 then g.wayStat
  else if off = 0x1C then g.ovrTask
  else if off = 0x20 then g.ovrFrm
  else if off = 0x24 then vget g.wevSel b 0#32
  else if off = 0x28 then
    (match g.event b with
     | some e => field 0 e.prod ||| field 8 e.chan ||| flagAt 31 true
     | none => 0#32)
  else if off = 0x2C then
    (match g.event b with
     | some e => e.time
     | none => 0#32)
  else if 0x40 ≤ off ∧ off ≤ 0x7C then
    vget (vget g.logData b (Vector.replicate 16 0#32)) ((off - 0x40) / 4) 0#32
  else 0#32

/-- A Canvas write would change ITG_STEST.PER (R6, R163). -/
def Itg.owned (g : Itg) (off : Nat) (v : Word) : Bool :=
  decide (off = 0x10) && decide (bits v 0 7 ≠ bits g.stest 0 7)

/-- A write to the ITG block by the holder of a bank. -/
def State.itgWrite (s : State) (b off : Nat) (v : Word) : State :=
  if off = 0x04 then s.onItg fun g => { g with stat := writeW1C 1#32 g.stat v }
  else if off = 0x0C then s.selectLog b v
  else if off = 0x10 then s.onItg fun g => { g with stest := setBits g.stest 0 7 (stestPer (bits v 0 7)) }
  else if off = 0x14 then
    s.onItg fun g => { g with frame := if bits v 0 16 = 0 then 1#32 else v &&& 0xFFFF#32 }
  else if off = 0x18 then s.onItg fun g => { g with wstat := writeW1C 7#32 g.wstat v }
  else if off = 0x24 then s.onItg fun g => { g with wevSel := vset g.wevSel b (v &&& 0xFF#32) }
  else s

/-- The request of source 47 (R163). -/
def Itg.request (g : Itg) : Bool := bit g.stat 0 || anyBit (g.wstat &&& 7#32)

end Sys2Proof.Machine
end

