-- ==== Sys2Proof/Machine/Peg.lean ====
section
/-! DEFINITION. The Peg port (R364-R382): the register map, serving by state, frames and their status,
sessions, mailboxes, the operations of PEG_CMD and the firmware update window. -/

namespace Sys2Proof.Machine

open Sys2Proof

def pegMaster : Nat := 8
def pegBank : Nat := 5

/-! ## Frames (R365-R367) -/

/-- The bytes of a word as they travel, D3 first (R365). -/
def wireBytes (w : Word) : List Byte := (bytesOf w).reverse

def pegOk : Nat := 0
def pegBusy : Nat := 1
def pegCrcerr : Nat := 2
def pegDenied : Nat := 3
def pegBadcmd : Nat := 4
def pegMemerr : Nat := 5
def pegSeq : Nat := 6

/-- The status byte (R367). -/
def statusByte (k : Nat) : Byte := BitVec.ofNat 8 (0xA0 + k)

/-- What PEG_DO carries during a write-form frame: nothing for seven bytes, and then the status (R365). -/
def writeReply (k : Nat) : List Byte := List.replicate 7 0xFF#8 ++ [statusByte k]

/-- The PEG_ERR flag of a status (R368, R382). -/
def errFlag (k : Nat) : Option Nat :=
  if k = pegCrcerr then some 0
  else if k = pegBadcmd then some 2
  else if k = pegDenied then some 3
  else if k = pegBusy then some 4
  else none

/-- The errors of a status: its flag, and the count of CRC failures (R368, R382). -/
def Peg.note (p : Peg) (k : Nat) : Peg :=
  let e := match errFlag k with
    | some i => setBit p.err i true
    | none => p.err
  { p with
    err := if k = pegCrcerr then setBits e 16 16 (satAdd 0xFFFF (bits e 16 16) 1) else e }

/-- PEG_DO is driven: the Porch serves (R364, R370). -/
def State.pegWired (s : State) : Bool :=
  s.pwr.vio1 && decide (s.pwr.state ≠ .unpowered) && decide (s.pwr.state ≠ .held)

/-- READY as it reads: the register engine serves (R370). -/
def State.pegReady (s : State) : Bool := s.peg.ready && s.running

/-! ## The state of the device (R382) -/

/-- PEG_STAT.STATE. (DEDUCED, unsafe: assumption 51.) -/
def State.pegState (s : State) : Nat :=
  let entry := match s.pwr.strike with
    | some x => decide (x.kind = .entry)
    | none => false
  if decide (s.pwr.state ≠ .awake) || entry then 3
  else match s.rp.mode with
    | .cold => if s.pwr.cause = 8#32 ∧ s.rp.record.isSome then 2 else 0
    | .up => 1
    | .stopped => 4
    | .halted => 5

def State.noHostKey (s : State) : Bool := (s.rp.key 1026).isNone

/-- PEG_STAT, with STATE as it was at the start of the frame. -/
def State.pegStat (s : State) (st : Nat) : Word :=
  let r := s.pegReady
  let p := s.peg
  field 0 st ||| flagAt 3 r ||| flagAt 4 (r && p.sessionOpen) ||| flagAt 5 p.sess.locked |||
    flagAt 6 (r && s.noHostKey) ||| flagAt 8 p.rstn ||| flagAt 9 (r && bit p.mbstat 0) |||
    flagAt 10 (r && bit p.mbstat 1) ||| flagAt 11 (r && bit s.itg.stat 0)

/-- PEG_ATN is driven low (R375). -/
def State.pegAtn (s : State) : Bool :=
  s.pegReady && ((bit s.peg.mbstat 1 && bit s.peg.atnen 0) || (s.peg.rstn && bit s.peg.atnen 1) ||
    (bit s.itg.stat 0 && bit s.peg.atnen 2))

def sessCode : SessState → Nat
  | .closed => 0
  | .chal => 1
  | .check => 2
  | .opened => 3

/-- PEG_SESS. -/
def Sess.word (x : Sess) : Word :=
  field 0 (sessCode x.state) ||| field 2 (x.idx % 8) ||| field 5 x.fails ||| flagAt 7 x.locked

/-- PEG_CMD. -/
def PegCmd.word (c : PegCmd) : Word :=
  field 0 c.op ||| field 4 c.arg ||| flagAt 8 c.busy ||| field 12 c.code

/-- PEG_UPD_ADDR. -/
def Peg.updAddr (p : Peg) : Word :=
  field 0 (p.updOffs % 0x100000) ||| flagAt 24 p.updImg ||| flagAt 31 p.updEnd

/-- PEG_REV. -/
def pegRev : Word := 0x11#32 ||| flagAt 8 Config.gradeE ||| (Config.romRev.setWidth 32) <<< 16

/-- PEG_IMG. -/
def State.pegImg (s : State) : Word :=
  let r := s.rp
  flagAt 0 (r.running = some true) ||| flagAt 1 r.gs.trial ||| field 2 r.gs.tries |||
    field 8 r.rollback ||| field 16 r.ctr ||| flagAt 31 (r.mode = .stopped && r.record.isNone)

/-! ## The register index (R381) -/

/-- Where a register of another block stands: the block's number in the map below, and the offset in it. -/
def hrvOffs : List Nat :=
  [0x00, 0x08, 0x0C, 0x10, 0x14, 0x24, 0x28, 0x2C, 0x40, 0x44, 0x48, 0x4C, 0x50, 0x54, 0x20]

def rtcOffs : List Nat := [0x00, 0x04, 0x10, 0x14, 0x18, 0x1C, 0x20, 0x38, 0x3C, 0x40, 0x28, 0x2C]

def itgOffs : List Nat := [0x00, 0x04, 0x08, 0x0C, 0x10, 0x14, 0x18, 0x1C, 0x20]

def rfOffs : List Nat := [0x04, 0x10, 0x14, 0x1C, 0x34, 0x2C, 0x28]

def netOffs : List Nat :=
  [0x00, 0x04, 0x08, 0x40, 0x44, 0x48, 0x4C, 0x50, 0x54, 0x60, 0x64, 0x68, 0x6C]

/-- The reserved offsets of the map (R381). -/
def pegReserved (k : Nat) : Bool :=
  inRange k 0x06 10 || inRange k 0x17 9 || inRange k 0x2A 6 || decide (k = 0x3F) || inRange k 0x4E 2 ||
    inRange k 0x59 7 || inRange k 0x79 23 || decide (k = 0x97) || inRange k 0xA5 11 ||
    inRange k 0xBE 2 || decide (k = 0xCA) || inRange k 0xD4 4 || inRange k 0xF1 15

/-- The offset of a counter register in the CNT block, for offsets 0xE0-0xEF. -/
def cntOff (k : Nat) : Nat := 0x100 + 0x20 * (16 + (k - 0xE0) / 2) + 4 + 4 * ((k - 0xE0) % 2)

/-- The registers of the blocks that Waymark snapshots, as a set of them holds them (R379, R381). -/
def periphPeg (p : Periph) (twin : Bool) (k : Nat) : Word :=
  if inRange k 0x30 15 then p.hrv.read p.main (hrvOffs.getD (k - 0x30) 0xFFF)
  else if inRange k 0x42 12 then p.rtc.read pegBank (rtcOffs.getD (k - 0x42) 0xFFF)
  else if inRange k 0x90 7 then p.rf.read 0#8 (rfOffs.getD (k - 0x90) 0xFFF)
  else if inRange k 0x98 13 then p.net.read true (netOffs.getD (k - 0x98) 0xFFF)
  else if inRange k 0xB0 6 then portBits p.pin.inp (k - 0xB0)
  else if inRange k 0xB6 6 then portBits p.pin.out (k - 0xB6)
  else if k = 0xBC then p.pin.hold.setWidth 32
  else if k = 0xBD then p.pin.stat
  else if inRange k 0xE0 16 then p.cnt.read twin pegBank (cntOff k)
  else if k = 0xF0 then p.cnt.ovf
  else 0#32

/-- The value of the register at offset `k`, with the Waymark blocks taken from `p`. -/
def State.pegValue (s : State) (p : Periph) (st k : Nat) : Word :=
  let g := s.peg
  if k = 0x00 then 0x57460009#32
  else if k = 0x01 then pegRev
  else if k = 0x02 then Config.uid.setWidth 32
  else if k = 0x03 then (Config.uid >>> 32).setWidth 32
  else if k = 0x04 then s.pegStat st
  else if k = 0x05 then g.err
  else if inRange k 0x10 7 then s.pwrRead (4 * (k - 0x10))
  else if inRange k 0x20 8 then vget g.gs (k - 0x20) 0#32
  else if k = 0x28 then s.pegImg
  else if k = 0x29 then s.rp.version
  else if k = 0x40 then s.clk.read 0
  else if k = 0x41 then s.clk.read 0xC
  else if inRange k 0x50 9 then s.itg.read pegBank (itgOffs.getD (k - 0x50) 0xFFF)
  else if inRange k 0x60 16 then s.itg.read pegBank (0x40 + 4 * (k - 0x60))
  else if inRange k 0x70 9 then s.wdnRead 4 (0x80 + 4 * (k - 0x70))
  else if inRange k 0xC0 4 then vget g.h2d (k - 0xC0) 0#32
  else if inRange k 0xC4 4 then vget g.d2h (k - 0xC4) 0#32
  else if k = 0xC8 then g.mbstat
  else if k = 0xC9 then g.atnen
  else if k = 0xCB then g.sess.word
  else if inRange k 0xCC 4 then vget g.chal (k - 0xCC) 0#32
  else if k = 0xD0 then g.cmd.word
  else if k = 0xD1 then g.updAddr
  else if k = 0xD2 then g.updWord
  else if k = 0xD3 then g.updCrc
  else periphPeg p s.twin k

/-- What a Peg read latches: the engine's own shadows of the RTC, NET_SFN and the counters (R371). -/
def State.pegLatch (s : State) (k : Nat) : State :=
  if inRange k 0x42 12 then
    (match timeIndex (rtcOffs.getD (k - 0x42) 0xFFF) with
     | some _ => s.onRtc fun r => r.readEffect pegBank (rtcOffs.getD (k - 0x42) 0xFFF)
     | none => s)
  else if k = 0x9C then s.onNet fun n => n.readEffect true 0x44
  else if inRange k 0xE0 16 then s.onCnt fun t => t.readEffect s.twin pegBank (cntOff k)
  else s

/-! ## Sessions (R372-R374) -/

/-- BEGIN_SESSION takes effect: Ridgepole draws a challenge (R373). -/
def State.sessBegin (s : State) (nonce : Word) : State :=
  let c := Vector.ofFn fun i : Fin 4 => Config.freeWord (s.free + i)
  (((s.onPeg fun p =>
    { p with
      chal := c
      sess := { p.sess with state := .chal, idx := 0, nonce := nonce, resp := [] } }).useFree 4)).fireSource
    4 57

/-- The message that a session authenticates (R373). -/
def Peg.message (p : Peg) : List Byte :=
  p.chal.toList.flatMap wireBytes ++ uidBytes ++ wireBytes p.sess.nonce

/-- A response word is stored; the eighth asks Ridgepole for the check (R373). -/
def State.sessRespond (s : State) (v : Word) : State :=
  let s := s.onPeg fun p =>
    let last := decide (p.sess.idx = 7)
    { p with sess :=
      { p.sess with
        resp := p.sess.resp ++ [v]
        idx := (p.sess.idx + 1) % 8
        state := if last then .check else .chal } }
  if s.peg.sess.state = .check then s.fireSource 4 57 else s

/-- The response is right (R373). -/
def State.sessGood (s : State) : Bool :=
  match s.rp.key 1026 with
  | none => false
  | some k => decide (s.peg.sess.resp.flatMap wireBytes = hmac k s.peg.message)

/-- PEG_SESSION_CHECK (R373, R374). -/
def State.sessCheck (s : State) : State :=
  if !s.running || decide (s.peg.sess.state ≠ .check) then s
  else if s.sessGood then s.onPeg fun p => { p with sess := { p.sess with state := .opened } }
  else
    s.onPeg fun p =>
      let n := min 3 (p.sess.fails + 1)
      { p with sess :=
        { p.sess with state := .closed, fails := n, locked := p.sess.locked || decide (n = 3) } }

/-- The session closes (R374). -/
def Peg.close (p : Peg) : Peg := { p with sess := { p.sess with state := .closed } }

/-! ## PEG_CMD (R377) -/

/-- The reserved bits of the staged Groundsheet words are zero (R166, R377). -/
def gsClean (g : Vector Word 8) : Bool :=
  let ok := fun (i : Nat) (m : Word) => decide (vget g i 0#32 &&& ~~~m = 0#32)
  ok 1 0x1F#32 && ok 2 0xF#32 && ok 3 0x3F77#32 && ok 4 0x3FF03FF#32 && ok 5 0xFFF#32 &&
    ok 6 0xFFFF037F#32 && ok 7 1#32

/-- The Groundsheet that the staged words spell. -/
def gsStaged (g : Vector Word 8) : Groundsheet :=
  { gen := g[0], sel := g[1], boot := g[2], wlim := g[3], wepoch := g[4], ecclim := g[5]
    misc := g[6], dbg := g[7] }

/-- GS_WRITE (R377). -/
def State.pegGsWrite (s : State) : State × Nat :=
  if !gsClean s.peg.gs then (s, errBadarg)
  else if !s.gsRoom then (s, errNores)
  else ((s.writeGs (gsStaged s.peg.gs)).adoptLimits.reloadGs, 0)

/-- KEY_SET (R171, R377). -/
def State.pegKeySet (s : State) (arg : Nat) : State × Nat :=
  if 1 < arg then (s, errBadarg)
  else
    let key := s.peg.stg.toList.flatMap wireBytes
    (((s.onRp fun r => { (r.setKey (1026 + arg) key) with keyWrite := some (1026 + arg) }).storeWrites).onPeg fun p =>
      { p with stg := Vector.replicate 8 0#32 }, 0)

/-- An operation starts: it is carried out, and its end reports the outcome (R377). -/
def State.pegOp (s : State) (op arg : Nat) : State :=
  let begin := fun (s : State) (code : Nat) =>
    (s.onPeg fun p => { p with cmd := { p.cmd with op := op, arg := arg, busy := true, next := code } })
      |>.fireSource 4 57
  if op = 1 then (begin s 0).commandReset 0x80#32
  else if op = 2 then
    let r := s.pegGsWrite
    begin r.1 r.2
  else if op = 3 then
    let r := s.imgSwitch arg
    if r.1.rp.mode = s.rp.mode then begin r.1 r.2 else r.1
  else if op = 4 then
    let r := s.pegKeySet arg
    begin r.1 r.2
  else s.onPeg fun p => { p with cmd := ⟨op, arg, false, errBadarg, errBadarg⟩ }

/-- PEG_CMD_COMPLETE (R377). -/
def Peg.cmdDone (p : Peg) : Peg :=
  if p.cmd.busy then { p with cmd := { p.cmd with busy := false, code := p.cmd.next } } else p

/-! ## The update window (R378) -/

/-- Writing PEG_UPD_ADDR. (DEDUCED, unsafe: assumption 50.) -/
def Peg.updSelect (p : Peg) (v : Word) : Peg :=
  { p with
    updOffs := bits v 2 18 * 4, updImg := bit v 24, updEnd := false, updCrc := 0#32, updBusy := true }

/-- The physical address that OFFS names. -/
def Peg.updPlace (p : Peg) : Nat := imageBase p.updImg + p.updOffs

/-- OFFS has passed the end of the image. -/
def Peg.updOver (p : Peg) : Bool := decide (0x100000 ≤ p.updOffs)

/-- Writing PEG_UPD_DATA. -/
def State.updWrite (s : State) (v : Word) : State × Nat :=
  if s.peg.updOver then (s.onPeg fun p => { p with updEnd := true }, pegDenied)
  else if s.rp.running = some s.peg.updImg then (s, pegDenied)
  else
    let b := s.store pegMaster s.peg.updPlace (bytesOf v)
    (b.s.onPeg fun p =>
      { p with
        updOffs := p.updOffs + 4
        updCrc := ~~~(crcFold (~~~p.updCrc) (bytesOf v))
        updBusy := true }, pegOk)

/-- Reading PEG_UPD_DATA: the status, with the prefetched word as its data. -/
def State.updRead (s : State) : State × Nat :=
  if s.peg.updOver then (s.onPeg fun p => { p with updEnd := true }, pegDenied)
  else if s.peg.updBusy then (s, pegBusy)
  else
    (s.onPeg fun p => { p with updOffs := p.updOffs + 4, updBusy := true },
      if s.peg.updErr then pegMemerr else pegOk)

/-- PEG_UPD_PREFETCH_DONE: the word at OFFS is read (R80, R378). -/
def State.updFetched (s : State) : State :=
  if !s.running || !s.peg.updBusy then s
  else if s.peg.updOver then s.onPeg fun p => { p with updBusy := false }
  else
    let a := s.peg.updPlace
    let b := s.readBeat pegMaster a 4
    (b.1.s.onPeg fun p =>
      { p with updBusy := false, updWord := wordOf b.2, updErr := !b.1.unc.isEmpty }).reactUnc 0#32
      b.1.unc

/-! ## Writes to the map (R371, R372, R376-R379) -/

/-- The rights of an open session (R372, R379). -/
def State.pegRights (s : State) (a : Agent) : Bool := s.peg.sessionOpen || decide (a = .ridgepole)

/-- A write to PEG_MBSTAT: the host clears D2H only, Ridgepole any flag, and Ridgepole sets H2DIE (R376,
R382). -/
def State.mbWrite (s : State) (a : Agent) (v : Word) : State × Nat :=
  let m := s.peg.mbstat
  if a = .host then
    if bit v 0 || bit v 2 || decide (bit v 3 ≠ bit m 3) then (s, pegDenied)
    else (s.onPeg fun p => { p with mbstat := writeW1C 2#32 m v }, pegOk)
  else (s.onPeg fun p => { p with mbstat := writeCodes 8#32 7#32 0#32 m v }, pegOk)

/-- A write to PEG_CMD; while an IMG_SWITCH runs it is discarded with BUSY (R171, R372, R377, R380). -/
def State.cmdWrite (s : State) (a : Agent) (v : Word) : State × Nat :=
  let op := bits v 0 4
  let arg := bits v 4 4
  let free := decide (op = 4) && decide (arg = 0) && s.noHostKey
  if s.peg.cmd.busy || s.rp.serving.any (fun x => decide (x.2 = 2)) then (s, pegBusy)
  else if !s.pegRights a && !free then (s, pegDenied)
  else (s.pegOp op arg, pegOk)

/-- A write to offset `k`, by the host or by Ridgepole, and its status (R371, R372). (DEDUCED, unsafe:
assumption 87.) -/
def State.pegStore (s : State) (a : Agent) (k : Nat) (v : Word) : State × Nat :=
  if pegReserved k then (s, pegOk)
  else if k = 0x04 then (s.onPeg fun p => { p with rstn := p.rstn && !bit v 8 }, pegOk)
  else if k = 0x05 then (s.onPeg fun p => { p with err := writeW1C 0x1F#32 p.err v }, pegOk)
  else if inRange k 0x21 7 then
    if s.pegRights a then (s.onPeg fun p => { p with gs := vset p.gs (k - 0x20) v }, pegOk)
    else (s, pegDenied)
  else if k = 0x53 then (s.selectLog pegBank v, pegOk)
  else if inRange k 0xC0 4 then
    if bit s.peg.mbstat 0 then (s, pegBusy)
    else
      (s.onPeg fun p =>
        { p with
          h2d := vset p.h2d (k - 0xC0) v
          mbstat := if k = 0xC3 then setBit p.mbstat 0 true else p.mbstat }, pegOk)
  else if k = 0xC8 then s.mbWrite a v
  else if k = 0xC9 then (s.onPeg fun p => { p with atnen := v &&& 7#32 }, pegOk)
  else if k = 0xCB then ((if bit v 8 then s.onPeg Peg.close else s), pegOk)
  else if k = 0xD0 then s.cmdWrite a v
  else if k = 0xD1 then
    if s.pegRights a then (s.onPeg fun p => p.updSelect v, pegOk) else (s, pegDenied)
  else if k = 0xD2 then
    if s.pegRights a then s.updWrite v else (s, pegDenied)
  else if inRange k 0xD8 8 then
    if s.pegRights a || s.noHostKey then
      (s.onPeg fun p => { p with stg := vset p.stg (k - 0xD8) v }, pegOk)
    else (s, pegDenied)
  else (s, pegDenied)

/-- A Canvas write to the mirror may reach the field (R376, R379). -/
def canvasMay (k : Nat) (v : Word) : Bool :=
  inRange k 0xC4 4 || (decide (k = 0xC8) && !bit v 1)

/-- A Canvas write to the mirror that R379 allows (R376). -/
def Peg.canvasWrite (p : Peg) (k : Nat) (v : Word) : Peg :=
  if inRange k 0xC4 4 then
    if bit p.mbstat 1 then { p with mbstat := setBit p.mbstat 2 true }
    else
      { p with
        d2h := vset p.d2h (k - 0xC4) v
        mbstat := if k = 0xC7 then setBit p.mbstat 1 true else p.mbstat }
  else if k = 0xC8 then { p with mbstat := writeCodes 8#32 5#32 0#32 p.mbstat v }
  else p

/-! ## Frames carried out (R365, R368-R371, R373) -/

/-- A write-form frame ends with a status: the errors, the reply, and the write in progress (R368). -/
def State.pegAnswer (s : State) (k : Nat) : State :=
  let s := s.onPeg fun p =>
    { p.note k with reply := some (writeReply k), writing := p.writing || decide (k = pegOk) }
  if k = pegOk then s.countSys 36 1 else s

/-- The CRC of a write-form frame is right (R366). -/
def writeCrcOk (cmd addr : Byte) (data : Word) (crc : Byte) : Bool :=
  decide (crc8 ([cmd, addr] ++ wireBytes data) = crc)

/-- A write that the Porch serves (R370). -/
def porchWrite (k : Nat) : Bool := decide (k = 0x04) || decide (k = 0x05)

/-- WRITE (R365, R368-R372). (DEDUCED, unsafe: assumption 49.) -/
def State.pegWrite (s : State) (addr : Byte) (data : Word) (crc : Byte) : State :=
  if !s.pegWired then s.onPeg fun p => { p with reply := none }
  else
    let s := s.wake 6 0 false
    let k := addr.toNat
    if !writeCrcOk 0x02#8 addr data crc then s.pegAnswer pegCrcerr
    else if !porchWrite k && (!s.pegReady || s.peg.writing) then s.pegAnswer pegBusy
    else
      let r := s.pegStore .host k data
      if r.1.pegWired then r.1.pegAnswer r.2 else r.1

/-- What PEG_DO carries during a read-form frame: nothing for two bytes, the status, the data and their CRC (R365,
R366). -/
def readReply (cmd addr : Byte) (k : Nat) (v : Word) : List Byte :=
  [0xFF#8, 0xFF#8, statusByte k] ++ wireBytes v ++ [crc8 ([cmd, addr, statusByte k] ++ wireBytes v)]

/-- A read of the update window through a frame (R378). -/
def State.pegReadUpd (s : State) (addr : Byte) : State :=
  let w := s.peg.updWord
  let r := s.updRead
  let ok := decide (r.2 = pegOk) || decide (r.2 = pegMemerr)
  r.1.onPeg fun p =>
    { p.note r.2 with reply := some (readReply 0x01#8 addr r.2 (if ok then w else 0#32)) }

/-- READ (R365, R369-R371). -/
def State.pegRead (s : State) (addr : Byte) : State :=
  if !s.pegWired then s.onPeg fun p => { p with reply := none }
  else
    let st := s.pegState
    let s := s.wake 6 0 false
    let k := addr.toNat
    if k < 0x20 then
      s.onPeg fun p => { p with reply := some (readReply 0x01#8 addr pegOk (s.pegValue s.live st k)) }
    else if !s.pegReady || s.peg.writing then
      s.onPeg fun p => { p.note pegBusy with reply := some (readReply 0x01#8 addr pegBusy 0#32) }
    else if k = 0xD2 then s.pegReadUpd addr
    else
      let v := if inRange k 0xD8 8 then 0#32 else s.pegValue s.live st k
      (s.onPeg fun p => { p with reply := some (readReply 0x01#8 addr pegOk v) }).pegLatch k

/-- READ_STATUS (R365). -/
def State.readStatus (s : State) (addr : Byte) : State :=
  if !s.pegWired then s.onPeg fun p => { p with reply := none }
  else
    let st := s.pegState
    let s := s.wake 6 0 false
    s.onPeg fun p => { p with reply := some (readReply 0x03#8 addr pegOk (s.pegStat st)) }

/-- BEGIN_SESSION (R365, R367, R373). -/
def State.pegBegin (s : State) (addr : Byte) (nonce : Word) (crc : Byte) : State :=
  if !s.pegWired then s.onPeg fun p => { p with reply := none }
  else
    let s := s.wake 6 0 false
    if addr ≠ 0#8 then s.pegAnswer pegBadcmd
    else if !writeCrcOk 0x04#8 addr nonce crc then s.pegAnswer pegCrcerr
    else if !s.pegReady || s.peg.writing then s.pegAnswer pegBusy
    else if s.noHostKey || s.peg.sess.locked then s.pegAnswer pegDenied
    else (s.sessBegin nonce).pegAnswer pegOk

/-- SESSION_RESPONSE (R365, R367, R373). -/
def State.pegRespond (s : State) (idx : Byte) (data : Word) (crc : Byte) : State :=
  if !s.pegWired then s.onPeg fun p => { p with reply := none }
  else
    let s := s.wake 6 0 false
    if !writeCrcOk 0x05#8 idx data crc then s.pegAnswer pegCrcerr
    else if !s.pegReady || s.peg.writing then s.pegAnswer pegBusy
    else if s.peg.sess.state ≠ .chal ∨ idx.toNat ≠ s.peg.sess.idx then s.pegAnswer pegSeq
    else (s.sessRespond data).pegAnswer pegOk

/-- A frame with an unknown command byte (R365). -/
def State.pegBad (s : State) (cmd : Byte) : State :=
  if !s.pegWired then s.onPeg fun p => { p with reply := none }
  else if 1 ≤ cmd.toNat ∧ cmd.toNat ≤ 5 then s
  else (s.wake 6 0 false).pegAnswer pegBadcmd

/-- A frame that is cut short (R364, R368). -/
def State.pegCut (s : State) : State :=
  if !s.pegWired then s
  else (s.wake 6 0 false).onPeg fun p => { p with err := setBit p.err 1 true, reply := none }

end Sys2Proof.Machine
end

