-- ==== Sys2Proof/Machine/Bus.lean ====
section
/-! DEFINITION. Register accesses: what a read of a peripheral register returns and changes, what a write
does, which Canvas accesses are stopped (R6, R7, R189, R201, R379, R386), and Waymark's snapshots and
deferred writes (R157-R161). An offset counts from 0x4000_0000. -/

namespace Sys2Proof.Machine

open Sys2Proof

/-! ## Blocks -/

def ioHrv : Nat := 0x2000
def ioIrq : Nat := 0x10000
def ioEvt : Nat := 0x20000
def ioTim : Nat := 0x30000
def ioRtc : Nat := 0x40000
def ioUa : Nat := 0x50000
def ioTch : Nat := 0x60000
def ioRf : Nat := 0x70000
def ioNet : Nat := 0x80000
def ioWdn : Nat := 0x90000
def ioMem : Nat := 0xA0000
def ioCnt : Nat := 0xB0000
def ioItg : Nat := 0xC0000
def ioPin : Nat := 0xD0000
def ioPeg : Nat := 0xF0000

/-- An alias outside peripheral space of PIN_OUT0-PIN_OUT5, at which the commands that name PIN_OUTp are
carried: R410 puts PIN_OUT4 at the offset of PIN_HOLD (assumption 14). -/
def ioPinOut : Nat := 0x100D0020

/-- The offset lies in a block that Waymark snapshots and whose writes it defers (R157, R158). -/
def waymarkBlock (o : Nat) : Bool :=
  inRange o ioHrv 0x1000 || inRange o ioEvt 0x1000 || inRange o ioTim 0xC00 ||
    inRange o ioRtc 0x1000 || inRange o ioUa 0x400 || inRange o ioTch 0x1000 ||
    inRange o ioRf 0x1000 || inRange o ioNet 0x1000 || inRange o ioCnt 0x1000 ||
    inRange o ioPin 0x1000 || inRange o ioPinOut 0x18

/-! ## Reads of the blocks that Waymark snapshots -/

/-- What a read of a register depends on besides the registers. -/
structure ReadCtx where
  bank : Nat
  canvas : Bool
  twin : Bool
  asleep : Bool
  /-- the RSSI that the receiver measures at the moment -/
  rssi : Byte
  deriving DecidableEq, Repr

/-- A read of one of these blocks. -/
def Periph.read (p : Periph) (x : ReadCtx) (o : Nat) : Word :=
  if inRange o ioHrv 0x1000 then p.hrv.read p.main (o - ioHrv)
  else if inRange o ioEvt 0x1000 then p.evt.read x.canvas (o - ioEvt)
  else if inRange o ioTim 0xC00 then
    (vget p.tim ((o - ioTim) / 256) Tim.reset).read ((o - ioTim) % 256)
  else if inRange o ioRtc 0x1000 then p.rtc.read x.bank (o - ioRtc)
  else if inRange o ioUa 0x400 then (vget p.ua ((o - ioUa) / 256) Ua.reset).read ((o - ioUa) % 256)
  else if inRange o ioTch 0x1000 then p.tch.read x.asleep (o - ioTch)
  else if inRange o ioRf 0x1000 then p.rf.read x.rssi (o - ioRf)
  else if inRange o ioNet 0x1000 then p.net.read false (o - ioNet)
  else if inRange o ioCnt 0x1000 then p.cnt.read x.twin x.bank (o - ioCnt)
  else if inRange o ioPin 0x1000 then p.pin.read (o - ioPin)
  else 0#32

/-- What such a read changes outside Waymark. -/
def Periph.readEffect (p : Periph) (x : ReadCtx) (o : Nat) : Periph :=
  if inRange o ioTim 0xC00 then
    (if (o - ioTim) % 256 = 0xC then p.timLatch ((o - ioTim) / 256) else p)
  else if inRange o ioRtc 0x1000 then { p with rtc := p.rtc.readEffect x.bank (o - ioRtc) }
  else if inRange o ioUa 0x400 then
    { p with ua := vmod p.ua ((o - ioUa) / 256) fun u => u.readEffect ((o - ioUa) % 256) }
  else if inRange o ioRf 0x1000 then { p with rf := p.rf.readEffect (o - ioRf) }
  else if inRange o ioNet 0x1000 then { p with net := p.net.readEffect false (o - ioNet) }
  else if inRange o ioCnt 0x1000 then { p with cnt := p.cnt.readEffect x.twin x.bank (o - ioCnt) }
  else p

/-- The RC registers of these blocks, and RTC_ECAP_HI, whose reading clears a flag (R5, R157). -/
def clearsOnRead (o : Nat) : Bool :=
  decide (o = ioRf + 0x30) || decide (o = ioRf + 0x38) || decide (o = ioRtc + 0x4C) ||
    decide (o = ioNet + 0x60) || decide (o = ioNet + 0x64) || decide (o = ioNet + 0x68) ||
    (inRange o ioUa 0x400 && decide ((o - ioUa) % 256 = 0x24))

/-- Two 16-bit counts less the counts that a read returned. -/
def lessCounts (now read : Word) : Word :=
  field 0 (bits now 0 16 - bits read 0 16) ||| field 16 (bits now 16 16 - bits read 16 16)

/-- The boundary clears what a captured RC register returned; later additions stay (R157). -/
def Periph.clearRead (p : Periph) (r : RcRead) : Periph :=
  let o := r.addr
  if o = ioRf + 0x30 then { p with rf := { p.rf with aborts := lessCounts p.rf.aborts r.value } }
  else if o = ioRf + 0x38 then { p with rf := { p.rf with rxerr := lessCounts p.rf.rxerr r.value } }
  else if o = ioRtc + 0x4C then { p with rtc := p.rtc.readEffect 99 0x4C }
  else if o = ioNet + 0x60 then { p with net := { p.net with cnt0 := lessCounts p.net.cnt0 r.value } }
  else if o = ioNet + 0x64 then { p with net := { p.net with cnt1 := lessCounts p.net.cnt1 r.value } }
  else if o = ioNet + 0x68 then { p with net := { p.net with cnt2 := lessCounts p.net.cnt2 r.value } }
  else
    { p with ua := vmod p.ua ((o - ioUa) / 256) fun u =>
        { u with errcnt := lessCounts u.errcnt r.value } }

/-! ## Live registers (R161) -/

/-- The register at an offset of the CNT block belongs to a counter and is Live (R384). -/
def counterLive (t : Cnt) (o : Nat) : Bool :=
  decide (0x100 ≤ o) && decide ((o - 0x100) % 32 ≠ 0) && t.live ((o - 0x100) / 32)

/-- A register marked Live (R161, R192, R226, R259, R297, R298, R379, R384). -/
def State.liveReg (s : State) (o : Nat) : Bool :=
  decide (o ∈ [0x10, 0x20, 0x28, 0x1000, 0x100C, ioRf + 0x3C, ioNet + 0x40, ioNet + 0x6C]) ||
    (inRange o ioIrq 0x1000 && (inRange ((o - ioIrq) % 0x400) 0x20 0x20 ||
      inRange ((o - ioIrq) % 0x400) 0xA0 0x10)) ||
    (inRange o ioCnt 0x1000 && counterLive s.snap.cnt (o - ioCnt)) ||
    (inRange o ioPeg 0x400 &&
      (let k := (o - ioPeg) / 4
       decide (k ∈ [0x04, 0x14, 0x40, 0x41, 0x9B, 0xA4, 0xC8, 0xCB]) || inRange k 0xC0 4 ||
         (inRange k 0xE0 16 && counterLive s.snap.cnt (cntOff k))))

/-- A Canvas read of a Live register under Waymark sets ITG_WSTAT.LIVE (R161). -/
def State.markLive (s : State) (a : Agent) (o : Nat) : State :=
  if isCanvas a && s.waymark && s.liveReg o then
    s.onItg fun g => { g with wstat := setBit g.wstat 2 true }
  else s

/-! ## Reads -/

/-- The bank of an agent's own copies; the mirror and the host use the Peg port's. -/
def ioBank : Agent → Nat
  | .core c => c
  | .ridgepole => 4
  | .host => 5

/-- A read of the snapshot (R155, R157): the shadows of the RTC are not used, an RC register is cleared at
the boundary, RTC_ECAP_HI only where the snapshot holds a capture, and a character read is popped from the snapshot. (DEDUCED, unsafe: assumption 34.) -/
def State.snapRead (s : State) (x : ReadCtx) (o : Nat) : State × Word :=
  let v := s.snap.read { x with bank := if inRange o ioRtc 0x1000 then 99 else x.bank } o
  if o = ioRtc + 0x4C ∧ bit s.snap.rtc.stat 7 = false then (s, v)
  else if clearsOnRead o then
    (s.onItg fun g =>
      { g with rcRead := if g.rcRead.any fun r => decide (r.addr = o) then g.rcRead
          else g.rcRead ++ [⟨o, v⟩] }, v)
  else if inRange o ioUa 0x400 && decide ((o - ioUa) % 256 = 0x1C) then
    let n := (o - ioUa) / 256
    let has := !(vget s.snap.ua n Ua.reset).rxq.isEmpty
    ({ s with snap := s.snap.readEffect x o }.onUa n fun u =>
      if has then { u with pops := u.pops + 1 } else u, v)
  else if o = ioNet + 0x44 then
    let hi := BitVec.ofNat 32 (s.snap.net.sfn / 2 ^ 32 % 65536)
    ({ s with snap := s.snap.readEffect x o }.onNet fun n => { n with sfnHi := hi }, v)
  else (s, v)

/-- The RSSI that a running receiver measures is open (R226). (DEDUCED, safe: assumption 67.) -/
def State.rssiNow (s : State) : Byte := Config.freeByte s.free

/-- A read of a block of R157. -/
def State.periphRead (s : State) (a : Agent) (o : Nat) : State × Word :=
  let x : ReadCtx := ⟨ioBank a, isCanvas a, s.twin, s.asleep, s.rssiNow⟩
  let s := if o = ioRf + 0x3C then s.useFree 1 else s
  if s.waymark && isCanvas a then s.snapRead x o
  else ({ s with per := s.per.readEffect x o }, s.live.read x o)

/-- A read of the mirror of the Peg map (R379). (DEDUCED, unsafe: assumption 33.) -/
def State.mirrorRead (s : State) (a : Agent) (k : Nat) : Word :=
  if isCanvas a && (inRange k 0xCC 4 || decide (k = 0xD2)) || inRange k 0xD8 8 then 0#32
  else s.pegValue (if s.waymark && isCanvas a then s.snap else s.live) s.pegState k

/-- The IRQ bank and the offset in it. -/
def irqBankOf (o : Nat) : Nat := (o - ioIrq) / 0x400

/-- A read of a peripheral register. -/
def State.busRead (s : State) (a : Agent) (o : Nat) : State × Word :=
  let s := s.markLive a o
  if waymarkBlock o then s.periphRead a o
  else if o < 0x1000 then (s, s.pwrRead o)
  else if o < 0x2000 then (s, s.clk.read (o - 0x1000))
  else if inRange o ioIrq 0x1400 then
    (s.irqReadEffect (irqBankOf o) ((o - ioIrq) % 0x400), s.irqRead (irqBankOf o) ((o - ioIrq) % 0x400))
  else if inRange o ioWdn 0x1000 then (s, s.wdnRead (ioBank a) (o - ioWdn))
  else if inRange o ioMem 0x1000 then
    (s.onMm fun r => r.readEffect (o - ioMem), s.mm.read (o - ioMem))
  else if inRange o ioItg 0x1000 then (s, s.itg.read (ioBank a) (o - ioItg))
  else if inRange o ioPeg 0x400 then (s, s.mirrorRead a ((o - ioPeg) / 4))
  else (s, 0#32)

/-! ## Writes -/

/-- The four Canvas cores. -/
def allCores : List CoreId := [0, 1, 2, 3]

/-- Retired bits are set by Ridgepole: SRAM and MRAM banks at once, and cores, or a pair under Twin-skin, with
what that ends (R131, R133-R135, R194). -/
def State.wdnRetire (s : State) (sb : Bool) (v : Word) : State :=
  let t := s.onWdn fun w => w.writeRetired sb v
  (allCores.filter fun (c : CoreId) => t.coreRetired c && !s.coreRetired c).foldl
    (fun (s : State) (c : CoreId) => (s.retireCore c).freeChannelsOf c) t

/-- A write to the WDN block (R108, R109, R121, R135). -/
def State.wdnWrite (s : State) (a : Agent) (off : Nat) (v : Word) : State :=
  let canvas := isCanvas a
  if off = 0 then s.wdnCommand (ioBank a) (s.wdnCtx a) (bits v 0 4)
  else if off < 0x80 then s.wdnBankWrite (ioBank a) off v
  else if off = 0x80 then s.onWdn fun w => w.writePol canvas v
  else if off = 0x84 then s.onWdn fun w => w.writeEpoch canvas v
  else if off = 0x90 then s.onWdn fun w => { w with stat := writeW1C 0xFF#32 w.stat v }
  else if canvas then s
  else if off = 0x88 then s.onWdn fun w => w.writeLim v
  else if off = 0x8C then s.onWdn fun w => w.writeEpochLim v
  else if off = 0x98 then s.wdnRetire true v
  else if off = 0x9C then s.wdnRetire false v
  else s

/-- A write to a block of R157 takes effect. -/
def State.periphWrite (s : State) (a : Agent) (o : Nat) (v : Word) : State :=
  if inRange o ioHrv 0x1000 then s.onHrv fun h => h.write s.pwr.main (o - ioHrv) v
  else if inRange o ioEvt 0x1000 then
    (if o = ioEvt + 8 then s.swFire a v else s.onEvt fun e => e.write a (o - ioEvt) v)
  else if inRange o ioTim 0xC00 then s.timWrite ((o - ioTim) / 256) ((o - ioTim) % 256) v
  else if inRange o ioRtc 0x1000 then s.onRtc fun r => r.write (ioBank a) (o - ioRtc) v
  else if inRange o ioUa 0x400 then
    s.onUa ((o - ioUa) / 256) fun u => u.write ((o - ioUa) % 256) v
  else if inRange o ioTch 0x1000 then s.onTch fun t => t.write s.per.pin (o - ioTch) v
  else if inRange o ioRf 0x1000 then s.onRf fun r => r.write (o - ioRf) v
  else if inRange o ioNet 0x1000 then s.netWrite (o - ioNet) v
  else if inRange o ioCnt 0x1000 then s.onCnt fun t => t.write s.twin (ioBank a) (o - ioCnt) v
  else if inRange o ioPin 0x1000 then s.onPin fun q => q.write a (o - ioPin) v
  else if inRange o ioPinOut 0x18 then s.onPin fun q => q.writeOut a ((o - ioPinOut) / 4) v
  else s

/-- A write to a block whose writes are never deferred takes effect (R158). -/
def State.plainWrite (s : State) (a : Agent) (o : Nat) (v : Word) : State :=
  if o < 0x1000 then s.pwrWrite o v
  else if o < 0x2000 then s.clkWrite (o - 0x1000) v
  else if inRange o ioIrq 0x1400 then s.irqWrite a (irqBankOf o) ((o - ioIrq) % 0x400) v
  else if inRange o ioWdn 0x1000 then s.wdnWrite a (o - ioWdn) v
  else if inRange o ioMem 0x1000 then s.onMm fun r => r.write (o - ioMem) v
  else if inRange o ioItg 0x1000 then s.itgWrite (ioBank a) (o - ioItg) v
  else if inRange o ioPeg 0x400 then
    (if isCanvas a then s.onPeg fun p => p.canvasWrite ((o - ioPeg) / 4) v
     else (s.pegStore a ((o - ioPeg) / 4) v).1)
  else s

/-- Who a Canvas core writes for: its task, or its thread code (R158). -/
def State.writerOf (s : State) (c : CoreId) : Writer :=
  if bit s.cores[c].task 31 then .thread c else .task (bits s.cores[c].task 0 6)

/-- A deferred write is recorded; a writer's 65th makes it overrun the frame (R158, R159). -/
def State.deferWrite (s : State) (c : CoreId) (o : Nat) (v : Word) : State :=
  let w := s.writerOf c
  s.onItg fun g =>
    if 64 ≤ (g.defer.filter fun d => decide (d.writer = w)).length then
      { g with full := if w ∈ g.full then g.full else g.full ++ [w] }
    else { g with defer := g.defer ++ [⟨w, c, o, v⟩] }

/-- A write to a peripheral register. -/
def State.busWrite (s : State) (a : Agent) (o : Nat) (v : Word) : State :=
  if waymarkBlock o then
    match a with
    | .core c => if s.waymark then s.deferWrite c o v else s.periphWrite a o v
    | _ => s.periphWrite a o v
  else s.plainWrite a o v

/-! ## Accesses that are stopped -/

/-- Why a Canvas access to peripheral space is stopped. -/
inductive IoFault where
  /-- a Ridgepole-owned field would change (R6) -/
  | owned
  /-- the register is out of the core's reach (R189) -/
  | region
  deriving DecidableEq, Repr

/-- The registers that R6 judges a write by: under Waymark, the values that the writer reads. -/
def State.judged (s : State) : Periph := if s.waymark then s.snap else s.per

/-- FUNC and OWNER of a ball would change (R6, R410): R410 gives them access RO, and says that R6 applies to them, so they
are judged as Ridgepole-owned RW fields (DESIGN CHOICE, unsafe: assumption 103). -/
def Pin.ownedField (q : Pin) (off : Nat) (v : Word) : Bool :=
  decide (0x100 ≤ off) && decide (off < 0x280) &&
    decide ((q.cfg ((off - 0x100) / 4) ^^^ v) &&& 0x7F#32 ≠ 0#32)

/-- A write to the WDN block would change an owned field (R6, R135). -/
def Warden.ownedField (w : Warden) (off : Nat) (v : Word) : Bool :=
  if off = 0x88 then decide ((w.lim ^^^ v) &&& 0x3F77#32 ≠ 0#32)
  else if off = 0x8C then decide ((w.epochLim ^^^ v) &&& 0x3FF03FF#32 ≠ 0#32)
  else if off = 0x98 then anyBit v
  else if off = 0x9C then anyBit (v &&& 0xFFFFF#32)
  else false

/-- A Canvas write would change a field that Ridgepole or another core owns (R6, R201, R379, R386). -/
def State.ownedWrite (s : State) (c : CoreId) (o : Nat) (v : Word) : Bool :=
  if o = 0x28 then decide (bits v 0 2 ≠ bits s.pwr.opp 0 2)
  else if inRange o ioEvt 0x1000 then s.judged.evt.owned (o - ioEvt) v
  else if inRange o ioWdn 0x1000 then s.wdn.ownedField (o - ioWdn) v
  else if inRange o ioMem 0x1000 then s.mm.owned (o - ioMem) v
  else if inRange o ioItg 0x1000 then s.itg.owned (o - ioItg) v
  else if inRange o ioPin 0x1000 then s.judged.pin.ownedField (o - ioPin) v
  else if inRange o ioCnt 0x1000 then
    decide (0x100 ≤ o - ioCnt) && !counterWritable s c ((o - ioCnt - 0x100) / 32)
  else if inRange o ioIrq 0x1000 then
    inRange ((o - ioIrq) % 0x400) 0xB0 8 &&
      decide (v ≠ s.irqRead (irqBankOf o) ((o - ioIrq) % 0x400))
  else if inRange o ioPeg 0x400 then !canvasMay ((o - ioPeg) / 4) v
  else false

/-- What stops a Canvas read. -/
def ioReadFault (o : Nat) : Option IoFault :=
  if inRange o (ioIrq + 0x1000) 0x400 then some .region else none

/-- What stops a Canvas write. -/
def State.ioWriteFault (s : State) (c : CoreId) (o : Nat) (v : Word) : Option IoFault :=
  if inRange o ioIrq 0x1400 && decide (irqBankOf o ≠ c.val) then some .region
  else if s.ownedWrite c o v then some .owned
  else none

end Sys2Proof.Machine
end

