-- ==== Sys2Proof/Machine/Finish.lean ====
section
/-! DEFINITION. What follows every command on the same edge: interrupt requests that rise fire their
sources (R182, R183), flags and levels that rise fire their producers (R196), banks that a retirement
has emptied are retired (R131-R133), and the network engine stops when its table object is gone (R258). -/

namespace Sys2Proof.Machine

open Sys2Proof

/-! ## Requests of the block sources -/

/-- A mask with bit `i + k` set where element `k` of the list is true. -/
def maskFrom : Nat → List Bool → BitVec 64
  | _, [] => 0#64
  | i, b :: bs => (if b then BitVec.twoPow 64 i else 0#64) ||| maskFrom (i + 1) bs

/-- The requests of the sources that are the same for every controller, by source number (R182, R183). -/
def State.sharedRequests (s : State) : BitVec 64 :=
  let p := s.per
  maskFrom 4
      [anyBit (s.pwr.stat &&& s.pwr.ie &&& 0x300#32), anyBit (s.clk.stat &&& s.clk.ie &&& 0x18#32),
       p.hrv.request 0, p.hrv.request 1, p.hrv.request 2, p.hrv.request 3, p.rtc.request 0,
       p.rtc.request 1, p.rtc.request 2, p.rtc.request 3] |||
    maskFrom 14 (p.tim.toList.map Tim.request) ||| maskFrom 26 (p.ua.toList.map Ua.requestRx) |||
    maskFrom 30 (p.ua.toList.map Ua.requestTx) ||| maskFrom 34 (p.ua.toList.map Ua.requestErr) |||
    maskFrom 38
      [p.tch.request38, p.tch.request39, p.rf.request, p.net.request 0, p.net.request 1,
       p.net.request 2, anyBit (s.wdn.stat &&& 0xFF#32), s.mm.request, false, s.itg.request] |||
    maskFrom 54
      [bit s.peg.mbstat 0 && bit s.peg.mbstat 3, p.evt.deny || p.evt.swerr || anyBit p.evt.covr]

/-- The requests at one controller: counter overflow and pin edges differ between the cores. -/
def State.requests (s : State) (b : Nat) : BitVec 64 :=
  s.sharedRequests ||| maskFrom 46 [s.per.cnt.request b] |||
    maskFrom 48 ((List.range 6).map fun p => s.per.pin.request b p)

/-- The sources of a mask fire at a controller, lower numbers first. -/
def State.fireMask (s : State) (b : Nat) (m : BitVec 64) : State :=
  if m = 0#64 then s
  else ((List.range 64).filter fun i => bit m i).foldl (fun s i => s.fireSource b i) s

/-- Every request that rose since `old` fires its source at every controller (R183). (DEDUCED, unsafe:
assumption 41.) -/
def State.fireRisen (old s : State) : State :=
  ([0, 1, 2, 3, 4] : List Nat).foldl
    (fun t b => t.fireMask b (s.requests b &&& ~~~(old.requests b))) s

/-- The firings that follow a change from `old` to `s`. A lost firing is counted (source 21 of R384), so
a counter may overflow and raise a request of its own; each of the 24 overflow bits can rise once. -/
def State.fireAll (old s : State) : Nat → State
  | 0 => s
  | n + 1 =>
    let t := old.fireRisen s
    if t.per.cnt.ovf = s.per.cnt.ovf then t else s.fireAll t n

/-! ## Producers that follow flags and levels (R196) -/

def State.fireIf (s : State) (b : Bool) (p : Nat) : State := if b then s.fire p else s

/-- Producers 156 + u and 160 + u fire when a trigger level is reached (R196, R341). -/
def State.fireTriggers (old s : State) : State :=
  ([0, 1, 2, 3] : List Nat).foldl (fun t u =>
    (t.fireIf ((s.uaAt u).rxtrg && !(old.uaAt u).rxtrg) (156 + u)).fireIf
      ((s.uaAt u).txtrg && !(old.uaAt u).txtrg) (160 + u)) s

/-- Producers 184 and 185 fire when a W1C flag of WDN_STAT or of MEM_STAT rises, and the trigger levels
fire theirs. -/
def State.fireProducers (old s : State) : State :=
  ((old.fireTriggers s).fireIf (anyBit (s.wdn.stat &&& ~~~old.wdn.stat &&& 0xFF#32)) 184).fireIf
    (anyBit (s.mm.stat &&& ~~~old.mm.stat &&& 0x3F#32)) 185

/-! ## The end of a command -/

/-- What the engines do at once when a command has changed the tables they watch. -/
def State.housekeep (old s : State) : State :=
  ((old.stuckNew s).settleRetiring.copyRetired).netGuard

/-- The port A accesses of the command before are over (R88). -/
def State.dropPortA (s old : State) : State := { s with portA := s.portA.drop old.portA.length }

/-- The state after a command: `old` is the state before it and `s` the state it made. Right after a reset
nothing fires, since the boot has not run. -/
def finish (old s : State) : State :=
  let t := old.housekeep (s.dropPortA old)
  if t.rp.mode = .cold then t else old.fireAll (old.fireProducers t) 25

end Sys2Proof.Machine
end

