-- ==== Sys2Proof/Machine/Operands.lean ====
section
/-! DEFINITION. Canvas accesses: where an address of a core leads (R7, R73, R74), the rights that it needs
(R96, R105), loads and stores in beats (R64, R65, R77), XCHG and ADDM (R47), and instruction fetches (R49,
R52, R54). -/

namespace Sys2Proof.Machine

open Sys2Proof

/-! ## Exceptions as accesses report them -/

/-- An exception: its cause code and the detail bits of ECAUSE (R22). -/
structure Exn where
  code : Nat
  wr : Bool := false
  noobj : Bool := false
  owned : Bool := false
  region : Bool := false
  fetch : Bool := false
  deriving DecidableEq, Repr

/-- ECAUSE as exception entry writes it. -/
def Exn.ecause (x : Exn) : Word :=
  field 0 x.code ||| flagAt 8 x.wr ||| flagAt 9 x.noobj ||| flagAt 10 x.owned |||
    flagAt 11 x.region ||| flagAt 12 x.fetch

def exnIllegal : Exn := { code := 1 }
def exnAccess (wr : Bool) : Exn := { code := 3, wr := wr }
def exnAlign (wr : Bool) : Exn := { code := 4, wr := wr }
/-- An odd target of a branch, a return or an interrupt vector (R28, R68, R72). -/
def exnOdd : Exn := { code := 4, fetch := true }
def exnMemory : Exn := { code := 5 }

/-- The place of an exception in the order of R23: fetch fault, illegal instruction, alignment fault, access
fault, memory error. -/
def Exn.rank (x : Exn) : Nat :=
  match x.code with
  | 2 => 5
  | 1 => 4
  | 4 => 3
  | 3 => 2
  | _ => 1

/-- Of two exceptions of one instruction, the one that R23 reports; the earlier of two of one kind. -/
def worst : Option Exn → Option Exn → Option Exn
  | none, y => y
  | some x, none => some x
  | some x, some y => some (if x.rank < y.rank then y else x)

/-! ## Places -/

/-- Where an address of a Canvas core leads. -/
inductive Place where
  /-- object `i`, at a physical address -/
  | obj (i p : Nat)
  /-- the object window, in no object -/
  | noobj
  | ember (p : Nat)
  /-- peripheral space, at an offset -/
  | io (o : Nat)
  /-- a region that a Canvas core does not reach, or none at all -/
  | outside
  deriving DecidableEq, Repr

def State.reach (s : State) (a : Nat) : Place :=
  if inObjWindow a then
    match s.wdn.index a with
    | some i => .obj i ((s.objAt i).translate a)
    | none => .noobj
  else if inEmber a then .ember a
  else if inPeriph a then .io (a - periphBase)
  else .outside

/-- Group `g` may write the 1 KiB block of the Ember window that holds an address (R96). -/
def State.emberMay (s : State) (g a : Nat) : Bool :=
  let b := (a - emberBase) / 1024
  bit (vget s.mm.rights (b / 4) 0#32) (8 * (b % 4) + g)

/-- What stops a beat of core `c` that reads (`rd`) or writes (`wr`) at an address (R22, R47). -/
def State.beatFault (s : State) (c : CoreId) (rd wr : Bool) (a : Nat) : Option Exn :=
  let g := s.groupOf c
  match s.reach a with
  | .obj i _ =>
    let e := s.objAt i
    if wr && !e.mayWrite g then some (exnAccess true)
    else if rd && !e.mayRead g then some (exnAccess false)
    else none
  | .noobj => some { code := 3, wr := wr, noobj := true }
  | .ember p => if wr && !s.emberMay g p then some (exnAccess true) else none
  | .io _ => none
  | .outside => some { code := 3, wr := wr, region := true }

/-- An access outside the regions of R7 is logged (R7, R74). (DEDUCED, unsafe: assumption 31.) -/
def State.logOutside (s : State) (c : CoreId) (a : Nat) : State :=
  if s.reach a = .outside then
    s.recordFault { cls := 0x0D, unit := c, addr := BitVec.ofNat 32 a, pc0 := s.cores[c].pc } 0
  else s

/-! ## What every beat counts -/

/-- The access is one of those that count in the heat of object `i` (R116). -/
def State.sampled (s : State) (c : CoreId) : Bool :=
  decide (2 ^ bits s.wdn.pol 28 3 ≤ s.cores[c].sample + 1)

/-- An access of core `c` to object `i`: its lookaside and its heat (R111, R116). -/
def State.touchObject (s : State) (c : CoreId) (i : Nat) : State :=
  let hot := s.sampled c
  let s := s.countCore c 10 (s.misses c i).toNat
  let s := (s.lookUp c i).onCore c fun k => { k with sample := if hot then 0 else k.sample + 1 }
  if hot then s.onObj i fun e => e.addHeat c else s

/-- The counters of a beat of core `c` at a physical address, and its waits for the bank (R89, R384). (DESIGN CHOICE, safe: assumption 32.) -/
def State.countPlace (s : State) (c : CoreId) (p : Nat) : State :=
  let s := (s.countSys (4 + c) 1).conflict c
  let far := match bankOf p with
    | some b => isSramBank b && decide (bankQuadrant b ≠ some c)
    | none => false
  (s.countCore c 19 far.toNat).countCore c 20 (inMram p).toNat

/-- A beat of a load (source 7) or a store (source 8) at an address that has its right: the lookaside,
heat and counters. -/
def State.noteBeat (s : State) (c : CoreId) (src a : Nat) : State :=
  let s := s.countCore c src 1
  match s.reach a with
  | .obj i p => (s.touchObject c i).countPlace c p
  | .ember p => s.countPlace c (if src = 7 then readPlace s p else p)
  | _ => s.countSys (4 + c) 1

/-- The physical address of a Canvas address in memory. -/
def State.physical (s : State) (a : Nat) : Nat :=
  match s.reach a with
  | .obj _ p => p
  | .ember p => p
  | _ => 0

/-! ## Loads -/

/-- The result of an access: the state, the exception, the uncorrectable words that it read, and the
value loaded. -/
structure Got where
  s : State
  exn : Option Exn
  unc : List Nat
  v : Nat
  deriving DecidableEq, Repr

/-- The exception of a read that met uncorrectable words (R80). -/
def memoryError (unc : List Nat) : Option Exn := if unc.isEmpty then none else some exnMemory

/-- One beat of a load (R77, R88). -/
def State.loadBeat (s : State) (c : CoreId) (a n : Nat) : Got :=
  match s.beatFault c true false a with
  | some x => ⟨s.logOutside c a, some x, [], 0⟩
  | none =>
    let p := s.physical a
    let r := (s.noteBeat c 7 a).readBeat c p n
    ⟨r.1.s.noteCollision p n, memoryError r.1.unc, r.1.unc, numOf (r.1.s.portB p r.2)⟩

/-- The second beat of a load: an access fault outranks a memory error of the first (R23). -/
def Got.andLoad (g h : Got) (n : Nat) : Got :=
  ⟨h.s, worst g.exn h.exn, g.unc ++ h.unc, g.v + 256 ^ n * h.v⟩

/-- A load from peripheral space: the addressed lanes of the register (R64, R65). -/
def State.ioLoad (s : State) (c : CoreId) (a n : Nat) : Got :=
  let o := a - periphBase
  if a % n ≠ 0 then ⟨s, some (exnAlign false), [], 0⟩
  else match ioReadFault (o - o % 4) with
    | some _ => ⟨s, some { code := 3, region := true }, [], 0⟩
    | none =>
      let r := (s.noteBeat c 7 a).busRead (.core c) (o - o % 4)
      ⟨r.1, none, [], r.2.toNat / 256 ^ (o % 4) % 256 ^ n⟩

/-- A load of `n` bytes by core `c` (R64, R77). -/
def State.load (s : State) (c : CoreId) (a n : Nat) : Got :=
  if inPeriph a then s.ioLoad c a n
  else
    let k := firstBeat a n
    let g := s.loadBeat c a k
    if k = n ∨ (g.exn ≠ none ∧ g.exn ≠ some exnMemory) then g
    else g.andLoad ((g.s.countCore c 9 1).loadBeat c (a + k) (n - k)) k

/-- What would stop a load of `n` bytes before anything is read (R22, R23). -/
def State.loadFault (s : State) (c : CoreId) (a n : Nat) : Option Exn :=
  if inPeriph a then (s.ioLoad c a n).exn
  else
    let k := firstBeat a n
    match s.beatFault c true false a with
    | some x => some x
    | none => if k = n then none else s.beatFault c true false (a + k)

/-! ## Stores -/

/-- A beat of a store at `a` makes the lines that hold its object's code invalid (R49). -/
def State.dropLines (s : State) (a n : Nat) : State :=
  match s.reach a with
  | .obj i _ => s.invalidateCode i a n
  | _ => s

/-- One beat of a store (R77, R88, R94). -/
def State.storeOne (s : State) (c : CoreId) (a : Nat) (bs : List Byte) : Got :=
  match s.beatFault c false true a with
  | some x => ⟨s.logOutside c a, some x, [], 0⟩
  | none =>
    let p := s.physical a
    let pull := inEmber p && !bit s.mm.restored ((p - emberBase) / 64)
    let b := (((s.dropLines a bs.length).noteBeat c 8 a).countCore c 22 pull.toNat).store c p bs
    ⟨b.s.noteCollision p bs.length, none, b.unc, 0⟩

/-- The fault that a write to peripheral space raises. -/
def ioExn : IoFault → Exn
  | .owned => { code := 3, wr := true, owned := true }
  | .region => { code := 3, wr := true, region := true }

/-- A store to peripheral space writes the whole register, with zero in the other lanes (R64, R65). -/
def State.ioStore (s : State) (c : CoreId) (a n v : Nat) : Got :=
  let o := a - periphBase
  let w := BitVec.ofNat 32 (v % 256 ^ n * 256 ^ (o % 4))
  if a % n ≠ 0 then ⟨s, some (exnAlign true), [], 0⟩
  else match s.ioWriteFault c (o - o % 4) w with
    | some f => ⟨s, some (ioExn f), [], 0⟩
    | none => ⟨(s.noteBeat c 8 a).busWrite (.core c) (o - o % 4) w, none, [], 0⟩

/-- A store of `n` bytes by core `c`; a fault of the second beat leaves the first written (R64, R77). -/
def State.storeBytes (s : State) (c : CoreId) (a n v : Nat) : Got :=
  if inPeriph a then s.ioStore c a n v
  else
    let bs := bytesOfNat n v
    let k := firstBeat a n
    let g := s.storeOne c a (bs.take k)
    if k = n ∨ g.exn ≠ none then g
    else
      let h := (g.s.countCore c 9 1).storeOne c (a + k) (bs.drop k)
      ⟨h.s, h.exn, g.unc ++ h.unc, 0⟩

/-- What would stop a store of `n` bytes (R28). -/
def State.storeFault (s : State) (c : CoreId) (a n v : Nat) : Option Exn :=
  if inPeriph a then (s.ioStore c a n v).exn
  else
    let k := firstBeat a n
    match s.beatFault c false true a with
    | some x => some x
    | none => if k = n then none else s.beatFault c false true (a + k)

/-! ## XCHG and ADDM (R47) -/

/-- The address lies in memory that XCHG and ADDM reach. -/
def State.atomicPlace (s : State) (a : Nat) : Bool :=
  match s.reach a with
  | .obj _ _ => true
  | .ember _ => true
  | _ => false

/-- What stops an atomic access. -/
def State.atomicFault (s : State) (c : CoreId) (a : Nat) : Option Exn :=
  if s.atomicPlace a then
    if a % 4 ≠ 0 then some (exnAlign true) else s.beatFault c true true a
  else match s.beatFault c true true a with
    | some x => some x
    | none => some (exnAccess true)

/-- One indivisible read-modify-write of the word at `a`; the value is the old word (R47, R94). -/
def State.atomic (s : State) (c : CoreId) (a : Nat) (f : Word → Word) : Got :=
  match s.atomicFault c a with
  | some x => ⟨s.logOutside c a, some x, [], 0⟩
  | none =>
    let p := s.physical a
    let line := (p - emberBase) / 64
    let pull := inEmber p && !bit s.mm.restored line
    let s := ((s.noteBeat c 7 a).countCore c 8 1).countCore c 22 pull.toNat
    let b := if inEmber p then s.pull line else ⟨s, []⟩
    let r := b.s.readBeat c p 4
    let old := wordOf (r.1.s.portB p r.2)
    if r.1.unc.isEmpty then
      let d := (r.1.s.noteCollision p 4).store c p (bytesOf (f old))
      ⟨d.s.dropLines a 4, none, b.unc ++ d.unc, old.toNat⟩
    else ⟨r.1.s, some exnMemory, b.unc ++ r.1.unc, 0⟩

/-! ## Fetches -/

/-- What stops the fetch of a halfword (R22). -/
def State.fetchFault (s : State) (c : CoreId) (a : Nat) : Option Exn :=
  match s.reach a with
  | .obj i _ =>
    if (s.objAt i).mayRun (s.groupOf c) then none else some { code := 2, fetch := true }
  | .noobj => some { code := 2, noobj := true, fetch := true }
  | .outside => some { code := 2, region := true, fetch := true }
  | _ => some { code := 2, fetch := true }

/-- The lookaside, heat and counters of the fetch of the halfword at `a` from its bank. A fetch from MRAM goes
there only when it misses the core's prefetch buffer. It misses after a store has invalidated the line
(R49); otherwise that is a free value, since the specification gives the buffer no layout (R116, R384; DESIGN
CHOICE, safe: assumption 17). -/
def State.noteFetch (s : State) (c : CoreId) (i a p : Nat) : State :=
  if inMram p then
    if decide (a ∈ s.stale[c]) || Config.freeBool s.free then
      (((((s.useFree 1).refill c a).touchObject c i).countPlace c p).countCore c 18 1)
    else s.useFree 1
  else (s.touchObject c i).countPlace c p

/-- The fetch of the halfword at `a` (R52, R54, R88). -/
def State.fetch (s : State) (c : CoreId) (a : Nat) : Got :=
  match s.fetchFault c a with
  | some x => ⟨s.logOutside c a, some x, [], 0⟩
  | none =>
    match s.reach a with
    | .obj i p =>
      let r := (s.noteFetch c i a p).readBeat c p 2
      ⟨r.1.s.noteCollision p 2, if r.1.unc.isEmpty then none else some { exnMemory with fetch := true },
        r.1.unc, numOf (r.1.s.portB p r.2)⟩
    | _ => ⟨s, none, [], 0⟩

/-- The fetch of the `n` halfwords of an instruction, or of a prefix and its string instruction: a fetch
fault on either is reported before a memory error (R23, R54, R69). -/
def State.fetches (s : State) (c : CoreId) (a : Nat) : Nat → Got
  | 0 => ⟨s, none, [], 0⟩
  | n + 1 =>
    let g := s.fetch c a
    if g.exn = none ∨ g.exn = some { exnMemory with fetch := true } then
      let h := g.s.fetches c (a + 2) n
      ⟨h.s, worst g.exn h.exn, g.unc ++ h.unc, 0⟩
    else g

end Sys2Proof.Machine
end

