-- ==== Sys2Proof/Machine/Exception.lean ====
section
/-! DEFINITION. Exceptions and interrupts of a Canvas core (R22-R30, R40), what follows an uncorrectable read
(R26, R80), and the issue of an instruction: its fetch, its issue cycles and the multiply and divide in
flight (R39, R40, R52, R59-R61). -/

namespace Sys2Proof.Machine

open Sys2Proof

/-! ## Multiply and divide in flight -/

/-- A multiply whose time has come writes PH and PL (R39). -/
def Core.settleMul (k : Core) : Core :=
  match k.mul with
  | some f => if f.due ≤ k.issue then { k with ph := f.ph, pl := f.pl, mul := none } else k
  | none => k

/-- A divide whose time has come writes QT and RM (R39). -/
def Core.settleDiv (k : Core) : Core :=
  match k.div with
  | some f => if f.due ≤ k.issue then { k with qt := f.qt, rm := f.rm, div := none } else k
  | none => k

/-- The core's issue clock moves on by `n` cycles (R39, R61). -/
def Core.tick (k : Core) (n : Nat) : Core := ({ k with issue := k.issue + n }).settleMul.settleDiv

/-- Issue cycles until the multiply in flight has written. -/
def Core.mulWait (k : Core) : Nat := match k.mul with | some f => f.due - k.issue | none => 0

/-- Issue cycles until the divide in flight has written. -/
def Core.divWait (k : Core) : Nat := match k.div with | some f => f.due - k.issue | none => 0

/-- Issue cycles until nothing is in flight. -/
def Core.mathWait (k : Core) : Nat := max k.mulWait k.divWait

/-- The core's clock counts `n` CCLK cycles (R19). -/
def Core.clock (k : Core) (n : Nat) : Core := { k with cyc := k.cyc + BitVec.ofNat 64 n }

/-- Core `c` takes `n` issue cycles, with the CCLK cycles that they are (R19, R384). -/
def State.spend (s : State) (c : CoreId) (n : Nat) : State :=
  (((s.onCore c fun k => (k.tick n).clock n).countCore c 1 n).countCore c 2 n)

/-- Core `c` waits until no multiply or divide is in flight (R36, R40, R61). -/
def State.drainMath (s : State) (c : CoreId) : State := s.spend c s.cores[c].mathWait

/-- Cycles that are not issue cycles: entry to a handler or a task (R24, R27). -/
def State.delay (s : State) (c : CoreId) (n : Nat) : State :=
  (s.onCore c fun k => k.clock n).countCore c 1 n

/-! ## Uncorrectable reads and double faults -/

/-- Class DOUBLE for core `c` (R25, R151). (DEDUCED, unsafe: assumption 29.) -/
def doubleFault (c : CoreId) (pc : Word) : FaultInfo :=
  { cls := 0x0C, unit := c, pc0 := pc }

/-- A core stops at a double fault (R25). -/
def Core.stop (k : Core) : Core :=
  { k with phase := .stopped, mul := none, div := none, repOpen := false, stepArm := false }

/-- What Ridgepole does about the uncorrectable words that an instruction read and about a double fault;
under Twin-skin the first of them resets the device (R25, R26, R145). -/
def State.aftermath (s : State) (c : CoreId) (pc : Word) (unc : List Nat) (double : Bool) : State :=
  let t := s.reactUnc pc unc
  if double && (unc.isEmpty || !s.twin) then t.react (doubleFault c pc) else t

/-! ## Exception entry (R24, R25, R40) -/

/-- The registers that exception entry writes. -/
def Core.enter (k : Core) (x : Exn) (epc : Word) : Core :=
  { k with
    epc := epc
    eflg := k.flg
    flg := setBit k.flg 8 true
    ecause := x.ecause
    phase := .run
    repOpen := false
    stepArm := false }

/-- The handler address for a cause code (R21). -/
def vectorOf (code : Nat) : Nat := 0x60000100 + 4 * code

/-- Core `c` takes an exception with the return address `epc`; `unc` holds the uncorrectable words that
the instruction read. A double fault stops the core at once, and what is in flight is lost (R25, R40; DESIGN
CHOICE, unsafe: assumption 90). -/
def State.takeException (s : State) (c : CoreId) (x : Exn) (epc : Word) (unc : List Nat) : State :=
  if flagE s.cores[c].flg then (s.onCore c Core.stop).aftermath c epc unc true
  else
    let s := ((s.drainMath c).onCore c fun k => k.enter x epc).countCore c 23 1
    let g := s.load c (vectorOf x.code) 4
    if g.exn ≠ none ∨ g.v % 2 = 1 then
      (g.s.onCore c Core.stop).aftermath c epc (unc ++ g.unc) true
    else
      ((g.s.onCore c fun k => { k with pc := BitVec.ofNat 32 g.v }).delay c 6).aftermath c epc
        (unc ++ g.unc) false

/-! ## Interrupt acceptance (R27, R28) -/

/-- The controller's side of acceptance (R185). -/
def IrqBank.accept (q : IrqBank) (src : Nat) : IrqBank :=
  { q with
    pend := setBit q.pend src false
    act := setBit q.act src true
    stack := ⟨src, q.priority src⟩ :: q.stack }

/-- Core `c` may be offered an interrupt: it is at an instruction boundary or in WAIT, not halted by the
debugger, and not under Waymark (R27, R51, R194). -/
def State.interruptible (s : State) (c : CoreId) : Bool :=
  let k := s.cores[c]
  s.canvasUp && !s.waymark && !k.halted && (decide (k.phase = .run) || decide (k.phase = .wait))

/-- The stack fault of interrupt entry (R28): its detail bits are those of the push that would fault. -/
def stackFault (x : Option Exn) : Exn := { x.getD { code := 6 } with code := 6 }

/-- The push of interrupt entry would fault, or W15 is not a multiple of 4 (R28). -/
def State.pushFault (s : State) (c : CoreId) : Option Exn :=
  let k := s.cores[c]
  let sp := k.w[15]
  let lo := (sp - 8#32).toNat
  let hi := (sp - 4#32).toNat
  if sp.toNat % 4 ≠ 0 then some (stackFault none)
  else match s.storeFault c hi 4 k.pc.toNat with
    | some x => some (stackFault (some x))
    | none => (s.storeFault c lo 4 k.flg.toNat).map fun x => stackFault (some x)

/-- A push of interrupt entry outside the regions of R7 is logged (R7, R74). -/
def State.logPush (s : State) (c : CoreId) : State :=
  let k := s.cores[c]
  let hi := (k.w[15] - 4#32).toNat
  if k.w[15].toNat % 4 ≠ 0 then s
  else match s.storeFault c hi 4 k.pc.toNat with
    | some _ => s.logOutside c hi
    | none => s.logOutside c (k.w[15] - 8#32).toNat

/-- Core `c` enters the handler of source `src` at `v` (R27). -/
def State.enterHandler (s : State) (c : CoreId) (src : Nat) (v : Word) : State :=
  let k := s.cores[c]
  let sp := k.w[15] - 8#32
  let g := s.storeBytes c (sp + 4#32).toNat 4 k.pc.toNat
  let h := g.s.storeBytes c sp.toNat 4 k.flg.toNat
  let s := (h.s.onIrq c fun q => q.accept src).onCore c fun k =>
    { k with w := k.w.set 15 sp, pc := v, phase := .run, repOpen := false }
  ((s.delay c 10).countCore c 24 1).aftermath c k.pc (g.unc ++ h.unc) false

/-- Core `c` accepts the interrupt of source `src`, or raises the exception that stops it (R27, R28). The
core's PC is the return address: the next instruction, the prefix of an interrupted string instruction,
or the instruction after WAIT, which the core leaves (R16). The vector is read before W15 is judged (DEDUCED, unsafe: assumption 85). -/
def State.acceptInterrupt (s : State) (c : CoreId) (src : Nat) : State :=
  let s := (if s.cores[c].phase = .wait then s.clearIdle else s).drainMath c
  let ret := s.cores[c].pc
  let g := s.load c (0x60000200 + 4 * src) 4
  match g.exn with
  | some x => g.s.takeException c { x with fetch := true } ret g.unc
  | none =>
    if g.v % 2 = 1 then g.s.takeException c exnOdd ret g.unc
    else match g.s.pushFault c with
      | some x => (g.s.logPush c).takeException c x ret g.unc
      | none => g.s.enterHandler c src (BitVec.ofNat 32 g.v)

/-! ## The issue of an instruction -/

/-- What an instruction did: the state, the exception it raised, the uncorrectable words it read, the
address of the next instruction and the issue cycles it took. -/
structure Out where
  s : State
  exn : Option Exn
  unc : List Nat
  pc : Word
  cycles : Nat
  deriving DecidableEq, Repr

/-- An interrupt that core `c` accepts before anything else at this boundary (R27, R30, R185). -/
def State.interruptDue (s : State) (c : CoreId) : Bool :=
  s.interruptible c && (vget s.irq c IrqBank.reset).acceptable.isSome

/-- Core `c` can issue an instruction: Canvas is up, the core runs, no interrupt is accepted first, and the
debugger does not hold it (R20, R27, R30, R181). -/
def State.issues (s : State) (c : CoreId) : Bool :=
  let k := s.cores[c]
  s.canvasUp && decide (k.phase = .run) && (!k.halted || k.stepArm) && !s.interruptDue c

/-- The end of an instruction: the PC moves on, the issue cycles and the stalls pass (R59-R61; the stalls
are a free value, DESIGN CHOICE, safe: assumption 11). -/
def State.complete (s : State) (c : CoreId) (pc : Word) (cycles : Nat) : State :=
  let stall := Config.freeNat s.free
  let s := ((s.useFree 1).onCore c fun k => { k with pc := pc, stepArm := false }).spend c cycles
  (((s.onCore c fun k => k.clock stall).countCore c 1 stall).countCore c 3 stall).countCore c 5 1

/-- A fetch that has met an exception is followed by the instruction only if what the instruction raises
outranks it: every exception but a memory error outranks a memory error of the fetch (R23). -/
def State.fetchFailed (f : Got) (c : CoreId) (x : Exn) (pc : Word) (o : Out) : State :=
  match o.exn with
  | some y =>
    if x.rank < y.rank then o.s.takeException c y pc (f.unc ++ o.unc)
    else f.s.takeException c x pc f.unc
  | none => f.s.takeException c x pc f.unc

/-- An instruction of `n` halfwords is issued by core `c`: it is fetched, `body` is what it does, and an
exception that it raises is taken with its own address (R23, R24, R52). An instruction that raises one takes
no issue cycle (DESIGN CHOICE, unsafe: assumption 91). (DESIGN CHOICE, safe: assumption 16.) -/
def State.instr (s : State) (c : CoreId) (n : Nat) (body : State → Out) : State :=
  if s.issues c then
    let pc := s.cores[c].pc
    let f := s.fetches c pc.toNat n
    let o := body (f.s.onCore c fun k => { k with repOpen := false })
    match f.exn with
    | some x => State.fetchFailed f c x pc o
    | none =>
      match o.exn with
      | some x => o.s.takeException c x pc o.unc
      | none => (o.s.complete c o.pc o.cycles).aftermath c pc o.unc false
  else s

/-- The address of the next instruction, `n` halfwords on. -/
def State.nextPc (s : State) (c : CoreId) (n : Nat) : Word :=
  s.cores[c].pc + BitVec.ofNat 32 (2 * n)

/-- An instruction of `n` halfwords that rewrites only its core, by `f`. -/
def State.regs (s : State) (c : CoreId) (n cycles : Nat) (f : Core → Core) : State :=
  s.instr c n fun s => ⟨s.onCore c f, none, [], s.nextPc c n, cycles⟩

/-- An instruction that raises the illegal-instruction exception (R22). -/
def illegal (s : State) : Out := ⟨s, some exnIllegal, [], 0#32, 0⟩

end Sys2Proof.Machine
end

