-- ==== Sys2Proof/Machine/Arith.lean ====
section
/-! DEFINITION. The register instructions: moves, binary arithmetic and logic (R62), shifts and extension
(R63), multiply and divide (R39-R41) and packed BCD (R44-R46). -/

namespace Sys2Proof.Machine

open Sys2Proof

/-! ## Registers of a core -/

/-- General register `i`. -/
def Core.r (k : Core) (i : Reg) : Word := k.w[i]

def Core.setR (k : Core) (i : Reg) (v : Word) : Core := { k with w := k.w.set i v }

def Core.setF (k : Core) (f : Word) : Core := { k with flg := f }

/-- The add and subtract families: the result and Z, N, C and V (R62). -/
def Core.putAlu (k : Core) (d : Reg) (x : Alu) : Core := (k.setR d x.r).setF (setZNCV k.flg x.r x.c x.v)

/-- A compare: the flags alone (R62). -/
def Core.cmpAlu (k : Core) (x : Alu) : Core := k.setF (setZNCV k.flg x.r x.c x.v)

/-- The logic instructions: the result, Z and N (R62). -/
def Core.putLogic (k : Core) (d : Reg) (r : Word) : Core := (k.setR d r).setF (setZN k.flg r)

/-- The shifts: the result, Z, N and C (R63). -/
def Core.putShift (k : Core) (d : Reg) (x : Shift) : Core :=
  (k.setR d x.r).setF (setZNC k.flg x.r x.c)

/-- A shift amount in a register: its low five bits (R63). -/
def amount (w : Word) : Nat := bits w 0 5

/-- The decimal add and subtract instructions: the result, Z, V and D (R44). -/
def Core.putDec (k : Core) (d : Reg) (x : Dec) : Core := (k.setR d x.r).setF (setZVD k.flg x.r x.v x.d)

/-- The conversions: the result, Z and V (R46). -/
def Core.putConv (k : Core) (d : Reg) (r : Word) (v : Bool) : Core :=
  (k.setR d r).setF (setBit (setBit k.flg 0 (r == 0#32)) 3 v)

/-- Counters 16 and 17 of core `c`: a decimal instruction, and one that sets V (R384). -/
def State.countDecimal (s : State) (c : CoreId) : State :=
  (s.countCore c 16 1).countCore c 17 (flagV s.cores[c].flg).toNat

/-- A decimal instruction. -/
def State.decimal (s : State) (c : CoreId) (cycles : Nat) (f : Core → Core) : State :=
  s.instr c 1 fun s => ⟨(s.onCore c f).countDecimal c, none, [], s.nextPc c 1, cycles⟩

/-! ## Multiply and divide -/

/-- A multiply is issued: it cancels one in flight and writes three issue cycles on (R39). -/
def State.multiply (s : State) (c : CoreId) (p : Core → DWord) : State :=
  s.instr c 1 fun s =>
    let k := s.cores[c]
    let v := p k
    let s := (s.countCore c 12 1).countCore c 13 k.mul.isSome.toNat
    ⟨s.onCore c fun k => { k with mul := some ⟨k.issue + 3, v.extractLsb' 32 32, v.extractLsb' 0 32⟩ },
      none, [], s.nextPc c 1, 1⟩

/-- A divide is issued: V at issue, QT and RM eighteen issue cycles on (R39, R41). -/
def State.divide (s : State) (c : CoreId) (p : Core → Quot) : State :=
  s.instr c 1 fun s =>
    let k := s.cores[c]
    let v := p k
    let s := (s.countCore c 14 1).countCore c 15 k.div.isSome.toNat
    ⟨s.onCore c fun k =>
        { k with div := some ⟨k.issue + 18, v.qt, v.rm⟩, flg := setBit k.flg 3 v.v },
      none, [], s.nextPc c 1, 1⟩

/-- The issue cycles pass until a result is written, with the core running (R39). -/
def State.awaitResult (s : State) (c : CoreId) (wait : Core → Nat) : State :=
  if s.issues c then s.spend c (wait s.cores[c]) else s

/-! ## Moves, arithmetic and logic -/

/-- MOV Wd, Ws (R58). -/
def execMov (c : CoreId) (d s : Reg) (t : State) :
    Host.Outcome State Fault Refusal :=
  .next (finish t (t.regs c 1 1 fun k => k.setR d (k.r s)))

/-- MOVI Wd, #u8 (R56, R58). -/
def execMovi (c : CoreId) (d : Reg) (imm : BitVec 8) (t : State) :
    Host.Outcome State Fault Refusal :=
  .next (finish t (t.regs c 1 1 fun k => k.setR d (imm.setWidth 32)))

/-- MOVW Wd, #u16 (R56, R58). -/
def execMovw (c : CoreId) (d : Reg) (imm : BitVec 16) (t : State) :
    Host.Outcome State Fault Refusal :=
  .next (finish t (t.regs c 2 1 fun k => k.setR d (imm.setWidth 32)))

/-- MOVH Wd, #u16: the high half, over the low half of Wd (R58). -/
def execMovh (c : CoreId) (d : Reg) (imm : BitVec 16) (t : State) :
    Host.Outcome State Fault Refusal :=
  .next (finish t (t.regs c 2 1 fun k => k.setR d (imm ++ (k.r d).setWidth 16)))

/-- ADD Wd, Ws (R62). -/
def execAdd (c : CoreId) (d s : Reg) (t : State) :
    Host.Outcome State Fault Refusal :=
  .next (finish t (t.regs c 1 1 fun k => k.putAlu d (addWith (k.r d) (k.r s) false)))

/-- ADC Wd, Ws (R62). -/
def execAdc (c : CoreId) (d s : Reg) (t : State) :
    Host.Outcome State Fault Refusal :=
  .next (finish t (t.regs c 1 1 fun k => k.putAlu d (addWith (k.r d) (k.r s) (flagC k.flg))))

/-- SUB Wd, Ws (R62). -/
def execSub (c : CoreId) (d s : Reg) (t : State) :
    Host.Outcome State Fault Refusal :=
  .next (finish t (t.regs c 1 1 fun k => k.putAlu d (subWith (k.r d) (k.r s) false)))

/-- SBC Wd, Ws (R62). -/
def execSbc (c : CoreId) (d s : Reg) (t : State) :
    Host.Outcome State Fault Refusal :=
  .next (finish t (t.regs c 1 1 fun k => k.putAlu d (subWith (k.r d) (k.r s) (flagC k.flg))))

/-- NEG Wd, Ws: 0 - Ws (R62). -/
def execNeg (c : CoreId) (d s : Reg) (t : State) :
    Host.Outcome State Fault Refusal :=
  .next (finish t (t.regs c 1 1 fun k => k.putAlu d (subWith 0#32 (k.r s) false)))

/-- CMP Wd, Ws (R62). -/
def execCmp (c : CoreId) (d s : Reg) (t : State) :
    Host.Outcome State Fault Refusal :=
  .next (finish t (t.regs c 1 1 fun k => k.cmpAlu (subWith (k.r d) (k.r s) false)))

/-- AND Wd, Ws (R62). -/
def execAnd (c : CoreId) (d s : Reg) (t : State) :
    Host.Outcome State Fault Refusal :=
  .next (finish t (t.regs c 1 1 fun k => k.putLogic d (k.r d &&& k.r s)))

/-- OR Wd, Ws (R62). -/
def execOr (c : CoreId) (d s : Reg) (t : State) :
    Host.Outcome State Fault Refusal :=
  .next (finish t (t.regs c 1 1 fun k => k.putLogic d (k.r d ||| k.r s)))

/-- XOR Wd, Ws (R62). -/
def execXor (c : CoreId) (d s : Reg) (t : State) :
    Host.Outcome State Fault Refusal :=
  .next (finish t (t.regs c 1 1 fun k => k.putLogic d (k.r d ^^^ k.r s)))

/-- NOT Wd, Ws (R62). -/
def execNot (c : CoreId) (d s : Reg) (t : State) :
    Host.Outcome State Fault Refusal :=
  .next (finish t (t.regs c 1 1 fun k => k.putLogic d (~~~(k.r s))))

/-- TST Wd, Ws (R62). -/
def execTst (c : CoreId) (d s : Reg) (t : State) :
    Host.Outcome State Fault Refusal :=
  .next (finish t (t.regs c 1 1 fun k => k.setF (setZN k.flg (k.r d &&& k.r s))))

/-- ADDI Wd, #s8 (R56, R62). -/
def execAddi (c : CoreId) (d : Reg) (imm : BitVec 8) (t : State) :
    Host.Outcome State Fault Refusal :=
  .next (finish t (t.regs c 1 1 fun k => k.putAlu d (addWith (k.r d) (imm.signExtend 32) false)))

/-- CMPI Wd, #u8 (R56, R62). -/
def execCmpi (c : CoreId) (d : Reg) (imm : BitVec 8) (t : State) :
    Host.Outcome State Fault Refusal :=
  .next (finish t (t.regs c 1 1 fun k => k.cmpAlu (subWith (k.r d) (imm.setWidth 32) false)))

/-- ADD Wd, Wa, Wb (R62). -/
def execAddRrr (c : CoreId) (d a b : Reg) (t : State) :
    Host.Outcome State Fault Refusal :=
  .next (finish t (t.regs c 2 1 fun k => k.putAlu d (addWith (k.r a) (k.r b) false)))

/-- SUB Wd, Wa, Wb (R62). -/
def execSubRrr (c : CoreId) (d a b : Reg) (t : State) :
    Host.Outcome State Fault Refusal :=
  .next (finish t (t.regs c 2 1 fun k => k.putAlu d (subWith (k.r a) (k.r b) false)))

/-- AND Wd, Wa, Wb (R62). -/
def execAndRrr (c : CoreId) (d a b : Reg) (t : State) :
    Host.Outcome State Fault Refusal :=
  .next (finish t (t.regs c 2 1 fun k => k.putLogic d (k.r a &&& k.r b)))

/-- OR Wd, Wa, Wb (R62). -/
def execOrRrr (c : CoreId) (d a b : Reg) (t : State) :
    Host.Outcome State Fault Refusal :=
  .next (finish t (t.regs c 2 1 fun k => k.putLogic d (k.r a ||| k.r b)))

/-- XOR Wd, Wa, Wb (R62). -/
def execXorRrr (c : CoreId) (d a b : Reg) (t : State) :
    Host.Outcome State Fault Refusal :=
  .next (finish t (t.regs c 2 1 fun k => k.putLogic d (k.r a ^^^ k.r b)))

/-- ADDI Wd, Wa, #s16 (R56, R62). -/
def execAddiRri (c : CoreId) (d a : Reg) (imm : BitVec 16) (t : State) :
    Host.Outcome State Fault Refusal :=
  .next (finish t (t.regs c 2 1 fun k => k.putAlu d (addWith (k.r a) (imm.signExtend 32) false)))

/-- ANDI Wd, Wa, #u16 (R56, R62). -/
def execAndi (c : CoreId) (d a : Reg) (imm : BitVec 16) (t : State) :
    Host.Outcome State Fault Refusal :=
  .next (finish t (t.regs c 2 1 fun k => k.putLogic d (k.r a &&& imm.setWidth 32)))

/-- ORI Wd, Wa, #u16 (R56, R62). -/
def execOri (c : CoreId) (d a : Reg) (imm : BitVec 16) (t : State) :
    Host.Outcome State Fault Refusal :=
  .next (finish t (t.regs c 2 1 fun k => k.putLogic d (k.r a ||| imm.setWidth 32)))

/-- XORI Wd, Wa, #u16 (R56, R62). -/
def execXori (c : CoreId) (d a : Reg) (imm : BitVec 16) (t : State) :
    Host.Outcome State Fault Refusal :=
  .next (finish t (t.regs c 2 1 fun k => k.putLogic d (k.r a ^^^ imm.setWidth 32)))

/-- CMPW Wa, #s16 (R56, R62). -/
def execCmpw (c : CoreId) (a : Reg) (imm : BitVec 16) (t : State) :
    Host.Outcome State Fault Refusal :=
  .next (finish t (t.regs c 2 1 fun k => k.cmpAlu (subWith (k.r a) (imm.signExtend 32) false)))

/-! ## Shifts and extension -/

/-- LSL Wd, Ws (R63). -/
def execLsl (c : CoreId) (d s : Reg) (t : State) :
    Host.Outcome State Fault Refusal :=
  .next (finish t (t.regs c 1 1 fun k => k.putShift d (shl (k.r d) (amount (k.r s)) (flagC k.flg))))

/-- LSR Wd, Ws (R63). -/
def execLsr (c : CoreId) (d s : Reg) (t : State) :
    Host.Outcome State Fault Refusal :=
  .next (finish t (t.regs c 1 1 fun k => k.putShift d (shrL (k.r d) (amount (k.r s)) (flagC k.flg))))

/-- ASR Wd, Ws (R63). -/
def execAsr (c : CoreId) (d s : Reg) (t : State) :
    Host.Outcome State Fault Refusal :=
  .next (finish t (t.regs c 1 1 fun k => k.putShift d (shrA (k.r d) (amount (k.r s)) (flagC k.flg))))

/-- ROR Wd, Ws (R63). -/
def execRor (c : CoreId) (d s : Reg) (t : State) :
    Host.Outcome State Fault Refusal :=
  .next (finish t (t.regs c 1 1 fun k => k.putShift d (rotR (k.r d) (amount (k.r s)) (flagC k.flg))))

/-- LSLI Wd, Wa, #n (R63). -/
def execLsli (c : CoreId) (d a : Reg) (n : BitVec 5) (t : State) :
    Host.Outcome State Fault Refusal :=
  .next (finish t (t.regs c 2 1 fun k => k.putShift d (shl (k.r a) n.toNat (flagC k.flg))))

/-- LSRI Wd, Wa, #n (R63). -/
def execLsri (c : CoreId) (d a : Reg) (n : BitVec 5) (t : State) :
    Host.Outcome State Fault Refusal :=
  .next (finish t (t.regs c 2 1 fun k => k.putShift d (shrL (k.r a) n.toNat (flagC k.flg))))

/-- ASRI Wd, Wa, #n (R63). -/
def execAsri (c : CoreId) (d a : Reg) (n : BitVec 5) (t : State) :
    Host.Outcome State Fault Refusal :=
  .next (finish t (t.regs c 2 1 fun k => k.putShift d (shrA (k.r a) n.toNat (flagC k.flg))))

/-- RORI Wd, Wa, #n (R63). -/
def execRori (c : CoreId) (d a : Reg) (n : BitVec 5) (t : State) :
    Host.Outcome State Fault Refusal :=
  .next (finish t (t.regs c 2 1 fun k => k.putShift d (rotR (k.r a) n.toNat (flagC k.flg))))

/-- SXB Wd, Ws (R63). -/
def execSxb (c : CoreId) (d s : Reg) (t : State) :
    Host.Outcome State Fault Refusal :=
  .next (finish t (t.regs c 1 1 fun k => k.setR d (((k.r s).setWidth 8).signExtend 32)))

/-- SXH Wd, Ws (R63). -/
def execSxh (c : CoreId) (d s : Reg) (t : State) :
    Host.Outcome State Fault Refusal :=
  .next (finish t (t.regs c 1 1 fun k => k.setR d (((k.r s).setWidth 16).signExtend 32)))

/-- ZXH Wd, Ws (R63). -/
def execZxh (c : CoreId) (d s : Reg) (t : State) :
    Host.Outcome State Fault Refusal :=
  .next (finish t (t.regs c 1 1 fun k => k.setR d (((k.r s).setWidth 16).setWidth 32)))

/-! ## Multiply and divide -/

/-- MULU Wd, Ws (R39). -/
def execMulu (c : CoreId) (d s : Reg) (t : State) :
    Host.Outcome State Fault Refusal :=
  .next (finish t (t.multiply c fun k => productU (k.r d) (k.r s)))

/-- MULS Wd, Ws (R39). -/
def execMuls (c : CoreId) (d s : Reg) (t : State) :
    Host.Outcome State Fault Refusal :=
  .next (finish t (t.multiply c fun k => productS (k.r d) (k.r s)))

/-- DIVU Wd, Ws (R41). -/
def execDivu (c : CoreId) (d s : Reg) (t : State) :
    Host.Outcome State Fault Refusal :=
  .next (finish t (t.divide c fun k => divideU (k.r d) (k.r s)))

/-- DIVS Wd, Ws (R41). -/
def execDivs (c : CoreId) (d s : Reg) (t : State) :
    Host.Outcome State Fault Refusal :=
  .next (finish t (t.divide c fun k => divideS (k.r d) (k.r s)))

/-- The multiply in flight reaches its result cycle and writes PH and PL (R39). (DESIGN CHOICE, unsafe:
assumption 24.) -/
def execMultiplyResult (c : CoreId) (t : State) :
    Host.Outcome State Fault Refusal :=
  .next (finish t (t.awaitResult c Core.mulWait))

/-- The divide in flight reaches its result cycle and writes QT and RM (R39). -/
def execDivideResult (c : CoreId) (t : State) :
    Host.Outcome State Fault Refusal :=
  .next (finish t (t.awaitResult c Core.divWait))

/-! ## Packed BCD -/

/-- BADD Wd, Ws (R44). -/
def execBadd (c : CoreId) (d s : Reg) (t : State) :
    Host.Outcome State Fault Refusal :=
  .next (finish t (t.decimal c 1 fun k => k.putDec d (bcdAdd (k.r d) (k.r s) false)))

/-- BADC Wd, Ws (R44). -/
def execBadc (c : CoreId) (d s : Reg) (t : State) :
    Host.Outcome State Fault Refusal :=
  .next (finish t (t.decimal c 1 fun k => k.putDec d (bcdAdd (k.r d) (k.r s) (flagD k.flg))))

/-- BSUB Wd, Ws (R44). -/
def execBsub (c : CoreId) (d s : Reg) (t : State) :
    Host.Outcome State Fault Refusal :=
  .next (finish t (t.decimal c 1 fun k => k.putDec d (bcdSub (k.r d) (k.r s) false)))

/-- BSBC Wd, Ws (R44). -/
def execBsbc (c : CoreId) (d s : Reg) (t : State) :
    Host.Outcome State Fault Refusal :=
  .next (finish t (t.decimal c 1 fun k => k.putDec d (bcdSub (k.r d) (k.r s) (flagD k.flg))))

/-- DADJ Wd (R45). -/
def execDadj (c : CoreId) (d : Reg) (t : State) :
    Host.Outcome State Fault Refusal :=
  .next (finish t (t.decimal c 1 fun k => k.putDec d (bcdAdjust (k.r d))))

/-- CVBD Wd, Ws (R46). -/
def execCvbd (c : CoreId) (d s : Reg) (t : State) :
    Host.Outcome State Fault Refusal :=
  .next (finish t
    (t.decimal c 4 fun k =>
      k.putConv d (BitVec.ofNat 32 (binToBcd (k.r s).toNat)) (decide (99999999 < (k.r s).toNat))))

/-- CVDB Wd, Ws (R46). -/
def execCvdb (c : CoreId) (d s : Reg) (t : State) :
    Host.Outcome State Fault Refusal :=
  .next (finish t
    (t.decimal c 2 fun k => k.putConv d (BitVec.ofNat 32 (bcdToBin (k.r s))) (badNibble (k.r s))))

end Sys2Proof.Machine
end

