-- ==== Sys2Proof/Machine/Encoding.lean ====
section
/-! DEFINITION. The encodings of BK32: the length of an instruction (R52), the formats (R55), the condition codes
(R57), the opcode tables (R58), the prefixed string unit (R69), and which encodings are undefined (R53). A
halfword is the code unit: the first of a 32-bit instruction holds its bits 31-16. -/

namespace Sys2Proof.Machine

open Sys2Proof

/-- A halfword of code. -/
abbrev Half := BitVec 16

/-! ## Condition codes (R57) -/

def condCode : Cond → Fin 16
  | .eq => 0
  | .ne => 1
  | .lo => 2
  | .hs => 3
  | .ns => 4
  | .nc => 5
  | .vs => 6
  | .vc => 7
  | .hi => 8
  | .ls => 9
  | .ge => 10
  | .lt => 11
  | .gt => 12
  | .le => 13
  | .ds => 14
  | .al => 15

def condOf (n : Fin 16) : Cond :=
  match n.val with
  | 0 => .eq
  | 1 => .ne
  | 2 => .lo
  | 3 => .hs
  | 4 => .ns
  | 5 => .nc
  | 6 => .vs
  | 7 => .vc
  | 8 => .hi
  | 9 => .ls
  | 10 => .ge
  | 11 => .lt
  | 12 => .gt
  | 13 => .le
  | 14 => .ds
  | _ => .al

/-! ## Formats (R55) -/

/-- The RR format. -/
def rrCode (op : BitVec 6) (d s : Reg) : Half :=
  0#2 ++ (op ++ (BitVec.ofFin (w := 4) d ++ BitVec.ofFin (w := 4) s))

/-- The I8 format. -/
def i8Code (op : BitVec 2) (d : Reg) (imm : BitVec 8) : Half := 1#2 ++ (op ++ (BitVec.ofFin (w := 4) d ++ imm))

/-- The Z format. -/
def zCode (op : BitVec 5) (operand : BitVec 8) : Half := 5#3 ++ (op ++ operand)

/-- The RRI format; RRR with Wb in bits 15-12 and zeros below; BC with cond in Wd. -/
def rriCode (op : BitVec 6) (d a : Reg) (imm : Half) : List Half :=
  [3#2 ++ (op ++ (BitVec.ofFin (w := 4) d ++ BitVec.ofFin (w := 4) a)), imm]

/-- The J format. -/
def jCode (op : BitVec 6) (disp : BitVec 24) : List Half :=
  [3#2 ++ (op ++ disp.extractLsb' 16 8), disp.extractLsb' 0 16]

/-- The size code of a string instruction. -/
def sizeCode : ElemSize → BitVec 2
  | .byte => 0
  | .half => 1
  | .word => 2

/-- A string instruction: operation, size and two zero bits in operand8. -/
def stringCode (op : BitVec 4) (size : ElemSize) : Half := zCode 0x05 (op ++ (sizeCode size ++ 0#2))

/-- The prefix of a string instruction. -/
def prefixCodes : RepPrefix → List Half
  | .bare => []
  | .rep => [zCode 0x02 0#8]
  | .repe => [zCode 0x03 0#8]
  | .repne => [zCode 0x04 0#8]

/-! ## Decoding -/

/-- Bits 15-14 are 0b11: the instruction is 32 bits long (R52). -/
def isLong (h : Half) : Bool := decide (h.extractLsb' 14 2 = 3#2)

/-- The prefix that a halfword is (R69). -/
def prefixOf (h : Half) : Option RepPrefix :=
  if h = zCode 0x02 0#8 then some .rep
  else if h = zCode 0x03 0#8 then some .repe
  else if h = zCode 0x04 0#8 then some .repne
  else none

/-- The halfwords that are fetched for the code that begins with `h` (R52, R69). -/
def codeLength (h : Half) : Nat := if isLong h || (prefixOf h).isSome then 2 else 1

/-- The RR instructions of R58. -/
def rrDecode (c : CoreId) (op : Nat) (d s : Reg) : Option Instr :=
  match op with
  | 0x01 => some (.mov c d s)
  | 0x02 => some (.add c d s)
  | 0x03 => some (.adc c d s)
  | 0x04 => some (.sub c d s)
  | 0x05 => some (.sbc c d s)
  | 0x06 => some (.cmp c d s)
  | 0x07 => some (.neg c d s)
  | 0x08 => some (.and c d s)
  | 0x09 => some (.or c d s)
  | 0x0A => some (.xor c d s)
  | 0x0B => some (.tst c d s)
  | 0x0C => some (.not c d s)
  | 0x0D => some (.lsl c d s)
  | 0x0E => some (.lsr c d s)
  | 0x0F => some (.asr c d s)
  | 0x10 => some (.ror c d s)
  | 0x11 => some (.sxb c d s)
  | 0x12 => some (.sxh c d s)
  | 0x13 => some (.zxh c d s)
  | 0x14 => some (.mulu c d s)
  | 0x15 => some (.muls c d s)
  | 0x16 => some (.divu c d s)
  | 0x17 => some (.divs c d s)
  | 0x18 => some (.badd c d s)
  | 0x19 => some (.badc c d s)
  | 0x1A => some (.bsub c d s)
  | 0x1B => some (.bsbc c d s)
  | 0x1C => if s = 0 then some (.dadj c d) else none
  | 0x1D => some (.cvbd c d s)
  | 0x1E => some (.cvdb c d s)
  | 0x20 => some (.ldb c d s)
  | 0x21 => some (.ldh c d s)
  | 0x22 => some (.ldw c d s)
  | 0x23 => some (.stb c d s)
  | 0x24 => some (.sth c d s)
  | 0x25 => some (.stw c d s)
  | 0x26 => some (.xchg c d s)
  | 0x27 => if d = 0 then some (.push c s) else none
  | 0x28 => if s = 0 then some (.pop c d) else none
  | 0x2C => if d = 0 then some (.jr c s) else none
  | 0x2D => if d = 0 then some (.jlr c s) else none
  | 0x30 => some (.mfs c d s)
  | 0x31 => some (.mts c d s)
  | 0x32 => some (.post c d s)
  | _ => none

/-- The I8 instructions of R58. -/
def i8Decode (c : CoreId) (op : BitVec 2) (d : Reg) (imm : BitVec 8) : Instr :=
  match op with
  | 0 => .movi c d imm
  | 1 => .addi c d imm
  | 2 => .cmpi c d imm
  | _ => .ldws c d imm

/-- TRAP #n, by its service (R37, R173). -/
def trapDecode (c : CoreId) (n : BitVec 8) : Instr :=
  match n.toNat with
  | 0 => .info c
  | 1 => .imgConfirm c
  | 2 => .imgSwitch c
  | 3 => .rollbackCommit c
  | 4 => .pinClaim c
  | 5 => .pinFree c
  | 6 => .chanClaim c
  | 7 => .chanFree c
  | 8 => .dvfs c
  | 9 => .stay c
  | 10 => .keyLoad c
  | 11 => .keyCheck c
  | 12 => .embRights c
  | 13 => .wdogSet c
  | 14 => .wdogKick c
  | 15 => .reset c
  | _ => .unknownService c n

/-- The size that a string instruction's code gives. -/
def sizeOf (code : BitVec 2) : Option ElemSize :=
  match code with
  | 0 => some .byte
  | 1 => some .half
  | 2 => some .word
  | _ => none

/-- A string instruction, by its operand8 (R55). -/
def stringDecode (c : CoreId) (operand : BitVec 8) (pre : RepPrefix) (m : Nat) : Option Instr :=
  if operand.extractLsb' 0 2 = 0#2 then
    match sizeOf (operand.extractLsb' 2 2), (operand.extractLsb' 4 4).toNat with
    | some size, 0 => some (.movs c size pre m)
    | some size, 1 => some (.cmps c size pre m)
    | some size, 2 => some (.scns c size pre m)
    | some size, 3 => some (.fils c size pre m)
    | _, _ => none
  else none

/-- The Z instructions of R58 but the prefixes. -/
def zDecode (c : CoreId) (op : Nat) (operand : BitVec 8) (m : Nat) : Option Instr :=
  let plain := fun i : Instr => if operand = 0#8 then some i else none
  match op with
  | 0x00 => plain (.nop c)
  | 0x01 => some (trapDecode c operand)
  | 0x05 => stringDecode c operand .bare m
  | 0x06 => plain (.sync c)
  | 0x07 => plain (.wait c)
  | 0x08 => plain (.tend c)
  | 0x09 => plain (.frame c)
  | 0x0A => plain (.eret c)
  | 0x0B => plain (.iret c)
  | _ => none

/-- The 32-bit instructions of R58, by op6, Wd, Wa and Wb, the first halfword and the second. -/
def longDecode (c : CoreId) (op : Nat) (d a b : Reg) (h imm : Half) : Option Instr :=
  match op with
  | 0x01 => if imm.extractLsb' 0 12 = 0#12 then some (.addRrr c d a b) else none
  | 0x02 => if imm.extractLsb' 0 12 = 0#12 then some (.subRrr c d a b) else none
  | 0x03 => if imm.extractLsb' 0 12 = 0#12 then some (.andRrr c d a b) else none
  | 0x04 => if imm.extractLsb' 0 12 = 0#12 then some (.orRrr c d a b) else none
  | 0x05 => if imm.extractLsb' 0 12 = 0#12 then some (.xorRrr c d a b) else none
  | 0x06 => if imm.extractLsb' 0 12 = 0#12 then some (.addm c d a b) else none
  | 0x10 => some (.addiRri c d a imm)
  | 0x11 => some (.andi c d a imm)
  | 0x12 => some (.ori c d a imm)
  | 0x13 => some (.xori c d a imm)
  | 0x14 => if a = 0 then some (.movw c d imm) else none
  | 0x15 => if a = 0 then some (.movh c d imm) else none
  | 0x16 => if d = 0 then some (.cmpw c a imm) else none
  | 0x17 =>
    if imm.extractLsb' 5 11 = 0#11 then some (.lsli c d a (imm.extractLsb' 0 5)) else none
  | 0x18 =>
    if imm.extractLsb' 5 11 = 0#11 then some (.lsri c d a (imm.extractLsb' 0 5)) else none
  | 0x19 =>
    if imm.extractLsb' 5 11 = 0#11 then some (.asri c d a (imm.extractLsb' 0 5)) else none
  | 0x1A =>
    if imm.extractLsb' 5 11 = 0#11 then some (.rori c d a (imm.extractLsb' 0 5)) else none
  | 0x20 => some (.ldbRri c d a imm)
  | 0x21 => some (.ldbs c d a imm)
  | 0x22 => some (.ldhRri c d a imm)
  | 0x23 => some (.ldhs c d a imm)
  | 0x24 => some (.ldwRri c d a imm)
  | 0x25 => some (.stbRri c d a imm)
  | 0x26 => some (.sthRri c d a imm)
  | 0x27 => some (.stwRri c d a imm)
  | 0x30 => some (.bccL c (condOf d) (h.extractLsb' 0 4 ++ imm))
  | 0x31 => some (.jmp c (h.extractLsb' 0 8 ++ imm))
  | 0x32 => some (.bl c (h.extractLsb' 0 8 ++ imm))
  | _ => none

/-- The operand8 of a string instruction. -/
def isString (h : Half) : Bool := decide (h.extractLsb' 8 8 = 5#3 ++ 0x05#5)

/-- The instruction that core `c` finds in the halfword at PC and the one after it; `none` for an undefined
encoding, and for a prefix that no string instruction follows (R52, R53, R58, R69). A string instruction
stands for at most `m` of its elements. -/
def decodeCode (c : CoreId) (m : Nat) (h imm : Half) : Option Instr :=
  match prefixOf h with
  | some pre => if isString imm then stringDecode c (imm.extractLsb' 0 8) pre m else none
  | none =>
    match h.extractLsb' 14 2 with
    | 0 => rrDecode c (h.extractLsb' 8 6).toNat (h.extractLsb' 4 4).toFin (h.extractLsb' 0 4).toFin
    | 1 => some (i8Decode c (h.extractLsb' 12 2) (h.extractLsb' 8 4).toFin (h.extractLsb' 0 8))
    | 2 =>
      if h.extractLsb' 13 1 = 0#1 then
        some (.bcc c (condOf (h.extractLsb' 9 4).toFin) (h.extractLsb' 0 9))
      else zDecode c (h.extractLsb' 8 5).toNat (h.extractLsb' 0 8) m
    | _ =>
      longDecode c (h.extractLsb' 8 6).toNat (h.extractLsb' 4 4).toFin (h.extractLsb' 0 4).toFin
        (imm.extractLsb' 12 4).toFin h imm

/-- BADD to CVDB, which Ridgepole's cores lack (R58). -/
def decimalOnly : Instr → Bool
  | .badd _ _ _ => true
  | .badc _ _ _ => true
  | .bsub _ _ _ => true
  | .bsbc _ _ _ => true
  | .dadj _ _ => true
  | .cvbd _ _ _ => true
  | .cvdb _ _ _ => true
  | _ => false

/-- What Ridgepole's cores find: for them BADD to CVDB are undefined (R58). -/
def decodeRidgepole (m : Nat) (h imm : Half) : Option Instr :=
  (decodeCode 0 m h imm).filter fun i => !decimalOnly i

/-! ## Encoding -/

/-- The halfwords of an instruction, written from the tables of R55 and R58; `none` for a command that is no
instruction. -/
def encode (i : Instr) : Option (List Half) :=
  match i with
  | .mov _ d s => some [rrCode 0x01 d s]
  | .add _ d s => some [rrCode 0x02 d s]
  | .adc _ d s => some [rrCode 0x03 d s]
  | .sub _ d s => some [rrCode 0x04 d s]
  | .sbc _ d s => some [rrCode 0x05 d s]
  | .cmp _ d s => some [rrCode 0x06 d s]
  | .neg _ d s => some [rrCode 0x07 d s]
  | .and _ d s => some [rrCode 0x08 d s]
  | .or _ d s => some [rrCode 0x09 d s]
  | .xor _ d s => some [rrCode 0x0A d s]
  | .tst _ d s => some [rrCode 0x0B d s]
  | .not _ d s => some [rrCode 0x0C d s]
  | .lsl _ d s => some [rrCode 0x0D d s]
  | .lsr _ d s => some [rrCode 0x0E d s]
  | .asr _ d s => some [rrCode 0x0F d s]
  | .ror _ d s => some [rrCode 0x10 d s]
  | .sxb _ d s => some [rrCode 0x11 d s]
  | .sxh _ d s => some [rrCode 0x12 d s]
  | .zxh _ d s => some [rrCode 0x13 d s]
  | .mulu _ d s => some [rrCode 0x14 d s]
  | .muls _ d s => some [rrCode 0x15 d s]
  | .divu _ d s => some [rrCode 0x16 d s]
  | .divs _ d s => some [rrCode 0x17 d s]
  | .badd _ d s => some [rrCode 0x18 d s]
  | .badc _ d s => some [rrCode 0x19 d s]
  | .bsub _ d s => some [rrCode 0x1A d s]
  | .bsbc _ d s => some [rrCode 0x1B d s]
  | .dadj _ d => some [rrCode 0x1C d 0]
  | .cvbd _ d s => some [rrCode 0x1D d s]
  | .cvdb _ d s => some [rrCode 0x1E d s]
  | .ldb _ d s => some [rrCode 0x20 d s]
  | .ldh _ d s => some [rrCode 0x21 d s]
  | .ldw _ d s => some [rrCode 0x22 d s]
  | .stb _ d s => some [rrCode 0x23 d s]
  | .sth _ d s => some [rrCode 0x24 d s]
  | .stw _ d s => some [rrCode 0x25 d s]
  | .xchg _ d s => some [rrCode 0x26 d s]
  | .push _ s => some [rrCode 0x27 0 s]
  | .pop _ d => some [rrCode 0x28 d 0]
  | .jr _ s => some [rrCode 0x2C 0 s]
  | .jlr _ s => some [rrCode 0x2D 0 s]
  | .mfs _ d s => some [rrCode 0x30 d s]
  | .mts _ d s => some [rrCode 0x31 d s]
  | .post _ d s => some [rrCode 0x32 d s]
  | .movi _ d imm => some [i8Code 0 d imm]
  | .addi _ d imm => some [i8Code 1 d imm]
  | .cmpi _ d imm => some [i8Code 2 d imm]
  | .ldws _ d imm => some [i8Code 3 d imm]
  | .bcc _ cond disp => some [4#3 ++ (BitVec.ofFin (w := 4) (condCode cond) ++ disp)]
  | .nop _ => some [zCode 0x00 0#8]
  | .movs _ size pre _ => some (prefixCodes pre ++ [stringCode 0 size])
  | .cmps _ size pre _ => some (prefixCodes pre ++ [stringCode 1 size])
  | .scns _ size pre _ => some (prefixCodes pre ++ [stringCode 2 size])
  | .fils _ size pre _ => some (prefixCodes pre ++ [stringCode 3 size])
  | .sync _ => some [zCode 0x06 0#8]
  | .wait _ => some [zCode 0x07 0#8]
  | .tend _ => some [zCode 0x08 0#8]
  | .frame _ => some [zCode 0x09 0#8]
  | .eret _ => some [zCode 0x0A 0#8]
  | .iret _ => some [zCode 0x0B 0#8]
  | .addRrr _ d a b => some (rriCode 0x01 d a (BitVec.ofFin (w := 4) b ++ 0#12))
  | .subRrr _ d a b => some (rriCode 0x02 d a (BitVec.ofFin (w := 4) b ++ 0#12))
  | .andRrr _ d a b => some (rriCode 0x03 d a (BitVec.ofFin (w := 4) b ++ 0#12))
  | .orRrr _ d a b => some (rriCode 0x04 d a (BitVec.ofFin (w := 4) b ++ 0#12))
  | .xorRrr _ d a b => some (rriCode 0x05 d a (BitVec.ofFin (w := 4) b ++ 0#12))
  | .addm _ d a b => some (rriCode 0x06 d a (BitVec.ofFin (w := 4) b ++ 0#12))
  | .addiRri _ d a imm => some (rriCode 0x10 d a imm)
  | .andi _ d a imm => some (rriCode 0x11 d a imm)
  | .ori _ d a imm => some (rriCode 0x12 d a imm)
  | .xori _ d a imm => some (rriCode 0x13 d a imm)
  | .movw _ d imm => some (rriCode 0x14 d 0 imm)
  | .movh _ d imm => some (rriCode 0x15 d 0 imm)
  | .cmpw _ a imm => some (rriCode 0x16 0 a imm)
  | .lsli _ d a n => some (rriCode 0x17 d a (0#11 ++ n))
  | .lsri _ d a n => some (rriCode 0x18 d a (0#11 ++ n))
  | .asri _ d a n => some (rriCode 0x19 d a (0#11 ++ n))
  | .rori _ d a n => some (rriCode 0x1A d a (0#11 ++ n))
  | .ldbRri _ d a imm => some (rriCode 0x20 d a imm)
  | .ldbs _ d a imm => some (rriCode 0x21 d a imm)
  | .ldhRri _ d a imm => some (rriCode 0x22 d a imm)
  | .ldhs _ d a imm => some (rriCode 0x23 d a imm)
  | .ldwRri _ d a imm => some (rriCode 0x24 d a imm)
  | .stbRri _ d a imm => some (rriCode 0x25 d a imm)
  | .sthRri _ d a imm => some (rriCode 0x26 d a imm)
  | .stwRri _ d a imm => some (rriCode 0x27 d a imm)
  | .bccL _ cond disp =>
    some (rriCode 0x30 (condCode cond) (disp.extractLsb' 16 4).toFin (disp.extractLsb' 0 16))
  | .jmp _ disp => some (jCode 0x31 disp)
  | .bl _ disp => some (jCode 0x32 disp)
  | .info _ => some [zCode 0x01 0#8]
  | .imgConfirm _ => some [zCode 0x01 1#8]
  | .imgSwitch _ => some [zCode 0x01 2#8]
  | .rollbackCommit _ => some [zCode 0x01 3#8]
  | .pinClaim _ => some [zCode 0x01 4#8]
  | .pinFree _ => some [zCode 0x01 5#8]
  | .chanClaim _ => some [zCode 0x01 6#8]
  | .chanFree _ => some [zCode 0x01 7#8]
  | .dvfs _ => some [zCode 0x01 8#8]
  | .stay _ => some [zCode 0x01 9#8]
  | .keyLoad _ => some [zCode 0x01 10#8]
  | .keyCheck _ => some [zCode 0x01 11#8]
  | .embRights _ => some [zCode 0x01 12#8]
  | .wdogSet _ => some [zCode 0x01 13#8]
  | .wdogKick _ => some [zCode 0x01 14#8]
  | .reset _ => some [zCode 0x01 15#8]
  | .unknownService _ n => if n.toNat < 16 then none else some [zCode 0x01 n]
  | _ => none

end Sys2Proof.Machine
end

