-- ==== Sys2Proof/Machine/System.lean ====
section
/-! DEFINITION. Special registers (R18, R19, R71), POST, WAIT, TEND, FRAME and SYNC (R34-R36, R48, R51), the
returns (R72), interrupt acceptance (R27, R28), undefined encodings (R53) and the TRAP services (R37, R38,
R173). -/

namespace Sys2Proof.Machine

open Sys2Proof

/-! ## Special registers -/

/-- CORE: the number of the core, TWIN and WAYMARK (R18). -/
def coreWord (s : State) (c : CoreId) : Word :=
  field 0 c.val ||| flagAt 2 s.twin ||| flagAt 3 s.waymark

/-- What an MFS of special register `n` returns (R18, R19, R51, R71). -/
def State.special (s : State) (c : CoreId) (n : SReg) : Word :=
  let k := s.cores[c]
  match n.val with
  | 0 => k.flg
  | 1 => k.pl
  | 2 => k.ph
  | 3 => k.qt
  | 4 => k.rm
  | 5 => k.epc
  | 6 => k.eflg
  | 7 => k.ecause
  | 8 => k.task
  | 9 => coreWord s c
  | 10 => if s.waymark then s.itg.frm else 0#32
  | 11 => if s.waymark then 0#32 else k.cyc.extractLsb' 0 32
  | 12 => if s.waymark then 0#32 else k.cycShadow
  | _ => 0#32

/-- An MFS of CYC_LO copies the high half into the shadow (R19). -/
def Core.readSpecial (k : Core) (n : SReg) : Core :=
  if n = 11 then { k with cycShadow := k.cyc.extractLsb' 32 32 } else k

/-- The writable bits of ECAUSE (R18). -/
def ecauseMask : Word := 0x1FFF#32

/-- An MTS to special register `n`, 0-7; a write of a result register cancels what is in flight (R40, R71).
(DEDUCED, unsafe: assumption 25.) -/
def Core.writeSpecial (k : Core) (n : SReg) (v : Word) : Core :=
  match n.val with
  | 0 => { k with flg := v &&& flgMask }
  | 1 => { k with pl := v, mul := none }
  | 2 => { k with ph := v, mul := none }
  | 3 => { k with qt := v, div := none }
  | 4 => { k with rm := v, div := none }
  | 5 => { k with epc := v }
  | 6 => { k with eflg := v }
  | 7 => { k with ecause := v &&& ecauseMask }
  | _ => k

/-- Counters 13 and 15 of core `c`: what is in flight is cancelled (R384). -/
def State.countCancel (s : State) (c : CoreId) (mul div : Bool) : State :=
  let k := s.cores[c]
  (s.countCore c 13 (mul && k.mul.isSome).toNat).countCore c 15 (div && k.div.isSome).toNat

/-- MTS (R71). -/
def State.mtsOp (s : State) (c : CoreId) (n : SReg) (r : Reg) : State :=
  s.instr c 1 fun s =>
    if 8 ≤ n.val then illegal s
    else
      let v := s.cores[c].r r
      let t := s.countCancel c (decide (n = 1 ∨ n = 2)) (decide (n = 3 ∨ n = 4))
      ⟨t.onCore c fun k => k.writeSpecial n v, none, [], s.nextPc c 1, 1⟩

/-- MFS (R71). -/
def State.mfsOp (s : State) (c : CoreId) (d : Reg) (n : SReg) : State :=
  s.instr c 1 fun s =>
    ⟨s.onCore c fun k => (k.readSpecial n).setR d (s.special c n), none, [], s.nextPc c 1, 1⟩

/-! ## Tasks -/

/-- The core is in thread code, outside any task. -/
def State.inThread (s : State) (c : CoreId) : Bool := bit s.cores[c].task 31

/-- The Z flag of a POST (R35). -/
def State.postZ (s : State) (c : CoreId) (t : Nat) : Bool :=
  if s.waymark then
    !s.itg.ready.any fun r => decide (r.task = t) && decide (r.order = .post (s.writerOf c))
  else
    match (s.tskAt t).state with
    | .idle => true
    | .running => true
    | _ => false

/-- POST (R35): the readiness is merged at once, or under Waymark collected until the frame start. -/
def State.postOp (s : State) (c : CoreId) (d r : Reg) : State :=
  s.instr c 1 fun s =>
    let k := s.cores[c]
    let t := bits (k.r d) 0 6
    if (s.tskAt t).state = .free then ⟨s, some (exnAccess false), [], 0#32, 0⟩
    else
      let z := s.postZ c t
      let u := s.makeReady t ⟨4, k.r r⟩ (.post (s.writerOf c))
      ⟨(u.onCore c fun k => k.setF (setBit k.flg 0 z)).countCore c 27 1, none, [], s.nextPc c 1, 1⟩

/-- An acceptable interrupt is pending at core `c` (R36). -/
def State.interruptAt (s : State) (c : CoreId) : Bool :=
  !s.waymark && (vget s.irq c IrqBank.reset).acceptable.isSome

/-- A core halts in WAIT or FRAME once nothing is in flight (R36, R51, R61). -/
def State.haltIn (s : State) (c : CoreId) (p : Phase) : Out :=
  let n := max 1 s.cores[c].mathWait
  ⟨(s.onCore c fun k => { k with phase := p }).discardQueue, none, [], s.nextPc c 1, n⟩

/-- WAIT (R36). -/
def State.waitOp (s : State) (c : CoreId) : State :=
  s.instr c 1 fun s =>
    if !s.inThread c then illegal s
    else if s.interruptAt c then ⟨s, none, [], s.nextPc c 1, 1⟩
    else s.haltIn c .wait

/-- FRAME (R51). -/
def State.frameOp (s : State) (c : CoreId) : State :=
  s.instr c 1 fun s =>
    if !s.inThread c || !s.waymark then illegal s else s.haltIn c .frame

/-- TEND (R34). (DESIGN CHOICE, unsafe: assumption 27.) -/
def State.tendOp (s : State) (c : CoreId) : State :=
  s.instr c 1 fun s =>
    if s.inThread c || decide (0 < (vget s.irq c IrqBank.reset).running) then illegal s
    else
      let t := ((s.countCancel c true true).countCore c 26 1).endTask c
      ⟨t, none, [], t.cores[c].pc, 6⟩

/-! ## Returns -/

/-- ERET (R24, R72). -/
def State.eretOp (s : State) (c : CoreId) : State :=
  s.instr c 1 fun s =>
    let k := s.cores[c]
    if bit k.epc 0 then ⟨s, some exnOdd, [], 0#32, 0⟩
    else ⟨s.onCore c fun k => k.setF (k.eflg &&& flgMask), none, [], k.epc, 2⟩

/-- The exception of an IRET whose two reads are `f`, of the flags, and `a`, of the address: the highest of
what the reads and an odd address raise (R23, R72). -/
def iretFault (f a : Got) : Option Exn :=
  worst (worst f.exn a.exn) (if a.exn = none ∧ a.v % 2 = 1 then some exnOdd else none)

/-- IRET (R29, R72). -/
def State.iretOp (s : State) (c : CoreId) : State :=
  s.instr c 1 fun s =>
    let sp := s.cores[c].r 15
    let f := s.load c sp.toNat 4
    let a := f.s.load c (sp + 4#32).toNat 4
    match iretFault f a with
    | some x => ⟨a.s, some x, f.unc ++ a.unc, 0#32, 0⟩
    | none =>
      ⟨a.s.onCore c fun k => (k.setF (BitVec.ofNat 32 f.v &&& flgMask)).setR 15 (sp + 8#32), none,
        f.unc ++ a.unc, BitVec.ofNat 32 a.v, 3⟩

/-! ## TRAP -/

/-- TRAP #n: the core stalls, and Ridgepole takes the request at once when it serves no other (R37, R38, R173). -/
def State.trapOp (s : State) (c : CoreId) (n : Nat) : State :=
  if s.issues c then
    let pc := s.cores[c].pc
    let f := s.fetches c pc.toNat 1
    match f.exn with
    | some x => f.s.takeException c x pc f.unc
    | none =>
      let t := (f.s.complete c (pc + 2#32) 1).onCore c fun k =>
        { k with phase := .trap, asked := some n, trap := none, repOpen := false }
      (((t.countCore c 28 1).countSys 35 1).fireSource 4 c).takeNext
  else s

/-- The service that core `c` is served with may end: DVFS waits until the point requested is in force (R177). -/
def State.mayAnswer (s : State) (n : Nat) (r : TrapAnswer) : Bool :=
  decide (n ≠ 8 ∨ r.w0 ≠ 0#32) || !s.oppBusy

/-- What a service does at its end: DVFS answers with the point in force, fuses are blown, and a key is whole (R170,
R171, R173, R177). -/
def State.endService (s : State) (n : Nat) (r : TrapAnswer) : Served :=
  if n = 3 then s.endRollback r
  else if n = 8 ∧ r.w0 = 0#32 then ⟨s, { r with w1 := BitVec.ofNat 32 s.pwr.vnow }⟩
  else if n = 10 then ⟨s.onRp fun k => { k with keyWrite := none }, r⟩
  else ⟨s, r⟩

/-- The answer reaches the core: W0 to W3 are written and it goes on (R37). -/
def Core.answer (k : Core) (r : TrapAnswer) : Core :=
  { (((k.setR 0 r.w0).setR 1 r.w1).setR 2 r.w2).setR 3 r.w3 with phase := .run, trap := none }

/-- Ridgepole answers the TRAP that it serves and takes the next (R37, R173). -/
def State.trapAnswer (s : State) (c : CoreId) : State :=
  if s.canvasUp then
    let s := s.takeNext
    match s.rp.serving, s.cores[c].trap with
    | some (d, n), some r =>
      if d = c ∧ s.cores[c].phase = .trap ∧ s.mayAnswer n r = true then
        let v := s.endService n r
        ((v.s.onCore c fun k => k.answer v.r).dropService c).takeNext
      else s
    | _, _ => s
  else s

/-- MFS Wd, sn (R71). -/
def execMfs (c : CoreId) (d : Reg) (sn : SReg) (t : State) : Host.Outcome State Fault Refusal :=
  .next (finish t (t.mfsOp c d sn))

/-- MTS sn, Ws (R71). -/
def execMts (c : CoreId) (sn : SReg) (s : Reg) (t : State) : Host.Outcome State Fault Refusal :=
  .next (finish t (t.mtsOp c sn s))

/-- POST Wd, Ws (R35). -/
def execPost (c : CoreId) (d s : Reg) (t : State) : Host.Outcome State Fault Refusal :=
  .next (finish t (t.postOp c d s))

/-- NOP (R72). -/
def execNop (c : CoreId) (t : State) : Host.Outcome State Fault Refusal :=
  .next (finish t (t.regs c 1 1 fun k => k))

/-- SYNC (R48): every access of an earlier instruction is complete in this model, so only the PC moves on. -/
def execSync (c : CoreId) (t : State) : Host.Outcome State Fault Refusal :=
  .next (finish t (t.regs c 1 1 fun k => k))

/-- WAIT (R36). -/
def execWait (c : CoreId) (t : State) : Host.Outcome State Fault Refusal :=
  .next (finish t (t.waitOp c))

/-- TEND (R34). -/
def execTend (c : CoreId) (t : State) : Host.Outcome State Fault Refusal :=
  .next (finish t (t.tendOp c))

/-- FRAME (R51). -/
def execFrame (c : CoreId) (t : State) : Host.Outcome State Fault Refusal :=
  .next (finish t (t.frameOp c))

/-- ERET (R72). -/
def execEret (c : CoreId) (t : State) : Host.Outcome State Fault Refusal :=
  .next (finish t (t.eretOp c))

/-- IRET (R72). -/
def execIret (c : CoreId) (t : State) : Host.Outcome State Fault Refusal :=
  .next (finish t (t.iretOp c))

/-- The halfword of code at a window address as core `c` would read it; zero outside every object. -/
def State.halfAt (s : State) (a : Nat) : Half :=
  match s.reach a with
  | .obj _ p => BitVec.ofNat 16 (s.mem.num p 2)
  | _ => 0#16

/-- The instruction that memory holds at the PC of core `c`; `none` for an undefined encoding (R52, R53, R69). A
string instruction stands for at most `m` of its elements. -/
def State.codeAt (s : State) (c : CoreId) (m : Nat) : Option Instr :=
  let pc := s.cores[c].pc.toNat
  decodeCode c m (s.halfAt pc) (s.halfAt (pc + 2))

/-- The halfwords that core `c` fetches at its PC (R52, R69). -/
def State.codeHalves (s : State) (c : CoreId) : Nat := codeLength (s.halfAt s.cores[c].pc.toNat)

/-- A fetch fault on a halfword that core `c` fetches at its PC (R22, R54). -/
def State.fetchStops (s : State) (c : CoreId) : Bool :=
  (s.fetches c s.cores[c].pc.toNat (s.codeHalves c)).exn.any fun x => decide (x.code = 2)

/-- An undefined encoding at the PC raises the illegal-instruction exception, after a fetch fault on either
of its halfwords (R23, R53, R54, R69); where memory holds a defined one nothing happens. (DEDUCED, safe:
assumption 26.) -/
def execUndefinedEncoding (c : CoreId) (t : State) : Host.Outcome State Fault Refusal :=
  .next (finish t (if (t.codeAt c 0).isNone || t.fetchStops c then t.instr c (t.codeHalves c) illegal else t))

/-- An acceptable interrupt is accepted at a boundary, before any further instruction (R27, R28, R30). (DEDUCED,
unsafe: assumption 85.) -/
def execInterruptAccept (c : CoreId) (t : State) : Host.Outcome State Fault Refusal :=
  .next (finish t (if t.interruptible c then
      match (vget t.irq c IrqBank.reset).acceptable with
      | some src => t.acceptInterrupt c src
      | none => t
    else t))

/-- TRAP #0, INFO (R173). -/
def execInfo (c : CoreId) (t : State) : Host.Outcome State Fault Refusal :=
  .next (finish t (t.trapOp c 0))

/-- TRAP #1, IMG_CONFIRM (R173). -/
def execImgConfirm (c : CoreId) (t : State) : Host.Outcome State Fault Refusal :=
  .next (finish t (t.trapOp c 1))

/-- TRAP #2, IMG_SWITCH (R173). -/
def execImgSwitch (c : CoreId) (t : State) : Host.Outcome State Fault Refusal :=
  .next (finish t (t.trapOp c 2))

/-- TRAP #3, ROLLBACK_COMMIT (R170, R173). -/
def execRollbackCommit (c : CoreId) (t : State) : Host.Outcome State Fault Refusal :=
  .next (finish t (t.trapOp c 3))

/-- TRAP #4, PIN_CLAIM (R395). -/
def execPinClaim (c : CoreId) (t : State) : Host.Outcome State Fault Refusal :=
  .next (finish t (t.trapOp c 4))

/-- TRAP #5, PIN_FREE (R396). -/
def execPinFree (c : CoreId) (t : State) : Host.Outcome State Fault Refusal :=
  .next (finish t (t.trapOp c 5))

/-- TRAP #6, CHAN_CLAIM (R174). -/
def execChanClaim (c : CoreId) (t : State) : Host.Outcome State Fault Refusal :=
  .next (finish t (t.trapOp c 6))

/-- TRAP #7, CHAN_FREE (R204). -/
def execChanFree (c : CoreId) (t : State) : Host.Outcome State Fault Refusal :=
  .next (finish t (t.trapOp c 7))

/-- TRAP #8, DVFS (R177). -/
def execDvfs (c : CoreId) (t : State) : Host.Outcome State Fault Refusal :=
  .next (finish t (t.trapOp c 8))

/-- TRAP #9, STAY (R176). -/
def execStay (c : CoreId) (t : State) : Host.Outcome State Fault Refusal :=
  .next (finish t (t.trapOp c 9))

/-- TRAP #10, KEY_LOAD (R171). -/
def execKeyLoad (c : CoreId) (t : State) : Host.Outcome State Fault Refusal :=
  .next (finish t (t.trapOp c 10))

/-- TRAP #11, KEY_CHECK (R171). -/
def execKeyCheck (c : CoreId) (t : State) : Host.Outcome State Fault Refusal :=
  .next (finish t (t.trapOp c 11))

/-- TRAP #12, EMB_RIGHTS (R96). -/
def execEmbRights (c : CoreId) (t : State) : Host.Outcome State Fault Refusal :=
  .next (finish t (t.trapOp c 12))

/-- TRAP #13, WDOG_SET (R178). -/
def execWdogSet (c : CoreId) (t : State) : Host.Outcome State Fault Refusal :=
  .next (finish t (t.trapOp c 13))

/-- TRAP #14, WDOG_KICK (R178): the period begins again. (DESIGN CHOICE, safe: assumption 59.) -/
def execWdogKick (c : CoreId) (t : State) : Host.Outcome State Fault Refusal :=
  .next (finish t (t.trapOp c 14))

/-- TRAP #15, RESET: the Strike begins, and the reset follows it (R173). -/
def execReset (c : CoreId) (t : State) : Host.Outcome State Fault Refusal :=
  .next (finish t (t.trapOp c 15))

/-- TRAP #n with n above 15 (R37). (DEDUCED, safe: assumption 62.) -/
def execUnknownService (c : CoreId) (n : BitVec 8) (t : State) : Host.Outcome State Fault Refusal :=
  .next (finish t (if n.toNat < 16 then t else t.trapOp c n.toNat))

/-- Ridgepole answers a TRAP (R37). -/
def execTrapReturn (c : CoreId) (t : State) : Host.Outcome State Fault Refusal :=
  .next (finish t (t.trapAnswer c))

end Sys2Proof.Machine
end

