-- ==== Sys2Proof/Machine/Boundary.lean ====
section
/-! DEFINITION. The Waymark frame boundary (R153-R160, R162). -/

namespace Sys2Proof.Machine

open Sys2Proof

/-! ## Overruns (R159, R160) -/

/-- UNIT of an overrun: the task, or 64 and the core of thread code (R150). -/
def Writer.unit : Writer → Nat
  | .task n => n
  | .thread c => 64 + c

/-- ITG_OVR_TASK after an overrun of a writer (R160, R163). -/
def overrunWord (old : Word) (w : Writer) : Word :=
  let n := field 16 (satAdd 0xFFFF (bits old 16 16) 1)
  match w with
  | .task t => field 0 t ||| n
  | .thread c => flagAt 6 true ||| field 7 c ||| n

/-- The PC of the core that a writer runs on, as it stood in `old` (R150). -/
def State.writerPc (old : State) : Writer → Word
  | .task n => ((old.cores.toList.find? fun k => !bit k.task 31 && decide (bits k.task 0 6 = n)).map (·.pc)).getD 0#32
  | .thread c => (old.cores.toList[c]?.map (·.pc)).getD 0#32

/-- An overrun is shown, counted, and recorded the first time, with the PC of the core concerned as it stood at the
boundary, in `old` (R150, R159, R160). -/
def State.overrun (old s : State) (w : Writer) : State :=
  let first := !bit s.itg.ovrDone w.unit
  let s := s.onItg fun g =>
    { g with
      wstat := setBit g.wstat 0 true
      ovrTask := overrunWord g.ovrTask w
      ovrFrm := g.frm
      ovrDone := setBit g.ovrDone w.unit true }
  let s := s.countSys 32 1
  if first then
    s.recordFault
      { cls := 0x0F, unit := w.unit, detail := BitVec.ofNat 64 (bits s.itg.frameNow 0 16), pc0 := old.writerPc w } 0
  else s

/-- The cores whose task has not executed TEND. -/
def State.lateCores (s : State) : List CoreId :=
  allCores.filter fun (c : CoreId) =>
    !bit s.cores[c].task 31 && decide (s.cores[c].phase ≠ .off)

/-- The late task of core `c` is ended as if by TEND (R51, R154); a double fault leaves the core stopped. -/
def State.endLate (s : State) (c : CoreId) : State :=
  let s := (s.countCancel c true true).endTask c
  ((s.onCore c fun k =>
    { k with phase := if k.phase = .stopped then .stopped else .run, asked := none, trap := none }).dropService
    c).delay c 6

/-- Writers in the order of R158: tasks by number, then the threads of C0-C3. -/
def writersInOrder : List Writer :=
  (List.range 64).map Writer.task ++ (List.range 4).map Writer.thread

/-- The writers that overrun the frame: tasks still running, and those that filled their list (R159). -/
def State.overrunners (s : State) : List Writer :=
  let late := s.lateCores.map fun c => Writer.task (bits s.cores[c].task 0 6)
  writersInOrder.filter fun w => decide (w ∈ late) || decide (w ∈ s.itg.full)

/-! ## Commit (R157, R158) -/

/-- Characters that the frame has read from the snapshot leave the queues (R155). -/
def State.popRead (s : State) : State :=
  s.onPer fun p =>
    { p with ua := p.ua.map fun u => { u with rxq := u.rxq.drop u.pops, pops := 0 } }

/-- The RC registers that the frame has read are cleared (R157). -/
def State.clearReads (s : State) : State :=
  s.itg.rcRead.foldl (fun s r => { s with per := s.per.clearRead r }) s

/-- The deferred writes of the frame take effect (R158). -/
def State.commit (s : State) (bad : List Writer) : State :=
  (writersInOrder.filter fun w => !decide (w ∈ bad)).foldl
    (fun s w =>
      (s.itg.defer.filter fun d => decide (d.writer = w)).foldl
        (fun s d => s.periphWrite (.core d.core) d.addr d.value) s) s

/-! ## Snapshot (R155, R157) -/

/-- Events in snapshot order: by time, ties by producer (R155). -/
def eventBefore (a b : WayEvent) : Bool :=
  decide (a.time.toNat < b.time.toNat) || (decide (a.time = b.time) && decide (a.prod ≤ b.prod))

/-- The collected events become the snapshot's (R155). -/
def Itg.takeEvents (g : Itg) : Itg :=
  { g with
    wev := (sortBy eventBefore g.coll).take 256
    coll := []
    wstat := if 256 < g.coll.length then setBit g.wstat 1 true else g.wstat }

/-- The registers as Canvas will read them in the frame: counts and shadows that a read would copy are
captured with them (R157, R307, R390). -/
def Periph.capture (p : Periph) (inp : BitVec 96) : Periph :=
  let q := { (p.timLatch 0).timLatch 2 with pin := { p.pin with inp := inp } }
  { q with cnt := { q.cnt with c := q.cnt.c.map fun k =>
      { k with hi := Vector.ofFn fun b : Fin 6 =>
          if b.val < 4 then k.count.extractLsb' 32 16 else k.hi[b] } } }

/-! ## Release (R51, R156) -/

/-- Place of a readiness in snapshot order: events, messages, POSTs of tasks, POSTs of threads (R156). -/
def ReadyOrder.rank : ReadyOrder → Nat
  | .event _ _ => 0
  | .message => 1
  | .post (.task n) => 2 + n
  | .post (.thread c) => 66 + c

def readyBefore (a b : WayReady) : Bool :=
  match a.order, b.order with
  | .event t p, .event u q =>
    decide (t.toNat < u.toNat) || (decide (t = u) && decide (p ≤ q))
  | x, y => decide (x.rank ≤ y.rank)

/-- A POST asked for the readiness (R35). -/
def ReadyOrder.posted : ReadyOrder → Bool
  | .post _ => true
  | _ => false

/-- A collected readiness is released; the first of a task stands, and one for a task that is free meanwhile
sets NOTSK unless a POST asked for it (R33, R128, R156). -/
def State.releaseReady (s : State) (r : WayReady) : State :=
  if (s.tskAt r.task).state = .free then
    (if r.order.posted then s else s.onWdn fun w => { w with stat := setBit w.stat 7 true })
  else s.onTsk r.task fun t => t.merge r.readiness

/-- Every task that is ready is released at the frame start (R51). -/
def Warden.releaseAll (w : Warden) : Warden :=
  { w with tsk := w.tsk.map fun t => if t.state = .ready then { t with released := true } else t }

/-- The readiness of an overrun writer's POSTs is discarded (R159, R160). -/
def keptReady (bad : List Writer) (r : WayReady) : Bool :=
  match r.order with
  | .post w => !decide (w ∈ bad)
  | _ => true

/-- A core halted in FRAME or WAIT goes on (R51, R154). -/
def Core.resume (k : Core) : Core :=
  if k.phase = .frame ∨ k.phase = .wait then { k with phase := .run } else k

/-! ## The boundary (R154) -/

/-- Steps 2 and 3: late tasks end, and the deferred writes of the others commit. -/
def State.closeFrame (s : State) (bad : List Writer) : State :=
  let t := s
  let s := s.lateCores.foldl (fun (s : State) (c : CoreId) => s.endLate c) s
  let s := bad.foldl t.overrun s
  (s.clearReads.popRead).commit bad

/-- Step 4: the inputs are captured, and the new frame begins. -/
def State.startFrame (s : State) (inp : BitVec 96) : State :=
  let s := (s.onItg Itg.takeEvents).deliverAll
  let s := s.onItg fun g => { g with frm := g.frm + 1#32, frameNow := g.frame }
  { s with snap := s.live.capture inp, cores := s.cores.map Core.resume }

/-- Step 5: the collected readiness is released in snapshot order. -/
def State.releaseFrame (s : State) (bad : List Writer) : State :=
  let ready := sortBy readyBefore (s.itg.ready.filter (keptReady bad))
  (ready.foldl State.releaseReady s).onWdn Warden.releaseAll

/-- The snapshot holds an event, a character or a message, or a task is released: the Bivouac idle timer
clears (R162). -/
def State.frameBusy (s : State) : Bool :=
  !s.itg.wev.isEmpty || (s.snap.ua.toList.any fun u => !u.rxq.isEmpty) ||
    s.itg.mail ||
    s.wdn.tsk.toList.any fun t => decide (t.state = .ready) && t.released

/-- A frame boundary under Waymark (R154). -/
def State.frameBoundary (s : State) : State :=
  if s.canvasUp && s.waymark then
    let bad := s.overrunners
    let t := ((s.closeFrame bad).startFrame s.per.pin.inp).releaseFrame bad
    let t := if t.frameBusy then t.clearIdle else t
    let t := t.onItg fun g => { g with defer := [], full := [], ready := [], rcRead := [], mail := false }
    (t.countSys 31 1).fire 187
  else s

/-- FRAME_BOUNDARY (R154). -/
def execFrameBoundary (t : State) : Host.Outcome State Fault Refusal :=
  .next (finish t t.frameBoundary)

end Sys2Proof.Machine
end

