-- ==== Sys2Proof/Machine/Branch.lean ====
section
/-! DEFINITION. Branches and jumps (R56, R57, R67, R68). -/

namespace Sys2Proof.Machine

open Sys2Proof

/-- The target of a relative branch: a displacement counts halfwords from the branch itself (R56). -/
def target {n : Nat} (pc : Word) (disp : BitVec n) : Word := pc + 2#32 * disp.signExtend 32

/-- A conditional branch of `halves` halfwords (R67). -/
def State.branch {n : Nat} (s : State) (c : CoreId) (halves : Nat) (cond : Cond) (disp : BitVec n) : State :=
  s.instr c halves fun s =>
    let k := s.cores[c]
    if condHolds cond k.flg then ⟨s.countCore c 6 1, none, [], target k.pc disp, 2⟩
    else ⟨s, none, [], s.nextPc c halves, 1⟩

/-- A jump to a relative target; with `link` the return address goes to W14 (R67). -/
def State.jump (s : State) (c : CoreId) (link : Bool) (disp : BitVec 24) : State :=
  s.instr c 2 fun s =>
    let t := target s.cores[c].pc disp
    let ret := s.nextPc c 2
    let s := if link then s.onCore c fun k => k.setR 14 ret else s
    ⟨s.countCore c 6 1, none, [], t, 2⟩

/-- A jump to the address in Ws; an odd one raises an alignment fault and leaves W14 (R67, R68). -/
def State.jumpReg (s : State) (c : CoreId) (link : Bool) (r : Reg) : State :=
  s.instr c 1 fun s =>
    let t := s.cores[c].r r
    let ret := s.nextPc c 1
    if bit t 0 then ⟨s, some exnOdd, [], t, 0⟩
    else
      let s := if link then s.onCore c fun k => k.setR 14 ret else s
      ⟨s.countCore c 6 1, none, [], t, 2⟩

/-- `B<cc>` disp9 (R67). -/
def execBcc (c : CoreId) (cond : Cond) (disp : BitVec 9) (t : State) :
    Host.Outcome State Fault Refusal :=
  .next (finish t (t.branch c 1 cond disp))

/-- `B<cc>.L` disp20 (R67). -/
def execBccL (c : CoreId) (cond : Cond) (disp : BitVec 20) (t : State) :
    Host.Outcome State Fault Refusal :=
  .next (finish t (t.branch c 2 cond disp))

/-- JMP disp24 (R67). -/
def execJmp (c : CoreId) (disp : BitVec 24) (t : State) : Host.Outcome State Fault Refusal :=
  .next (finish t (t.jump c false disp))

/-- BL disp24 (R67). -/
def execBl (c : CoreId) (disp : BitVec 24) (t : State) : Host.Outcome State Fault Refusal :=
  .next (finish t (t.jump c true disp))

/-- JR Ws (R67). -/
def execJr (c : CoreId) (s : Reg) (t : State) : Host.Outcome State Fault Refusal :=
  .next (finish t (t.jumpReg c false s))

/-- JLR Ws (R67). -/
def execJlr (c : CoreId) (s : Reg) (t : State) : Host.Outcome State Fault Refusal :=
  .next (finish t (t.jumpReg c true s))

end Sys2Proof.Machine
end

