-- ==== Sys2Proof/Machine/EventsCore.lean ====
section
/-! DEFINITION. Events of the station engine: the router, the Warden and the memories (R79-R86, R109-R135,
R195), the integrity checkers and the watchdogs (R138-R145, R178, R179, R196), and the Trail port (R180,
R181). An event that the state rules out changes nothing; one that the passing of time brings stands for
its instant (assumption 13). -/

namespace Sys2Proof.Machine

open Sys2Proof

/-- What an event does while the core domain runs; otherwise nothing (R10, R11). -/
def State.awake (s : State) (f : State → State) : State := if s.running then f s else s

/-! ## Router and Warden -/

/-- The event for which channel `n` fires leaves the resynchronisers (R195, R197). -/
def State.channelFire (s : State) (n : Nat) : State :=
  match s.eventFor n with
  | none => s
  | some p => s.deliverEvent p

/-- GUYLINE_CHANNEL_FIRE (R195). -/
def execGuylineChannelFire (n : Fin 64) (t : State) : Host.Outcome State Fault Refusal :=
  .next (finish t (t.awake fun s => s.channelFire n))

/-- WARDEN_DISPATCH (R129). -/
def execWardenDispatch (t : State) : Host.Outcome State Fault Refusal :=
  .next (finish t (if t.canvasUp then t.dispatch else t))

/-- WARDEN_COMMAND_COMPLETE (R109). -/
def execWardenCommandComplete (m : Fin 5) (t : State) : Host.Outcome State Fault Refusal :=
  .next (finish t (t.awake fun s => s.wdnComplete m))

/-- EPOCH_END (R117). -/
def execEpochEnd (t : State) : Host.Outcome State Fault Refusal :=
  .next (finish t (t.awake State.epochEnd))

/-- MIGRATION_START (R122). -/
def execMigrationStart (t : State) : Host.Outcome State Fault Refusal :=
  .next (finish t (t.awake State.migrationStart))

/-- MIGRATION_COMPLETE (R122). -/
def execMigrationComplete (t : State) : Host.Outcome State Fault Refusal :=
  .next (finish t (t.awake State.migrationComplete))

/-- COPY_UNCORRECTABLE_READ (R124). -/
def execCopyUncorrectableRead (t : State) : Host.Outcome State Fault Refusal :=
  .next (finish t (t.awake State.copyBad))

/-! ## Memories -/

/-- A powered bank has been cleared and grants access (R86). -/
def State.bankCleared (s : State) (b : Nat) : State :=
  if bit s.mm.sbOn b then s.onMm fun r => { r with sbPwr := setBit r.sbPwr b true } else s

/-- SRAM_BANK_CLEAR_DONE (R86). -/
def execSramBankClearDone (b : Fin 32) (t : State) : Host.Outcome State Fault Refusal :=
  .next (finish t (t.awake fun s => s.bankCleared b))

/-- A word of the array shows an error that it did not show before (R78). -/
def Memory.errorAt (m : Memory) (w : Nat) (k : Option EccKind) : Memory :=
  match m.eccOf w, k with
  | none, some k => { m with ecc := (w, k) :: m.ecc }
  | _, _ => m

/-- The scrubber reads its next word, which may show an error `found`; after the last word the pass is complete
and a new one begins, whose start Ridgepole stores (R81, R83, R102). (DEDUCED, unsafe: assumption 46.) -/
def State.scrub (s : State) (found : Option EccKind) : State :=
  let w := mramBase + 8 * s.mm.scrub
  let s := ((s.onMem fun m => m.errorAt w found).countSys 17 1).readWord scrubber w
  let s := s.s.onMm fun r => { r with scrub := (r.scrub + 1) % 2 ^ 20 }
  if s.mm.scrub = 0 then
    ((s.onMm fun r => { r with stat := setBit r.stat 5 true }).onRp fun r =>
      { r with passStart := s.per.rtc.secs, scrubLate := false }).storeWrites
  else s

/-- SCRUB_READ (R81). -/
def execScrubRead (found : Option EccKind) (t : State) : Host.Outcome State Fault Refusal :=
  .next (finish t (t.awake fun s => s.scrub found))

/-- A corrected word is written back, unless a write came first (R79). -/
def State.writeBack (s : State) (a : Nat) : State :=
  if a ∈ s.mem.writeback then s.writeWhole a (s.mem.bytes a (eccSize a)) else s

/-- ECC_WRITEBACK (R79). -/
def execEccWriteback (addr : Word) (t : State) : Host.Outcome State Fault Refusal :=
  .next (finish t (t.awake fun s => s.writeBack addr.toNat))

/-- SCRUB_OVERDUE (R83). -/
def execScrubOverdue (t : State) : Host.Outcome State Fault Refusal :=
  .next (finish t (t.awake fun s => s.onRp fun r => { r with scrubLate := true }))

/-- CORRECTION_WINDOW_END (R85). -/
def execCorrectionWindowEnd (bank : Fin 50) (t : State) : Host.Outcome State Fault Refusal :=
  .next (finish t (t.awake fun s => s.onMm fun r => { r with corr := r.corr.set bank 0 }))

/-! ## Integrity (R138-R145, R151) -/

/-- A trailing core's compare finds a mismatch, during a Strike too (R16, R138). -/
def State.diverge (s : State) (pair : Fin 2) (pc1 : Word) : State :=
  if s.domainOn && decide (s.rp.mode = .up) && s.twin then
    s.react { cls := 1, unit := pair, pc0 := s.cores[Fin.ofNat 4 (2 * pair.val)].pc, pc1 := pc1 }
  else s

/-- LOCKSTEP_DIVERGENCE (R138). -/
def execLockstepDivergence (pair : Fin 2) (pc1 : Word) (t : State) :
    Host.Outcome State Fault Refusal :=
  .next (finish t (t.diverge pair pc1))

/-- The code of a fault class (R151). -/
def classCode : FaultClass → Nat
  | .rplock => 2
  | .mcmp => 3
  | .unc => 4
  | .bpar => 5
  | .tpar => 6
  | .pcmp => 7
  | .clock => 8
  | .supply => 9
  | .rdbk => 0x0A
  | .check => 0x0B

/-- The checker of a class watches the unit: a VIO bank once ITG_STAT.VIOW shows it, and read-back, where ITG_CFG.RDBK
is 1, a ball that the part drives (R139). Checkers run during a Strike too (R16). -/
def State.checks (s : State) (cls : FaultClass) (unit : Nat) : Bool :=
  s.domainOn &&
    match cls with
    | .supply => if unit = 1 then bit s.itg.stat 5 else if unit = 2 then bit s.itg.stat 6 else true
    | .rdbk => bit s.itg.cfg 4 && decide (unit < 96) && s.per.pin.isOutput unit && (driveLevel s unit).isSome
    | _ => true

/-- PC0 of a record that a checker makes: the PC of the core whose beat it was, for a bus parity fault of masters 0-3;
and for the others, which name no core, or Ridgepole, whose address the specification does not place, a free value
(R150). (DEDUCED, safe: assumption 30.) -/
def State.faultPc (s : State) (cls : FaultClass) (unit : Nat) : Word :=
  if cls = .bpar ∧ unit < 4 then s.cores[Fin.ofNat 4 unit].pc else Config.freeWord s.free

/-- A checker reports a fault: ADDR stands for the classes UNC and BPAR, and DETAIL for SUPPLY and CLOCK; otherwise
they are zero (R150). -/
def State.integrityFault (s : State) (cls : FaultClass) (unit : BitVec 8) (addr syn : Word)
    (detail : DWord) : State :=
  if s.checks cls unit.toNat then
    (s.useFree 1).react
      { cls := classCode cls, unit := unit.toNat, syn := syn, pc0 := s.faultPc cls unit.toNat
        addr := if cls = .unc ∨ cls = .bpar then addr else 0#32
        detail := if cls = .supply ∨ cls = .clock then detail else 0#64 }
  else s

/-- INTEGRITY_FAULT (R145). -/
def execIntegrityFault (cls : FaultClass) (unit : BitVec 8) (addr syn : Word) (detail : DWord)
    (t : State) : Host.Outcome State Fault Refusal :=
  .next (finish t (t.integrityFault cls unit addr syn detail))

/-- A self-test round ends: ROUNDS counts it, and Ridgepole's source 59 fires (R142, R183). (DEDUCED,
unsafe: assumption 60.) -/
def State.selfTest (s : State) : State :=
  if s.canvasUp && s.twin then
    (s.onItg fun g => { g with stest := setBits g.stest 16 8 (bits g.stest 16 8 + 1) }).fireSource 4 59
  else s

/-- SELF_TEST_ROUND (R142). -/
def execSelfTestRound (t : State) : Host.Outcome State Fault Refusal := .next (finish t t.selfTest)

/-- A VIO bank becomes watched (R139). -/
def State.watchBank (s : State) (bank2 : Bool) : State :=
  if s.running && (if bank2 then s.pwr.vio2 else s.pwr.vio1) then
    s.onItg fun g => { g with stat := setBit g.stat (if bank2 then 6 else 5) true }
  else s

/-- SUPPLY_WATCH_QUALIFIED (R139). -/
def execSupplyWatchQualified (bank2 : Bool) (t : State) : Host.Outcome State Fault Refusal :=
  .next (finish t (t.watchBank bank2))

/-! ## Watchdogs (R178, R179, R196) -/

/-- The Canvas watchdog's count has run out; the reset follows a Strike that runs (R16, R178). REACT shows 0, and PC0 is
a free value (DESIGN CHOICE, unsafe: assumption 99). -/
def State.canvasWatchdog (s : State) : State :=
  if s.domainOn && decide (s.rp.mode = .up) && decide (s.rp.wdog ≠ 0) && decide (s.rp.wdogLeft = 0) &&
      !s.cores.toList.any (·.halted) then
    ((s.useFree 1).recordFault { cls := 0x10, unit := 0xFF, pc0 := Config.freeWord s.free } 0).resetDue 0x20#32
  else s

/-- CANVAS_WATCHDOG_EXPIRE (R178). -/
def execCanvasWatchdogExpire (t : State) : Host.Outcome State Fault Refusal :=
  .next (finish t t.canvasWatchdog)

/-- Ridgepole's own watchdog expires: a Strike that runs completes first (R16, R179). PC0 is Ridgepole's address, a free
value, and REACT shows 0 (R150; DESIGN CHOICE, unsafe: assumption 99). -/
def State.ridgeWatchdog (s : State) : State :=
  if s.domainOn then
    ((s.useFree 1).recordFault { cls := 0x10, unit := 4, pc0 := Config.freeWord s.free } 0).resetDue 0x20#32
  else s

/-- RIDGEPOLE_WATCHDOG_EXPIRE (R179). -/
def execRidgepoleWatchdogExpire (t : State) : Host.Outcome State Fault Refusal :=
  .next (finish t t.ridgeWatchdog)

/-- RIDGEPOLE_WATCHDOG_WARNING (R196). -/
def execRidgepoleWatchdogWarning (t : State) : Host.Outcome State Fault Refusal :=
  .next (finish t (t.awake fun s => s.fire 190))

/-! ## The Trail port (R180, R181) -/

/-- TRAIL_SUBMIT (R180): Ridgepole serves it once its boot has ended, and never after a start-up test that failed
(R164). -/
def execTrailSubmit (resp : List Byte) (scope : Word) (t : State) :
    Host.Outcome State Fault Refusal :=
  .next (finish t (t.awake fun s =>
    if s.rp.mode = .up ∨ s.rp.mode = .stopped then s.trailSubmit resp scope else s))

/-- The session closes (R180). (DEDUCED, unsafe: assumption 61.) -/
def State.trailClose (s : State) : State :=
  s.onRp fun r => { r with trail := { r.trail with isOpen := false } }

/-- TRAIL_CLOSE (R180). -/
def execTrailClose (t : State) : Host.Outcome State Fault Refusal :=
  .next (finish t (t.awake State.trailClose))

/-- A debug command on a core in SCOPE, or on its pair (R181). -/
def State.debug (s : State) (c : CoreId) (f : Core → Core) : State :=
  if s.debugs c then s.onCore (s.leadCore c) f else s

/-- DEBUG_HALT (R181): a halted core is not in WAIT, so the idle timer clears (R16). -/
def execDebugHalt (c : CoreId) (t : State) : Host.Outcome State Fault Refusal :=
  .next (finish t (if t.debugs c then (t.debug c fun k => { k with halted := true }).clearIdle else t))

/-- DEBUG_STEP (R181). -/
def execDebugStep (c : CoreId) (t : State) : Host.Outcome State Fault Refusal :=
  .next (finish t (t.debug c fun k => if k.halted then { k with stepArm := true } else k))

/-- DEBUG_RESUME (R181). -/
def execDebugResume (c : CoreId) (t : State) : Host.Outcome State Fault Refusal :=
  .next (finish t (t.debug c fun k =>
    { k with
      halted := false
      stepArm := false }))

/-- A register of a halted core takes a value from the debugger; a read changes nothing (R181). -/
def Core.debugWrite (k : Core) (reg : DebugReg) (v : Option Word) : Core :=
  match v with
  | none => k
  | some v =>
    if k.halted then
      match reg with
      | .w r => k.setR r v
      | .pc => { k with pc := v }
      | .special n => k.writeSpecial n v
      | .word _ => k
    else k

/-- The session reads or writes the word at an address as thread code of task group 0 would, through halted core `c`;
what that code could not reach, and MB0, it does not reach, and nothing happens (R181). (DEDUCED, unsafe: assumption
106.) -/
def State.debugWord (s : State) (c : CoreId) (a : Nat) (v : Option Word) : State :=
  let k := s.cores[c]
  if !k.halted || decide (bankOf (s.physical a) = some 0) then s
  else
    let t := s.onCore c fun k => { k with task := 0x80000000#32 }
    let g := match v with
      | none => t.load c a 4
      | some v => t.storeBytes c a 4 v.toNat
    if g.exn.any fun x => decide (x ≠ exnMemory) then s
    else (g.s.onCore c fun x => { x with task := k.task }).reactUnc k.pc g.unc

/-- A register or a word that the debugger reads or writes (R181). -/
def State.debugAccess (s : State) (c : CoreId) (reg : DebugReg) (v : Option Word) : State :=
  match reg with
  | .word a => if s.debugs c then s.debugWord (s.leadCore c) a.toNat v else s
  | _ => s.debug c fun k => k.debugWrite reg v

/-- DEBUG_REGISTER_ACCESS (R181). -/
def execDebugRegisterAccess (c : CoreId) (reg : DebugReg) (v : Option Word) (t : State) :
    Host.Outcome State Fault Refusal :=
  .next (finish t (t.debugAccess c reg v))

end Sys2Proof.Machine
end

