-- ==== Sys2Proof/Machine/EventsPower.lean ====
section
/-! DEFINITION. Events of the supplies, the clocks, the harvest manager and the calendar clock: the Strike,
Bivouac and its wakes (R97, R98, R289-R293), resets and boots (R164, R165, R295, R403, R404), supplies
(R325-R328, R394), Hearth and the operating points (R282-R287), Lantern and the cell (R262-R274), and the
alarms (R315-R323). -/

namespace Sys2Proof.Machine

open Sys2Proof

/-! ## Strike, Bivouac and boots -/

/-- STRIKE_COMPLETE (R97). -/
def execStrikeComplete (t : State) : Host.Outcome State Fault Refusal :=
  .next (finish t t.strikeComplete)

/-- IDLE_TIMER_EXPIRE (R289). -/
def execIdleTimerExpire (t : State) : Host.Outcome State Fault Refusal := .next (finish t t.idleDue)

/-- WAKE_SOURCE_QUALIFY (R292). -/
def execWakeSourceQualify (k : Fin 11) (pin : Fin 16) (rise : Bool) (t : State) :
    Host.Outcome State Fault Refusal :=
  .next (finish t (t.wake k pin rise))

/-- PITCH_PATH (R165). -/
def execPitchPath (t : State) : Host.Outcome State Fault Refusal := .next (finish t t.pitchPath)

/-- FULL_BOOT (R164). -/
def execFullBoot (t : State) : Host.Outcome State Fault Refusal := .next (finish t t.fullBoot)

/-- The Porch gains a supply, and the power-up sequence runs to reset release (R295, R404). -/
def State.powerOn (s : State) (fromCell rtcLost : Bool) : State :=
  if s.pwr.state = .unpowered then
    (s.deviceReset (1#32 ||| flagAt 8 (rtcLost || s.pwr.rtcLost)) 0#32).onPwr fun p =>
      { p with
        main := !fromCell
        cell := fromCell || p.cell }
  else s

/-- POWER_ON (R404). -/
def execPowerOn (fromCell rtcLost : Bool) (t : State) : Host.Outcome State Fault Refusal :=
  .next (finish t (t.powerOn fromCell rtcLost))

/-- NRST is held low for 1 us: a reset that is held; a Strike that runs completes first (R16, R403), and the reset
of a wake keeps the wake's cause (R292, R295). (DEDUCED, unsafe: assumption 54.) -/
def State.nrstLow (s : State) : State :=
  if s.pwr.state = .unpowered then s
  else match s.pwr.strike with
    | some k => s.onPwr fun p => { p with strike := some (k.due 2#32), state := .held }
    | none =>
      (s.deviceReset (if s.waking then 0xA#32 else 2#32) 0#32).onPwr fun p => { p with state := .held }

/-- NRST_ASSERT (R403). -/
def execNrstAssert (t : State) : Host.Outcome State Fault Refusal := .next (finish t t.nrstLow)

/-- NRST is high again, and reset is released; a Strike that runs goes on (R403). -/
def State.nrstHigh (s : State) : State :=
  if s.pwr.state = .held then s.onPwr fun p => { p with state := .awake } else s

/-- NRST_RELEASE (R403). -/
def execNrstRelease (t : State) : Host.Outcome State Fault Refusal := .next (finish t t.nrstHigh)

/-! ## Supplies -/

/-- The hold-up collapses after the first `n` words of a Strike, and the Porch loses its supply (R98,
R294). -/
def State.supplyLoss (s : State) (n : Nat) : State :=
  if s.cellUp then s
  else
    let s := match s.pwr.strike with
      | some _ => s.strikeWrite (min n s.strikeLength)
      | none => s
    s.cutWrites.onPwr fun p =>
      { p with
        main := false
        state := .unpowered
        strike := none }

/-- PORCH_SUPPLY_LOSS (R98). -/
def execPorchSupplyLoss (words : Nat) (t : State) : Host.Outcome State Fault Refusal :=
  .next (finish t (t.supplyLoss words))

/-- VMAIN_LOSS (R293). -/
def execVmainLoss (t : State) : Host.Outcome State Fault Refusal := .next (finish t t.vmainLost)

/-- VMAIN_RETURN (R325). -/
def execVmainReturn (t : State) : Host.Outcome State Fault Refusal := .next (finish t t.vmainBack)

/-- VRTC falls below 1.30 V: the duty credit starts again from zero with the registers (R221), and RTCPOR shows at
the power-on that follows (R295, R328). (DEDUCED, unsafe: assumption 83.) -/
def State.rtcDomainReset (s : State) : State :=
  ((s.onRtc fun _ => Rtc.reset).onRf fun r => { r with credit := 0 }).onPwr fun p => { p with rtcLost := true }

/-- RTC_DOMAIN_RESET (R328). -/
def execRtcDomainReset (t : State) : Host.Outcome State Fault Refusal :=
  .next (finish t t.rtcDomainReset)

/-- The bank is present, as the Porch sees it. -/
def State.setBank (s : State) (bank2 up : Bool) : State :=
  s.onPwr fun p => if bank2 then { p with vio2 := up } else { p with vio1 := up }

/-- A VIO bank crosses its presence threshold; the loss of a watched bank is a supply fault, during a Strike too, whose
measured voltage is a free value (R16, R139, R150, R394). -/
def State.bankSupply (s : State) (bank2 up : Bool) : State :=
  let watched := bit s.itg.stat (if bank2 then 6 else 5)
  let s := s.setBank bank2 up
  if !up && watched && s.domainOn then
    (s.useFree 1).react
      { cls := 9, unit := if bank2 then 2 else 1, detail := (Config.freeWord s.free).setWidth 64 }
  else s

/-- BANK_SUPPLY_CHANGE (R394). -/
def execBankSupplyChange (bank2 up : Bool) (t : State) : Host.Outcome State Fault Refusal :=
  .next (finish t (t.bankSupply bank2 up))

/-! ## Clocks -/

/-- The Porch has a supply. -/
def State.powered (s : State) : Bool := decide (s.pwr.state ≠ .unpowered)

/-- CRYSTAL_QUALIFIED (R284). -/
def execCrystalQualified (t : State) : Host.Outcome State Fault Refusal :=
  .next (finish t (if t.powered then t.onClk Clk.qualified else t))

/-- The crystal is lost: the flags, and producer 191 while the router runs (R284). -/
def State.crystalLost (s : State) : State :=
  if s.powered && bit s.clk.stat 0 then
    let s := s.onClk Clk.lose
    if s.running then s.fire 191 else s
  else s

/-- CRYSTAL_LOSS (R284). -/
def execCrystalLoss (t : State) : Host.Outcome State Fault Refusal := .next (finish t t.crystalLost)

/-- HEARTH_FLL_COUNT (R282): the loop runs while the crystal is valid. -/
def execHearthFllCount (count : Nat) (t : State) : Host.Outcome State Fault Refusal :=
  .next (finish t (if t.domainOn && bit t.clk.stat 0 then t.onClk fun k => k.fllCount count else t))

/-- BUCK_SETTLED (R287). -/
def execBuckSettled (t : State) : Host.Outcome State Fault Refusal :=
  .next (finish t (t.awake State.buckSettled))

/-- DIVIDER_CHANGE (R287). -/
def execDividerChange (t : State) : Host.Outcome State Fault Refusal :=
  .next (finish t (t.awake State.dividerChange))

/-! ## Lantern, harvest and the cell (R262-R274) -/

/-- What an event does to the harvest manager, which works while the Porch has a supply (R261, R262). -/
def State.harvest (s : State) (f : Hrv → Hrv) : State := if s.powered then s.onHrv f else s

/-- LANTERN_UPDATE (R271). -/
def execLanternUpdate (delta : Int) (t : State) : Host.Outcome State Fault Refusal :=
  .next (finish t (t.lanternUpdate delta))

/-- LANTERN_SAMPLE (R272). -/
def execLanternSample (t : State) : Host.Outcome State Fault Refusal :=
  .next (finish t (t.harvest fun h => { h with sampling := true }))

/-- A sample completes, and tells whether a cell is connected and whether fuses can be blown; where the specification states no temperature the byte is a free value (R265,
R272, R274). -/
def State.sampleDone (s : State) (vcell vmain : BitVec 16) (inner : Int) (ntc : Option Int)
    (light : Bool) : State :=
  if s.powered && s.per.hrv.sampling then
    (((s.useFree 1).onHrv fun h =>
      h.sampleDone vcell vmain inner ntc light (Config.freeByte s.free)).onPwr fun p =>
        { p with
        fuseSupply := decide (2500 ≤ vmain.toNat)
        cell := decide (2800 ≤ vcell.toNat) || (!p.main && p.cell) }).judgeFuses
  else s

/-- LANTERN_SAMPLE_DONE (R274). -/
def execLanternSampleDone (vcell vmain : BitVec 16) (inner : Int) (ntc : Option Int) (light : Bool)
    (t : State) : Host.Outcome State Fault Refusal :=
  .next (finish t (t.sampleDone vcell vmain inner ntc light))

/-- A measurement of the open-circuit voltage of a harvesting input starts (R269). -/
def Hrv.mpptStart (h : Hrv) (main hvb : Bool) : Hrv :=
  if !h.harvests main hvb then h
  else if hvb then { h with measB := true }
  else { h with measA := true }

/-- MPPT_MEASUREMENT_START (R269). -/
def execMpptMeasurementStart (hvb : Bool) (t : State) : Host.Outcome State Fault Refusal :=
  .next (finish t (t.harvest fun h => h.mpptStart t.pwr.main hvb))

/-- MPPT_MEASUREMENT_END (R269). -/
def execMpptMeasurementEnd (hvb : Bool) (voc : Nat) (t : State) : Host.Outcome State Fault Refusal :=
  .next (finish t ((t.useFree 1).harvest fun h =>
    if (if hvb then h.measB else h.measA) then h.mpptEnd t.pwr.main hvb voc (Config.freeNat t.free) else h))

/-- The converter raises the regulation point of an input to one above the present (R270). -/
def Hrv.limitIntake (h : Hrv) (main hvb : Bool) (reg : Nat) : Hrv :=
  if !h.harvests main hvb || decide (reg ≤ if hvb then h.regB else h.regA) then h
  else if hvb then { h.flag 28 with regB := reg }
  else { h.flag 28 with regA := reg }

/-- HARVEST_INTAKE_LIMIT (R270). -/
def execHarvestIntakeLimit (hvb : Bool) (reg : Nat) (t : State) : Host.Outcome State Fault Refusal :=
  .next (finish t (t.harvest fun h => h.limitIntake t.pwr.main hvb reg))

/-- OVERCHARGE_TRIP (R262). -/
def execOverchargeTrip (t : State) : Host.Outcome State Fault Refusal :=
  .next (finish t (t.harvest fun h => { h.flag 19 with ovcOn := true }.judgeHold))

/-- The final Strike of an over-current trip runs (R262, R280). -/
def State.overCurrentStrike (s : State) : Bool :=
  s.per.hrv.ocOn && s.pwr.strike.any fun k => decide (k.kind = .final)

/-- The switch opens in both directions, at once and with no Strike; the final Strike of an over-current trip that
came first still runs (R262, R263, R280). -/
def State.overDischarge (s : State) : State :=
  if s.powered then
    let t := s.onHrv fun h => { h.flag 20 with swOpen := true }
    if s.overCurrentStrike then t else t.switchOff
  else s

/-- OVER_DISCHARGE_TRIP (R262). -/
def execOverDischargeTrip (t : State) : Host.Outcome State Fault Refusal :=
  .next (finish t t.overDischarge)

/-- A final Strike begins, and the switch opens (R262). (DEDUCED, unsafe: assumption 55.) -/
def State.overCurrent (s : State) : State :=
  if s.powered && !s.pwr.main then (s.onHrv fun h => { h.flag 21 with ocOn := true }).tripStrike else s

/-- OVER_CURRENT_TRIP (R262). -/
def execOverCurrentTrip (t : State) : Host.Outcome State Fault Refusal :=
  .next (finish t t.overCurrent)

/-- CHARGE_TEMPERATURE_TRIP (R262). -/
def execChargeTemperatureTrip (t : State) : Host.Outcome State Fault Refusal :=
  .next (finish t (t.harvest fun h => { h.flag 22 with tempOn := true }.judgeHold))

/-- The switch opens, without VMAIN after a final Strike (R262). -/
def State.dischargeTemp (s : State) : State :=
  if s.powered then
    let s := s.onHrv fun h => { h.flag 22 with tdOn := true }
    if s.pwr.main then s else s.tripStrike
  else s

/-- DISCHARGE_TEMPERATURE_TRIP (R262). -/
def execDischargeTemperatureTrip (t : State) : Host.Outcome State Fault Refusal :=
  .next (finish t t.dischargeTemp)

/-- The release condition of a protection is met; three of them need VMAIN (R262). -/
def Hrv.release (h : Hrv) (main : Bool) : Protection → Hrv
  | .overcharge => { h with ovcOn := false }.judgeHold
  | .overDischarge =>
    if main && h.swOpen then
      let h := { h with swOpen := false }
      if h.chgen then (h.setCharger 1).judgeHold else h
    else h
  | .overCurrent => if main then { h with ocOn := false } else h
  | .chargeTemp => { h with tempOn := false }.judgeHold
  | .dischargeTemp => if main then { h with tdOn := false } else h

/-- PROTECTION_RELEASE (R262). -/
def execProtectionRelease (p : Protection) (t : State) : Host.Outcome State Fault Refusal :=
  .next (finish t (t.harvest fun h => h.release t.pwr.main p))

/-- The charger moves from one state to another (R266). -/
def Hrv.chargerStep (h : Hrv) (src dst : Nat) : Hrv := if h.charger = src then h.setCharger dst else h

/-- CHARGER_STATE_CHANGE (R266). -/
def execChargerStateChange (e : ChargerEvent) (t : State) : Host.Outcome State Fault Refusal :=
  .next (finish t (t.harvest fun h =>
    match e with
    | .precharged => h.chargerStep 1 2
    | .reachedVcv => h.chargerStep 2 3
    | .recharge => h.chargerStep 4 2))

/-- CHARGER_PRECHARGE_TIMEOUT (R266). -/
def execChargerPrechargeTimeout (t : State) : Host.Outcome State Fault Refusal :=
  .next (finish t (t.harvest fun h => if h.charger = 1 then (h.flag 27).setCharger 6 else h))

/-- CHARGER_TERMINATE (R273). -/
def execChargerTerminate (t : State) : Host.Outcome State Fault Refusal :=
  .next (finish t (t.harvest fun h => if h.charger = 3 then h.terminate else h))

/-! ## Calendar clock (R315, R321-R323) -/

/-- Alarm `n` matches (R322). -/
def State.alarmFires (s : State) (n : Nat) : State :=
  if bit (s.per.rtc.alarm n).ctl 0 then
    ((s.onRtc fun r => { r with stat := setBit r.stat n true }).fireAwake (168 + n)).wake n 0 false
  else s

/-- RTC_ALARM_MATCH (R322). -/
def execRtcAlarmMatch (n : Fin 2) (t : State) : Host.Outcome State Fault Refusal :=
  .next (finish t (t.alarmFires n))

/-- Periodic event `n` fires: 0 the 2^N Hz event, 1 the minute, 2 the hour (R323). -/
def State.periodicFires (s : State) (n : Nat) : State :=
  if s.per.rtc.perEnabled n then
    ((s.onRtc fun r => { r with stat := setBit r.stat 2 true }).fireAwake (170 + n)).wake 2 0 false
  else s

/-- RTC_PERIODIC_EVENT (R323). -/
def execRtcPeriodicEvent (n : Fin 3) (t : State) : Host.Outcome State Fault Refusal :=
  .next (finish t (t.periodicFires n))

/-- The calendar rolls to 2000-01-01 00:00:00 (R315). -/
def Rtc.roll (r : Rtc) : Rtc :=
  if r.mode then { r with time := 0, stat := setBit r.stat 6 true } else r

/-- RTC_CALENDAR_ROLL (R315). -/
def execRtcCalendarRoll (t : State) : Host.Outcome State Fault Refusal :=
  .next (finish t (t.onRtc Rtc.roll))

/-- The adjustments that remain have been made, and AMT reaches 0 (R321). -/
def Rtc.slewDone (r : Rtc) : Rtc :=
  if r.amt = 0 then r
  else
    { r with
      time := ((r.time : Int) + r.amt).toNat
      slew := setBits r.slew 0 22 0
      slewWait := 0
      stat := setBit r.stat 4 true }

/-- RTC_SLEW_DONE (R321). -/
def execRtcSlewDone (t : State) : Host.Outcome State Fault Refusal :=
  .next (finish t (t.onRtc Rtc.slewDone))

end Sys2Proof.Machine
end

