-- ==== Sys2Proof/Machine/EventsPeriph.lean ====
section
/-! DEFINITION. Events of the timers, the serial lines, the touch panel, the radio, the network engine, the
counters, the balls and the Peg port. -/

namespace Sys2Proof.Machine

open Sys2Proof

/-! ## Timers (R300, R303) -/

/-- Timer `n` steps to a value, with the carry of an overflow. -/
def State.timReach (s : State) (n : Nat) (v : Word) : State :=
  let r := s.timStepTo n v
  if r.2 then r.1.timCarry n else r.1

/-- The tick at which timer `n` reaches the CMP of channel `k` (R303). -/
def State.compareMatch (s : State) (n k : Nat) : State :=
  let t := s.timAt n
  if timRuns s t && decide ((t.chan k).mode = 1) then s.timReach n (t.chan k).cmp else s

/-- TIMER_COMPARE_MATCH (R303). (DESIGN CHOICE, safe: assumption 13.) -/
def execTimerCompareMatch (n : Fin 12) (k : Fin 4) (t : State) : Host.Outcome State Fault Refusal :=
  .next (finish t (t.awake fun s => s.compareMatch n k))

/-- The tick at which timer `n` steps from 0xFFFF_FFFF to 0 (R300). -/
def State.timOverflow (s : State) (n : Nat) : State :=
  if timRuns s (s.timAt n) then s.timReach n 0#32 else s

/-- TIMER_OVERFLOW (R300). -/
def execTimerOverflow (n : Fin 12) (t : State) : Host.Outcome State Fault Refusal :=
  .next (finish t (t.awake fun s => s.timOverflow n))

/-! ## Serial lines (R335-R346) -/

/-- A character completes at its stop-bit sample (R335, R338, R384): a break is stored with data 0. -/
def State.uaReceive (s : State) (n : Nat) (c : UaChar) : State :=
  let u := s.uaAt n
  if u.listens s.per.pin n then
    let v := if c.brk then { u.store 0#9 false false true with brkHold := true }
      else u.store c.data c.pe c.fe false
    let tagged := decide (u.rxq.length < v.rxq.length) &&
      (v.rxq.getLast?.any fun e => decide (512 ≤ e.toNat))
    ((s.onUa n fun _ => v).countSys 28 1).countSys 29 tagged.toNat
  else s

/-- UA_CHARACTER_RECEIVED (R335): the operands are the samples of its bits, `stops` those of its stop bits. -/
def execUaCharacterReceived (n : Fin 4) (data : BitVec 9) (par : Bool) (stops : Bool × Bool) (t : State) :
    Host.Outcome State Fault Refusal :=
  .next (finish t (t.awake fun s => s.uaReceive n ((s.uaAt n).judge data par stops.1 stops.2)))

/-- UA_BREAK_RECEIVED (R338). -/
def execUaBreakReceived (n : Fin 4) (t : State) : Host.Outcome State Fault Refusal :=
  .next (finish t (t.awake fun s => s.uaReceive n ⟨0#9, false, false, true⟩))

/-- The line has been idle for F bit times: producer 164 + n fires (R339). -/
def State.uaIdle (s : State) (n : Nat) : State :=
  let r := (s.uaAt n).idle
  if r.2 then (s.onUa n fun _ => r.1).fire (164 + n) else s

/-- UA_IDLE_DETECT (R339). -/
def execUaIdleDetect (n : Fin 4) (t : State) : Host.Outcome State Fault Refusal :=
  .next (finish t (t.awake fun s => s.uaIdle n))

/-- UA_CHARACTER_SENT (R345). -/
def execUaCharacterSent (n : Fin 4) (t : State) : Host.Outcome State Fault Refusal :=
  .next (finish t (t.awake fun s => s.onUa n Ua.sent))

/-- UA_DE_LAG_END (R346). -/
def execUaDeLagEnd (n : Fin 4) (t : State) : Host.Outcome State Fault Refusal :=
  .next (finish t (t.awake fun s => s.onUa n Ua.lagEnd))

/-- A falling edge is taken as a start bit (R335). -/
def State.uaStart (s : State) (n : Nat) (high8 : Bool) : State :=
  let u := s.uaAt n
  if u.listens s.per.pin n && !u.rxBusy then s.onUa n fun u => u.start high8 else s

/-- A falling edge on RX. In legacy mode an edge before sample 8 of the stop bit ends the character, whose data
bits and parity sample are `cut`, with FE, and is taken as the next start (R337); any other edge within a character starts none (R336, R337).
(DEDUCED, unsafe: assumption 105.) -/
def State.uaEdge (s : State) (n : Nat) (high8 : Bool) (cut : Option (BitVec 9 × Bool)) : State :=
  let u := s.uaAt n
  match cut with
  | none => s.uaStart n high8
  | some (data, par) =>
    if u.rxBusy && u.legacy && u.listens s.per.pin n then (s.uaReceive n (u.judgeCut data par)).uaStart n high8
    else s.uaStart n high8

/-- UA_START_BIT_DETECT (R335). -/
def execUaStartBitDetect (n : Fin 4) (edge : StartEdge) (t : State) : Host.Outcome State Fault Refusal :=
  .next (finish t (t.awake fun s => s.uaEdge n edge.high8 edge.cut))

/-! ## The receiver at its sample ticks (R335-R339) -/

/-- The level that the receiver of line `n` reads: its ball, or high where the ball is unclaimed or ignored (R346). -/
def State.rxLevel (s : State) (n : Nat) : Bool :=
  !(s.uaAt n).listens s.per.pin n || bit s.per.pin.inp (49 + 4 * n)

/-- The receiver goes on with a character: `pos` is the sample of the bit, of which the line reads `l`. -/
def State.uaTake (s : State) (n pos : Nat) (l : Bool) : State :=
  let u := s.uaAt n
  let put := fun (r : UaRx) => s.onUa n fun u => { u with rx := r }
  if pos ≠ 8 then put { u.rx with pos := pos }
  else
    let got := u.rx.got ++ [l]
    if got.length = 1 && l then s.onUa n fun u => { u with rxBusy := false, rx := { u.rx with pos := 0, got := [] } }
    else if got.length < u.frameBits then put { u.rx with pos := pos, got := got }
    else
      (s.onUa n fun u => { u with rxBusy := false, rx := { u.rx with pos := 0, got := [] } }).uaReceive n
        (u.judge (u.sampledData got) (u.sampledParity got) (u.sampledStop got 0) (u.sampledStop got 1))

/-- The receiver takes a start edge: the sample tick is sample 1 of the start bit (R334, R335). -/
def State.uaBegin (s : State) (n : Nat) : State :=
  s.onUa n fun u =>
    let v := u.start false
    { v with rx := { v.rx with left := v.divRx.toNat, pos := 1, got := [] } }

/-- A sample tick within a character (R335-R337). An edge that is first read at sample 8 re-centres nothing (DESIGN
CHOICE, unsafe: assumption 117). -/
def State.uaWithin (s : State) (n : Nat) (falls l : Bool) : State :=
  let u := s.uaAt n
  let r := u.rx
  let pos := if r.pos = 16 then 1 else r.pos + 1
  let inStop := decide (1 + u.dbits + u.hasParity.toNat ≤ r.got.length)
  if u.legacy && falls && decide (pos ≠ 8) then
    if inStop && decide (pos < 8) then
      (s.uaReceive n (u.judgeCut (u.sampledData r.got) (u.sampledParity r.got))).uaBegin n
    else s.uaTake n 1 l
  else s.uaTake n pos l

/-- A sample tick with no character: a start edge, or silence on the line (R335, R336, R338, R339). -/
def State.uaSeek (s : State) (n : Nat) (falls l : Bool) : State :=
  let u := s.uaAt n
  if falls && !u.brkHold then s.uaBegin n
  else
    let q := if l then u.rx.quiet + 1 else 0
    let s := s.onUa n fun u => { u with brkHold := u.brkHold && !l, rx := { u.rx with quiet := q } }
    if u.idleArm && decide (q = 16 * u.frameBits) then s.uaIdle n else s

/-- A sample tick of the receiver of line `n`. A character that its events deliver is not sampled (DESIGN CHOICE,
safe: assumption 118). -/
def State.uaSample (s : State) (n : Nat) : State :=
  let u := s.uaAt n
  let l := s.rxLevel n
  let falls := u.rx.last && !l
  let s := s.onUa n fun u => { u with rx := { u.rx with left := u.divRx.toNat, last := l } }
  if u.rx.pos ≠ 0 then s.uaWithin n falls l else if u.rxBusy then s else s.uaSeek n falls l

/-- Line `n` takes a PCLK cycle (R333). -/
def State.uaClock (s : State) (n : Nat) : State :=
  if (s.uaAt n).en then
    let s := s.onUa n Ua.clockTx
    let u := s.uaAt n
    if u.rxen then
      (if u.rx.left ≤ 1 then s.uaSample n
       else s.onUa n fun u => { u with rx := { u.rx with left := u.rx.left - 1 } })
    else s
  else s

/-! ## Touch panel (R351-R354, R359) -/

/-- The touch island works: while awake, in Bivouac when it stayed powered, and in an entry Strike with touch wake
enabled (R359, R362). -/
def State.islandOn (s : State) : Bool :=
  s.running || (s.asleep && s.per.tch.biv) ||
    (s.pwr.strike.any (fun k => decide (k.kind = .entry)) && bit s.pwr.wakeEn 4)

/-- What an event does to the touch island. -/
def State.touch (s : State) (f : Tch → Tch) : State := if s.islandOn then s.onTch f else s

/-- TOUCH_SCAN_DUE (R352). -/
def execTouchScanDue (t : State) : Host.Outcome State Fault Refusal :=
  .next (finish t (t.touch fun h => if h.mode = 1 then h.request t.per.pin t.asleep else h))

/-- TOUCH_SCAN_START (R353): a DQI edge gives the start where scans wait for one. -/
def execTouchScanStart (t : State) : Host.Outcome State Fault Refusal :=
  .next (finish t (t.touch fun h =>
    if h.synced t.asleep then h.dqi t.per.pin else h.tryStart t.per.pin t.asleep))

/-- DQI_TIMEOUT (R353). -/
def execDqiTimeout (t : State) : Host.Outcome State Fault Refusal :=
  .next (finish t (t.touch fun h => if h.synced t.asleep then h.dqiTimeout t.per.pin else h))

/-- TOUCH_MEASUREMENT_DONE (R354): electrode `k` ends its measurement, where it is the scan's next. -/
def execTouchMeasurementDone (k : Fin 25) (count : Nat) (t : State) : Host.Outcome State Fault Refusal :=
  .next (finish t (t.touch fun h => if h.measuring = some k.val then h.measured t.asleep count else h))

/-- The scan has made its last measurement and commits: producers 177 and 176 fire, and in Bivouac a new
touch wakes (R351, R359). -/
def State.touchCommit (s : State) (sc : Scan) : State :=
  let ch := s.per.tch.changed sc.work
  let fresh := ch.any fun k => (vget sc.work k Electrode.reset).touched
  let s := (s.onTch fun h => (h.commit sc).schedule (s.asleep && !fresh)).onTch fun h => h.tryStart s.per.pin s.asleep
  if s.running then
    let s := (s.countSys 30 1).fire 177
    if ch.isEmpty then s else s.fire 176
  else if fresh then s.wake 4 0 false
  else s

/-- The scan in progress ends once nothing is left of it. -/
def State.touchEnd (s : State) : State :=
  match s.per.tch.scan with
  | some sc => if sc.left.isEmpty && s.islandOn then s.touchCommit sc else s
  | none => s

/-- TOUCH_SCAN_COMMIT (R351). -/
def execTouchScanCommit (t : State) : Host.Outcome State Fault Refusal := .next (finish t t.touchEnd)

/-- TOUCH_RATE_CHANGE (R352): the time without touch has reached IDLE1 or IDLE2. (DEDUCED, unsafe:
assumption 63.) -/
def execTouchRateChange (idle2 : Bool) (t : State) : Host.Outcome State Fault Refusal :=
  .next (finish t (t.touch fun h =>
    { h with quiet := max h.quiet (bits h.idle (if idle2 then 8 else 0) 8 * 32768) }))

/-! ## Radio (R212-R223) -/

/-- RF_PLL_LOCK_FAIL (R223). -/
def execRfPllLockFail (t : State) : Host.Outcome State Fault Refusal := .next (finish t t.pllFail)

/-- RF_TX_END (R223). -/
def execRfTxEnd (t : State) : Host.Outcome State Fault Refusal := .next (finish t t.txEnd)

/-- RF_FRAME_ABORT (R222), on VCELL at `vcell`. -/
def execRfFrameAbort (t : State) (vcell : Nat := 0) : Host.Outcome State Fault Refusal :=
  .next (finish t (t.txAbort vcell))

/-- A frame is discarded at its header, or at its CRC-32, and counted (R212, R216). -/
def State.rfReject (s : State) (f : PhyFrame) : State :=
  let head := f.badHeader s.per.rf.baud
  if s.running && s.per.rf.rxOn && s.per.rf.locked && (head || f.badCrc) then
    ((s.onRf fun r => r.reject !head).countSys 24 1).netSettle
  else s

/-- RF_FRAME_REJECT (R212). -/
def execRfFrameReject (f : PhyFrame) (t : State) : Host.Outcome State Fault Refusal :=
  .next (finish t (t.rfReject f))

/-- The receiver locks to a frame whose carrier it acquires and whose sync word is within TOL bits (R216). -/
def State.rfSync (s : State) (w : Word) (fofs : BitVec 16) : State :=
  if s.running && s.per.rf.rxOn && s.per.rf.acquires fofs && s.per.rf.syncMatch w then
    s.onRf fun r => { r with locked := true }
  else s

/-- RF_SYNC_DETECT (R216). -/
def execRfSyncDetect (m : SyncMatch) (t : State) : Host.Outcome State Fault Refusal :=
  .next (finish t (t.rfSync m.word m.fofs))

/-- DUTY_CREDIT_ACCRUE (R221): the credit is kept in the Porch. -/
def execDutyCreditAccrue (t : State) : Host.Outcome State Fault Refusal :=
  .next (finish t (if t.powered then t.onRf Rf.accrue else t))

/-! ## Network engine (R232-R257) -/

/-- NET_SLOT_WAKE (R234). -/
def execNetSlotWake (slot : Fin 1152) (t : State) : Host.Outcome State Fault Refusal :=
  .next (finish t (t.slotWake slot))

/-- NET_SLOT_START (R234). -/
def execNetSlotStart (slot : Fin 1152) (on : SlotStart) (t : State) : Host.Outcome State Fault Refusal :=
  .next (finish t (t.slotStart slot on.inTime on.means))

/-- NET_SLOT_END (R248). -/
def execNetSlotEnd (t : State) : Host.Outcome State Fault Refusal := .next (finish t t.slotEnd)

/-- LISTEN_WINDOW_CLOSE (R232). -/
def execListenWindowClose (t : State) : Host.Outcome State Fault Refusal := .next (finish t t.windowClose)

/-- ACK_TIMEOUT (R240). -/
def execAckTimeout (t : State) : Host.Outcome State Fault Refusal := .next (finish t t.ackTimeout)

/-- BEACON_RECEIVED (R238). -/
def execBeaconReceived (f : PhyFrame) (t : State) : Host.Outcome State Fault Refusal :=
  .next (finish t (t.beaconReceived f))

/-- DATA_RECEIVED (R242). -/
def execDataReceived (f : PhyFrame) (t : State) : Host.Outcome State Fault Refusal :=
  .next (finish t (t.dataReceived f))

/-- ACK_RECEIVED (R239). -/
def execAckReceived (f : PhyFrame) (t : State) : Host.Outcome State Fault Refusal :=
  .next (finish t (t.ackReceived f))

/-- JOIN_REQ_RECEIVED (R247). -/
def execJoinReqReceived (f : PhyFrame) (t : State) : Host.Outcome State Fault Refusal :=
  .next (finish t (t.joinReqReceived f))

/-- JOIN_RSP_RECEIVED (R247). -/
def execJoinRspReceived (f : PhyFrame) (t : State) : Host.Outcome State Fault Refusal :=
  .next (finish t (t.joinRspReceived f))

/-- ATTACH_RECEIVED (R249). -/
def execAttachReceived (f : PhyFrame) (t : State) : Host.Outcome State Fault Refusal :=
  .next (finish t (t.attachReceived f))

/-- DETACH_RECEIVED (R249). -/
def execDetachReceived (f : PhyFrame) (t : State) : Host.Outcome State Fault Refusal :=
  .next (finish t (t.detachReceived f))

/-- MESSAGE_DELIVERY (R257). -/
def execMessageDelivery (t : State) : Host.Outcome State Fault Refusal := .next (finish t t.messageDelivery)

/-- TRANSACTION_TIMEOUT (R256). -/
def execTransactionTimeout (tid : BitVec 16) (t : State) : Host.Outcome State Fault Refusal :=
  .next (finish t (t.transactionTimeout tid.toNat))

/-- REASSEMBLY_TIMEOUT (R252). -/
def execReassemblyTimeout (orig : Fin 1024) (tid : BitVec 16) (t : State) :
    Host.Outcome State Fault Refusal :=
  .next (finish t (t.reassemblyTimeout orig tid.toNat))

/-- CHILD_TIMEOUT (R249). -/
def execChildTimeout (node : Fin 1024) (t : State) : Host.Outcome State Fault Refusal :=
  .next (finish t (t.childTimeout node))

/-- KEEP_TIMER (R249). -/
def execKeepTimer (t : State) : Host.Outcome State Fault Refusal := .next (finish t t.keepTimer)

/-- PARENT_LOSS (R249). -/
def execParentLoss (t : State) : Host.Outcome State Fault Refusal := .next (finish t t.parentLoss)

/-- JOIN_TIMEOUT (R247). -/
def execJoinTimeout (t : State) : Host.Outcome State Fault Refusal := .next (finish t t.joinTimeout)

/-- OLD_KEY_EXPIRY (R246). -/
def execOldKeyExpiry (t : State) : Host.Outcome State Fault Refusal := .next (finish t t.oldKeyExpiry)

/-- SURVEY_END (R249). -/
def execSurveyEnd (t : State) : Host.Outcome State Fault Refusal := .next (finish t t.surveyEnd)

/-! ## Counters and balls (R389, R399) -/

/-- Counter `i` counts: EN is 1, GCTL is 0 or RUN is 1, and its source is one that counts (R383, R384). -/
def State.counting (s : State) (i : Nat) : Bool :=
  let k := s.per.cnt.at i
  s.running && !counterOff s.twin i && bit k.cfg 6 && (!bit k.cfg 7 || bit k.cfg 8) &&
    decide (bits k.cfg 0 6 ≠ 0)

/-- CNT_OVERFLOW (R389). -/
def execCntOverflow (i : Fin 24) (t : State) : Host.Outcome State Fault Refusal :=
  .next (finish t (if t.counting i then t.wrapCounter i else t))

/-- The level applied to ball `b` changes: the Porch judges an edge of a PA ball as a wake source (R291), and the
resynchronisers take it (R399). (DESIGN CHOICE, unsafe:
assumption 10.) -/
def State.pinEdge (s : State) (b : Nat) (rise : Bool) : State :=
  let old := ballLevel s b
  let s := s.onPin fun p => { p with lvl := setBit p.lvl b rise }
  let l := ballLevel s b
  let s := if s.powered && (l != old) then s.porchEdge b l else s
  if s.running && (l != bit s.per.pin.inp b) then s.ballEdge b l else s

/-- PIN_EDGE (R399). -/
def execPinEdge (b : Fin 96) (rise : Bool) (t : State) : Host.Outcome State Fault Refusal :=
  .next (finish t (t.pinEdge b rise))

/-! ## Peg port (R364-R378) -/

/-- PEG_READ (R369). -/
def execPegRead (addr : BitVec 8) (t : State) : Host.Outcome State Fault Refusal :=
  .next (finish t (t.pegRead addr))

/-- PEG_WRITE (R368). -/
def execPegWrite (addr : BitVec 8) (data : Word) (crc : BitVec 8) (t : State) :
    Host.Outcome State Fault Refusal :=
  .next (finish t (t.pegWrite addr data crc))

/-- PEG_WRITE_COMPLETE (R368). -/
def execPegWriteComplete (t : State) : Host.Outcome State Fault Refusal :=
  .next (finish t (t.awake fun s => s.onPeg fun p => { p with writing := false }))

/-- READ_STATUS (R365). -/
def execReadStatus (addr : BitVec 8) (t : State) : Host.Outcome State Fault Refusal :=
  .next (finish t (t.readStatus addr))

/-- BEGIN_SESSION (R373). -/
def execBeginSession (addr : BitVec 8) (nonce : Word) (crc : BitVec 8) (t : State) :
    Host.Outcome State Fault Refusal :=
  .next (finish t (t.pegBegin addr nonce crc))

/-- SESSION_RESPONSE (R373). -/
def execSessionResponse (idx : BitVec 8) (data : Word) (crc : BitVec 8) (t : State) :
    Host.Outcome State Fault Refusal :=
  .next (finish t (t.pegRespond idx data crc))

/-- PEG_SESSION_CHECK (R373). -/
def execPegSessionCheck (t : State) : Host.Outcome State Fault Refusal :=
  .next (finish t (t.awake State.sessCheck))

/-- PEG_BAD_COMMAND (R365). -/
def execPegBadCommand (cmd : BitVec 8) (t : State) : Host.Outcome State Fault Refusal :=
  .next (finish t (t.pegBad cmd))

/-- PEG_FRAME_CUT (R368). -/
def execPegFrameCut (t : State) : Host.Outcome State Fault Refusal := .next (finish t t.pegCut)

/-- PEG_SESSION_TIMEOUT (R374). -/
def execPegSessionTimeout (t : State) : Host.Outcome State Fault Refusal :=
  .next (finish t (t.awake fun s => if s.peg.sessionOpen then s.onPeg Peg.close else s))

/-- The operation of PEG_CMD ends, and a key that it wrote is whole (R171, R377). -/
def State.pegDone (s : State) : State :=
  let s := if s.peg.cmd.busy && decide (s.peg.cmd.op = 4) then s.onRp fun r => { r with keyWrite := none } else s
  s.onPeg Peg.cmdDone

/-- PEG_CMD_COMPLETE (R377). -/
def execPegCmdComplete (t : State) : Host.Outcome State Fault Refusal :=
  .next (finish t (t.awake State.pegDone))

/-- PEG_UPD_PREFETCH_DONE (R378). -/
def execPegUpdPrefetchDone (t : State) : Host.Outcome State Fault Refusal :=
  .next (finish t (t.awake State.updFetched))

end Sys2Proof.Machine
end

