-- ==== Sys2Proof/Machine/Mem.lean ====
section
/-! DEFINITION. Loads, stores, the stack instructions and the atomic instructions (R47, R64-R66). -/

namespace Sys2Proof.Machine

open Sys2Proof

/-- An access whose value `f` puts into the core; a fault leaves the registers as they were (R64, R66). -/
def Got.into (g : Got) (c : CoreId) (f : Nat → Core → Core) (pc : Word) (cycles : Nat) : Out :=
  ⟨if g.exn = none then g.s.onCore c (f g.v) else g.s, g.exn, g.unc, pc, cycles⟩

/-- A load of `n` bytes at `a`, widened by `w` into Wd. -/
def State.loads (s : State) (c : CoreId) (halves n : Nat) (a : Core → Word) (w : Nat → Word)
    (d : Reg) : State :=
  s.instr c halves fun s =>
    (s.load c (a s.cores[c]).toNat n).into c (fun v k => k.setR d (w v)) (s.nextPc c halves) 1

/-- A store of the low `n` bytes of Wd at `a`. -/
def State.stores (s : State) (c : CoreId) (halves n : Nat) (a : Core → Word) (d : Reg) : State :=
  s.instr c halves fun s =>
    (s.storeBytes c (a s.cores[c]).toNat n (s.cores[c].r d).toNat).into c (fun _ k => k)
      (s.nextPc c halves) 1

/-- The address Wa + s16 of the 32-bit forms (R56, R64). -/
def offsetAddr (a : Reg) (imm : BitVec 16) (k : Core) : Word := k.r a + imm.signExtend 32

/-- A value zero-extended to a word. -/
def zeroExt (v : Nat) : Word := BitVec.ofNat 32 v

/-- A byte sign-extended to a word. -/
def signByte (v : Nat) : Word := (BitVec.ofNat 8 v).signExtend 32

/-- A halfword sign-extended to a word. -/
def signHalf (v : Nat) : Word := (BitVec.ofNat 16 v).signExtend 32

/-- PUSH: the old value of Ws is stored before W15 changes (R66). -/
def State.push (s : State) (c : CoreId) (r : Reg) : State :=
  s.instr c 1 fun s =>
    let sp := s.cores[c].r 15 - 4#32
    (s.storeBytes c sp.toNat 4 (s.cores[c].r r).toNat).into c (fun _ k => k.setR 15 sp)
      (s.nextPc c 1) 1

/-- POP: W15 moves on before Wd is written (R66). -/
def State.pop (s : State) (c : CoreId) (d : Reg) : State :=
  s.instr c 1 fun s =>
    let sp := s.cores[c].r 15
    (s.load c sp.toNat 4).into c (fun v k => (k.setR 15 (sp + 4#32)).setR d (zeroExt v))
      (s.nextPc c 1) 1

/-- An atomic access of the word at `a`: `f` makes the new word, and the old one goes to Wd (R47). -/
def State.atomics (s : State) (c : CoreId) (halves : Nat) (a : Reg) (f : Core → Word → Word)
    (d : Reg) : State :=
  s.instr c halves fun s =>
    (s.atomic c (s.cores[c].r a).toNat (f s.cores[c])).into c (fun v k => k.setR d (zeroExt v))
      (s.nextPc c halves) 2

/-- LDB Wd, [Ws] (R64). -/
def execLdb (c : CoreId) (d s : Reg) (t : State) :
    Host.Outcome State Fault Refusal :=
  .next (finish t (t.loads c 1 1 (fun k => k.r s) zeroExt d))

/-- LDH Wd, [Ws] (R64). -/
def execLdh (c : CoreId) (d s : Reg) (t : State) :
    Host.Outcome State Fault Refusal :=
  .next (finish t (t.loads c 1 2 (fun k => k.r s) zeroExt d))

/-- LDW Wd, [Ws] (R64). -/
def execLdw (c : CoreId) (d s : Reg) (t : State) :
    Host.Outcome State Fault Refusal :=
  .next (finish t (t.loads c 1 4 (fun k => k.r s) zeroExt d))

/-- STB Wd, [Ws] (R64). -/
def execStb (c : CoreId) (d s : Reg) (t : State) :
    Host.Outcome State Fault Refusal :=
  .next (finish t (t.stores c 1 1 (fun k => k.r s) d))

/-- STH Wd, [Ws] (R64). -/
def execSth (c : CoreId) (d s : Reg) (t : State) :
    Host.Outcome State Fault Refusal :=
  .next (finish t (t.stores c 1 2 (fun k => k.r s) d))

/-- STW Wd, [Ws] (R64). -/
def execStw (c : CoreId) (d s : Reg) (t : State) :
    Host.Outcome State Fault Refusal :=
  .next (finish t (t.stores c 1 4 (fun k => k.r s) d))

/-- LDB Wd, [Wa + s16] (R64). -/
def execLdbRri (c : CoreId) (d a : Reg) (imm : BitVec 16) (t : State) :
    Host.Outcome State Fault Refusal :=
  .next (finish t (t.loads c 2 1 (offsetAddr a imm) zeroExt d))

/-- LDBS Wd, [Wa + s16] (R64). -/
def execLdbs (c : CoreId) (d a : Reg) (imm : BitVec 16) (t : State) :
    Host.Outcome State Fault Refusal :=
  .next (finish t (t.loads c 2 1 (offsetAddr a imm) signByte d))

/-- LDH Wd, [Wa + s16] (R64). -/
def execLdhRri (c : CoreId) (d a : Reg) (imm : BitVec 16) (t : State) :
    Host.Outcome State Fault Refusal :=
  .next (finish t (t.loads c 2 2 (offsetAddr a imm) zeroExt d))

/-- LDHS Wd, [Wa + s16] (R64). -/
def execLdhs (c : CoreId) (d a : Reg) (imm : BitVec 16) (t : State) :
    Host.Outcome State Fault Refusal :=
  .next (finish t (t.loads c 2 2 (offsetAddr a imm) signHalf d))

/-- LDW Wd, [Wa + s16] (R64). -/
def execLdwRri (c : CoreId) (d a : Reg) (imm : BitVec 16) (t : State) :
    Host.Outcome State Fault Refusal :=
  .next (finish t (t.loads c 2 4 (offsetAddr a imm) zeroExt d))

/-- STB Wd, [Wa + s16] (R64). -/
def execStbRri (c : CoreId) (d a : Reg) (imm : BitVec 16) (t : State) :
    Host.Outcome State Fault Refusal :=
  .next (finish t (t.stores c 2 1 (offsetAddr a imm) d))

/-- STH Wd, [Wa + s16] (R64). -/
def execSthRri (c : CoreId) (d a : Reg) (imm : BitVec 16) (t : State) :
    Host.Outcome State Fault Refusal :=
  .next (finish t (t.stores c 2 2 (offsetAddr a imm) d))

/-- STW Wd, [Wa + s16] (R64). -/
def execStwRri (c : CoreId) (d a : Reg) (imm : BitVec 16) (t : State) :
    Host.Outcome State Fault Refusal :=
  .next (finish t (t.stores c 2 4 (offsetAddr a imm) d))

/-- LDWS Wd, #u8 (R66). -/
def execLdws (c : CoreId) (d : Reg) (imm : BitVec 8) (t : State) :
    Host.Outcome State Fault Refusal :=
  .next (finish t (t.loads c 1 4 (fun k => k.r 15 + 4#32 * imm.setWidth 32) zeroExt d))

/-- PUSH Ws (R66). -/
def execPush (c : CoreId) (s : Reg) (t : State) :
    Host.Outcome State Fault Refusal :=
  .next (finish t (t.push c s))

/-- POP Wd (R66). -/
def execPop (c : CoreId) (d : Reg) (t : State) :
    Host.Outcome State Fault Refusal :=
  .next (finish t (t.pop c d))

/-- XCHG Wd, [Ws] (R47, R66). -/
def execXchg (c : CoreId) (d s : Reg) (t : State) :
    Host.Outcome State Fault Refusal :=
  .next (finish t (t.atomics c 1 s (fun k _ => k.r d) d))

/-- ADDM Wd, [Wa], Wb (R47). -/
def execAddm (c : CoreId) (d a b : Reg) (t : State) :
    Host.Outcome State Fault Refusal :=
  .next (finish t (t.atomics c 2 a (fun k old => old + k.r b) d))

end Sys2Proof.Machine
end

