-- ==== Sys2Proof/Machine/Rows.lean ====
section
/-! DEFINITION. The commands that are accesses to registers. A row that names a register access carries its
agent; a Canvas core makes it as the access of an instruction that it is issuing, under the checks of R6 and
R7, and takes the exception that stops it; Ridgepole makes it while the core domain runs; and the host makes
it by a frame on the Peg port, where the register lies in the Peg map (R371, R381; assumption 18). -/

namespace Sys2Proof.Machine

open Sys2Proof

/-- A host write of a register at a Peg offset, as a WRITE frame with a correct CRC (R365). -/
def State.hostWrite (s : State) (k : Option Nat) (v : Word) : State :=
  match k with
  | some k =>
    let addr := BitVec.ofNat 8 k
    s.pegWrite addr v (crc8 ([0x02#8, addr] ++ wireBytes v))
  | none => s

/-- A write of a register at offset `o` of peripheral space, and at Peg offset `k`. (DEDUCED, unsafe:
assumption 18.) -/
def State.rowWrite (s : State) (a : Agent) (o : Nat) (k : Option Nat) (v : Word) : State :=
  match a with
  | .core c =>
    if s.issues c then
      match s.ioWriteFault c o v with
      | some f => s.takeException c (ioExn f) s.cores[c].pc []
      | none => s.busWrite a o v
    else s
  | .ridgepole => if s.running then s.busWrite a o v else s
  | .host => s.hostWrite k v

/-- A read of a register at offset `o` of peripheral space, and at Peg offset `k`: what it changes. -/
def State.rowRead (s : State) (a : Agent) (o : Nat) (k : Option Nat) : State :=
  match a with
  | .core c =>
    if s.issues c then
      match ioReadFault o with
      | some _ => s.takeException c { code := 3, region := true } s.cores[c].pc []
      | none => (s.busRead a o).1
    else s
  | .ridgepole => if s.running then (s.busRead a o).1 else s
  | .host =>
    match k with
    | some k => s.pegRead (BitVec.ofNat 8 k)
    | none => s

/-- The IRQ bank of an agent: its own (R189). -/
def irqBase (a : Agent) : Nat := ioIrq + 0x400 * agentBank a

/-- A write of IRQ by its agent; the host does not reach the block. -/
def State.irqRow (s : State) (a : Agent) (bank off : Nat) (v : Word) : State :=
  s.rowWrite a (ioIrq + 0x400 * bank + off) none v

/-- The mirror of a Peg register. -/
def pegOff (k : Nat) : Nat := ioPeg + 4 * k

/-- A Warden command: a write of OP to WDN_CMD (R109). -/
def State.wardenRow (s : State) (a : Agent) (op : Nat) : State :=
  s.rowWrite a ioWdn none (BitVec.ofNat 32 op)

/-- A Peg operation: a write of PEG_CMD (R377). -/
def State.pegCmdRow (s : State) (a : Agent) (op arg : Nat) : State :=
  s.rowWrite a (pegOff 0xD0) (some 0xD0) (field 0 op ||| field 4 arg)

/-! ## Interrupt controllers -/

/-- IRQ_EOI of the agent's own bank (R186). -/
def execIrqEoi (a : Agent) (v : Word) (t : State) : Host.Outcome State Fault Refusal :=
  .next (finish t (t.rowWrite a (irqBase a + 0x08) none v))

/-- IRQ_SWSET (R190). -/
def execIrqSwset (a : Agent) (v : Word) (t : State) : Host.Outcome State Fault Refusal :=
  .next (finish t (t.rowWrite a (irqBase a + 0x0C) none v))

/-- IRQ_ENn (R188). -/
def execIrqEnWrite (a : Agent) (bank : Fin 5) (n : Fin 4) (v : Word) (t : State) :
    Host.Outcome State Fault Refusal :=
  .next (finish t (t.irqRow a bank (0x10 + 4 * n) v))

/-- IRQ_PSETn (R206). -/
def execIrqPsetWrite (a : Agent) (bank : Fin 5) (n : Fin 4) (v : Word) (t : State) :
    Host.Outcome State Fault Refusal :=
  .next (finish t (t.irqRow a bank (0x30 + 4 * n) v))

/-- IRQ_PERMITn (R188). -/
def execIrqPermitWrite (a : Agent) (bank : Fin 4) (n : Fin 2) (v : Word) (t : State) :
    Host.Outcome State Fault Refusal :=
  .next (finish t (t.irqRow a bank (0xB0 + 4 * n) v))

/-- IRQ_LOSTn (R206). -/
def execIrqLostRead (a : Agent) (bank : Fin 5) (n : Fin 4) (t : State) :
    Host.Outcome State Fault Refusal :=
  .next (finish t (t.rowRead a (ioIrq + 0x400 * bank.val + 0xA0 + 4 * n) none))

/-! ## The Guyline router -/

/-- EVT_SWFIRE (R203). -/
def execEvtSwfire (a : Agent) (v : Word) (t : State) : Host.Outcome State Fault Refusal :=
  .next (finish t (t.rowWrite a (ioEvt + 8) none v))

/-- EVT_CONSn (R200). -/
def execEvtConsWrite (a : Agent) (n : Fin 96) (v : Word) (t : State) :
    Host.Outcome State Fault Refusal :=
  .next (finish t (t.rowWrite a (ioEvt + 0x200 + 4 * n) none v))

/-- EVT_CHn_CFG (R200). -/
def execEvtChCfgWrite (a : Agent) (n : Fin 64) (v : Word) (t : State) :
    Host.Outcome State Fault Refusal :=
  .next (finish t (t.rowWrite a (ioEvt + 0x100 + 4 * n) none v))

/-- EVT_TRELn (R200). -/
def execEvtTrelWrite (a : Agent) (n : Fin 16) (v : Word) (t : State) :
    Host.Outcome State Fault Refusal :=
  .next (finish t (t.rowWrite a (ioEvt + 0x380 + 4 * n) none v))

/-- EVT_POUTn (R200). -/
def execEvtPoutWrite (a : Agent) (n : Fin 8) (v : Word) (t : State) :
    Host.Outcome State Fault Refusal :=
  .next (finish t (t.rowWrite a (ioEvt + 0x3C0 + 4 * n) none v))

/-- EVT_FIREDn (R202). -/
def execEvtFiredClear (a : Agent) (n : Fin 2) (v : Word) (t : State) :
    Host.Outcome State Fault Refusal :=
  .next (finish t (t.rowWrite a (ioEvt + 0x10 + 4 * n) none v))

/-- EVT_COVRn (R207). -/
def execEvtCovrClear (a : Agent) (n : Fin 3) (v : Word) (t : State) :
    Host.Outcome State Fault Refusal :=
  .next (finish t (t.rowWrite a (ioEvt + 0x20 + 4 * n) none v))

/-! ## The Warden -/

/-- Warden command 1 (R109). -/
def execObjDeclare (a : Agent) (t : State) : Host.Outcome State Fault Refusal :=
  .next (finish t (t.wardenRow a 1))

/-- Warden command 2 (R109). -/
def execObjRelease (a : Agent) (t : State) : Host.Outcome State Fault Refusal :=
  .next (finish t (t.wardenRow a 2))

/-- Warden command 3 (R109). -/
def execObjRights (a : Agent) (t : State) : Host.Outcome State Fault Refusal :=
  .next (finish t (t.wardenRow a 3))

/-- Warden command 4 (R127). -/
def execTskDeclare (a : Agent) (t : State) : Host.Outcome State Fault Refusal :=
  .next (finish t (t.wardenRow a 4))

/-- Warden command 5 (R127). -/
def execTskRelease (a : Agent) (t : State) : Host.Outcome State Fault Refusal :=
  .next (finish t (t.wardenRow a 5))

/-- Warden command 6 (R115). -/
def execJnlPurge (a : Agent) (t : State) : Host.Outcome State Fault Refusal :=
  .next (finish t (t.wardenRow a 6))

/-- A WDN_CMD write whose OP is outside the table (R109). -/
def execWardenBadOp (a : Agent) (op : BitVec 4) (t : State) : Host.Outcome State Fault Refusal :=
  .next (finish t (if 1 ≤ op.toNat ∧ op.toNat ≤ 6 then t else t.wardenRow a op.toNat))

/-- WDN_OBJ_SEL (R108). -/
def execWdnObjSelWrite (a : Agent) (v : Word) (t : State) : Host.Outcome State Fault Refusal :=
  .next (finish t (t.rowWrite a (ioWdn + 0x10) none v))

/-- WDN_TSK_SEL (R108). -/
def execWdnTskSelWrite (a : Agent) (v : Word) (t : State) : Host.Outcome State Fault Refusal :=
  .next (finish t (t.rowWrite a (ioWdn + 0x40) none v))

/-- WDN_POL (R121). -/
def execWdnPolWrite (a : Agent) (v : Word) (t : State) : Host.Outcome State Fault Refusal :=
  .next (finish t (t.rowWrite a (ioWdn + 0x80) none v))

/-- WDN_EPOCH (R121). -/
def execWdnEpochWrite (a : Agent) (v : Word) (t : State) : Host.Outcome State Fault Refusal :=
  .next (finish t (t.rowWrite a (ioWdn + 0x84) none v))

/-- WDN_LIM (R121). -/
def execWdnLimWrite (a : Agent) (v : Word) (t : State) : Host.Outcome State Fault Refusal :=
  .next (finish t (t.rowWrite a (ioWdn + 0x88) none v))

/-- WDN_EPOCH_LIM (R121). -/
def execWdnEpochLimWrite (a : Agent) (v : Word) (t : State) : Host.Outcome State Fault Refusal :=
  .next (finish t (t.rowWrite a (ioWdn + 0x8C) none v))

/-- WDN_RET_SB or WDN_RETIRE (R133, R134). -/
def execWdnRetireWrite (a : Agent) (sb : Bool) (v : Word) (t : State) :
    Host.Outcome State Fault Refusal :=
  .next (finish t (t.rowWrite a (ioWdn + (if sb then 0x98 else 0x9C)) none v))

/-! ## Memory, power and clock, ITG -/

/-- MEM_BANK_WEAR_LO (R90). -/
def execMemBankWearLoRead (a : Agent) (t : State) : Host.Outcome State Fault Refusal :=
  .next (finish t (t.rowRead a (ioMem + 0xC8) none))

/-- MEM_CONFn (R89). -/
def execMemConfRead (a : Agent) (n : Fin 9) (t : State) : Host.Outcome State Fault Refusal :=
  .next (finish t (t.rowRead a (ioMem + 0x80 + 4 * n) none))

/-- MEM_CONF_SAT (R102). -/
def execMemConfSatRead (a : Agent) (t : State) : Host.Outcome State Fault Refusal :=
  .next (finish t (t.rowRead a (ioMem + 0xA4) none))

/-- PWR_OPP.VPT (R286). -/
def execVptWrite (a : Agent) (v : Word) (t : State) : Host.Outcome State Fault Refusal :=
  .next (finish t (t.rowWrite a (0x28) none v))

/-- CLK_DIV (R286). -/
def execClkDivWrite (a : Agent) (v : Word) (t : State) : Host.Outcome State Fault Refusal :=
  .next (finish t (t.rowWrite a (0x1008) none v))

/-- ITG_LOG_SEL (R163). -/
def execItgLogSelWrite (a : Agent) (v : Word) (t : State) : Host.Outcome State Fault Refusal :=
  .next (finish t (t.rowWrite a (ioItg + 0x0C) (some 0x53) v))

/-! ## Cell and harvest -/

/-- HRV_CTL (R266). -/
def execHrvCtlWrite (a : Agent) (v : Word) (t : State) : Host.Outcome State Fault Refusal :=
  .next (finish t (t.rowWrite a (ioHrv + 0x08) none v))

/-- HRV_PROT (R264). -/
def execHrvProtWrite (a : Agent) (v : Word) (t : State) : Host.Outcome State Fault Refusal :=
  .next (finish t (t.rowWrite a (ioHrv + 0x0C) none v))

/-- HRV_TLIM (R264). -/
def execHrvTlimWrite (a : Agent) (v : Word) (t : State) : Host.Outcome State Fault Refusal :=
  .next (finish t (t.rowWrite a (ioHrv + 0x10) none v))

/-- HRV_CHG (R267). -/
def execHrvChgWrite (a : Agent) (v : Word) (t : State) : Host.Outcome State Fault Refusal :=
  .next (finish t (t.rowWrite a (ioHrv + 0x14) none v))

/-- HRV_CAP (R273). -/
def execHrvCapWrite (a : Agent) (v : Word) (t : State) : Host.Outcome State Fault Refusal :=
  .next (finish t (t.rowWrite a (ioHrv + 0x20) none v))

/-- HRV_LCHG (R273). -/
def execHrvLchgWrite (a : Agent) (v : Word) (t : State) : Host.Outcome State Fault Refusal :=
  .next (finish t (t.rowWrite a (ioHrv + 0x40) none v))

/-- HRV_RES, HRV_KIN or HRV_BLZ (R275). -/
def execHrvThresholdWrite (a : Agent) (n : Fin 3) (v : Word) (t : State) :
    Host.Outcome State Fault Refusal :=
  .next (finish t (t.rowWrite a (ioHrv + 0x24 + 4 * n) none v))

/-! ## Calendar clock -/

/-- MODE as it stands, for a write of RTC_CTL that sets one other bit (R331). -/
def State.rtcMode (s : State) : Word := flagAt 0 s.per.rtc.modeReg

/-- RTC_CTL.STEP (R318). -/
def execRtcStep (a : Agent) (t : State) : Host.Outcome State Fault Refusal :=
  .next (finish t (t.rowWrite a (ioRtc) none (t.rtcMode ||| 4#32)))

/-- RTC_CTL.REL (R317). -/
def execRtcRel (a : Agent) (t : State) : Host.Outcome State Fault Refusal :=
  .next (finish t (t.rowWrite a (ioRtc) none (t.rtcMode ||| 2#32)))

/-- RTC_CTL.SWCLR (R327). -/
def execRtcSwclr (a : Agent) (t : State) : Host.Outcome State Fault Refusal :=
  .next (finish t (t.rowWrite a (ioRtc) none (t.rtcMode ||| 8#32)))

/-- RTC_CTL.MODE (R316). -/
def execRtcModeWrite (a : Agent) (v : Word) (t : State) : Host.Outcome State Fault Refusal :=
  .next (finish t (t.rowWrite a (ioRtc) none (v &&& 1#32)))

/-- RTC_SLEW (R321). -/
def execRtcSlewWrite (a : Agent) (v : Word) (t : State) : Host.Outcome State Fault Refusal :=
  .next (finish t (t.rowWrite a (ioRtc + 0x2C) none v))

/-- A time register of the RTC (R317). -/
def execRtcTimeRead (a : Agent) (reg : Fin 5) (t : State) : Host.Outcome State Fault Refusal :=
  .next (finish t (t.rowRead a (ioRtc + 0x10 + 4 * reg) (some (0x44 + reg))))

/-- RTC_ECAP_HI (R324). -/
def execRtcEcapHiRead (a : Agent) (t : State) : Host.Outcome State Fault Refusal :=
  .next (finish t (t.rowRead a (ioRtc + 0x4C) none))

/-! ## Timers -/

/-- TIMn_CNT (R302). -/
def execTimerCntWrite (a : Agent) (n : Fin 12) (v : Word) (t : State) :
    Host.Outcome State Fault Refusal :=
  .next (finish t (t.rowWrite a (ioTim + 0x100 * n + 0x0C) none v))

/-- TIMn_CNT (R307). -/
def execTimerCntRead (a : Agent) (n : Fin 12) (t : State) : Host.Outcome State Fault Refusal :=
  .next (finish t (t.rowRead a (ioTim + 0x100 * n + 0x0C) none))

/-- TIMn_CMPk (R304). -/
def execTimerCmpWrite (a : Agent) (n : Fin 12) (k : Fin 4) (v : Word) (t : State) :
    Host.Outcome State Fault Refusal :=
  .next (finish t (t.rowWrite a (ioTim + 0x100 * n + 0x24 + 0x10 * k) none v))

/-- TIMn_STAG (R306). -/
def execTimerStagWrite (a : Agent) (n : Fin 12) (v : Word) (t : State) :
    Host.Outcome State Fault Refusal :=
  .next (finish t (t.rowWrite a (ioTim + 0x100 * n + 0x18) none v))

/-- TIMn_CTL (R307). -/
def execTimerCtlWrite (a : Agent) (n : Fin 12) (v : Word) (t : State) :
    Host.Outcome State Fault Refusal :=
  .next (finish t (t.rowWrite a (ioTim + 0x100 * n) none v))

/-! ## Serial lines -/

/-- UAn_RX (R344). -/
def execUaRxRead (a : Agent) (n : Fin 4) (t : State) : Host.Outcome State Fault Refusal :=
  .next (finish t (t.rowRead a (ioUa + 0x100 * n + 0x1C) none))

/-- UAn_TX (R344). -/
def execUaTxWrite (a : Agent) (n : Fin 4) (v : Word) (t : State) : Host.Outcome State Fault Refusal :=
  .next (finish t (t.rowWrite a (ioUa + 0x100 * n + 0x20) none v))

/-- UAn_DIV (R334). -/
def execUaDivWrite (a : Agent) (n : Fin 4) (v : Word) (t : State) : Host.Outcome State Fault Refusal :=
  .next (finish t (t.rowWrite a (ioUa + 0x100 * n + 0x04) none v))

/-- UAn_QCFG (R340). -/
def execUaQcfgWrite (a : Agent) (n : Fin 4) (v : Word) (t : State) : Host.Outcome State Fault Refusal :=
  .next (finish t (t.rowWrite a (ioUa + 0x100 * n + 0x08) none v))

/-- UAn_CTL (R347). -/
def execUaCtlWrite (a : Agent) (n : Fin 4) (v : Word) (t : State) : Host.Outcome State Fault Refusal :=
  .next (finish t (t.rowWrite a (ioUa + 0x100 * n) none v))

/-- UAn_ERRCNT (R342). -/
def execUaErrcntRead (a : Agent) (n : Fin 4) (t : State) : Host.Outcome State Fault Refusal :=
  .next (finish t (t.rowRead a (ioUa + 0x100 * n + 0x24) none))

/-! ## Touch panel -/

/-- TCH_CMD.START (R358). -/
def execTchStart (a : Agent) (t : State) : Host.Outcome State Fault Refusal :=
  .next (finish t (t.rowWrite a (ioTch + 0x0C) none 1#32))

/-- TCH_CMD.REBASE (R356). -/
def execTchRebase (a : Agent) (t : State) : Host.Outcome State Fault Refusal :=
  .next (finish t (t.rowWrite a (ioTch + 0x0C) none 2#32))

/-! ## Radio and network -/

/-- RF_FREQ, RF_RATE, RF_SYNC, RF_TXPWR or RF_LBT (R225). -/
def execRfConfigWrite (a : Agent) (reg : Fin 5) (v : Word) (t : State) :
    Host.Outcome State Fault Refusal :=
  .next (finish t (t.rowWrite a (ioRf + 0x10 + 4 * reg) none v))

/-- RF_CTL (R219). -/
def execRfCtlWrite (a : Agent) (v : Word) (t : State) : Host.Outcome State Fault Refusal :=
  .next (finish t (t.rowWrite a (ioRf) none v))

/-- RF_ABORTS (R226). -/
def execRfAbortsRead (a : Agent) (t : State) : Host.Outcome State Fault Refusal :=
  .next (finish t (t.rowRead a (ioRf + 0x30) none))

/-- RF_RXERR (R226). -/
def execRfRxerrRead (a : Agent) (t : State) : Host.Outcome State Fault Refusal :=
  .next (finish t (t.rowRead a (ioRf + 0x38) none))

/-- NET_CMD SEND (R253). -/
def execNetCmdSend (a : Agent) (t : State) : Host.Outcome State Fault Refusal :=
  .next (finish t (t.rowWrite a (ioNet + 0x2C) none 1#32))

/-- NET_CMD JOIN (R247). -/
def execNetCmdJoin (a : Agent) (t : State) : Host.Outcome State Fault Refusal :=
  .next (finish t (t.rowWrite a (ioNet + 0x2C) none 2#32))

/-- NET_CMD LEAVE (R259). -/
def execNetCmdLeave (a : Agent) (t : State) : Host.Outcome State Fault Refusal :=
  .next (finish t (t.rowWrite a (ioNet + 0x2C) none 3#32))

/-- NET_CMD SURVEY (R249). -/
def execNetCmdSurvey (a : Agent) (t : State) : Host.Outcome State Fault Refusal :=
  .next (finish t (t.rowWrite a (ioNet + 0x2C) none 4#32))

/-- NET_CMD ADMIT (R247). -/
def execNetCmdAdmit (a : Agent) (t : State) : Host.Outcome State Fault Refusal :=
  .next (finish t (t.rowWrite a (ioNet + 0x2C) none 5#32))

/-- NET_CMD KEYSET (R246). -/
def execNetCmdKeyset (a : Agent) (t : State) : Host.Outcome State Fault Refusal :=
  .next (finish t (t.rowWrite a (ioNet + 0x2C) none 6#32))

/-- NET_CMD KEYUSE (R246). -/
def execNetCmdKeyuse (a : Agent) (t : State) : Host.Outcome State Fault Refusal :=
  .next (finish t (t.rowWrite a (ioNet + 0x2C) none 7#32))

/-- NET_CTL, EN included (R228). -/
def execNetEnWrite (a : Agent) (v : Word) (t : State) : Host.Outcome State Fault Refusal :=
  .next (finish t (t.rowWrite a (ioNet) none v))

/-- NET_CNT0, NET_CNT1 or NET_CNT2 (R259). -/
def execNetCntRead (a : Agent) (n : Fin 3) (t : State) : Host.Outcome State Fault Refusal :=
  .next (finish t (t.rowRead a (ioNet + 0x60 + 4 * n) (some (0xA1 + n))))

/-! ## Event counters -/

/-- CNT_CMD.CAP (R388). -/
def execCntCapture (a : Agent) (t : State) : Host.Outcome State Fault Refusal :=
  .next (finish t (t.rowWrite a (ioCnt + 8) none 1#32))

/-- The LO register of counter i (R387). -/
def execCntLoWrite (a : Agent) (i : Fin 24) (v : Word) (t : State) : Host.Outcome State Fault Refusal :=
  .next (finish t (t.rowWrite a (ioCnt + 0x104 + 32 * i) none v))

/-- The HI register of counter i (R387). -/
def execCntHiWrite (a : Agent) (i : Fin 24) (v : Word) (t : State) : Host.Outcome State Fault Refusal :=
  .next (finish t (t.rowWrite a (ioCnt + 0x108 + 32 * i) none v))

/-- The LO register of counter i (R387). -/
def execCntLoRead (a : Agent) (i : Fin 24) (t : State) : Host.Outcome State Fault Refusal :=
  .next (finish t
    (t.rowRead a (ioCnt + 0x104 + 32 * i) (if 16 ≤ i.val then some (0xE0 + 2 * (i.val - 16)) else none)))

/-! ## Balls -/

/-- PIN_OUTp (R397). -/
def execPinOutWrite (a : Agent) (p : Fin 6) (v : Word) (t : State) : Host.Outcome State Fault Refusal :=
  .next (finish t (t.rowWrite a (ioPinOut + 4 * p) none v))

/-- PIN_HOLD (R397). -/
def execPinHoldWrite (a : Agent) (v : Word) (t : State) : Host.Outcome State Fault Refusal :=
  .next (finish t (t.rowWrite a (ioPin + 0x30) none v))

/-- PIN_BALLn (R397). -/
def execPinBallWrite (a : Agent) (n : Fin 96) (v : Word) (t : State) :
    Host.Outcome State Fault Refusal :=
  .next (finish t (t.rowWrite a (ioPin + 0x100 + 4 * n) none v))

/-! ## The Peg map -/

/-- PEG_SESS.CLOSE (R374). -/
def execPegSessClose (a : Agent) (t : State) : Host.Outcome State Fault Refusal :=
  .next (finish t (t.rowWrite a (pegOff 0xCB) (some 0xCB) 0x100#32))

/-- PEG_H2D3 (R376). -/
def execPegH2d3Write (a : Agent) (v : Word) (t : State) : Host.Outcome State Fault Refusal :=
  .next (finish t (t.rowWrite a (pegOff 0xC3) (some 0xC3) v))

/-- PEG_D2H3 (R376). -/
def execPegD2h3Write (a : Agent) (v : Word) (t : State) : Host.Outcome State Fault Refusal :=
  .next (finish t (t.rowWrite a (pegOff 0xC7) (some 0xC7) v))

/-- PEG_MBSTAT (R376). -/
def execPegMbstatWrite (a : Agent) (v : Word) (t : State) : Host.Outcome State Fault Refusal :=
  .next (finish t (t.rowWrite a (pegOff 0xC8) (some 0xC8) v))

/-- PEG_CMD RESET (R377). -/
def execPegReset (a : Agent) (t : State) : Host.Outcome State Fault Refusal :=
  .next (finish t (t.pegCmdRow a 1 0))

/-- PEG_CMD GS_WRITE (R377). -/
def execGsWrite (a : Agent) (t : State) : Host.Outcome State Fault Refusal :=
  .next (finish t (t.pegCmdRow a 2 0))

/-- PEG_CMD IMG_SWITCH (R377). -/
def execPegImgSwitch (a : Agent) (arg : BitVec 4) (t : State) : Host.Outcome State Fault Refusal :=
  .next (finish t (t.pegCmdRow a 3 arg.toNat))

/-- PEG_CMD KEY_SET (R377). -/
def execKeySet (a : Agent) (arg : BitVec 4) (t : State) : Host.Outcome State Fault Refusal :=
  .next (finish t (t.pegCmdRow a 4 arg.toNat))

/-- PEG_CMD with an OP outside the table (R377). -/
def execPegCmdBadOp (a : Agent) (op : BitVec 4) (t : State) : Host.Outcome State Fault Refusal :=
  .next (finish t (if 1 ≤ op.toNat ∧ op.toNat ≤ 4 then t else t.pegCmdRow a op.toNat 0))

/-- PEG_UPD_ADDR (R378). -/
def execPegUpdAddrWrite (a : Agent) (v : Word) (t : State) : Host.Outcome State Fault Refusal :=
  .next (finish t (t.rowWrite a (pegOff 0xD1) (some 0xD1) v))

/-- PEG_UPD_DATA (R378). -/
def execPegUpdDataWrite (a : Agent) (v : Word) (t : State) : Host.Outcome State Fault Refusal :=
  .next (finish t (t.rowWrite a (pegOff 0xD2) (some 0xD2) v))

/-- PEG_UPD_DATA (R378). -/
def execPegUpdDataRead (a : Agent) (t : State) : Host.Outcome State Fault Refusal :=
  .next (finish t (t.rowRead a (pegOff 0xD2) (some 0xD2)))

/-! ## Any register -/

/-- SRAM bank of a physical address is off (R86). -/
def State.offAt (s : State) (a : Nat) : Bool := inSram a && !bit s.mm.sbOn ((a - sramBase) / 0x8000)

/-- One beat of a write by Ridgepole to the physical map: a bank that is off discards it and sets OFFACC, the ROM
discards it, and one outside every region is logged (R7, R73, R74, R86). (DEDUCED, unsafe: assumption 98.) -/
def State.physBeat (s : State) (a : Nat) (bs : List Byte) : State :=
  if s.offAt a then s.onMm fun r => { r with stat := setBit r.stat 3 true }
  else if inRom a then s
  else if (bankOf a).isSome then
    let b := (s.store ridgepoleMaster a bs)
    (((b.s.noteCollision a bs.length).conflict ridgepoleMaster).useFree 1).reactUnc (Config.freeWord b.s.free) b.unc
  else s.ridgeOutside a

/-- One beat of a write by Ridgepole in the object window, through its lookaside; a miss that finds no object is
logged (R7, R111). -/
def State.windowBeat (s : State) (a : Nat) (bs : List Byte) : State :=
  match s.wdn.index a with
  | some i => (((s.lookUp ridgepoleMaster i).invalidateCode i a bs.length).physBeat
      ((s.objAt i).translate a) bs)
  | none => s.ridgeOutside a

/-- A write of the word at an address by Ridgepole: a register where the address lies in peripheral space, which
takes no unaligned access, and memory in beats elsewhere (R7, R73, R77). -/
def State.ridgeWrite (s : State) (a : Nat) (v : Word) : State :=
  if inPeriph a then (if a % 4 = 0 then s.busWrite .ridgepole (a - periphBase) v else s)
  else
    let bs := bytesOf v
    let k := firstBeat a 4
    let beat := fun (s : State) (a : Nat) (bs : List Byte) =>
      if inObjWindow a then s.windowBeat a bs else s.physBeat a bs
    let t := beat s a (bs.take k)
    if k = 4 ∨ t.rp.mode ≠ s.rp.mode then t else beat t (a + k) (bs.drop k)

/-- A write of the word at an address by any agent: a Canvas core as a store of one word, Ridgepole to the
whole map, and the host to the Peg map by its offset (R2, R3, R6, R7). -/
def State.anyWrite (s : State) (a : Agent) (addr v : Word) : State :=
  let n := addr.toNat
  match a with
  | .core c =>
    if s.issues c then
      let g := s.storeBytes c n 4 v.toNat
      match g.exn with
      | some x => g.s.takeException c x s.cores[c].pc g.unc
      | none => g.s.aftermath c s.cores[c].pc g.unc false
    else s
  | .ridgepole => if s.running then s.ridgeWrite n v else s
  | .host => s.hostWrite (if n < 256 then some n else none) v

/-- A write to a register that has no row of its own (R2). -/
def execRegisterWrite (a : Agent) (addr v : Word) (t : State) : Host.Outcome State Fault Refusal :=
  .next (finish t (t.anyWrite a addr v))

end Sys2Proof.Machine
end

