-- ==== Sys2Proof/Machine/Strings.lean ====
section
/-! DEFINITION. The string instructions and their prefixes (R42, R43, R69, R70). -/

namespace Sys2Proof.Machine

open Sys2Proof

/-- The four string operations (R55). -/
inductive StringOp where
  | movs
  | cmps
  | scns
  | fils
  deriving DecidableEq, Repr

/-- The pattern of SCNS and FILS: the low `n` bytes of W4 (R42). -/
def Core.pattern (k : Core) (n : Nat) : Nat := (k.r 4).toNat % 256 ^ n

/-- W1 moves on by the element size. -/
def Core.stepSrc (k : Core) (n : Nat) : Core := k.setR 1 (k.r 1 + BitVec.ofNat 32 n)

/-- W2 moves on by the element size. -/
def Core.stepDst (k : Core) (n : Nat) : Core := k.setR 2 (k.r 2 + BitVec.ofNat 32 n)

/-- The core after a compare of two elements. -/
def Core.compare (k : Core) (n a b : Nat) : Core := k.setF (compareFlags k.flg n a b)

/-- A second access of an element. It follows a first that did not fault; after one that did it is not made,
and `fault`, what would stop it, counts only where it outranks the first's exception (R23). -/
def Got.andThen (g : Got) (fault : State → Option Exn) (f : State → Got) : Got :=
  if g.exn = none then
    let h := f g.s
    { h with unc := g.unc ++ h.unc }
  else { g with exn := worst g.exn (fault g.s) }

/-- The accesses of one element have succeeded: `f` rewrites the core. -/
def Got.done (g : Got) (c : CoreId) (f : Core → Core) : Got :=
  if g.exn = none then { g with s := g.s.onCore c f } else g

/-- One element of a string instruction (R42, R70). (DEDUCED, unsafe: assumption 28.) -/
def State.element (s : State) (c : CoreId) (op : StringOp) (n : Nat) : Got :=
  let k := s.cores[c]
  let src := (k.r 1).toNat
  let dst := (k.r 2).toNat
  match op with
  | .movs =>
    let g := s.load c src n
    (g.andThen (fun s => s.storeFault c dst n g.v) fun s => s.storeBytes c dst n g.v).done c
      fun k => (k.stepSrc n).stepDst n
  | .fils => (s.storeBytes c dst n (k.pattern n)).done c fun k => k.stepDst n
  | .cmps =>
    let g := s.load c src n
    let h := g.andThen (fun s => s.loadFault c dst n) fun s => s.load c dst n
    h.done c fun k => ((k.compare n g.v h.v).stepSrc n).stepDst n
  | .scns =>
    let g := s.load c src n
    g.done c fun k => (k.compare n g.v (k.pattern n)).stepSrc n

/-- The prefix ends the loop after an element (R42). -/
def stopsLoop (pre : RepPrefix) (flg : Word) : Bool :=
  match pre with
  | .repe => !flagZ flg
  | .repne => flagZ flg
  | _ => false

/-- Where a string instruction stands after its elements: the state, the exception, the uncorrectable
words, the elements completed and whether the loop has ended. -/
structure Run where
  s : State
  exn : Option Exn
  unc : List Nat
  done : Nat
  ended : Bool
  deriving DecidableEq, Repr

/-- The loop of R42, for at most so many elements. -/
def State.elements (s : State) (c : CoreId) (op : StringOp) (n : Nat) (pre : RepPrefix) : Nat → Run
  | 0 => ⟨s, none, [], 0, decide (s.cores[c].r 3 = 0#32)⟩
  | m + 1 =>
    if s.cores[c].r 3 = 0#32 then ⟨s, none, [], 0, true⟩
    else
      let g := s.element c op n
      match g.exn with
      | some x => ⟨g.s, some x, g.unc, 0, false⟩
      | none =>
        let t := g.s.onCore c fun k => k.setR 3 (k.r 3 - 1#32)
        if stopsLoop pre t.cores[c].flg then ⟨t, none, g.unc, 1, true⟩
        else
          let r := t.elements c op n pre m
          { r with unc := g.unc ++ r.unc, done := r.done + 1 }

/-- Issue cycles of one element (R58). -/
def elementCycles : StringOp → Nat
  | .movs => 2
  | .cmps => 2
  | .scns => 1
  | .fils => 1

/-- REPE and REPNE do not apply to MOVS and FILS (R22, R69). -/
def prefixLegal (op : StringOp) (pre : RepPrefix) : Bool :=
  match op, pre with
  | .movs, .repe => false
  | .movs, .repne => false
  | .fils, .repe => false
  | .fils, .repne => false
  | _, _ => true

/-- A string instruction without a prefix: one element, and W3 is not read (R42). -/
def State.stringBare (s : State) (c : CoreId) (op : StringOp) (n : Nat) : State :=
  s.instr c 1 fun s =>
    let g := s.element c op n
    ⟨if g.exn = none then g.s.countCore c 11 1 else g.s, g.exn, g.unc, s.nextPc c 1, elementCycles op⟩

/-- Elements of a prefixed string instruction that the core has begun: `first` is the issue cycle of
the prefix when it has just issued. At the loop point the core stands at the prefix (R42, R43, R59). -/
def State.stringGo (s : State) (c : CoreId) (op : StringOp) (n : Nat) (pre : RepPrefix) (m first : Nat) : State :=
  let pc := s.cores[c].pc
  let r := s.elements c op n pre m
  let t := r.s.countCore c 11 r.done
  let cycles := first + elementCycles op * r.done
  match r.exn with
  | some x => (t.spend c cycles).takeException c x pc r.unc
  | none =>
    if r.ended then
      ((t.onCore c fun k => { k with repOpen := false }).complete c (pc + 4#32) cycles).aftermath c pc
        r.unc false
    else ((t.onCore c fun k => { k with repOpen := true }).spend c cycles).aftermath c pc r.unc false

/-- A prefixed string instruction, for at most `m` elements. The unit is fetched when its prefix issues, and
a prefix that does not apply is illegal (R69). (DESIGN CHOICE, safe: assumption 86.) -/
def State.stringPrefixed (s : State) (c : CoreId) (op : StringOp) (n : Nat) (pre : RepPrefix) (m : Nat) :
    State :=
  if s.issues c then
    if s.cores[c].repOpen && prefixLegal op pre then s.stringGo c op n pre m 0
    else
      let pc := s.cores[c].pc
      let f := s.fetches c pc.toNat 2
      let x := worst f.exn (if prefixLegal op pre then none else some exnIllegal)
      match x with
      | some x => f.s.takeException c x pc f.unc
      | none => f.s.stringGo c op n pre m 1
  else s

/-- A string instruction with its prefix, for at most `m` elements. -/
def State.string (s : State) (c : CoreId) (op : StringOp) (size : ElemSize) (pre : RepPrefix) (m : Nat) : State :=
  match pre with
  | .bare => s.stringBare c op (elemBytes size)
  | _ => s.stringPrefixed c op (elemBytes size) pre m

/-- MOVS (R42, R70). -/
def execMovs (c : CoreId) (size : ElemSize) (pre : RepPrefix) (n : Nat) (t : State) :
    Host.Outcome State Fault Refusal :=
  .next (finish t (t.string c .movs size pre n))

/-- CMPS (R42). -/
def execCmps (c : CoreId) (size : ElemSize) (pre : RepPrefix) (n : Nat) (t : State) :
    Host.Outcome State Fault Refusal :=
  .next (finish t (t.string c .cmps size pre n))

/-- SCNS (R42). -/
def execScns (c : CoreId) (size : ElemSize) (pre : RepPrefix) (n : Nat) (t : State) :
    Host.Outcome State Fault Refusal :=
  .next (finish t (t.string c .scns size pre n))

/-- FILS (R42). -/
def execFils (c : CoreId) (size : ElemSize) (pre : RepPrefix) (n : Nat) (t : State) :
    Host.Outcome State Fault Refusal :=
  .next (finish t (t.string c .fils size pre n))

end Sys2Proof.Machine
end

