-- ==== Sys2Proof/Machine/Dispatch.lean ====
section
/-! DEFINITION. The meaning of each command, one arm for each constructor of `Instr`. -/

namespace Sys2Proof.Machine

open Sys2Proof

def exec (i : Instr) (s : State) : Host.Outcome State Fault Refusal :=
  match i with
  | .mov c d r => Sys2Proof.Machine.execMov c d r s
  | .add c d r => Sys2Proof.Machine.execAdd c d r s
  | .adc c d r => Sys2Proof.Machine.execAdc c d r s
  | .sub c d r => Sys2Proof.Machine.execSub c d r s
  | .sbc c d r => Sys2Proof.Machine.execSbc c d r s
  | .cmp c d r => Sys2Proof.Machine.execCmp c d r s
  | .neg c d r => Sys2Proof.Machine.execNeg c d r s
  | .and c d r => Sys2Proof.Machine.execAnd c d r s
  | .or c d r => Sys2Proof.Machine.execOr c d r s
  | .xor c d r => Sys2Proof.Machine.execXor c d r s
  | .tst c d r => Sys2Proof.Machine.execTst c d r s
  | .not c d r => Sys2Proof.Machine.execNot c d r s
  | .lsl c d r => Sys2Proof.Machine.execLsl c d r s
  | .lsr c d r => Sys2Proof.Machine.execLsr c d r s
  | .asr c d r => Sys2Proof.Machine.execAsr c d r s
  | .ror c d r => Sys2Proof.Machine.execRor c d r s
  | .sxb c d r => Sys2Proof.Machine.execSxb c d r s
  | .sxh c d r => Sys2Proof.Machine.execSxh c d r s
  | .zxh c d r => Sys2Proof.Machine.execZxh c d r s
  | .mulu c d r => Sys2Proof.Machine.execMulu c d r s
  | .muls c d r => Sys2Proof.Machine.execMuls c d r s
  | .divu c d r => Sys2Proof.Machine.execDivu c d r s
  | .divs c d r => Sys2Proof.Machine.execDivs c d r s
  | .multiplyResult c => Sys2Proof.Machine.execMultiplyResult c s
  | .divideResult c => Sys2Proof.Machine.execDivideResult c s
  | .badd c d r => Sys2Proof.Machine.execBadd c d r s
  | .badc c d r => Sys2Proof.Machine.execBadc c d r s
  | .bsub c d r => Sys2Proof.Machine.execBsub c d r s
  | .bsbc c d r => Sys2Proof.Machine.execBsbc c d r s
  | .dadj c d => Sys2Proof.Machine.execDadj c d s
  | .cvbd c d r => Sys2Proof.Machine.execCvbd c d r s
  | .cvdb c d r => Sys2Proof.Machine.execCvdb c d r s
  | .ldb c d r => Sys2Proof.Machine.execLdb c d r s
  | .ldh c d r => Sys2Proof.Machine.execLdh c d r s
  | .ldw c d r => Sys2Proof.Machine.execLdw c d r s
  | .stb c d r => Sys2Proof.Machine.execStb c d r s
  | .sth c d r => Sys2Proof.Machine.execSth c d r s
  | .stw c d r => Sys2Proof.Machine.execStw c d r s
  | .xchg c d r => Sys2Proof.Machine.execXchg c d r s
  | .push c r => Sys2Proof.Machine.execPush c r s
  | .pop c d => Sys2Proof.Machine.execPop c d s
  | .jr c r => Sys2Proof.Machine.execJr c r s
  | .jlr c r => Sys2Proof.Machine.execJlr c r s
  | .mfs c d sn => Sys2Proof.Machine.execMfs c d sn s
  | .mts c sn r => Sys2Proof.Machine.execMts c sn r s
  | .post c d r => Sys2Proof.Machine.execPost c d r s
  | .movi c d imm => Sys2Proof.Machine.execMovi c d imm s
  | .addi c d imm => Sys2Proof.Machine.execAddi c d imm s
  | .cmpi c d imm => Sys2Proof.Machine.execCmpi c d imm s
  | .ldws c d imm => Sys2Proof.Machine.execLdws c d imm s
  | .bcc c cond disp => Sys2Proof.Machine.execBcc c cond disp s
  | .nop c => Sys2Proof.Machine.execNop c s
  | .movs c size pre n => Sys2Proof.Machine.execMovs c size pre n s
  | .cmps c size pre n => Sys2Proof.Machine.execCmps c size pre n s
  | .scns c size pre n => Sys2Proof.Machine.execScns c size pre n s
  | .fils c size pre n => Sys2Proof.Machine.execFils c size pre n s
  | .sync c => Sys2Proof.Machine.execSync c s
  | .wait c => Sys2Proof.Machine.execWait c s
  | .tend c => Sys2Proof.Machine.execTend c s
  | .frame c => Sys2Proof.Machine.execFrame c s
  | .eret c => Sys2Proof.Machine.execEret c s
  | .iret c => Sys2Proof.Machine.execIret c s
  | .addRrr c d a b => Sys2Proof.Machine.execAddRrr c d a b s
  | .subRrr c d a b => Sys2Proof.Machine.execSubRrr c d a b s
  | .andRrr c d a b => Sys2Proof.Machine.execAndRrr c d a b s
  | .orRrr c d a b => Sys2Proof.Machine.execOrRrr c d a b s
  | .xorRrr c d a b => Sys2Proof.Machine.execXorRrr c d a b s
  | .addm c d a b => Sys2Proof.Machine.execAddm c d a b s
  | .addiRri c d a imm => Sys2Proof.Machine.execAddiRri c d a imm s
  | .andi c d a imm => Sys2Proof.Machine.execAndi c d a imm s
  | .ori c d a imm => Sys2Proof.Machine.execOri c d a imm s
  | .xori c d a imm => Sys2Proof.Machine.execXori c d a imm s
  | .movw c d imm => Sys2Proof.Machine.execMovw c d imm s
  | .movh c d imm => Sys2Proof.Machine.execMovh c d imm s
  | .cmpw c a imm => Sys2Proof.Machine.execCmpw c a imm s
  | .lsli c d a n => Sys2Proof.Machine.execLsli c d a n s
  | .lsri c d a n => Sys2Proof.Machine.execLsri c d a n s
  | .asri c d a n => Sys2Proof.Machine.execAsri c d a n s
  | .rori c d a n => Sys2Proof.Machine.execRori c d a n s
  | .ldbRri c d a imm => Sys2Proof.Machine.execLdbRri c d a imm s
  | .ldbs c d a imm => Sys2Proof.Machine.execLdbs c d a imm s
  | .ldhRri c d a imm => Sys2Proof.Machine.execLdhRri c d a imm s
  | .ldhs c d a imm => Sys2Proof.Machine.execLdhs c d a imm s
  | .ldwRri c d a imm => Sys2Proof.Machine.execLdwRri c d a imm s
  | .stbRri c d a imm => Sys2Proof.Machine.execStbRri c d a imm s
  | .sthRri c d a imm => Sys2Proof.Machine.execSthRri c d a imm s
  | .stwRri c d a imm => Sys2Proof.Machine.execStwRri c d a imm s
  | .bccL c cond disp => Sys2Proof.Machine.execBccL c cond disp s
  | .jmp c disp => Sys2Proof.Machine.execJmp c disp s
  | .bl c disp => Sys2Proof.Machine.execBl c disp s
  | .undefinedEncoding c => Sys2Proof.Machine.execUndefinedEncoding c s
  | .interruptAccept c => Sys2Proof.Machine.execInterruptAccept c s
  | .info c => Sys2Proof.Machine.execInfo c s
  | .imgConfirm c => Sys2Proof.Machine.execImgConfirm c s
  | .imgSwitch c => Sys2Proof.Machine.execImgSwitch c s
  | .rollbackCommit c => Sys2Proof.Machine.execRollbackCommit c s
  | .pinClaim c => Sys2Proof.Machine.execPinClaim c s
  | .pinFree c => Sys2Proof.Machine.execPinFree c s
  | .chanClaim c => Sys2Proof.Machine.execChanClaim c s
  | .chanFree c => Sys2Proof.Machine.execChanFree c s
  | .dvfs c => Sys2Proof.Machine.execDvfs c s
  | .stay c => Sys2Proof.Machine.execStay c s
  | .keyLoad c => Sys2Proof.Machine.execKeyLoad c s
  | .keyCheck c => Sys2Proof.Machine.execKeyCheck c s
  | .embRights c => Sys2Proof.Machine.execEmbRights c s
  | .wdogSet c => Sys2Proof.Machine.execWdogSet c s
  | .wdogKick c => Sys2Proof.Machine.execWdogKick c s
  | .reset c => Sys2Proof.Machine.execReset c s
  | .unknownService c n => Sys2Proof.Machine.execUnknownService c n s
  | .trapReturn c => Sys2Proof.Machine.execTrapReturn c s
  | .irqEoi a v => Sys2Proof.Machine.execIrqEoi a v s
  | .irqSwset a v => Sys2Proof.Machine.execIrqSwset a v s
  | .irqEnWrite a bank n v => Sys2Proof.Machine.execIrqEnWrite a bank n v s
  | .irqPsetWrite a bank n v => Sys2Proof.Machine.execIrqPsetWrite a bank n v s
  | .irqPermitWrite a bank n v => Sys2Proof.Machine.execIrqPermitWrite a bank n v s
  | .irqLostRead a bank n => Sys2Proof.Machine.execIrqLostRead a bank n s
  | .guylineChannelFire n => Sys2Proof.Machine.execGuylineChannelFire n s
  | .evtSwfire a v => Sys2Proof.Machine.execEvtSwfire a v s
  | .evtConsWrite a n v => Sys2Proof.Machine.execEvtConsWrite a n v s
  | .evtChCfgWrite a n v => Sys2Proof.Machine.execEvtChCfgWrite a n v s
  | .evtTrelWrite a n v => Sys2Proof.Machine.execEvtTrelWrite a n v s
  | .evtPoutWrite a n v => Sys2Proof.Machine.execEvtPoutWrite a n v s
  | .evtFiredClear a n v => Sys2Proof.Machine.execEvtFiredClear a n v s
  | .evtCovrClear a n v => Sys2Proof.Machine.execEvtCovrClear a n v s
  | .wardenDispatch => Sys2Proof.Machine.execWardenDispatch s
  | .objDeclare a => Sys2Proof.Machine.execObjDeclare a s
  | .objRelease a => Sys2Proof.Machine.execObjRelease a s
  | .objRights a => Sys2Proof.Machine.execObjRights a s
  | .tskDeclare a => Sys2Proof.Machine.execTskDeclare a s
  | .tskRelease a => Sys2Proof.Machine.execTskRelease a s
  | .jnlPurge a => Sys2Proof.Machine.execJnlPurge a s
  | .wardenBadOp a op => Sys2Proof.Machine.execWardenBadOp a op s
  | .wardenCommandComplete m => Sys2Proof.Machine.execWardenCommandComplete m s
  | .wdnObjSelWrite a v => Sys2Proof.Machine.execWdnObjSelWrite a v s
  | .wdnTskSelWrite a v => Sys2Proof.Machine.execWdnTskSelWrite a v s
  | .wdnPolWrite a v => Sys2Proof.Machine.execWdnPolWrite a v s
  | .wdnEpochWrite a v => Sys2Proof.Machine.execWdnEpochWrite a v s
  | .wdnLimWrite a v => Sys2Proof.Machine.execWdnLimWrite a v s
  | .wdnEpochLimWrite a v => Sys2Proof.Machine.execWdnEpochLimWrite a v s
  | .wdnRetireWrite a sb v => Sys2Proof.Machine.execWdnRetireWrite a sb v s
  | .epochEnd => Sys2Proof.Machine.execEpochEnd s
  | .migrationStart => Sys2Proof.Machine.execMigrationStart s
  | .migrationComplete => Sys2Proof.Machine.execMigrationComplete s
  | .sramBankClearDone b => Sys2Proof.Machine.execSramBankClearDone b s
  | .scrubRead found => Sys2Proof.Machine.execScrubRead found s
  | .eccWriteback addr => Sys2Proof.Machine.execEccWriteback addr s
  | .scrubOverdue => Sys2Proof.Machine.execScrubOverdue s
  | .memBankWearLoRead a => Sys2Proof.Machine.execMemBankWearLoRead a s
  | .memConfRead a n => Sys2Proof.Machine.execMemConfRead a n s
  | .memConfSatRead a => Sys2Proof.Machine.execMemConfSatRead a s
  | .strikeComplete => Sys2Proof.Machine.execStrikeComplete s
  | .idleTimerExpire => Sys2Proof.Machine.execIdleTimerExpire s
  | .wakeSourceQualify k pin rise => Sys2Proof.Machine.execWakeSourceQualify k pin rise s
  | .pitchPath => Sys2Proof.Machine.execPitchPath s
  | .fullBoot => Sys2Proof.Machine.execFullBoot s
  | .powerOn fromCell rtcLost => Sys2Proof.Machine.execPowerOn fromCell rtcLost s
  | .nrstAssert => Sys2Proof.Machine.execNrstAssert s
  | .vmainLoss => Sys2Proof.Machine.execVmainLoss s
  | .vmainReturn => Sys2Proof.Machine.execVmainReturn s
  | .rtcDomainReset => Sys2Proof.Machine.execRtcDomainReset s
  | .bankSupplyChange bank2 up => Sys2Proof.Machine.execBankSupplyChange bank2 up s
  | .crystalQualified => Sys2Proof.Machine.execCrystalQualified s
  | .crystalLoss => Sys2Proof.Machine.execCrystalLoss s
  | .hearthFllCount count => Sys2Proof.Machine.execHearthFllCount count s
  | .vptWrite a v => Sys2Proof.Machine.execVptWrite a v s
  | .clkDivWrite a v => Sys2Proof.Machine.execClkDivWrite a v s
  | .buckSettled => Sys2Proof.Machine.execBuckSettled s
  | .dividerChange => Sys2Proof.Machine.execDividerChange s
  | .canvasWatchdogExpire => Sys2Proof.Machine.execCanvasWatchdogExpire s
  | .ridgepoleWatchdogExpire => Sys2Proof.Machine.execRidgepoleWatchdogExpire s
  | .lockstepDivergence pair pc1 => Sys2Proof.Machine.execLockstepDivergence pair pc1 s
  | .integrityFault cls unit addr syn detail => Sys2Proof.Machine.execIntegrityFault cls unit addr syn detail s
  | .selfTestRound => Sys2Proof.Machine.execSelfTestRound s
  | .frameBoundary => Sys2Proof.Machine.execFrameBoundary s
  | .itgLogSelWrite a v => Sys2Proof.Machine.execItgLogSelWrite a v s
  | .trailSubmit resp scope => Sys2Proof.Machine.execTrailSubmit resp scope s
  | .trailClose => Sys2Proof.Machine.execTrailClose s
  | .debugHalt c => Sys2Proof.Machine.execDebugHalt c s
  | .debugStep c => Sys2Proof.Machine.execDebugStep c s
  | .lanternUpdate delta => Sys2Proof.Machine.execLanternUpdate delta s
  | .lanternSample => Sys2Proof.Machine.execLanternSample s
  | .lanternSampleDone vcell vmain inner ntc light => Sys2Proof.Machine.execLanternSampleDone vcell vmain inner ntc light s
  | .mpptMeasurementStart hvb => Sys2Proof.Machine.execMpptMeasurementStart hvb s
  | .mpptMeasurementEnd hvb voc => Sys2Proof.Machine.execMpptMeasurementEnd hvb voc s
  | .overchargeTrip => Sys2Proof.Machine.execOverchargeTrip s
  | .overDischargeTrip => Sys2Proof.Machine.execOverDischargeTrip s
  | .overCurrentTrip => Sys2Proof.Machine.execOverCurrentTrip s
  | .chargeTemperatureTrip => Sys2Proof.Machine.execChargeTemperatureTrip s
  | .dischargeTemperatureTrip => Sys2Proof.Machine.execDischargeTemperatureTrip s
  | .protectionRelease p => Sys2Proof.Machine.execProtectionRelease p s
  | .chargerStateChange e => Sys2Proof.Machine.execChargerStateChange e s
  | .chargerPrechargeTimeout => Sys2Proof.Machine.execChargerPrechargeTimeout s
  | .chargerTerminate => Sys2Proof.Machine.execChargerTerminate s
  | .hrvCtlWrite a v => Sys2Proof.Machine.execHrvCtlWrite a v s
  | .hrvProtWrite a v => Sys2Proof.Machine.execHrvProtWrite a v s
  | .hrvTlimWrite a v => Sys2Proof.Machine.execHrvTlimWrite a v s
  | .hrvChgWrite a v => Sys2Proof.Machine.execHrvChgWrite a v s
  | .hrvCapWrite a v => Sys2Proof.Machine.execHrvCapWrite a v s
  | .hrvLchgWrite a v => Sys2Proof.Machine.execHrvLchgWrite a v s
  | .hrvThresholdWrite a n v => Sys2Proof.Machine.execHrvThresholdWrite a n v s
  | .rtcAlarmMatch n => Sys2Proof.Machine.execRtcAlarmMatch n s
  | .rtcPeriodicEvent n => Sys2Proof.Machine.execRtcPeriodicEvent n s
  | .rtcCalendarRoll => Sys2Proof.Machine.execRtcCalendarRoll s
  | .rtcStep a => Sys2Proof.Machine.execRtcStep a s
  | .rtcRel a => Sys2Proof.Machine.execRtcRel a s
  | .rtcSwclr a => Sys2Proof.Machine.execRtcSwclr a s
  | .rtcModeWrite a v => Sys2Proof.Machine.execRtcModeWrite a v s
  | .rtcSlewWrite a v => Sys2Proof.Machine.execRtcSlewWrite a v s
  | .rtcSlewDone => Sys2Proof.Machine.execRtcSlewDone s
  | .rtcTimeRead a reg => Sys2Proof.Machine.execRtcTimeRead a reg s
  | .rtcEcapHiRead a => Sys2Proof.Machine.execRtcEcapHiRead a s
  | .timerCompareMatch n k => Sys2Proof.Machine.execTimerCompareMatch n k s
  | .timerOverflow n => Sys2Proof.Machine.execTimerOverflow n s
  | .timerCntWrite a n v => Sys2Proof.Machine.execTimerCntWrite a n v s
  | .timerCntRead a n => Sys2Proof.Machine.execTimerCntRead a n s
  | .timerCmpWrite a n k v => Sys2Proof.Machine.execTimerCmpWrite a n k v s
  | .timerStagWrite a n v => Sys2Proof.Machine.execTimerStagWrite a n v s
  | .timerCtlWrite a n v => Sys2Proof.Machine.execTimerCtlWrite a n v s
  | .uaCharacterReceived n data par stops => Sys2Proof.Machine.execUaCharacterReceived n data par stops s
  | .uaBreakReceived n => Sys2Proof.Machine.execUaBreakReceived n s
  | .uaIdleDetect n => Sys2Proof.Machine.execUaIdleDetect n s
  | .uaCharacterSent n => Sys2Proof.Machine.execUaCharacterSent n s
  | .uaDeLagEnd n => Sys2Proof.Machine.execUaDeLagEnd n s
  | .uaRxRead a n => Sys2Proof.Machine.execUaRxRead a n s
  | .uaTxWrite a n v => Sys2Proof.Machine.execUaTxWrite a n v s
  | .uaDivWrite a n v => Sys2Proof.Machine.execUaDivWrite a n v s
  | .uaQcfgWrite a n v => Sys2Proof.Machine.execUaQcfgWrite a n v s
  | .uaCtlWrite a n v => Sys2Proof.Machine.execUaCtlWrite a n v s
  | .uaErrcntRead a n => Sys2Proof.Machine.execUaErrcntRead a n s
  | .touchScanDue => Sys2Proof.Machine.execTouchScanDue s
  | .touchScanStart => Sys2Proof.Machine.execTouchScanStart s
  | .dqiTimeout => Sys2Proof.Machine.execDqiTimeout s
  | .touchMeasurementDone k count => Sys2Proof.Machine.execTouchMeasurementDone k count s
  | .touchScanCommit => Sys2Proof.Machine.execTouchScanCommit s
  | .touchRateChange idle2 => Sys2Proof.Machine.execTouchRateChange idle2 s
  | .tchStart a => Sys2Proof.Machine.execTchStart a s
  | .tchRebase a => Sys2Proof.Machine.execTchRebase a s
  | .rfPllLockFail => Sys2Proof.Machine.execRfPllLockFail s
  | .rfTxEnd => Sys2Proof.Machine.execRfTxEnd s
  | .rfFrameAbort vcell => Sys2Proof.Machine.execRfFrameAbort s vcell
  | .rfFrameReject f => Sys2Proof.Machine.execRfFrameReject f s
  | .rfConfigWrite a reg v => Sys2Proof.Machine.execRfConfigWrite a reg v s
  | .rfCtlWrite a v => Sys2Proof.Machine.execRfCtlWrite a v s
  | .dutyCreditAccrue => Sys2Proof.Machine.execDutyCreditAccrue s
  | .rfAbortsRead a => Sys2Proof.Machine.execRfAbortsRead a s
  | .rfRxerrRead a => Sys2Proof.Machine.execRfRxerrRead a s
  | .netSlotWake slot => Sys2Proof.Machine.execNetSlotWake slot s
  | .netSlotStart slot on => Sys2Proof.Machine.execNetSlotStart slot on s
  | .netSlotEnd => Sys2Proof.Machine.execNetSlotEnd s
  | .listenWindowClose => Sys2Proof.Machine.execListenWindowClose s
  | .ackTimeout => Sys2Proof.Machine.execAckTimeout s
  | .beaconReceived f => Sys2Proof.Machine.execBeaconReceived f s
  | .dataReceived f => Sys2Proof.Machine.execDataReceived f s
  | .ackReceived f => Sys2Proof.Machine.execAckReceived f s
  | .joinReqReceived f => Sys2Proof.Machine.execJoinReqReceived f s
  | .joinRspReceived f => Sys2Proof.Machine.execJoinRspReceived f s
  | .attachReceived f => Sys2Proof.Machine.execAttachReceived f s
  | .detachReceived f => Sys2Proof.Machine.execDetachReceived f s
  | .messageDelivery => Sys2Proof.Machine.execMessageDelivery s
  | .netCmdSend a => Sys2Proof.Machine.execNetCmdSend a s
  | .netCmdJoin a => Sys2Proof.Machine.execNetCmdJoin a s
  | .netCmdLeave a => Sys2Proof.Machine.execNetCmdLeave a s
  | .netCmdSurvey a => Sys2Proof.Machine.execNetCmdSurvey a s
  | .netCmdAdmit a => Sys2Proof.Machine.execNetCmdAdmit a s
  | .netCmdKeyset a => Sys2Proof.Machine.execNetCmdKeyset a s
  | .netCmdKeyuse a => Sys2Proof.Machine.execNetCmdKeyuse a s
  | .netEnWrite a v => Sys2Proof.Machine.execNetEnWrite a v s
  | .netCntRead a n => Sys2Proof.Machine.execNetCntRead a n s
  | .transactionTimeout tid => Sys2Proof.Machine.execTransactionTimeout tid s
  | .reassemblyTimeout orig tid => Sys2Proof.Machine.execReassemblyTimeout orig tid s
  | .childTimeout node => Sys2Proof.Machine.execChildTimeout node s
  | .keepTimer => Sys2Proof.Machine.execKeepTimer s
  | .parentLoss => Sys2Proof.Machine.execParentLoss s
  | .joinTimeout => Sys2Proof.Machine.execJoinTimeout s
  | .oldKeyExpiry => Sys2Proof.Machine.execOldKeyExpiry s
  | .surveyEnd => Sys2Proof.Machine.execSurveyEnd s
  | .cntOverflow n => Sys2Proof.Machine.execCntOverflow n s
  | .cntCapture a => Sys2Proof.Machine.execCntCapture a s
  | .cntLoWrite a n v => Sys2Proof.Machine.execCntLoWrite a n v s
  | .cntHiWrite a n v => Sys2Proof.Machine.execCntHiWrite a n v s
  | .cntLoRead a n => Sys2Proof.Machine.execCntLoRead a n s
  | .pinEdge b rise => Sys2Proof.Machine.execPinEdge b rise s
  | .pinOutWrite a p v => Sys2Proof.Machine.execPinOutWrite a p v s
  | .pinHoldWrite a v => Sys2Proof.Machine.execPinHoldWrite a v s
  | .pinBallWrite a n v => Sys2Proof.Machine.execPinBallWrite a n v s
  | .pegRead addr => Sys2Proof.Machine.execPegRead addr s
  | .pegWrite addr data crc => Sys2Proof.Machine.execPegWrite addr data crc s
  | .pegWriteComplete => Sys2Proof.Machine.execPegWriteComplete s
  | .readStatus addr => Sys2Proof.Machine.execReadStatus addr s
  | .beginSession addr nonce crc => Sys2Proof.Machine.execBeginSession addr nonce crc s
  | .sessionResponse idx data crc => Sys2Proof.Machine.execSessionResponse idx data crc s
  | .pegSessionCheck => Sys2Proof.Machine.execPegSessionCheck s
  | .pegBadCommand cmd => Sys2Proof.Machine.execPegBadCommand cmd s
  | .pegFrameCut => Sys2Proof.Machine.execPegFrameCut s
  | .pegSessionTimeout => Sys2Proof.Machine.execPegSessionTimeout s
  | .pegSessClose a => Sys2Proof.Machine.execPegSessClose a s
  | .pegH2d3Write a v => Sys2Proof.Machine.execPegH2d3Write a v s
  | .pegD2h3Write a v => Sys2Proof.Machine.execPegD2h3Write a v s
  | .pegMbstatWrite a v => Sys2Proof.Machine.execPegMbstatWrite a v s
  | .pegReset a => Sys2Proof.Machine.execPegReset a s
  | .gsWrite a => Sys2Proof.Machine.execGsWrite a s
  | .pegImgSwitch a arg => Sys2Proof.Machine.execPegImgSwitch a arg s
  | .keySet a arg => Sys2Proof.Machine.execKeySet a arg s
  | .pegCmdBadOp a op => Sys2Proof.Machine.execPegCmdBadOp a op s
  | .pegCmdComplete => Sys2Proof.Machine.execPegCmdComplete s
  | .pegUpdAddrWrite a v => Sys2Proof.Machine.execPegUpdAddrWrite a v s
  | .pegUpdDataWrite a v => Sys2Proof.Machine.execPegUpdDataWrite a v s
  | .pegUpdDataRead a => Sys2Proof.Machine.execPegUpdDataRead a s
  | .pegUpdPrefetchDone => Sys2Proof.Machine.execPegUpdPrefetchDone s
  | .registerWrite a addr v => Sys2Proof.Machine.execRegisterWrite a addr v s
  | .debugResume c => Sys2Proof.Machine.execDebugResume c s
  | .debugRegisterAccess c reg v => Sys2Proof.Machine.execDebugRegisterAccess c reg v s
  | .nrstRelease => Sys2Proof.Machine.execNrstRelease s
  | .porchSupplyLoss words => Sys2Proof.Machine.execPorchSupplyLoss words s
  | .uaStartBitDetect n edge => Sys2Proof.Machine.execUaStartBitDetect n edge s
  | .rfSyncDetect m => Sys2Proof.Machine.execRfSyncDetect m s
  | .copyUncorrectableRead => Sys2Proof.Machine.execCopyUncorrectableRead s
  | .correctionWindowEnd bank => Sys2Proof.Machine.execCorrectionWindowEnd bank s
  | .ridgepoleWatchdogWarning => Sys2Proof.Machine.execRidgepoleWatchdogWarning s
  | .supplyWatchQualified bank2 => Sys2Proof.Machine.execSupplyWatchQualified bank2 s
  | .harvestIntakeLimit hvb reg => Sys2Proof.Machine.execHarvestIntakeLimit hvb reg s

end Sys2Proof.Machine
end

