-- ==== Sys2Proof/Machine/Tick.lean ====
section
/-! DEFINITION. What happens when no command waits: one PCLK edge while the core domain runs, with every
675th also a Porch tick, and one Porch tick otherwise (R197, R204, R205, R283, R288, R300, R314; the
model's reading of an empty queue, assumption 12). -/

namespace Sys2Proof.Machine

open Sys2Proof

/-! ## The Porch tick -/

/-- A change of MODE takes effect (R316). -/
def Rtc.settleMode (r : Rtc) : Rtc :=
  { r with
    mode := r.modeReg
    modeDue := false }

/-- The alarms and the periodic events of a tick that moved the clock from `old` (R322, R323). -/
def State.rtcEvents (s : State) (old : Rtc) : State :=
  let r := s.per.rtc
  let turn := decide (r.secs ≠ old.secs)
  let s := if turn && alarmMatches r.mode (r.alarm 0) r.secs then s.alarmFires 0 else s
  let s := if turn && alarmMatches r.mode (r.alarm 1) r.secs then s.alarmFires 1 else s
  let s := if r.hzFalls old.time r.time then s.periodicFires 0 else s
  let s := if turn && decide (r.secs % 60 = 0) then s.periodicFires 1 else s
  if turn && decide (r.secs % 3600 = 0) then s.periodicFires 2 else s

/-- One tick of the calendar clock: a step takes the place of the count, and a refused one leaves the count its tick
(R314, R318, R330). -/
def State.rtcTick (s : State) : State :=
  let s := s.onRtc Rtc.settleMode
  let r := s.per.rtc
  let t := if r.stepDue then s.onRtc Rtc.step else s
  if r.stepDue && r.setInstant.isSome then t else (t.onRtc Rtc.count).rtcEvents r

/-- The touch island takes a Porch tick (R352). -/
def State.touchTick (s : State) : State := s.touch fun h => h.tick s.per.pin s.asleep

/-- One Porch tick (R283, R288, R291, R314). -/
def State.porchTick (s : State) : State :=
  ((if s.running then s.countSys 3 1 else s).onNet fun n => { n with sinceCorr := n.sinceCorr + 1 }).rtcTick.debounceAll.touchTick.idleTick

/-! ## The PCLK edge -/

/-- CCLK cycles in PCLK cycle `n`, for a divider code (R283). -/
def cclkPer (div n : Nat) : Nat :=
  if div = 0 then 4 else if div = 1 then 2 else if div = 2 then 1 else n % 2

/-- BCLK cycles in PCLK cycle `n` (R283). -/
def bclkPer (div n : Nat) : Nat := min 2 (cclkPer div n)

/-- The Canvas watchdog counts a PCLK cycle; the count pauses while a core is halted by the debugger (R178). -/
def State.wdogTick (s : State) : State :=
  if s.canvasUp && !s.cores.toList.any (·.halted) then s.onRp fun r => { r with wdogLeft := r.wdogLeft - 1 } else s

/-- The core's clock runs although it executes nothing (R19). CYC counts from the core's start, and not from reset
release (DESIGN CHOICE, unsafe: assumption 104). -/
def Core.idles (k : Core) : Bool :=
  decide (k.phase ≠ .off) && (decide (k.phase ≠ .run) || k.halted)

/-- `n` CCLK cycles of a core that executes nothing (R19, R384). -/
def State.idleCore (s : State) (n : Nat) (c : CoreId) : State :=
  let k := s.cores[c]
  if k.idles then
    let s := s.delay c n
    let s := s.countCore c 4 (if k.phase = .wait ∨ k.phase = .frame then n else 0)
    s.countCore c 29 (if k.phase = .trap then n else 0)
  else s

/-- The clocks of one PCLK cycle: EVT_TIME, the counters of time, and the cores that idle. -/
def State.pclk (s : State) : State :=
  let n := s.per.evt.time.toNat
  let div := s.clk.divNow
  let s := s.onEvt fun e => { e with time := e.time + 1#32 }
  let s := ((s.countSys 1 1).countSys 2 (bclkPer div n)).countSys 25 s.per.rf.paEn.toNat
  let s := s.countSys 26 s.per.rf.rxOn.toNat
  allCores.foldl (fun (s : State) (c : CoreId) => s.idleCore (cclkPer div n) c) s

/-- The events that reach their channels on this edge: those that wait no further edge (R197). -/
def State.dueEvents (s : State) : List Flight := s.inflight.filter fun f => decide (f.left = 0)

/-- The other events come one edge nearer. -/
def State.advanceEvents (s : State) : State :=
  { s with inflight := (s.inflight.filter fun f => decide (f.left ≠ 0)).map fun f => { f with left := f.left - 1 } }

/-- An event of this edge restarts timer `n` (R198). -/
def State.restarts (s : State) (due : List Flight) (n : Nat) : Bool :=
  (s.per.evt.names (48 + n)).any fun c => due.any fun f => decide (c ∈ s.per.evt.reached f)

/-- Every timer on PCLK takes a tick, but one that an event of this edge restarts: its tick is discarded (R299, R300,
R312). A channel whose compare value took effect behind the count fires (R304). -/
def State.timers (s : State) (due : List Flight) : State :=
  (List.range 12).foldl
    (fun (s : State) (n : Nat) =>
      (if (s.timAt n).clock = 0 && !s.restarts due n then s.timClock n else s).timLate n 4) s

/-- The serial lines take a PCLK cycle (R333). -/
def State.lines (s : State) : State :=
  (List.range 4).foldl (fun (s : State) (n : Nat) => s.uaClock n) s

/-- Touch scanning resumes once the PA is off, as it is when the engine stops in a transmission (R258, R357). -/
def State.touchResume (s : State) : State :=
  if s.per.tch.susp && !s.per.rf.begun then s.onTch fun t => t.resume s.per.pin s.asleep else s

/-- One PCLK edge: the timers tick, and the events that reach the router act on what the edge has left, so a capture
takes the count after the edge (R197, R305). -/
def State.edge (s : State) : State :=
  let due := s.dueEvents
  let t := (s.advanceEvents.pclk).timers due
  let u := due.foldl (fun (s : State) (f : Flight) => s.arrive f) t
  ((u.txBegin.wdogTick).touchResume.lines).resync

/-- What an empty queue does. (DESIGN CHOICE, safe: assumption 12.) -/
def State.idle (s : State) : State :=
  if s.running then
    let t := s.edge
    finish s (if t.per.evt.time.toNat % 675 = 0 then t.porchTick else t)
  else finish s s.porchTick

end Sys2Proof.Machine
end

