-- ==== Sys2Proof/Machine/Step.lean ====
section
/-! DEFINITION. The step of the block: it takes the command at the front of the queue, and on an empty queue
time passes (assumption 12). -/

namespace Sys2Proof.Machine

open Sys2Proof

/-- The state with the front of its queue taken. -/
def State.withQueue (s : State) (q : List Instr) : State := { s with pending := q }

/-- One step: the front command's effect on the state with the queue's rest, or one idle tick. (DESIGN
CHOICE, safe: assumption 1.) (DEDUCED, unsafe: assumption 88.) -/
def step (s : State) : Host.Outcome State Fault Refusal :=
  match s.pending with
  | [] => .next s.idle
  | i :: rest => exec i (s.withQueue rest)

/-- The state with the command that a word spells put at the front of its queue. (DESIGN CHOICE, unsafe:
assumption 20.) -/
def State.withFetchWord (s : State) (nbits w : Nat) : State :=
  match decodeTableWord nbits w with
  | some i => s.withQueue (i :: s.pending)
  | none => s

end Sys2Proof.Machine
end

