-- ==== Sys2Proof/Safety.lean ====
section
/-! DEFINITION. The terms that claims about the machine are stated in: when a core can run an instruction,
what of a core a program sees, what an access leaves as it was, and the invariants of the machine. -/

namespace Sys2Proof.Machine

open Sys2Proof

/-! ## What a program sees -/

/-- A core without its clock CYC, which counts the stalls too, its heat sample counter, and where it and the
debugger stand between instructions. -/
def Core.seen (k : Core) : Core :=
  { k with cyc := 0#64, sample := 0, repOpen := false, stepArm := false }

/-- The byte at a physical address as a bus master reads it: an unrestored Ember line is read in its image
(R94). -/
def State.seenByte (s : State) (p : Nat) : Byte := s.mem.byte (readPlace s p)

/-- The MEM registers without the counts that any access may move: waits on a bank, and wear (R89, R90). -/
def MemRegs.calm (r : MemRegs) : MemRegs :=
  { r with conf := Vector.replicate 9 0#32, confSat := 0#32, wear := Vector.replicate 16 0 }

/-- The blocks that an instruction which accesses no register of theirs leaves as they were. -/
structure SameBlocks (s t : State) : Prop where
  pwr : t.pwr = s.pwr
  clk : t.clk = s.clk
  peg : t.peg = s.peg
  pin : t.per.pin = s.per.pin
  tim : t.per.tim = s.per.tim
  ua : t.per.ua = s.per.ua
  tch : t.per.tch = s.per.tch
  evt : t.per.evt = s.per.evt
  rtc : t.per.rtc = s.per.rtc
  hrv : t.per.hrv = s.per.hrv
  snap : t.snap = s.snap
  pending : t.pending = s.pending

/-! ## Running an instruction -/

/-- No ECC word of the `n` bytes that a beat reads at a physical address is in error (R79, R80). -/
def State.clean (s : State) (p n : Nat) : Prop :=
  ∀ w ∈ eccWords (readPlace s p) n, s.mem.eccOf w = none

/-- No access of port A to a word of the `n` bytes at a physical address can fall in the same cycle (R88). -/
def State.apart (s : State) (p n : Nat) : Prop :=
  inDp p = true → ∀ w ∈ eccWords p n, ∀ x ∈ s.portA, x.word ≠ w

/-- Core `c` may fetch the halfword at an address: it lies in an object that the core's group may execute,
no word of it is in error, and no access of port A meets it (R52, R54, R88, R105). -/
def State.fetchable (s : State) (c : CoreId) (a : Nat) : Prop :=
  s.fetchFault c a = none ∧ s.clean (s.physical a) 2 ∧ s.apart (s.physical a) 2

/-- Core `c` issues an instruction of `n` halfwords: Canvas is up, the core runs and is not held by the
debugger, and each halfword can be fetched (R20, R52, R181). -/
def State.ready (s : State) (c : CoreId) (n : Nat) : Prop :=
  s.issues c = true ∧ ∀ k < n, s.fetchable c (s.cores[c].pc.toNat + 2 * k)

/-! ## Accesses to memory -/

/-- Core `c` may access the `n` bytes from an address in memory: each lies in the object window or the Ember
window, the core's group has the right, no word of it is in error, and no access of port A meets it (R64, R79,
R88, R96, R105). -/
def State.accessible (s : State) (c : CoreId) (rd wr : Bool) (a n : Nat) : Prop :=
  ∀ j < n, inPeriph (a + j) = false ∧ s.beatFault c rd wr (a + j) = none ∧
    s.clean (s.physical (a + j)) 1 ∧ s.apart (s.physical (a + j)) 1

/-- The number that the `n` bytes from an address spell, the lowest address least significant (R52). -/
def State.valueAt (s : State) (a n : Nat) : Nat :=
  numOf ((List.range n).map fun j => s.seenByte (s.physical (a + j)))

/-- Where the byte at a physical address is mirrored: in the copy of an object that migrates (R123). -/
def State.mirrorOf (s : State) (p : Nat) : Option Nat :=
  match s.wdn.mig with
  | none => none
  | some m =>
    if inRange p (s.migSource m) (s.migBytes m) then some (migDest m + (p - s.migSource m)) else none

/-- A store of `n` bytes at an address writes the byte at `x`, or mirrors a byte there. -/
def State.touched (s : State) (a n x : Nat) : Prop :=
  ∃ j < n, x = s.physical (a + j) ∨ s.mirrorOf (s.physical (a + j)) = some x

/-- The byte at `x` lies in an unrestored Ember line that a store of `n` bytes at an address pulls (R94). -/
def State.pulled (s : State) (a n x : Nat) : Prop :=
  ∃ j < n, inEmber (s.physical (a + j)) = true ∧
    bit s.mm.restored ((s.physical (a + j) - emberBase) / 64) = false ∧ emberBase ≤ x ∧
    (x - emberBase) / 64 = (s.physical (a + j) - emberBase) / 64

/-- Core `c` may store the `n` bytes from an address: it may access them, nothing but an object migrates, and no
word of the copy of a migrating object or of the image of a line that is pulled is in error (R79, R95). -/
def State.storable (s : State) (c : CoreId) (a n : Nat) : Prop :=
  s.accessible c false true a n ∧ (∀ m, s.wdn.mig = some m → m.obj < 512) ∧
    ∀ j < n, (∀ q, s.mirrorOf (s.physical (a + j)) = some q → s.mem.eccOf (eccWord q) = none) ∧
      ∀ x, s.pulled a n x → s.mem.eccOf (eccWord (imageAddr s x)) = none

/-- Memory after a store of the low `n` bytes of `v` at an address: they stand in their places, where two of
them fall on one place the later does; the copy of a migrating object takes them too; a line that the store
pulled holds its image; and every other byte is as it was (R52, R64, R94, R123). -/
structure Stored (s t : State) (a n v : Nat) : Prop where
  bytes : ∀ j < n, (∀ i < n, s.mirrorOf (s.physical (a + i)) ≠ some (s.physical (a + j))) →
    (∀ i < n, j < i → s.physical (a + i) ≠ s.physical (a + j)) →
    t.mem.byte (s.physical (a + j)) = BitVec.ofNat 8 (v / 256 ^ j)
  mirror : ∀ j < n, ∀ q, s.mirrorOf (s.physical (a + j)) = some q → inEmber q = false →
    (∀ i < n, s.physical (a + i) ≠ q) →
    (∀ i < n, i ≠ j → s.mirrorOf (s.physical (a + i)) ≠ some q) →
    t.mem.byte q = BitVec.ofNat 8 (v / 256 ^ j)
  image : ∀ x, ¬s.touched a n x → s.pulled a n x → ¬s.touched a n (imageAddr s x) →
    t.mem.byte x = s.mem.byte (imageAddr s x)
  rest : ∀ x, ¬s.touched a n x → ¬s.pulled a n x → t.mem.byte x = s.mem.byte x

/-! ## Instructions that complete -/

/-- What core `c` shows after an instruction: `k` is the core with its new registers, and the issue cycles
that passed let a multiply or divide in flight write its result (R39). -/
def Core.after (k : Core) (pc : Word) (cycles : Nat) : Core :=
  (({ k with pc := pc }).tick cycles).seen

/-- Instruction `i` of core `c` completes: the core is `k` with its PC at `pc`, and nothing else that a
program sees has changed: the other cores, every byte of memory and the blocks are as they were. -/
def registerStep (s : State) (i : Instr) (c : CoreId) (k : Core) (pc : Word) (cycles : Nat) : Prop :=
  ∃ t, exec i s = .next t ∧ t.cores[c].seen = k.after pc cycles ∧
    (∀ e : CoreId, e ≠ c → t.cores[e] = s.cores[e]) ∧ (∀ a, t.seenByte a = s.seenByte a) ∧
    SameBlocks s t

/-- Instruction `i` of core `c` completes and stores the low `n` bytes of `v` at an address: the core is `k`
with its PC at `pc`, and nothing else that a program sees has changed. -/
def storeStep (s : State) (i : Instr) (c : CoreId) (k : Core) (pc : Word) (cycles a n v : Nat) : Prop :=
  ∃ t, exec i s = .next t ∧ t.cores[c].seen = k.after pc cycles ∧
    (∀ e : CoreId, e ≠ c → t.cores[e] = s.cores[e]) ∧ Stored s t a n v ∧ SameBlocks s t

/-! ## Results as the rules state them -/

/-- FLG with Z and N taken from a result, and C and V as given (R62). -/
def resultFlags (f r : Word) (c v : Bool) : Word :=
  setBit (setBit (setBit (setBit f 0 (decide (r = 0#32))) 1 r.msb) 2 c) 3 v

/-- The add family of R62: a + b + C, the carry out of bit 31, and V where the operands have one sign and
the result the other. -/
def Core.sum (k : Core) (d : Reg) (a b : Word) (cin : Bool) : Core :=
  let r := a + b + BitVec.ofNat 32 cin.toNat
  { k with
    w := k.w.set d r
    flg := resultFlags k.flg r (decide (2 ^ 32 ≤ a.toNat + b.toNat + cin.toNat))
      (decide (a.msb = b.msb ∧ r.msb ≠ a.msb)) }

/-- The flags of the subtract family of R62: C is the borrow, and V is set where the operands differ in bit
31 and the result differs from the first. -/
def differenceFlags (f a b : Word) (bin : Bool) : Word :=
  let r := a - b - BitVec.ofNat 32 bin.toNat
  resultFlags f r (decide (a.toNat < b.toNat + bin.toNat)) (decide (a.msb ≠ b.msb ∧ r.msb ≠ a.msb))

/-- The subtract family of R62. -/
def Core.difference (k : Core) (d : Reg) (a b : Word) (bin : Bool) : Core :=
  { k with
    w := k.w.set d (a - b - BitVec.ofNat 32 bin.toNat)
    flg := differenceFlags k.flg a b bin }

/-- FLG with Z and N taken from a result: the logic instructions of R62. -/
def logicFlags (f r : Word) : Word := setBit (setBit f 0 (decide (r = 0#32))) 1 r.msb

/-- The logic instructions of R62. -/
def Core.logic (k : Core) (d : Reg) (r : Word) : Core :=
  { k with
    w := k.w.set d r
    flg := logicFlags k.flg r }

/-- A shift of R63 by `n`: the result, Z and N, and C where `n` is not 0. -/
def Core.shifted (k : Core) (d : Reg) (n : Nat) (r : Word) (c : Bool) : Core :=
  { k with
    w := k.w.set d r
    flg := if n = 0 then logicFlags k.flg r else setBit (logicFlags k.flg r) 2 c }

/-- A core with one general register written. -/
def Core.wrote (k : Core) (d : Reg) (v : Word) : Core := { k with w := k.w.set d v }

/-- The carry into digit `i` of a decimal sum (R44). -/
def decimalCarry (a b : Word) (cin : Bool) : Nat → Nat
  | 0 => cin.toNat
  | i + 1 => if 10 ≤ nibble a i + nibble b i + decimalCarry a b cin i then 1 else 0

/-- The borrow into digit `i` of a decimal difference (R44). -/
def decimalBorrow (a b : Word) (bin : Bool) : Nat → Nat
  | 0 => bin.toNat
  | i + 1 => if nibble a i < nibble b i + decimalBorrow a b bin i then 1 else 0

/-- `r` is the decimal sum of `a` and `b` (R44): digit by digit, less 10 where that carries. -/
def IsDecimalSum (a b : Word) (cin : Bool) (r : Word) : Prop :=
  ∀ i < 8, nibble r i =
    let n := nibble a i + nibble b i + decimalCarry a b cin i
    if 10 ≤ n then (n - 10) % 16 else n

/-- `r` is the decimal difference of `a` and `b` (R44): digit by digit, plus 10 where that borrows. -/
def IsDecimalDifference (a b : Word) (bin : Bool) (r : Word) : Prop :=
  ∀ i < 8, (nibble r i : Int) =
    let n : Int := nibble a i - nibble b i - decimalBorrow a b bin i
    if n < 0 then (n + 10) % 16 else n

/-- FLG of a decimal instruction: Z from the result, V and D as given (R44). -/
def decimalFlags (f r : Word) (v d : Bool) : Word :=
  setBit (setBit (setBit f 0 (decide (r = 0#32))) 3 v) 4 d

/-! ## Commands -/

/-- An interrupt controller without its pending bits and lost-firing counts, which firings change (R184). -/
def IrqBank.setup (q : IrqBank) : IrqBank :=
  { q with
    pend := 0#128
    lost := Vector.replicate 8 0#16 }

/-- An event counter without its count. -/
def Counter.setup (k : Counter) : Counter := { k with count := 0#48 }

/-- The state without what may follow a command on the same edge: firings of interrupt sources and of
guyline producers, counts of events, a retirement that settles and is written to Ridgepole's store, and the network
engine and the radio, which stop when the table object is gone. -/
def State.settled (s : State) : State :=
  { s with
    irq := s.irq.map IrqBank.setup
    inflight := []
    portA := []
    free := 0
    mm := { s.mm with wear := Vector.replicate 16 0 }
    wdn := { s.wdn with stat := 0#32, retiring := 0#50, retSb := 0#32, retire := 0#32 }
    itg := { s.itg with stat := 0#32 }
    rp := { s.rp with retSb := 0#32, retire := 0#32 }
    per := { s.per with
      cnt := { s.per.cnt with ovf := 0#32, c := s.per.cnt.c.map Counter.setup }
      net := Net.reset
      rf := Rf.reset } }

/-- The event `q` on its way to the router is `p`, and still goes to every channel that `p` goes to. -/
def Flight.keeps (q p : Flight) : Prop := q.ev = p.ev ∧ q.left = p.left ∧ ∀ n ∈ q.gone, n ∈ p.gone

/-- `t` is `u` but for what follows a command on the same edge. Nothing pending or on its way to the router is
taken back; the Warden stands as in `u` while no bank retires, the ITG block and Ridgepole's store while they
show the Warden's retired bits, and the network engine and the radio while the engine is off or its table
object exists. -/
structure Settles (u t : State) : Prop where
  settled : t.settled = u.settled
  pend : ∀ b i, bit (vget u.irq b IrqBank.reset).pend i = true →
    bit (vget t.irq b IrqBank.reset).pend i = true
  inflight : ∀ p ∈ u.inflight, ∃ q ∈ t.inflight, q.keeps p
  wdn : u.wdn.retiring = 0#50 → t.wdn = u.wdn
  store : u.wdn.retiring = 0#50 →
    (u.rp.mode = .up ∨ u.rp.mode = .stopped → u.rp.retSb = u.wdn.retSb ∧ u.rp.retire = u.wdn.retire) →
    t.itg = u.itg ∧ t.rp = u.rp ∧ t.mm = u.mm ∧ t.free = u.free
  net : (u.per.net.en = true → u.tableObj.isSome = true) →
    t.per.net = u.per.net ∧ t.per.rf = u.per.rf

/-- Command `i` makes `u` of the state `s`, and nothing else changes but what follows on the same edge. -/
def State.becomes (s : State) (i : Instr) (u : State) : Prop :=
  ∃ t, exec i s = .next t ∧ Settles u t

/-- Agent `a` writes `v` to the register at offset `o` of peripheral space, and the write takes effect at
once: a core is issuing the access, owns what it changes and reaches the register, and does not write to a
block that defers writes under Waymark; Ridgepole's bus runs (R6, R7, R158, R189). -/
def State.writes (s : State) (a : Agent) (o : Nat) (v : Word) : Prop :=
  match a with
  | .core c =>
    s.issues c = true ∧ s.ioWriteFault c o v = none ∧ (waymarkBlock o = true → s.waymark = false)
  | .ridgepole => s.running = true
  | .host => False

/-- Agent `a` reads the register at offset `o`, and the read takes effect at once. -/
def State.reads (s : State) (a : Agent) (o : Nat) : Prop :=
  match a with
  | .core c => s.issues c = true ∧ ioReadFault o = none ∧ s.waymark = false
  | .ridgepole => s.running = true
  | .host => False

/-! ## Exceptions, interrupts and TRAP -/

/-- The tests of R57 on FLG. -/
def condition (k : Cond) (f : Word) : Prop :=
  let z := bit f 0
  let n := bit f 1
  let c := bit f 2
  let v := bit f 3
  match k with
  | .eq => z = true
  | .ne => z = false
  | .lo => c = true
  | .hs => c = false
  | .ns => n = true
  | .nc => n = false
  | .vs => v = true
  | .vc => v = false
  | .hi => c = false ∧ z = false
  | .ls => c = true ∨ z = true
  | .ge => n = v
  | .lt => n ≠ v
  | .gt => z = false ∧ n = v
  | .le => z = true ∨ n ≠ v
  | .ds => bit f 4 = true
  | .al => True

/-- A core after it has waited until nothing is in flight: the multiply and the divide have written their
results (R40). -/
def Core.drained (k : Core) : Core :=
  let m := match k.mul with
    | some f => { k with ph := f.ph, pl := f.pl }
    | none => k
  let q := match m.div with
    | some f => { m with qt := f.qt, rm := f.rm }
    | none => m
  { q with mul := none, div := none, issue := k.issue + max k.mulWait k.divWait }

/-- Core `c` enters the handler of an exception with cause code `code` and detail bits `detail`, at `v`: EPC, EFLG,
FLG.E, ECAUSE and PC as R24 states, the results in flight written, and nothing else that a program sees
changed. -/
def exceptionStep (s : State) (i : Instr) (c : CoreId) (code : Nat) (detail : Word) : Prop :=
  let k := s.cores[c]
  let v := s.valueAt (0x60000100 + 4 * code) 4
  ∃ t, exec i s = .next t ∧
    t.cores[c].seen =
      { k.drained with
        epc := k.pc, eflg := k.flg, flg := setBit k.flg 8 true
        ecause := BitVec.ofNat 32 code ||| detail, pc := BitVec.ofNat 32 v }.seen ∧
    (∀ e : CoreId, e ≠ c → t.cores[e] = s.cores[e]) ∧ (∀ a, t.seenByte a = s.seenByte a) ∧
    SameBlocks s t

/-- Core `c` can enter the handler of cause code `code`: no exception is in progress, and the vector word can
be read and is even (R24, R25). -/
def State.handles (s : State) (c : CoreId) (code : Nat) : Prop :=
  bit s.cores[c].flg 8 = false ∧ s.accessible c true false (0x60000100 + 4 * code) 4 ∧
    s.valueAt (0x60000100 + 4 * code) 4 % 2 = 0

/-- The prefix or instruction at the PC of core `c` can issue as the first of a unit of `n` halfwords. -/
def State.opens (s : State) (c : CoreId) (n : Nat) : Prop :=
  s.ready c n ∧ s.cores[c].repOpen = false

/-- The state without what the issue of a TRAP by core `c` and the end of the command note: the core itself, the
lookasides, the prefetch buffers, heat, waits on a bank, the free counter, the interrupt controllers, the counters, the events on their way, what a
retirement settles, and the network engine and the radio. -/
def State.shown (s : State) (c : CoreId) : State :=
  { s with
    free := 0
    look := Vector.replicate 9 Look.reset
    inflight := []
    portA := []
    stale := Vector.replicate 4 []
    irq := State.reset.irq
    cores := s.cores.set c Core.reset
    mm := { s.mm with
      wear := Vector.replicate 16 0, conf := Vector.replicate 9 0#32, confSat := 0#32 }
    wdn := { s.wdn with
      obj := s.wdn.obj.map fun e => { e with heat := Vector.replicate 4 0 }
      stat := 0#32, retiring := 0#50, retSb := 0#32, retire := 0#32 }
    itg := { s.itg with stat := 0#32 }
    rp := { s.rp with retSb := 0#32, retire := 0#32 }
    per := { s.per with cnt := Cnt.reset, net := Net.reset, rf := Rf.reset } }

/-- Ridgepole serves no TRAP and no core waits for it, so that the next request is taken at once (R173). -/
def State.mayAsk (s : State) : Prop := s.rp.serving = none ∧ ∀ e : CoreId, s.cores[e].asked = none

/-- Core `c` stalls in TRAP `i` with its PC at the next instruction; Ridgepole serves it with service `n`, has made
`u` of the state, and owes the core the answer `r` (R37, R173). -/
def servedStep (s : State) (i : Instr) (c : CoreId) (n : Nat) (u : State) (r : TrapAnswer) : Prop :=
  ∃ t, exec i s = .next t ∧
    t.cores[c].seen =
      { s.cores[c].after (s.cores[c].pc + 2#32) 1 with phase := .trap, asked := none, trap := some r }.seen ∧
    t.shown c = (u.onRp fun k => { k with serving := some (c, n), served := c }).shown c

/-! ## Invariants -/

/-- Ridgepole's store holds the retired bits while Ridgepole runs (R133), and the network engine runs only while
its table object exists (R258). -/
def State.consistent (s : State) : Prop :=
  (s.rp.mode = .up ∨ s.rp.mode = .stopped →
      s.rp.retSb = s.wdn.retSb ∧ s.rp.retire = s.wdn.retire) ∧
    (s.per.net.en = true → s.tableObj.isSome = true)

end Sys2Proof.Machine
end

