-- ==== Sys2Proof/Certificates/Slice0/Obligations.lean ====
section
/-! DEFINITION. The statements about the model, for the provers. -/

open Sys2Proof Sys2Proof.Machine

/-! ## Register instructions -/

/-- R62: the binary arithmetic and logic instructions compute their result and set flags as its pseudocode
states; MOV, MOVI, MOVW and MOVH change no flag; and nothing else of the core changes but the PC. -/
def Obligations.BinaryArithmeticAndLogic : Prop :=
  ∀ (s : State) (c : CoreId) (d a b : Reg) (i8 : BitVec 8) (i16 : BitVec 16),
    let k := s.cores[c]
    let x := k.w[d]
    let y := k.w[a]
    let z := k.w[b]
    let cf := bit k.flg 2
    let zx8 := i8.setWidth 32
    let zx16 := i16.setWidth 32
    let sx8 := i8.signExtend 32
    let sx16 := i16.signExtend 32
    let short := fun (i : Instr) (k' : Core) => registerStep s i c k' (k.pc + 2#32) 1
    let long := fun (i : Instr) (k' : Core) => registerStep s i c k' (k.pc + 4#32) 1
    (s.ready c 1 →
      short (.add c d a) (k.sum d x y false) ∧
      short (.adc c d a) (k.sum d x y cf) ∧
      short (.addi c d i8) (k.sum d x sx8 false) ∧
      short (.sub c d a) (k.difference d x y false) ∧
      short (.sbc c d a) (k.difference d x y cf) ∧
      short (.neg c d a) (k.difference d 0#32 y false) ∧
      short (.cmp c d a) { k with flg := differenceFlags k.flg x y false } ∧
      short (.cmpi c d i8) { k with flg := differenceFlags k.flg x zx8 false } ∧
      short (.and c d a) (k.logic d (x &&& y)) ∧
      short (.or c d a) (k.logic d (x ||| y)) ∧
      short (.xor c d a) (k.logic d (x ^^^ y)) ∧
      short (.not c d a) (k.logic d (~~~y)) ∧
      short (.tst c d a) { k with flg := logicFlags k.flg (x &&& y) } ∧
      short (.mov c d a) (k.wrote d y) ∧
      short (.movi c d i8) (k.wrote d zx8)) ∧
    (s.ready c 2 →
      long (.addRrr c d a b) (k.sum d y z false) ∧
      long (.addiRri c d a i16) (k.sum d y sx16 false) ∧
      long (.subRrr c d a b) (k.difference d y z false) ∧
      long (.cmpw c a i16) { k with flg := differenceFlags k.flg y sx16 false } ∧
      long (.andRrr c d a b) (k.logic d (y &&& z)) ∧
      long (.orRrr c d a b) (k.logic d (y ||| z)) ∧
      long (.xorRrr c d a b) (k.logic d (y ^^^ z)) ∧
      long (.andi c d a i16) (k.logic d (y &&& zx16)) ∧
      long (.ori c d a i16) (k.logic d (y ||| zx16)) ∧
      long (.xori c d a i16) (k.logic d (y ^^^ zx16)) ∧
      long (.movw c d i16) (k.wrote d zx16) ∧
      long (.movh c d i16) (k.wrote d (zx16 * 65536#32 ||| (x &&& 0xFFFF#32))))

/-- R63: the shifts and rotates by Ws[4:0] or by imm16[4:0], C unchanged for an amount of 0; and SXB, SXH and
ZXH, which change no flag. -/
def Obligations.ShiftsAndExtension : Prop :=
  ∀ (s : State) (c : CoreId) (d a : Reg) (n5 : BitVec 5),
    let k := s.cores[c]
    let x := k.w[d]
    let y := k.w[a]
    let m := y.toNat % 32
    let n := n5.toNat
    let short := fun (i : Instr) (k' : Core) => registerStep s i c k' (k.pc + 2#32) 1
    let long := fun (i : Instr) (k' : Core) => registerStep s i c k' (k.pc + 4#32) 1
    let left := fun (v : Word) (n : Nat) => BitVec.ofNat 32 (v.toNat * 2 ^ n)
    let right := fun (v : Word) (n : Nat) => BitVec.ofNat 32 (v.toNat / 2 ^ n)
    let arith := fun (v : Word) (n : Nat) => BitVec.ofInt 32 (v.toInt / 2 ^ n)
    let around := fun (v : Word) (n : Nat) => (v >>> n) ||| (v <<< (32 - n))
    (s.ready c 1 →
      short (.lsl c d a) (k.shifted d m (left x m) (bit x (32 - m))) ∧
      short (.lsr c d a) (k.shifted d m (right x m) (bit x (m - 1))) ∧
      short (.asr c d a) (k.shifted d m (arith x m) (bit x (m - 1))) ∧
      short (.ror c d a) (k.shifted d m (around x m) (around x m).msb) ∧
      short (.sxb c d a) (k.wrote d ((y.setWidth 8).signExtend 32)) ∧
      short (.sxh c d a) (k.wrote d ((y.setWidth 16).signExtend 32)) ∧
      short (.zxh c d a) (k.wrote d (y &&& 0xFFFF#32))) ∧
    (s.ready c 2 →
      long (.lsli c d a n5) (k.shifted d n (left y n) (bit y (32 - n))) ∧
      long (.lsri c d a n5) (k.shifted d n (right y n) (bit y (n - 1))) ∧
      long (.asri c d a n5) (k.shifted d n (arith y n) (bit y (n - 1))) ∧
      long (.rori c d a n5) (k.shifted d n (around y n) (around y n).msb))

/-- R39, R41: a multiply or divide is issued; it takes the place of one of its kind in flight, and its result is
due 3 or 18 issue cycles on. A divide sets V at issue; a multiply changes no flag.

R39: the issue cycles that a multiply or a divide in flight still needs pass, and it writes PH and PL, or QT and
RM. Readings of the model that it rests on: assumption 24. -/
def Obligations.MultiplyAndDivide : Prop :=
  (∀ (s : State) (c : CoreId) (d a : Reg),
    let k := s.cores[c]
    let x := k.w[d]
    let y := k.w[a]
    let step := fun (i : Instr) (k' : Core) => registerStep s i c k' (k.pc + 2#32) 1
    let product := fun (p : Int) (k' : Core) =>
      k' = { k with mul := k'.mul } ∧
        ∃ f, k'.mul = some f ∧ f.due = k.issue + 3 ∧
          (f.ph ++ f.pl : BitVec 64) = BitVec.ofInt 64 p
    let quotient := fun (q r : Word) (v : Bool) =>
      { k with div := some ⟨k.issue + 18, q, r⟩, flg := setBit k.flg 3 v }
    s.ready c 1 →
      (∃ k', product (x.toNat * y.toNat) k' ∧ step (.mulu c d a) k') ∧
      (∃ k', product (x.toInt * y.toInt) k' ∧ step (.muls c d a) k') ∧
      (y = 0#32 → step (.divu c d a) (quotient 0xFFFFFFFF#32 x true) ∧
        step (.divs c d a) (quotient 0xFFFFFFFF#32 x true)) ∧
      (y ≠ 0#32 → step (.divu c d a) (quotient (x / y) (x % y) false)) ∧
      (x = 0x80000000#32 → y = 0xFFFFFFFF#32 →
        step (.divs c d a) (quotient 0x80000000#32 0#32 true)) ∧
      (y ≠ 0#32 → ¬(x = 0x80000000#32 ∧ y = 0xFFFFFFFF#32) →
        step (.divs c d a) (quotient (x.sdiv y) (x.srem y) false))) ∧
  (∀ (s : State) (c : CoreId), s.issues c = true →
    let k := s.cores[c]
    (∀ f, k.mul = some f → ∃ t, exec (.multiplyResult c) s = .next t ∧
      t.cores[c].ph = f.ph ∧ t.cores[c].pl = f.pl ∧ t.cores[c].mul = none ∧
      t.cores[c].issue = max k.issue f.due ∧ t.cores[c].w = k.w ∧ t.cores[c].flg = k.flg ∧
      t.cores[c].pc = k.pc ∧ (∀ e, e ≠ c → t.cores[e] = s.cores[e]) ∧ t.mem = s.mem ∧ SameBlocks s t) ∧
    (∀ f, k.div = some f → ∃ t, exec (.divideResult c) s = .next t ∧
      t.cores[c].qt = f.qt ∧ t.cores[c].rm = f.rm ∧ t.cores[c].div = none ∧
      t.cores[c].issue = max k.issue f.due ∧ t.cores[c].w = k.w ∧ t.cores[c].flg = k.flg ∧
      t.cores[c].pc = k.pc ∧ (∀ e, e ≠ c → t.cores[e] = s.cores[e]) ∧ t.mem = s.mem ∧ SameBlocks s t))

/-- R44, R45: the decimal add and subtract instructions work digit by digit, set Z, V and D, and leave N and
C; DADJ adjusts the digits of one word and clears V.

R46: CVDB sums nibble value times ten to its place, V where a nibble exceeds 9; CVBD converts the value
modulo 100,000,000, V where it exceeds 99,999,999. Both set Z and leave N, C and D. -/
def Obligations.DecimalInstructions : Prop :=
  (∀ (s : State) (c : CoreId) (d a : Reg),
    let k := s.cores[c]
    let x := k.w[d]
    let y := k.w[a]
    let df := bit k.flg 4
    let bad := decide (∃ i : Fin 8, 9 < nibble x i ∨ 9 < nibble y i)
    let step := fun (i : Instr) (r : Word) (v dd : Bool) =>
      registerStep s i c { k with w := k.w.set d r, flg := decimalFlags k.flg r v dd } (k.pc + 2#32) 1
    let add := fun (i : Instr) (x y : Word) (cin v : Bool) =>
      ∃ r, IsDecimalSum x y cin r ∧ step i r v (decide (decimalCarry x y cin 8 = 1))
    let sub := fun (i : Instr) (bin : Bool) =>
      ∃ r, IsDecimalDifference x y bin r ∧ step i r bad (decide (decimalBorrow x y bin 8 = 1))
    s.ready c 1 →
      add (.badd c d a) x y false bad ∧ add (.badc c d a) x y df bad ∧
      sub (.bsub c d a) false ∧ sub (.bsbc c d a) df ∧
      add (.dadj c d) x 0#32 false false) ∧
  (∀ (s : State) (c : CoreId) (d a : Reg),
    let k := s.cores[c]
    let y := k.w[a]
    let flags := fun (r : Word) (v : Bool) => setBit (setBit k.flg 0 (decide (r = 0#32))) 3 v
    let step := fun (i : Instr) (r : Word) (v : Bool) (cycles : Nat) =>
      registerStep s i c { k with w := k.w.set d r, flg := flags r v } (k.pc + 2#32) cycles
    s.ready c 1 →
      (∃ r, (∀ i < 8, nibble r i = y.toNat / 10 ^ i % 10) ∧
        step (.cvbd c d a) r (decide (99999999 < y.toNat)) 4) ∧
      step (.cvdb c d a)
        (BitVec.ofNat 32 (nibble y 0 + nibble y 1 * 10 + nibble y 2 * 100 + nibble y 3 * 1000 +
          nibble y 4 * 10000 + nibble y 5 * 100000 + nibble y 6 * 1000000 + nibble y 7 * 10000000))
        (decide (∃ i : Fin 8, 9 < nibble y i)) 2)


/-! ## Memory -/

/-- R64, R66: a load reads the bytes at its address, widens them and writes Wd; LDWS and POP read from W15, and
POP moves W15 on before it writes Wd. -/
def Obligations.MemoryLoads : Prop :=
  ∀ (s : State) (c : CoreId) (d a : Reg) (i8 : BitVec 8) (i16 : BitVec 16),
    let k := s.cores[c]
    let base := k.w[a]
    let off := k.w[a] + i16.signExtend 32
    let sp := k.w[(15 : Reg)]
    let slot := sp + 4#32 * i8.setWidth 32
    let val := fun (ad : Word) (n : Nat) => s.valueAt ad.toNat n
    let short := fun (i : Instr) (ad : Word) (n : Nat) (k' : Core) =>
      s.ready c 1 → s.accessible c true false ad.toNat n → registerStep s i c k' (k.pc + 2#32) 1
    let long := fun (i : Instr) (ad : Word) (n : Nat) (v : Word) =>
      s.ready c 2 → s.accessible c true false ad.toNat n →
        registerStep s i c (k.wrote d v) (k.pc + 4#32) 1
    short (.ldb c d a) base 1 (k.wrote d (BitVec.ofNat 32 (val base 1))) ∧
    short (.ldh c d a) base 2 (k.wrote d (BitVec.ofNat 32 (val base 2))) ∧
    short (.ldw c d a) base 4 (k.wrote d (BitVec.ofNat 32 (val base 4))) ∧
    short (.ldws c d i8) slot 4 (k.wrote d (BitVec.ofNat 32 (val slot 4))) ∧
    short (.pop c d) sp 4 ((k.wrote 15 (sp + 4#32)).wrote d (BitVec.ofNat 32 (val sp 4))) ∧
    long (.ldbRri c d a i16) off 1 (BitVec.ofNat 32 (val off 1)) ∧
    long (.ldbs c d a i16) off 1 ((BitVec.ofNat 8 (val off 1)).signExtend 32) ∧
    long (.ldhRri c d a i16) off 2 (BitVec.ofNat 32 (val off 2)) ∧
    long (.ldhs c d a i16) off 2 ((BitVec.ofNat 16 (val off 2)).signExtend 32) ∧
    long (.ldwRri c d a i16) off 4 (BitVec.ofNat 32 (val off 4))

/-- R64, R66: a store writes the low bytes of Wd at its address; PUSH stores the old value of Ws below W15 and
moves W15 down. -/
def Obligations.MemoryStores : Prop :=
  ∀ (s : State) (c : CoreId) (d a : Reg) (i16 : BitVec 16),
    let k := s.cores[c]
    let base := k.w[a]
    let off := k.w[a] + i16.signExtend 32
    let down := k.w[(15 : Reg)] - 4#32
    let x := k.w[d]
    let short := fun (i : Instr) (ad : Word) (n : Nat) (k' : Core) =>
      s.ready c 1 → s.storable c ad.toNat n →
        storeStep s i c k' (k.pc + 2#32) 1 ad.toNat n x.toNat
    let long := fun (i : Instr) (n : Nat) =>
      s.ready c 2 → s.storable c off.toNat n →
        storeStep s i c k (k.pc + 4#32) 1 off.toNat n x.toNat
    short (.stb c d a) base 1 k ∧ short (.sth c d a) base 2 k ∧ short (.stw c d a) base 4 k ∧
    short (.push c d) down 4 (k.wrote 15 down) ∧
    long (.stbRri c d a i16) 1 ∧ long (.sthRri c d a i16) 2 ∧ long (.stwRri c d a i16) 4

/-- R47: XCHG stores Wd and ADDM stores the sum of the old word and Wb, at an aligned address in memory, and
each writes the old word to Wd. -/
def Obligations.AtomicAccess : Prop :=
  ∀ (s : State) (c : CoreId) (d a b : Reg),
    let k := s.cores[c]
    let ad := k.w[a].toNat
    let old := BitVec.ofNat 32 (s.valueAt ad 4)
    ad % 4 = 0 → s.accessible c true true ad 4 → s.storable c ad 4 →
      (s.ready c 1 →
        storeStep s (.xchg c d a) c (k.wrote d old) (k.pc + 2#32) 2 ad 4 k.w[d].toNat) ∧
      (s.ready c 2 →
        storeStep s (.addm c d a b) c (k.wrote d old) (k.pc + 4#32) 2 ad 4 (old + k.w[b]).toNat)

/-- R64, R65: an aligned load from a register returns the addressed lanes, zero-extended, and an aligned store
writes the whole register with zero in the other lanes; MEM_BANK_SEL and the first registers of MEM show it. -/
def Obligations.RegisterLanes : Prop :=
  ∀ (s : State) (c : CoreId) (d a : Reg),
    let k := s.cores[c]
    let ad := k.w[a].toNat
    let lane := ad % 4
    let short := fun (i : Instr) (n : Nat) =>
      ad % n = 0 → 0x400A0000 ≤ ad → ad < 0x400A0080 →
        registerStep s i c
          (k.wrote d (BitVec.ofNat 32
            ((s.mm.read (ad - 0x400A0000 - lane)).toNat / 256 ^ lane % 256 ^ n)))
          (k.pc + 2#32) 1
    let write := fun (i : Instr) (n : Nat) =>
      ad % n = 0 → 0x400A00C0 ≤ ad → ad < 0x400A00C4 →
        ∃ t, exec i s = .next t ∧ t.cores[c].seen = k.after (k.pc + 2#32) 1 ∧ t.mem = s.mem ∧
          (∀ e : CoreId, e ≠ c → t.cores[e] = s.cores[e]) ∧ SameBlocks s t ∧
          t.mm.calm = { s.mm with
            sel := BitVec.ofNat 32 (k.w[d].toNat % 256 ^ n * 256 ^ lane) &&& 0x3F#32 }.calm
    s.ready c 1 →
      short (.ldb c d a) 1 ∧ short (.ldh c d a) 2 ∧ short (.ldw c d a) 4 ∧
      write (.stb c d a) 1 ∧ write (.sth c d a) 2 ∧ write (.stw c d a) 4

/-! ## Exceptions and interrupts -/

/-- R22, R24, R53: an instruction that raises an exception enters its handler with the cause and the detail bits
that the rules give it, and changes nothing else.

R25: an exception raised while FLG.E is 1 stops the core, and EPC, EFLG, ECAUSE and the general registers keep
their values; what is in flight is lost (assumption 90). Readings of the model that it rests on: assumptions 26, 28, 31, 90,
91. -/
def Obligations.ExceptionEntry : Prop :=
  (∀ (s : State) (c : CoreId) (d a b : Reg) (n : SReg) (size : ElemSize) (m : Nat),
    let k := s.cores[c]
    let ad := k.w[a].toNat
    let io := inPeriph ad = true
    let task := bit k.task 31 = false
    let none := inObjWindow ad = true ∧ ∀ e ∈ s.wdn.obj.toList, (e.reachable && e.covers ad) = false
    let raise := fun (i : Instr) (code : Nat) (detail : Word) =>
      s.handles c code → exceptionStep s i c code detail
    s.ready c 1 →
      (8 ≤ n.val → raise (.mts c n a) 1 0#32) ∧
      (task → raise (.wait c) 1 0#32 ∧ raise (.frame c) 1 0#32) ∧
      (bit s.itg.cfg 1 = false → raise (.frame c) 1 0#32) ∧
      (¬task ∨ s.irq[c].stack.head?.any (fun e => decide (0 < e.pri)) → raise (.tend c) 1 0#32) ∧
      (s.opens c 2 → raise (.movs c size .repe m) 1 0#32 ∧ raise (.movs c size .repne m) 1 0#32 ∧
        raise (.fils c size .repe m) 1 0#32 ∧ raise (.fils c size .repne m) 1 0#32) ∧
      (s.wdn.tsk[k.w[d].toNat % 64].state = .free → raise (.post c d a) 3 0#32) ∧
      (none → raise (.ldw c d a) 3 0x200#32 ∧ raise (.stw c d a) 3 0x300#32) ∧
      (io → ad % 4 ≠ 0 → raise (.ldw c d a) 4 0#32 ∧ raise (.stw c d a) 4 0x100#32) ∧
      (bit k.w[a] 0 = true → raise (.jr c a) 4 0x1000#32 ∧ raise (.jlr c a) 4 0x1000#32) ∧
      (s.accessible c true true ad 4 → ad % 4 ≠ 0 → raise (.xchg c d a) 4 0x100#32)) ∧
  (∀ (s : State) (c : CoreId), s.codeAt c 0 = none → s.ready c (s.codeHalves c) → s.handles c 1 →
    exceptionStep s (.undefinedEncoding c) c 1 0#32) ∧
  (∀ (s : State) (c : CoreId), s.codeAt c 0 = none → s.ready c (s.codeHalves c) →
    bit s.cores[c].flg 8 = true → s.twin = false →
    ∃ t, exec (.undefinedEncoding c) s = .next t ∧ t.cores[c].phase = .stopped ∧
      t.cores[c].epc = s.cores[c].epc ∧ t.cores[c].eflg = s.cores[c].eflg ∧
      t.cores[c].ecause = s.cores[c].ecause ∧ t.cores[c].w = s.cores[c].w ∧
      t.cores[c].flg = s.cores[c].flg ∧ t.cores[c].pc = s.cores[c].pc ∧
      t.cores[c].mul = none ∧ t.cores[c].div = none ∧
      ∀ e : CoreId, e ≠ c → t.cores[e] = s.cores[e])

/-- R27, R40, R185: an accepted interrupt pushes PC and then FLG, moves W15 down by 8, takes the source onto the
priority stack and makes it active, and goes on at its vector, once nothing is in flight; taking the core out of WAIT
clears the idle count. Readings of the model
that it rests on: assumption 85. -/
def Obligations.InterruptEntry : Prop :=
  ∀ (s : State) (c : CoreId) (src : Nat),
    let k := s.cores[c]
    let sp := k.w[(15 : Reg)] - 8#32
    let v := s.valueAt (0x60000200 + 4 * src) 4
    s.interruptible c = true → s.irq[c].acceptable = some src → sp.toNat % 4 = 0 →
    s.accessible c true false (0x60000200 + 4 * src) 4 → v % 2 = 0 → s.storable c sp.toNat 8 →
      ∃ t, exec (.interruptAccept c) s = .next t ∧
        t.cores[c].seen =
          { k.drained with w := k.w.set 15 sp, pc := BitVec.ofNat 32 v, phase := .run }.seen ∧
        (∃ m r, r.map = s.mm.map ∧
          let u : State := { s with mem := m, mm := r }
          Stored s u (sp + 4#32).toNat 4 k.pc.toNat ∧ Stored u t sp.toNat 4 k.flg.toNat) ∧
        (∀ e : CoreId, e ≠ c → t.cores[e] = s.cores[e]) ∧
        SameBlocks (if k.phase = .wait then s.clearIdle else s) t ∧
        t.irq[c].stack = ⟨src, s.irq[c].priority src⟩ :: s.irq[c].stack ∧
        bit t.irq[c].act src = true

/-! ## Branches, special registers and returns -/

/-- R56, R57, R67, R68: a branch goes to its own address plus twice its displacement where its condition holds;
BL and JLR write the address of the next instruction to W14; JR and JLR go to the even address in Ws. -/
def Obligations.BranchesAndJumps : Prop :=
  ∀ (s : State) (c : CoreId) (a : Reg) (cond : Cond) (d9 : BitVec 9) (d20 : BitVec 20)
    (d24 : BitVec 24),
    let k := s.cores[c]
    let go := fun (x : Int) => BitVec.ofInt 32 (k.pc.toNat + 2 * x)
    (s.ready c 1 →
      (condition cond k.flg → registerStep s (.bcc c cond d9) c k (go d9.toInt) 2) ∧
      (¬condition cond k.flg → registerStep s (.bcc c cond d9) c k (k.pc + 2#32) 1) ∧
      (bit k.w[a] 0 = false → registerStep s (.jr c a) c k k.w[a] 2 ∧
        registerStep s (.jlr c a) c (k.wrote 14 (k.pc + 2#32)) k.w[a] 2)) ∧
    (s.ready c 2 →
      (condition cond k.flg → registerStep s (.bccL c cond d20) c k (go d20.toInt) 2) ∧
      (¬condition cond k.flg → registerStep s (.bccL c cond d20) c k (k.pc + 4#32) 1) ∧
      registerStep s (.jmp c d24) c k (go d24.toInt) 2 ∧
      registerStep s (.bl c d24) c (k.wrote 14 (k.pc + 4#32)) (go d24.toInt) 2)

/-- R18, R19, R40, R71: MFS reads a special register, zero for a number without one, and MTS writes the writable
bits of one, cancelling a multiply or divide in flight when it writes its results.

R48, R72: NOP and SYNC change nothing but the PC. R36: WAIT in thread code halts the core with its PC at the
next instruction, or goes on when an acceptable interrupt is pending; R51: so does FRAME under Waymark. Readings
of the model that it rests on: assumption 25. -/
def Obligations.SpecialRegistersAndWait : Prop :=
  (∀ (s : State) (c : CoreId) (d a : Reg) (n : SReg),
    let k := s.cores[c]
    let x := k.w[a]
    let read := fun (n : SReg) (v : Word) => registerStep s (.mfs c d n) c (k.wrote d v) (k.pc + 2#32) 1
    let write := fun (n : SReg) (k' : Core) => registerStep s (.mts c n a) c k' (k.pc + 2#32) 1
    let way := bit s.itg.cfg 1
    s.ready c 1 →
      read 0 k.flg ∧ read 1 k.pl ∧ read 2 k.ph ∧ read 3 k.qt ∧ read 4 k.rm ∧ read 5 k.epc ∧
      read 6 k.eflg ∧ read 7 k.ecause ∧ read 8 k.task ∧
      read 9 (BitVec.ofNat 32 (c.val + 4 * (bit s.itg.cfg 0).toNat + 8 * way.toNat)) ∧
      read 10 (if way then s.itg.frm else 0#32) ∧
      registerStep s (.mfs c d 11) c
        ({ k with cycShadow := k.cyc.extractLsb' 32 32 }.wrote d
          (if way then 0#32 else k.cyc.extractLsb' 0 32)) (k.pc + 2#32) 1 ∧
      read 12 (if way then 0#32 else k.cycShadow) ∧
      (13 ≤ n.val → read n 0#32) ∧
      write 0 { k with flg := x &&& 0x11F#32 } ∧
      write 1 { k with pl := x, mul := none } ∧ write 2 { k with ph := x, mul := none } ∧
      write 3 { k with qt := x, div := none } ∧ write 4 { k with rm := x, div := none } ∧
      write 5 { k with epc := x } ∧ write 6 { k with eflg := x } ∧
      write 7 { k with ecause := x &&& 0x1FFF#32 }) ∧
  (∀ (s : State) (c : CoreId),
    let k := s.cores[c]
    let halt := fun (i : Instr) (p : Phase) =>
      ∃ t, exec i s = .next t ∧
        t.cores[c].seen = { k with phase := p }.after (k.pc + 2#32) (max 1 (max k.mulWait k.divWait)) ∧
        (∀ e : CoreId, e ≠ c → t.cores[e] = s.cores[e]) ∧ (∀ a, t.seenByte a = s.seenByte a) ∧
        SameBlocks s t
    let way := bit s.itg.cfg 1 = true
    s.ready c 1 →
      registerStep s (.nop c) c k (k.pc + 2#32) 1 ∧ registerStep s (.sync c) c k (k.pc + 2#32) 1 ∧
      (bit k.task 31 = true →
        (way ∨ s.irq[c].acceptable = none → halt (.wait c) .wait) ∧
        (¬way → s.irq[c].acceptable.isSome → registerStep s (.wait c) c k (k.pc + 2#32) 1) ∧
        (way → halt (.frame c) .frame)))

/-- R72: ERET goes to EPC with FLG from EFLG; IRET pops FLG and PC. Neither writes a reserved bit of FLG. -/
def Obligations.Returns : Prop :=
  ∀ (s : State) (c : CoreId),
    let k := s.cores[c]
    let sp := k.w[(15 : Reg)]
    let f := s.valueAt sp.toNat 4
    let r := s.valueAt (sp + 4#32).toNat 4
    s.ready c 1 →
      (bit k.epc 0 = false →
        registerStep s (.eret c) c { k with flg := k.eflg &&& 0x11F#32 } k.epc 2) ∧
      (s.accessible c true false sp.toNat 4 → s.accessible c true false (sp + 4#32).toNat 4 → r % 2 = 0 →
        registerStep s (.iret c) c
          { k with flg := BitVec.ofNat 32 f &&& 0x11F#32, w := k.w.set 15 (sp + 8#32) }
          (BitVec.ofNat 32 r) 3)

/-! ## Tasks and threads -/

/-- R35: POST makes an idle task ready and a running one pending with cause 4 and Ws as its detail, sets Z, and
leaves a task that is ready or pending as it is, with Z clear. Under Waymark the readiness is collected, and Z
is set where the poster has made no earlier POST to the task in the frame.

R34: TEND in a task at running priority 0 ends it: its entry is idle, or ready when it was pending, and the core
resumes its thread with the registers that dispatch saved; what is in flight is cancelled, and PL, PH, QT and RM
are zero. Readings of the model that it rests on: assumption 27. -/
def Obligations.TaskInstructions : Prop :=
  (∀ (s : State) (c : CoreId) (d a : Reg),
    let k := s.cores[c]
    let i := k.w[d].toNat % 64
    let e := s.wdn.tsk[i]
    let new : TaskEntry := { e with readiness := ⟨4, k.w[a]⟩, released := false }
    let me := if bit k.task 31 then Writer.thread c else Writer.task (k.task.toNat % 64)
    let post := fun (e' : TaskEntry) (ready : List WayReady) (z : Bool) =>
      ∃ t, exec (.post c d a) s = .next t ∧
        t.cores[c].seen = { k with flg := setBit k.flg 0 z }.after (k.pc + 2#32) 1 ∧
        t.wdn.tsk = s.wdn.tsk.set i e' ∧ t.itg.ready = ready ∧
        (∀ e : CoreId, e ≠ c → t.cores[e] = s.cores[e]) ∧ (∀ a, t.seenByte a = s.seenByte a) ∧
        SameBlocks s t
    s.ready c 1 →
      (bit s.itg.cfg 1 = false →
        (e.state = .idle → post { new with state := .ready } s.itg.ready true) ∧
        (e.state = .running → post { new with state := .runningPending } s.itg.ready true) ∧
        (e.state = .ready ∨ e.state = .runningPending → post e s.itg.ready false)) ∧
      (bit s.itg.cfg 1 = true → e.state ≠ .free →
        post e (s.itg.ready ++ [⟨.post me, i, ⟨4, k.w[a]⟩⟩])
          (decide (∀ r ∈ s.itg.ready, ¬(r.task = i ∧ r.order = .post me))))) ∧
  (∀ (s : State) (c : CoreId) (x : ThreadCtx),
    let k := s.cores[c]
    let i := k.task.toNat % 64
    let e := s.wdn.tsk[i]
    s.ready c 1 → bit k.task 31 = false → s.irq[c].stack.head?.all (fun e => decide (e.pri = 0)) → k.shadow = some x →
      ∃ t, exec (.tend c) s = .next t ∧
        t.cores[c].seen =
          { k with
            w := x.w, flg := x.flg, epc := x.epc, eflg := x.eflg, ecause := x.ecause, pc := x.pc
            pl := 0#32, ph := 0#32, qt := 0#32, rm := 0#32, task := 0x80000000#32
            shadow := none, mul := none, div := none, issue := k.issue + 6 }.seen ∧
        (e.state = .running → t.wdn.tsk = s.wdn.tsk.set i { e with state := .idle }) ∧
        (e.state = .runningPending → t.wdn.tsk = s.wdn.tsk.set i { e with state := .ready }) ∧
        (∀ e : CoreId, e ≠ c → t.cores[e] = s.cores[e]) ∧ (∀ a, t.seenByte a = s.seenByte a) ∧
        SameBlocks s t)

/-! ## String instructions -/

/-- R42: without a prefix a string instruction does its body once: W1 and W2 move on by the element size, W3 is
left, MOVS copies and FILS stores an element, and CMPS and SCNS set Z, N, C and V at that size.

R42: a prefixed string instruction whose W3 is 0 goes on at the instruction after it and changes nothing else;
REP leaves FLG, and REPE and REPNE apply to CMPS and SCNS alone. Readings of the model that it rests on:
assumptions 28, 86. -/
def Obligations.StringInstructions : Prop :=
  (∀ (s : State) (c : CoreId) (size : ElemSize) (m : Nat),
    let k := s.cores[c]
    let n := match size with
      | .byte => 1
      | .half => 2
      | .word => 4
    let src := k.w[(1 : Reg)]
    let dst := k.w[(2 : Reg)]
    let x := s.valueAt src.toNat n
    let y := s.valueAt dst.toNat n
    let p := k.w[(4 : Reg)].toNat % 256 ^ n
    let w1 := fun (k : Core) => k.wrote 1 (src + BitVec.ofNat 32 n)
    let w2 := fun (k : Core) => k.wrote 2 (dst + BitVec.ofNat 32 n)
    let flags := fun (a b : Nat) =>
      let r := (a + 256 ^ n - b) % 256 ^ n
      let half := 256 ^ n / 2
      setBit (setBit (setBit (setBit k.flg 0 (decide (r = 0))) 1 (decide (half ≤ r))) 2
        (decide (a < b))) 3
        (decide ((half ≤ a ↔ b < half) ∧ (half ≤ r ↔ a < half)))
    let readable := fun (a : Word) => s.accessible c true false a.toNat n
    s.ready c 1 →
      (readable src → s.storable c dst.toNat n →
        storeStep s (.movs c size .bare m) c (w2 (w1 k)) (k.pc + 2#32) 2 dst.toNat n x) ∧
      (s.storable c dst.toNat n →
        storeStep s (.fils c size .bare m) c (w2 k) (k.pc + 2#32) 1 dst.toNat n p) ∧
      (readable src → readable dst →
        registerStep s (.cmps c size .bare m) c (w2 (w1 { k with flg := flags x y })) (k.pc + 2#32) 2) ∧
      (readable src →
        registerStep s (.scns c size .bare m) c (w1 { k with flg := flags x p }) (k.pc + 2#32) 1)) ∧
  (∀ (s : State) (c : CoreId) (size : ElemSize) (m : Nat),
    let k := s.cores[c]
    let ends := fun (i : Instr) => registerStep s i c k (k.pc + 4#32) 1
    s.opens c 2 → k.w[(3 : Reg)] = 0#32 →
      ends (.movs c size .rep m) ∧ ends (.fils c size .rep m) ∧
      ends (.cmps c size .rep m) ∧ ends (.cmps c size .repe m) ∧ ends (.cmps c size .repne m) ∧
      ends (.scns c size .rep m) ∧ ends (.scns c size .repe m) ∧ ends (.scns c size .repne m))

/-! ## TRAP and the services -/

/-- R37, R173: services that answer from Ridgepole's own state. INFO tells the ROM revision, the image that
runs, the trial and its tries, ROLLBACK, CTR and VERSION; STAY keeps or gives consent; KEY_CHECK answers a check
value; WDOG_SET takes a period that does not lengthen, and with WDOG_KICK it begins the period again (R178); and an
unknown number is refused.

R166-R173: IMG_CONFIRM ends a trial by a Groundsheet write; IMG_SWITCH verifies the other image and starts a
trial of it with three tries; ROLLBACK_COMMIT begins to blow fuses, for CTR to reach the ROLLBACK of the image that runs.
Readings of the model that it rests on: assumptions 23, 48, 56, 59, 62. -/
def Obligations.ServicesOfRidgepole : Prop :=
  (∀ (s : State) (c : CoreId) (n : BitVec 8),
    let w1 := s.cores[c].w[(1 : Reg)]
    let r := s.rp
    let ok := fun (j : Nat) (i : Instr) (u : State) (a b d : Word) => servedStep s i c j u ⟨0#32, a, b, d⟩
    let err := fun (j : Nat) (i : Instr) (k : Word) => servedStep s i c j s ⟨0#32 - k, 0#32, 0#32, 0#32⟩
    s.ready c 1 → s.mayAsk →
      ok 0 (.info c) s (Config.romRev.setWidth 32)
        (flagAt 0 (decide (r.running = some true)) ||| flagAt 1 (bit r.gs.boot 1) |||
          field 2 (bits r.gs.boot 2 2) ||| field 8 r.rollback ||| field 16 r.ctr) r.version ∧
      (w1.toNat < 2 →
        ok 9 (.stay c) (s.onRp fun r => { r with stay := setBit r.stay c (decide (w1 = 1#32)) }) 0#32 0#32 0#32) ∧
      (2 ≤ w1.toNat → err 9 (.stay c) 2#32) ∧
      (1028 ≤ w1.toNat → err 11 (.keyCheck c) 2#32) ∧
      (w1.toNat < 1028 → r.key w1.toNat = none → err 11 (.keyCheck c) 6#32) ∧
      (∀ k, w1.toNat < 1028 → r.key w1.toNat = some k →
        ok 11 (.keyCheck c) s (checkValue w1.toNat k) 0#32 0#32) ∧
      (1 ≤ w1.toNat → w1.toNat ≤ 6553 → r.wdog = 0 ∨ w1.toNat ≤ r.wdog →
        ok 13 (.wdogSet c) (s.onRp fun r =>
          { r with wdog := w1.toNat, wdogLeft := w1.toNat * 221184 }) 0#32 0#32 0#32) ∧
      (w1 = 0#32 ∨ 6553 < w1.toNat → err 13 (.wdogSet c) 2#32) ∧
      (w1.toNat ≤ 6553 → r.wdog ≠ 0 → r.wdog < w1.toNat → err 13 (.wdogSet c) 3#32) ∧
      ok 14 (.wdogKick c) (s.onRp fun r => { r with wdogLeft := r.wdog * 221184 }) 0#32 0#32 0#32 ∧
      (16 ≤ n.toNat → err n.toNat (.unknownService c n) 1#32)) ∧
  (∀ (s : State) (c : CoreId),
    let w1 := s.cores[c].w[(1 : Reg)]
    let p := decide (w1 = 1#32)
    let r := s.rp
    let g := r.gs
    let trial := bit g.boot 1 = true
    let room := g.gen.toNat < 0xFFFFFFFE
    let ok := fun (j : Nat) (i : Instr) (u : State) (a : Word) => servedStep s i c j u ⟨0#32, a, 0#32, 0#32⟩
    let err := fun (j : Nat) (i : Instr) (k : Word) => servedStep s i c j s ⟨0#32 - k, 0#32, 0#32, 0#32⟩
    s.ready c 1 → s.mayAsk →
      (¬trial → ok 1 (.imgConfirm c) s 0#32) ∧
      (trial → room → ok 1 (.imgConfirm c) (s.writeGs { g with boot := setBit g.boot 1 false }) 0#32) ∧
      (trial → ¬room → err 1 (.imgConfirm c) 6#32) ∧
      (1 < w1.toNat ∨ r.running = some p → err 2 (.imgSwitch c) 2#32) ∧
      (w1.toNat ≤ 1 → r.running ≠ some p → s.mem.ecc = [] →
        if imageOk s.mem p r.ctr = false then err 2 (.imgSwitch c) 8#32
        else if ¬room then err 2 (.imgSwitch c) 6#32
        else ok 2 (.imgSwitch c)
          (s.writeGs { g with boot := setBits (setBit (setBit g.boot 0 p) 1 true) 2 2 3 }) 0#32) ∧
      (trial → err 3 (.rollbackCommit c) 3#32) ∧
      (¬trial → r.rollback ≤ r.ctr → ok 3 (.rollbackCommit c) s (BitVec.ofNat 32 r.ctr)) ∧
      (¬trial → r.ctr < r.rollback → s.pwr.main = true → s.pwr.fuseSupply = true →
        ok 3 (.rollbackCommit c) (s.onRp fun r => { r with fusing := true })
          (BitVec.ofNat 32 r.rollback)) ∧
      (¬trial → r.ctr < r.rollback → ¬(s.pwr.main = true ∧ s.pwr.fuseSupply = true) →
        servedStep s (.rollbackCommit c) c 3 s ⟨0#32 - 7#32, BitVec.ofNat 32 r.ctr, 0#32, 0#32⟩))

/-- R173, R174, R204, R395, R396: PIN_CLAIM gives a free ball FUNC, OWNER and, for an output code, its level;
PIN_FREE returns one; CHAN_CLAIM gives the named channel or the free one of lowest number; CHAN_FREE returns one
and frees the consumers that named it.

R96, R171, R173: KEY_LOAD stores the 16 bytes at W2 as a key of the slots that Canvas may load, where the core
may read them; EMB_RIGHTS in thread code writes the rights of a block of the Ember window. Readings of the model
that it rests on: assumption 23. -/
def Obligations.ServicesOfOwnershipAndKeys : Prop :=
  (∀ (s : State) (c : CoreId),
    let w1 := s.cores[c].w[(1 : Reg)]
    let w2 := s.cores[c].w[(2 : Reg)]
    let b := w1.toNat
    let f := bits w2 0 4
    let owner := fun n : Nat => bits (vget s.per.evt.ch n 0x7000#32) 12 3
    let claim := fun n : Nat => s.onEvt fun e =>
      { e with ch := vmod e.ch n fun w => setBit (setBits w 12 3 c) 15 false }
    let ball := fun b : Nat => vget s.per.pin.ball b 0x70#32
    let ok := fun (j : Nat) (i : Instr) (u : State) (a : Word) => servedStep s i c j u ⟨0#32, a, 0#32, 0#32⟩
    let err := fun (j : Nat) (i : Instr) (k : Word) (u : State) => servedStep s i c j u ⟨0#32 - k, 0#32, 0#32, 0#32⟩
    s.ready c 1 → s.mayAsk →
      (96 ≤ b ∨ claimAllowed f b = false → err 4 (.pinClaim c) 2#32 s) ∧
      (claimAllowed f b = true → bits (ball b) 4 3 < 4 →
        err 4 (.pinClaim c) 4#32 (s.onPin fun p => { p with stat := setBit p.stat 0 true })) ∧
      (claimAllowed f b = true → ¬bits (ball b) 4 3 < 4 →
        ok 4 (.pinClaim c) (s.onPin fun p =>
          { p with
            ball := vset p.ball b (setBits (setBits (ball b) 0 4 f) 4 3 c)
            out := if 1 ≤ f ∧ f ≤ 3 then setBit p.out b (bit w2 8) else p.out }) 0#32) ∧
      (96 ≤ b → err 5 (.pinFree c) 2#32 s) ∧
      (b < 96 → bits (ball b) 4 3 ≠ c → err 5 (.pinFree c) 3#32 s) ∧
      (b < 96 → bits (ball b) 4 3 = c →
        ok 5 (.pinFree c) (s.onPin fun p =>
          { p with
            ball := vset p.ball b (setBits (setBits (setBits (ball b) 8 5 0) 0 4 0) 4 3 7)
            hold := if b < 16 then setBit p.hold b false else p.hold }) 0#32) ∧
      (b < 62 → 4 < owner b → ok 6 (.chanClaim c) (claim b) w1) ∧
      (b < 62 → owner b ≤ 4 → err 6 (.chanClaim c) 4#32 s) ∧
      (62 ≤ b → w1 ≠ 0xFFFFFFFF#32 → err 6 (.chanClaim c) 2#32 s) ∧
      (∀ n < 62, w1 = 0xFFFFFFFF#32 → 4 < owner n → (∀ m < n, owner m ≤ 4) →
        ok 6 (.chanClaim c) (claim n) (BitVec.ofNat 32 n)) ∧
      (w1 = 0xFFFFFFFF#32 → (∀ m < 62, owner m ≤ 4) → err 6 (.chanClaim c) 6#32 s) ∧
      (64 ≤ b → err 7 (.chanFree c) 2#32 s) ∧
      (b < 64 → owner b ≠ c → err 7 (.chanFree c) 3#32 s) ∧
      (b < 64 → owner b = c →
        ok 7 (.chanFree c) (s.onEvt fun e =>
          { e with
            ch := vset e.ch b 0x7000#32
            fired := setBit e.fired b false
            cons := e.cons.map fun w => if bit w 6 ∧ bits w 0 6 = b then setBit w 6 false else w })
          0#32)) ∧
  (∀ (s : State) (c : CoreId),
    let k := s.cores[c]
    let w1 := k.w[(1 : Reg)]
    let w2 := k.w[(2 : Reg)]
    let n := w1.toNat
    let ok := fun (j : Nat) (i : Instr) (u : State) => servedStep s i c j u ⟨0#32, 0#32, 0#32, 0#32⟩
    let err := fun (j : Nat) (i : Instr) (k : Word) => servedStep s i c j s ⟨0#32 - k, 0#32, 0#32, 0#32⟩
    let read := s.readable (s.groupOf c) w2.toNat 16
    let bytes := (List.range 16).map fun j => s.mem.byte (s.physical (w2.toNat + j))
    s.ready c 1 → s.mayAsk →
      (1028 ≤ n → err 10 (.keyLoad c) 2#32) ∧ (n = 1026 ∨ n = 1027 → err 10 (.keyLoad c) 3#32) ∧
      (n < 1026 → read = false → err 10 (.keyLoad c) 5#32) ∧
      (n < 1026 → read = true → s.mem.ecc = [] → (∀ j < 16, inObjWindow (w2.toNat + j) = true) →
        ok 10 (.keyLoad c) (s.onRp fun r =>
          { r with
            keys := ⟨n, bytes, crc32 bytes⟩ :: r.keys.filter fun k => decide (k.slot ≠ n)
            keyWrite := some n })) ∧
      (16 ≤ n ∨ 256 ≤ w2.toNat → err 12 (.embRights c) 2#32) ∧
      (n < 16 → w2.toNat < 256 → bit k.task 31 = false → err 12 (.embRights c) 3#32) ∧
      (n < 16 → w2.toNat < 256 → bit k.task 31 = true →
        ok 12 (.embRights c) (s.onMm fun r =>
          { r with rights := vmod r.rights (n / 4) fun w => setBits w (8 * (n % 4)) 8 w2.toNat })))

/-- R173, R177: DVFS asks for the voltage and the top divider of a point up to PMAX. R173: RESET begins a Strike
that ends in a reset with the cause of a software reset, and never answers.

R37, R170, R177: when Ridgepole answers, W0 holds the status and W1-W3 the results, and the core goes on; nothing else
changes but what a service does at its end: CTR is raised, or SUPPLY answers with CTR as far as it was raised; DVFS answers
with the point in force once no change is under way. Readings of the model that it rests on: assumptions 23, 56. -/
def Obligations.ResetServicesAndAnswers : Prop :=
  (∀ (s : State) (c : CoreId),
    let p := s.cores[c].w[(1 : Reg)].toNat
    let stalls := fun (t : State) (r : Option TrapAnswer) =>
      t.cores[c].seen =
        { s.cores[c].after (s.cores[c].pc + 2#32) 1 with phase := .trap, asked := none, trap := r }.seen ∧
      (∀ e : CoreId, e ≠ c → t.cores[e] = s.cores[e])
    s.ready c 1 → s.mayAsk →
      (3 ≤ p → servedStep s (.dvfs c) c 8 s ⟨0#32 - 2#32, 0#32, 0#32, 0#32⟩) ∧
      (p < 3 → bits s.rp.gs.misc 8 2 < p → servedStep s (.dvfs c) c 8 s ⟨0#32 - 3#32, 0#32, 0#32, 0#32⟩) ∧
      (p < 3 → p ≤ bits s.rp.gs.misc 8 2 → ∃ t, exec (.dvfs c) s = .next t ∧
        stalls t (some ⟨0#32, BitVec.ofNat 32 p, 0#32, 0#32⟩) ∧ t.mem = s.mem ∧
        bits t.pwr.opp 0 2 = p ∧ t.clk.div = BitVec.ofNat 32 (2 - p)) ∧
      (∃ t, exec (.reset c) s = .next t ∧ stalls t none ∧ (s.wdn.mig = none → t.mem = s.mem) ∧
        t.wdn.mig = none ∧ t.wdn.queue = [] ∧
        t.pwr.strike = some ⟨.commanded, 0x40#32, 0#32, false⟩)) ∧
  (∀ (s : State) (c : CoreId) (n : Nat) (r : TrapAnswer),
    let answers := fun (u : State) (r : TrapAnswer) =>
      s.becomes (.trapReturn c) ((u.onCore c fun k =>
        { k with
          w := (((k.w.set 0 r.w0).set 1 r.w1).set 2 r.w2).set 3 r.w3
          phase := .run
          trap := none }).onRp fun k => { k with serving := none })
    s.canvasUp = true → s.cores[c].phase = .trap → s.cores[c].trap = some r → s.rp.serving = some (c, n) →
    (∀ e : CoreId, s.cores[e].asked = none) →
      (n ≠ 3 → n ≠ 8 → n ≠ 10 → answers s r) ∧
      (n = 3 → s.rp.fusing = true →
        answers (s.onRp fun k => { k with ctr := max k.ctr k.rollback, fusing := false }) r) ∧
      (n = 3 → s.rp.fusing = false → r.w0 = 0#32 → s.rp.ctr < s.rp.rollback →
        answers s ⟨0#32 - 7#32, BitVec.ofNat 32 s.rp.ctr, 0#32, 0#32⟩) ∧
      (n = 8 → r.w0 = 0#32 → s.oppBusy = false →
        answers s { r with w1 := BitVec.ofNat 32 (bits s.pwr.opp 4 2) }) ∧
      (n = 10 → answers (s.onRp fun k => { k with keyWrite := none }) r))

/-! ## Commands that access a register -/

/-- R186, R188, R190, R191, R206: a write of IRQ_EOI retires the top entry of the stack of the writer's own bank, IRQ_SWSET
raises software interrupts on the cores that its bits name, IRQ_ENn enables what is permitted and sets DENY for
the rest, IRQ_PSETn sets pending bits, those of channels that the writer does not own apart, IRQ_PERMITn takes an enable
away with its permit, and a read of IRQ_LOSTn clears two counts. A dead bank of Twin-skin ignores all of them. -/
def Obligations.InterruptRows : Prop :=
  ∀ (s : State) (a : Agent) (v : Word),
    let bank := fun b : Nat => vget s.irq b IrqBank.reset
    let put := fun (b : Nat) (q : IrqBank) => ({ s with irq := vset s.irq b q } : State)
    let owner := fun n : Nat => bits (vget s.per.evt.ch n 0x7000#32) 12 3
    let may := fun b i : Nat => if b = 4 then i < 64 else
      i < 4 ∨ i = 56 ∨ (i < 64 ∧ bit (bank b).permit i = true) ∨ (64 ≤ i ∧ owner (i - 64) = b)
    let hit := fun b : Nat => if s.twin then b % 2 = 0 ∧ (bit v b = true ∨ bit v (b + 1) = true)
      else bit v b = true
    (∀ b, b = agentBank a → s.writes a (ioIrq + 0x400 * b + 0x08) v →
      (s.irqDead b = true → s.becomes (.irqEoi a v) s) ∧
      (s.irqDead b = false → (bank b).stack = [] →
        s.becomes (.irqEoi a v) (put b { bank b with eoierr := true })) ∧
      (∀ e r, s.irqDead b = false → (bank b).stack = e :: r →
        s.becomes (.irqEoi a v) (put b { bank b with stack := r, act := setBit (bank b).act e.src false }))) ∧
    (∀ k : CoreId, a = .core k → s.writes a (ioIrq + 0x400 * k + 0x0C) v →
      (s.irqDead k = true → s.becomes (.irqSwset a v) s) ∧
      (s.irqDead k = false → s.becomes (.irqSwset a v) { s with
        irq := Vector.ofFn fun b : Fin 5 =>
          let q := s.irq[b]
          if b.val < 4 ∧ hit b ∧ bit q.en k = true ∧ bit q.act k = false
          then { q with pend := setBit q.pend k true } else q })) ∧
    (∀ (b : Fin 5) (n : Fin 4),
      (s.writes a (ioIrq + 0x400 * b + 0x10 + 4 * n) v →
        (s.irqDead b = true → s.becomes (.irqEnWrite a b n v) s) ∧
        (s.irqDead b = false → ∃ q, s.becomes (.irqEnWrite a b n v) (put b q) ∧
          (∀ i < 128, bit q.en i = true ↔
            if i / 32 = n then bit v (i % 32) = true ∧ may b i else bit (bank b).en i = true) ∧
          (q.deny = true ↔ (bank b).deny = true ∨
            (b.val < 4 ∧ ∃ i < 32, bit v i = true ∧ ¬may b (32 * n + i))) ∧
          q = { bank b with en := q.en, deny := q.deny })) ∧
      (s.writes a (ioIrq + 0x400 * b + 0x30 + 4 * n) v →
        (s.irqDead b = true → s.becomes (.irqPsetWrite a b n v) s) ∧
        (s.irqDead b = false → ∃ q, s.becomes (.irqPsetWrite a b n v) (put b q) ∧
          (∀ i < 128, bit q.pend i = true ↔ bit (bank b).pend i = true ∨
            (i / 32 = n ∧ bit v (i % 32) = true ∧ (i < 64 ∨ (b.val < 4 ∧ owner (i - 64) = ownerOf a)))) ∧
          q = { bank b with pend := q.pend })) ∧
      (s.reads a (ioIrq + 0x400 * b + 0xA0 + 4 * n) →
        (s.irqDead b = true → s.becomes (.irqLostRead a b n) s) ∧
        (s.irqDead b = false →
          let lost := vset (vset (bank b).lost (2 * n) 0#16) (2 * n + 1) 0#16
          ∃ t, exec (.irqLostRead a b n) s = .next t ∧ Settles (put b { bank b with lost := lost }) t ∧
            (s.wdn.retiring = 0#50 → s.consistent → (vget t.irq b IrqBank.reset).lost = lost)))) ∧
    (∀ (b : Fin 4) (n : Fin 2), a = .ridgepole → s.running = true →
      (s.irqDead b = true → s.becomes (.irqPermitWrite a b n v) s) ∧
      (s.irqDead b = false → ∃ q, s.becomes (.irqPermitWrite a b n v) (put b q) ∧
        (∀ i < 64, bit q.permit i = true ↔
          if i / 32 = n then bit v (i % 32) = true ∨ i < 4 ∨ i = 56 else bit (bank b).permit i = true) ∧
        (∀ i < 128, bit q.en i = true ↔ bit (bank b).en i = true ∧
          (i / 32 = n → bit q.permit i = true)) ∧
        q = { bank b with en := q.en, permit := q.permit }))

/-- R200-R203, R207: a write of EVT_SWFIRE fires the writer's own channel that selects producer 188, or sets SWERR; the
settings of a channel, a consumer, a release or a pin action take the value where the writer owns them, and
otherwise DENY is set; Ridgepole writes any of them; the fired flags and the overruns clear where the writer owns
them, and the overrun of a free consumer for any writer. -/
def Obligations.RouterRows : Prop :=
  ∀ (s : State) (a : Agent) (v : Word),
    let e := s.per.evt
    let owner := fun n : Nat => bits (vget e.ch n 0x7000#32) 12 3
    let mine := fun n : Nat => owner n = ownerOf a
    let held := fun k : Nat => bit (vget e.cons k 0#32) 6 = true → mine (bits (vget e.cons k 0#32) 0 6)
    let open_ := fun k : Nat => a = .ridgepole ∨ held k
    let evt := fun q : Evt => s.onEvt fun _ => q
    let deny := { e with deny := true }
    let n := bits v 0 6
    (s.writes a (ioEvt + 8) v →
      (mine n → bits (vget e.ch n 0x7000#32) 0 8 = 188 →
        ∃ t, exec (.evtSwfire a v) s = .next t ∧ Settles (s.fire (1000 + n)) t ∧ ⟨1000 + n, 0, []⟩ ∈ t.inflight) ∧
      (¬(mine n ∧ bits (vget e.ch n 0x7000#32) 0 8 = 188) →
        s.becomes (.evtSwfire a v) (evt { e with swerr := true }))) ∧
    (∀ n : Fin 96, s.writes a (ioEvt + (0x200 + 4 * n)) v →
      ((open_ n ∧ (a = .ridgepole ∨ bit v 6 = false ∨ mine (bits v 0 6))) →
        s.becomes (.evtConsWrite a n v) (evt { e with cons := e.cons.set n (v &&& 0x7F#32) })) ∧
      (¬(open_ n ∧ (a = .ridgepole ∨ bit v 6 = false ∨ mine (bits v 0 6))) →
        s.becomes (.evtConsWrite a n v) (evt deny))) ∧
    (∀ n : Fin 64, s.writes a (ioEvt + (0x100 + 4 * n)) v →
      (a ≠ .ridgepole → mine n → s.becomes (.evtChCfgWrite a n v)
        (evt { e with ch := e.ch.set n ((e.ch[n] &&& 0xFFFFFE00#32) ||| (v &&& 0x1FF#32)) })) ∧
      (a ≠ .ridgepole → ¬mine n → s.becomes (.evtChCfgWrite a n v) (evt deny)) ∧
      (a = .ridgepole → s.becomes (.evtChCfgWrite a n v)
        (evt { e with ch := e.ch.set n ((if bits v 12 3 = 5 ∨ bits v 12 3 = 6 then setBits v 12 3 7 else v) &&&
          0xF1FF#32) }))) ∧
    (∀ n : Fin 16, s.writes a (ioEvt + (0x380 + 4 * n)) v →
      (open_ (64 + n) →
        s.becomes (.evtTrelWrite a n v) (evt { e with trel := e.trel.set n (v &&& 0x3F#32) })) ∧
      (¬open_ (64 + n) → s.becomes (.evtTrelWrite a n v) (evt deny))) ∧
    (∀ n : Fin 8, s.writes a (ioEvt + (0x3C0 + 4 * n)) v →
      (open_ (80 + n) →
        s.becomes (.evtPoutWrite a n v) (evt { e with pout := e.pout.set n (v &&& 0x37F#32) })) ∧
      (¬open_ (80 + n) → s.becomes (.evtPoutWrite a n v) (evt deny))) ∧
    (∀ n : Fin 2, s.writes a (ioEvt + 0x10 + 4 * n) v →
      ∃ f : DWord, s.becomes (.evtFiredClear a n v) (evt { e with fired := f }) ∧
        ∀ i < 64, bit f i = true ↔
          bit e.fired i = true ∧ ¬(i / 32 = n ∧ bit v (i % 32) = true ∧ mine i)) ∧
    (∀ n : Fin 3, s.writes a (ioEvt + 0x20 + 4 * n) v →
      ∃ f : BitVec 96, s.becomes (.evtCovrClear a n v) (evt { e with covr := f }) ∧
        ∀ i < 96, bit f i = true ↔
          bit e.covr i = true ∧ ¬(i / 32 = n ∧ bit v (i % 32) = true ∧ held i))

/-- R109, R110, R115, R127: a write of OP to WDN_CMD sets BUSY with the outcome that the checks give, in order, or waits
while the Warden executes another master's command; a declared object translates after completion, a released one
leaves the table then; rights change at once; a busy bank sets LOST, and an OP outside the table gives BADARG.

R109, R110: the command of a bank completes: BUSY is 0 and CODE holds the outcome; a declared object begins to
translate, and a released one leaves the table with its journal entry; the Warden then takes the command that waits next
in round-robin order. Readings of the model that it rests on:
assumptions 35, 36, 37, 38. -/
def Obligations.WardenCommands : Prop :=
  (∀ (s : State) (a : Agent),
    let b := ioBank a
    let r := s.wdnBank b
    let ctx := s.wdnCtx a
    let i := bits r.objSel 0 9
    let t := bits r.tskSel 0 6
    let e := s.objAt i
    let k := s.tskAt t
    let st := s.objAt (bits r.tskCfg 0 9)
    let g := bits r.tskCfg 16 3
    let rights := BitVec.ofNat 24 (bits r.objRights 0 24)
    let aff := bits r.tskCfg 12 4
    let mine := ctx = .ridgepole ∨ (e.owner ≠ 8 ∧ (ctx = .thread ∨ ctx = .task e.owner))
    let forGroup := fun h : Nat => ∀ j, ctx = .task j → j = h
    let busy := fun (u : State) (op code : Nat) =>
      u.onWdnBank b fun r => { r with cmd := some ⟨op, bits r.objSel 0 9, code⟩, wait := none }
    let searched := fun op : Nat => if searchesJournal r op then s.readJournal else s
    let cmd := fun (c : Instr) (op : Nat) (Q : (Nat → State → Prop) → Prop) =>
      s.writes a ioWdn (BitVec.ofNat 32 op) →
        (r.busy = true → s.becomes c (s.onWdnBank b fun r => { r with lost := true })) ∧
        (r.busy = false → (∃ x ∈ s.wdn.bank.toList, x.cmd.isSome = true) →
          s.becomes c (s.onWdnBank b fun r => { r with wait := some (op, ctx) })) ∧
        (r.busy = false → (∀ x ∈ s.wdn.bank.toList, x.cmd = none) →
          ((searched op).rp.mode ≠ s.rp.mode → s.becomes c (searched op)) ∧
          ((searched op).rp.mode = s.rp.mode → Q fun code u => s.becomes c (busy u op code)))
    cmd (.objDeclare a) 1 (fun ends =>
      let u := searched 1
      (∀ code, u.declareCheck r ctx = .inr code → ends code u) ∧
      (∀ p, u.declareCheck r ctx = .inl p →
        let w := u.declareAt i r.request p
        (w.rp.mode = s.rp.mode → ends 0 w) ∧ (w.rp.mode ≠ s.rp.mode → s.becomes (.objDeclare a) w)) ∧
      (e.phase ≠ .free → e.owner = 8 → ctx ≠ .ridgepole → ends 6 u) ∧
      (e.phase ≠ .free → (e.owner ≠ 8 ∨ ctx = .ridgepole) → ends 2 u)) ∧
    cmd (.objRelease a) 2 (fun ends =>
      (e.phase = .free → ends 1 s) ∧ (e.phase ≠ .free → ¬mine → ends 6 s) ∧
      (e.phase ≠ .free → mine → s.wdn.isStack i = true → ends 2 s) ∧
      (e.phase ≠ .free → mine → s.wdn.isStack i = false →
        ends 0 ((s.dropMigration i).onObj i fun e => { e with phase := .releasing }))) ∧
    cmd (.objRights a) 3 (fun ends =>
      (e.phase = .free → ends 1 s) ∧ (e.phase ≠ .free → ¬mine → ends 6 s) ∧
      (e.phase ≠ .free → mine → rights &&& 0x924924#24 ≠ 0#24 → e.xp = false → ends 1 s) ∧
      (e.phase ≠ .free → mine → rights &&& 0x924924#24 = 0#24 ∨ e.xp = true →
        ends 0 ((s.flushLook i).onObj i fun e => { e with rights := rights }))) ∧
    cmd (.tskDeclare a) 4 (fun ends =>
      let bad := bit r.tskEntry 0 = true ∨ aff = 0 ∨ st.phase = .free ∨ st.owner = 8 ∨
        bit st.rights (3 * g) = false ∨ bit st.rights (3 * g + 1) = false
      (¬forGroup g → ends 6 s) ∧ (forGroup g → k.state ≠ .free → ends 2 s) ∧
      (forGroup g → k.state = .free → bad → ends 1 s) ∧
      (forGroup g → k.state = .free → ¬bad → ends 0 (s.onTsk t fun _ =>
        { TaskEntry.empty with
          state := .idle, entry := r.tskEntry, stack := bits r.tskCfg 0 9, prio := bits r.tskCfg 9 3
          aff := BitVec.ofNat 4 aff, group := g }))) ∧
    cmd (.tskRelease a) 5 (fun ends =>
      let runs := k.state = .running ∨ k.state = .runningPending
      (k.state = .free → ends 1 s) ∧ (k.state ≠ .free → ¬forGroup k.group → ends 6 s) ∧
      (k.state ≠ .free → forGroup k.group → runs → ends 2 s) ∧
      (k.state ≠ .free → forGroup k.group → ¬runs → ends 0 (s.onTsk t fun _ => TaskEntry.empty))) ∧
    cmd (.jnlPurge a) 6 (fun ends =>
      let u := searched 6
      ends 0 ((u.mem.journal.filter fun j => !u.wdn.named j).foldl State.dropJournal u)) ∧
    (∀ op : BitVec 4, op.toNat = 0 ∨ 6 < op.toNat → s.writes a ioWdn (BitVec.ofNat 32 op.toNat) →
      (r.busy = false → s.becomes (.wardenBadOp a op) (s.onWdnBank b fun r => { r with code := 1 })) ∧
      (r.busy = true → s.becomes (.wardenBadOp a op) (s.onWdnBank b fun r => { r with lost := true })))) ∧
  (∀ (s : State) (m : Fin 5) (c : WdnCmd), s.running = true → (s.wdnBank m).cmd = some c →
    let u := s.onWdnBank m fun r => { r with cmd := none, code := c.code }
    let ph := (s.objAt c.entry).phase
    let done := fun v : State => (∀ k : Fin 5, (s.wdnBank k).wait = none) → s.becomes (.wardenCommandComplete m) v
    (∀ k op ctx, s.wdnNext m = some (k, op, ctx) →
      s.becomes (.wardenCommandComplete m) ((s.wdnFinish m c).wdnStart k ctx op)) ∧
    (c.code ≠ 0 → done u) ∧
    (c.code = 0 → c.op = 1 → ph = .declaring →
      done (u.onObj c.entry fun e => { e with phase := .live })) ∧
    (c.code = 0 → c.op = 2 → ph = .releasing → (s.objAt c.entry).cls ≠ .per →
      done
        (((u.flushLook c.entry).onObj c.entry fun _ => ObjEntry.empty).powerOffEmpty)) ∧
    (c.code = 0 → c.op = 2 → ph = .releasing → (s.objAt c.entry).cls = .per →
      done (((((s.mem.journal.filter fun j =>
        j.matches (s.objAt c.entry).base.toNat (s.objAt c.entry).size (s.objAt c.entry).owner).foldl
          State.dropJournal u).flushLook c.entry).onObj c.entry fun _ => ObjEntry.empty).powerOffEmpty)) ∧
    (c.code = 0 → ¬(c.op = 1 ∧ ph = .declaring) → ¬(c.op = 2 ∧ ph = .releasing) → done u))

/-- R108, R121, R133-R135: a write of WDN_OBJ_SEL or WDN_TSK_SEL copies the entry into the writer's registers;
WDN_POL and WDN_EPOCH take a value that the limits allow, and otherwise set LIMIT; Ridgepole's limits move what
lies outside them; retired bits are set, and a retired core, or under Twin-skin a pair with both bits, stops. Readings of the model that it rests on:
assumptions 7, 39, 40. -/
def Obligations.WardenRegisters : Prop :=
  ∀ (s : State) (a : Agent) (v : Word),
    let b := ioBank a
    let w := s.wdn
    let write := fun (i : Instr) (off : Nat) (u : State) => s.writes a (ioWdn + off) v → s.becomes i u
    let put := fun (i : Instr) (off : Nat) (q : Warden) => write i off { s with wdn := q }
    let limit := { w with stat := setBit w.stat 0 true }
    let canvas := a ≠ .ridgepole
    let e := s.objAt (bits v 0 9)
    let t := s.tskAt (bits v 0 6)
    let p := bits v 0 2
    let n := bits v 0 10
    write (.wdnObjSelWrite a v) 0x10 (s.onWdnBank b fun r =>
      { r with
        objSel := field 0 (bits v 0 9)
        objBase := if e.phase = .free then 0#32 else BitVec.ofNat 32 (0x60000000 + 256 * e.base.toNat)
        objAttr := field 0 e.size ||| field 4 (objClassCode e.cls) ||| flagAt 6 e.xp |||
          flagAt 7 e.load ||| field 8 e.hint ||| field 12 e.owner
        objRights := e.rights.setWidth 32
        objLoad := e.source
        objLoc := field 0 e.offs ||| field 16 e.bank ||| flagAt 30 (s.moving s.mem.journal (bits v 0 9)) |||
          flagAt 31 (decide (e.phase = .live ∨ e.phase = .releasing))
        objHeat0 := field 0 e.heat[0] ||| field 16 e.heat[1]
        objHeat1 := field 0 e.heat[2] ||| field 16 e.heat[3] }) ∧
    write (.wdnTskSelWrite a v) 0x40 (s.onWdnBank b fun r =>
      { r with
        tskSel := field 0 (bits v 0 6)
        tskEntry := t.entry
        tskCfg := field 0 t.stack ||| field 9 t.prio ||| field 12 t.aff.toNat ||| field 16 t.group |||
          field 24 (taskStateCode t.state) ||| field 27 t.core }) ∧
    (p = 3 ∨ (canvas ∧ bit w.lim p = false) → put (.wdnPolWrite a v) 0x80 limit) ∧
    (p < 3 → ¬canvas ∨ bit w.lim p = true →
      put (.wdnPolWrite a v) 0x80
        { w with pol := (w.pol &&& 0x8000000C#32) ||| (v &&& 0x7FFFFFF3#32) }) ∧
    (canvas → n < bits w.epochLim 0 10 ∨ bits w.epochLim 16 10 < n → put (.wdnEpochWrite a v) 0x84 limit) ∧
    (¬canvas ∨ (bits w.epochLim 0 10 ≤ n ∧ n ≤ bits w.epochLim 16 10) →
      put (.wdnEpochWrite a v) 0x84 { w with epoch := (w.epoch &&& 0xFFFFFC00#32) ||| (v &&& 0x3FF#32) }) ∧
    (a = .ridgepole →
      let lim := limStored v
      put (.wdnLimWrite a v) 0x88 { w with
        lim := lim
        pol := if bits w.pol 0 2 < 3 ∧ bit lim (bits w.pol 0 2) = true then w.pol
          else setBits w.pol 0 2 (if bit lim 0 then 0 else if bit lim 1 then 1 else 2) }) ∧
    (a = .ridgepole →
      let lo := max 16 (bits v 0 10)
      let hi := max lo (bits v 16 10)
      put (.wdnEpochLimWrite a v) 0x8C { w with
        epochLim := field 0 lo ||| field 16 hi
        epoch := setBits w.epoch 0 10 (max lo (min hi (bits w.epoch 0 10))) }) ∧
    (a = .ridgepole → put (.wdnRetireWrite a true v) 0x98 { w with retSb := w.retSb ||| v }) ∧
    (let q := { w with retire := w.retire ||| (v &&& 0xFFFE0#32) }
     a = .ridgepole → (∀ c : CoreId, ({ s with wdn := q } : State).coreRetired c = s.coreRetired c) →
      put (.wdnRetireWrite a false v) 0x9C q) ∧
    (∀ c : CoreId, a = .ridgepole → s.twin = true → v = BitVec.ofNat 32 (3 * 2 ^ (16 + c.val / 2 * 2)) →
      s.coreRetired c = false → s.writes a (ioWdn + 0x9C) v →
      ∃ t, exec (.wdnRetireWrite a false v) s = .next t ∧ t.mem = s.mem ∧
        ∀ e : CoreId, if e.val / 2 = c.val / 2
          then t.cores[e].phase = .off ∧ bit t.cores[e].task 31 = true ∧ bit t.wdn.retire (16 + e.val) = true
          else t.cores[e] = s.cores[e]) ∧
    (∀ c : CoreId, a = .ridgepole → s.twin = false → v = BitVec.twoPow 32 (16 + c.val) →
      s.coreRetired c = false → s.writes a (ioWdn + 0x9C) v → ∃ t, exec (.wdnRetireWrite a false v) s = .next t ∧
        t.cores[c].phase = .off ∧ bit t.cores[c].task 31 = true ∧ bit t.wdn.retire (16 + c.val) = true ∧
        (∀ n < 62, bits (vget t.per.evt.ch n 0x7000#32) 12 3 ≠ c) ∧
        (∀ e : CoreId, e ≠ c → t.cores[e] = s.cores[e]) ∧ t.mem = s.mem)

/-- R89, R90, R102, R163, R286, R297: reads of the RC registers of MEM clear them and MEM_BANK_WEAR_LO fills the shadow of
its high half; ITG_LOG_SEL copies a log entry; PWR_OPP.VPT starts the buck when the divider in force allows the
target, and otherwise leaves it pending; CLK_DIV refuses a divider that the target does not allow, and holds one
that the present point does not allow. -/
def Obligations.MemoryAndClockRows : Prop :=
  ∀ (s : State) (a : Agent) (v : Word),
    let m := s.mm
    let i := bits v 0 6
    let now := bits s.pwr.opp 4 2
    let div := bits s.clk.stat 8 2
    let req := bits s.clk.div 0 2
    let p := min 2 (bits v 0 2)
    let d := bits v 0 2
    (s.reads a (ioMem + 0xC8) → s.becomes (.memBankWearLoRead a) (s.onMm fun r =>
      { r with wearHi := BitVec.ofNat 32 (vget m.wear (bits m.sel 0 6) 0 / 256 % 2 ^ 48 / 2 ^ 32) })) ∧
    (∀ n : Fin 9, s.reads a (ioMem + 0x80 + 4 * n) →
      s.becomes (.memConfRead a n) (s.onMm fun r => { r with conf := r.conf.set n 0#32 })) ∧
    (s.reads a (ioMem + 0xA4) → s.becomes (.memConfSatRead a) (s.onMm fun r => { r with confSat := 0#32 })) ∧
    (s.writes a (ioItg + 0x0C) v → s.becomes (.itgLogSelWrite a v) (s.onItg fun g =>
      { g with
        logSel := vset g.logSel (ioBank a) (field 0 i ||| flagAt 31 (logValid s.mem i))
        logData := vset g.logData (ioBank a)
          (Vector.ofFn fun k : Fin 16 => s.mem.word (logBase + 64 * i + 4 * k)) })) ∧
    (s.writes a 0x28 v → ∃ (w : Pwr) (k : Clk),
      s.becomes (.vptWrite a v) { s with pwr := w, clk := k } ∧
      bits w.opp 0 2 = p ∧
      (s.clk.ramp = none → p ≠ now → divPoint div ≤ p →
        k = { s.clk with ramp := some p } ∧ bit w.opp 8 = false) ∧
      (s.clk.ramp = none → p ≠ now → p < divPoint div → k = s.clk ∧ bit w.stat 4 = true) ∧
      (s.clk.ramp = none → p = now → k = s.clk) ∧
      (s.clk.ramp = none → p = now → req = div → bit w.stat 4 = false ∧ bit w.stat 5 = false) ∧
      (s.clk.ramp ≠ none → k = s.clk)) ∧
    (s.writes a 0x1008 v →
      (bits s.pwr.opp 0 2 < divPoint d →
        s.becomes (.clkDivWrite a v) (s.onPwr fun p => { p with stat := setBit p.stat 9 true })) ∧
      (divPoint d ≤ bits s.pwr.opp 0 2 → ∃ (w : Pwr) (r : Option Nat),
        s.becomes (.clkDivWrite a v)
          { s with pwr := w, clk := { s.clk with div := field 0 d, ramp := r, alone := true } } ∧
        w.opp &&& 0x33#32 = s.pwr.opp &&& 0x33#32 ∧
        (d ≠ div → now < divPoint d → bit w.stat 5 = true)))

/-- R264, R266, R267, R273, R275: a write of HRV_CTL switches the charger off or starts it, HRV_PROT and HRV_TLIM are
discarded with DENY once LOCK is set, HRV_CHG, HRV_CAP and HRV_PROT clamp their values, HRV_LCHG is taken once after
a loss, and a threshold that would break the order of the three is discarded with THRERR. -/
def Obligations.HarvestRows : Prop :=
  ∀ (s : State) (a : Agent) (v : Word),
    let h := s.per.hrv
    let put := fun (i : Instr) (off : Nat) (q : Hrv) =>
      s.writes a (ioHrv + off) v → s.becomes i (s.onHrv fun _ => q)
    let deny := { h with stat := setBit h.stat 30 true }
    let on := bit h.ctl 0
    let ctl := { h with ctl := v &&& 7#32 }
    let k := if h.vcell < 3000 then 1 else 2
    let held := h.ovcOn ∨ h.tempOn ∨ bit h.stat 23 = true
    let code := bits v 0 6
    let prot := (if 45 < code then setBits v 0 6 45 else v) &&& 0x800000BF#32
    let i := bits v 0 9
    let chg := (let w := setBits v 0 9 (if i = 0 then 1 else min i 400)
      if bits v 24 4 = 0 then setBits w 24 4 1 else w) &&& 0xF3F01FF#32
    let lim := fun (c p : Word) => if bits p 0 6 < bits c 16 6 then setBits c 16 6 (bits p 0 6) else c
    let cap := max 100 (min 2000000 (bits v 0 21))
    let n := bits v 0 21
    (bit v 0 = false → put (.hrvCtlWrite a v) 0x08 { ctl with stat := setBits h.stat 8 3 0 }) ∧
    (bit v 0 = true → on = true ∨ (h.swOpen = true ∧ s.pwr.main = false) → put (.hrvCtlWrite a v) 0x08 ctl) ∧
    (bit v 0 = true → on = false → h.swOpen = false ∨ s.pwr.main = true → ¬held →
      put (.hrvCtlWrite a v) 0x08 { ctl with stat := setBits h.stat 8 3 k }) ∧
    (bit v 0 = true → on = false → h.swOpen = false ∨ s.pwr.main = true → held →
      put (.hrvCtlWrite a v) 0x08 { ctl with stat := setBits h.stat 8 3 5, held := k }) ∧
    (bit h.prot 31 = true → put (.hrvProtWrite a v) 0x0C deny ∧ put (.hrvTlimWrite a v) 0x10 deny) ∧
    (bit h.prot 31 = false →
      put (.hrvProtWrite a v) 0x0C { h with prot := prot, chg := lim h.chg prot } ∧
      put (.hrvTlimWrite a v) 0x10 { h with tlim := v &&& 0xFFFFFF#32 }) ∧
    put (.hrvChgWrite a v) 0x14 { h with chg := lim chg h.prot } ∧
    put (.hrvCapWrite a v) 0x20 { h with cap := cap, fcc := if h.fcc = 0 ∨ cap < h.fcc then cap else h.fcc } ∧
    (bit h.stat 25 = true →
      put (.hrvLchgWrite a v) 0x40 { h with lchg := v.toNat, stat := setBit h.stat 25 false }) ∧
    (bit h.stat 25 = false → put (.hrvLchgWrite a v) 0x40 deny) ∧
    (∀ t : Fin 3,
      let q := if t = 0 then { h with res := max 2 n } else if t = 1 then { h with kin := n }
        else { h with blz := n }
      put (.hrvThresholdWrite a t v) (0x24 + 4 * t)
        (if q.res ≤ q.kin ∧ q.kin ≤ q.blz then q else { h with stat := setBit h.stat 29 true }))

/-- R316-R318, R321, R324, R327: STEP asks for a step at the next Porch tick, REL releases the reader's shadows, SWCLR
clears the switch-over record, and a change of MODE waits for the next tick, with the shadows released and the
alarms disabled, or is refused with RERR from 2200 on; RTC_SLEW takes its value with RATE limited; the first read
of a time register freezes the reader's shadows, the closing one releases them; a read of RTC_ECAP_HI ends the
capture. -/
def Obligations.CalendarRows : Prop :=
  ∀ (s : State) (a : Agent) (v : Word),
    let r := s.per.rtc
    let b := ioBank a
    let mode := (flagAt 0 (r.mode != r.modeDue) : Word)
    let put := fun (i : Instr) (w : Word) (q : Rtc) => s.writes a ioRtc w → s.becomes i (s.onRtc fun _ => q)
    let rate := bits v 22 10
    let none_ := vset r.shadow b none
    put (.rtcStep a) (mode ||| 4#32) { r with stepDue := true } ∧
    put (.rtcRel a) (mode ||| 2#32) { r with shadow := none_ } ∧
    put (.rtcSwclr a) (mode ||| 8#32) { r with swcnt := 0, swts := 0#64 } ∧
    (v &&& 1#32 = mode → put (.rtcModeWrite a v) (v &&& 1#32) r) ∧
    (v &&& 1#32 ≠ mode → bit v 0 = true → calendarEnd ≤ r.time / 32768 →
      put (.rtcModeWrite a v) (v &&& 1#32) { r with stat := setBit r.stat 6 true }) ∧
    (v &&& 1#32 ≠ mode → bit v 0 = false ∨ r.time / 32768 < calendarEnd →
      put (.rtcModeWrite a v) (v &&& 1#32)
        { r with
          modeDue := !r.modeDue
          shadow := Vector.replicate 6 none
          alm := r.alm.map fun m => { m with ctl := setBit m.ctl 0 false } }) ∧
    (s.writes a (ioRtc + 0x2C) v → s.becomes (.rtcSlewWrite a v) (s.onRtc fun r =>
      { r with slew := setBits v 22 10 (if rate = 0 then 1 else min rate 1000), slewWait := 0 })) ∧
    (∀ t : Fin 5, s.reads a (ioRtc + 0x10 + 4 * t) →
      let mine := if r.mode then 2 ≤ t.val else t.val < 2
      let close := t.val = if r.mode then 4 else 1
      (¬mine → s.becomes (.rtcTimeRead a t) s) ∧
      (mine → close → s.becomes (.rtcTimeRead a t) (s.onRtc fun r => { r with shadow := none_ })) ∧
      (mine → ¬close → s.becomes (.rtcTimeRead a t) (s.onRtc fun r =>
        { r with shadow := vset r.shadow b (some ((vget r.shadow b none).getD r.time)) }))) ∧
    (s.reads a (ioRtc + 0x4C) → s.becomes (.rtcEcapHiRead a) (s.onRtc fun r =>
      { r with stat := setBit r.stat 7 false }))

/-- R302, R304, R306, R307, R313: a write of TIMn_CNT loads the counter and clears the prescaler, a read of TIM0_CNT or
TIM2_CNT latches the partner, a write of CMP behind the count within WIN fires late on the next edge, TIMn_STAG spreads its base over the channels
that compare, and TIMn_CTL replaces a clock that the timer does not have. -/
def Obligations.TimerRows : Prop :=
  ∀ (s : State) (a : Agent) (n : Fin 12) (k : Fin 4) (v : Word),
    let t := s.timAt n
    let write := fun (i : Instr) (off : Nat) (u : State) =>
      s.writes a (ioTim + 0x100 * n + off) v → s.becomes i u
    let put := fun (i : Instr) (off : Nat) (q : Tim) => write i off (s.onTim n fun _ => q)
    let c := t.ch[k]
    let late := fun (c : TimCh) (x : Word) =>
      decide (bits c.ctl 0 2 = 1 ∧ c.win ≠ 0#32 ∧ (t.cnt - x).toNat < c.win.toNat)
    let step := t.ch[(0 : Fin 4)].int
    let staggered := fun j : Fin 4 =>
      let next := v + BitVec.ofNat 32 (j * (step.toNat / 4))
      if bits t.ch[j].ctl 0 2 = 1 then { t.ch[j] with int := step, cmp := next, late := late t.ch[j] next }
      else t.ch[j]
    let clk := bits v 4 2
    let bad := clk = 3 ∨ (clk = 2 ∧ n ≠ 1 ∧ n ≠ 3)
    let ctl := (let w := if bad then setBits v 4 2 0 else v
      if bits v 6 2 = 0 then setBits w 6 2 1 else w) &&& 0xFF03FF#32
    put (.timerCntWrite a n v) 0x0C { t with cnt := v, presc := 0 } ∧
    (s.reads a (ioTim + 0x100 * n + 0x0C) →
      (n = 0 ∨ n = 2 → s.becomes (.timerCntRead a n)
        (s.onTim n fun t => { t with cnth := (s.timAt (n + 1 : Nat)).cnt })) ∧
      (¬(n = 0 ∨ n = 2) → s.becomes (.timerCntRead a n) s)) ∧
    put (.timerCmpWrite a n k v) (0x24 + 0x10 * k) { t with ch := t.ch.set k { c with cmp := v, late := late c v } } ∧
    put (.timerStagWrite a n v) 0x18 { t with ch := Vector.ofFn staggered } ∧
    (bad → put (.timerCtlWrite a n v) 0 { t with ctl := ctl, stat := setBit t.stat 13 true }) ∧
    (¬bad → put (.timerCtlWrite a n v) 0 { t with ctl := ctl })

/-- R333, R334, R340, R342-R345, R347, R348: a read of UAn_RX pops an entry, a write of UAn_TX queues one or is discarded
with TXOVF, and the transmitter takes the first entry when it may; UAn_DIV stores 1 for 0 and takes effect where
the line stands idle; UAn_QCFG changes only while EN is 0; clearing EN empties the queues, and clearing RXEN drops the
character that is received (the model's choice: assumption 115); a read of UAn_ERRCNT clears it. -/
def Obligations.SerialRows : Prop :=
  ∀ (s : State) (a : Agent) (n : Fin 4) (v : Word),
    let u := s.per.ua[n]
    let write := fun (i : Instr) (off : Nat) (q : Ua) =>
      s.writes a (ioUa + 0x100 * n + off) v → s.becomes i (s.onUa n fun _ => q)
    let read := fun (i : Instr) (off : Nat) (q : Ua) =>
      s.reads a (ioUa + 0x100 * n + off) → s.becomes i (s.onUa n fun _ => q)
    let pump := fun (q : Ua) =>
      if bit q.ctl 0 ∧ bit q.ctl 2 ∧ q.shift = none ∧ (bit q.ctl 10 = false ∨ q.released = true) ∧ q.txq ≠ []
      then
        { q with
          shift := q.txq.head?, txq := q.txq.tail, lagging := false, deOn := bit q.ctl 11
          line := (if bit q.ctl 11 = true ∧ q.deOn = false ∧ bits q.de 0 8 ≠ 0
            then [(true, bits q.de 0 8 * q.divTx.toNat)] else []) ++ (q.txq.head?.map q.frame).getD []
          released := q.released && !q.txq.tail.isEmpty }
      else q
    let off := fun q : Ua => if bit v 1 then q else { q with rxBusy := false, rx := UaRx.reset }
    let depth := 16 * 2 ^ bits u.qcfg 2 2
    let d := if v &&& 0xFFFF#32 = 0#32 then 1#32 else v &&& 0xFFFF#32
    let q := (let w := if 5 ≤ bits v 4 3 then setBits v 4 3 4 else v
      if 5 ≤ bits v 8 3 then setBits w 8 3 4 else w) &&& 0x77F#32
    let c := (let w := if bits v 4 2 = 3 then setBits v 4 2 1 else v
      if 5 ≤ bits v 6 3 then setBits w 6 3 0 else w) &&& 0x3FFF#32
    let dd := u.div.setWidth 16
    read (.uaRxRead a n) 0x1C { u with rxq := u.rxq.tail } ∧
    read (.uaErrcntRead a n) 0x24 { u with errcnt := 0#32 } ∧
    (depth ≤ u.txq.length → write (.uaTxWrite a n v) 0x20 { u with stat := setBit u.stat 6 true }) ∧
    (u.txq.length < depth → write (.uaTxWrite a n v) 0x20 (pump
      { u with
        txq := u.txq ++ [v.setWidth 10]
        released := u.released || (u.txq.isEmpty && u.relKept)
        relKept := !u.txq.isEmpty && u.relKept })) ∧
    write (.uaDivWrite a n v) 0x04
      { u with
        div := d
        divTx := if u.shift = none then d.setWidth 16 else u.divTx
        divRx := if u.shift = none ∧ u.rxBusy = false then d.setWidth 16 else u.divRx } ∧
    (bit u.ctl 0 = true → write (.uaQcfgWrite a n v) 0x08 { u with stat := setBit u.stat 7 true }) ∧
    (bit u.ctl 0 = false → write (.uaQcfgWrite a n v) 0x08 { u with qcfg := q }) ∧
    (bit v 0 = false → write (.uaCtlWrite a n v) 0
      { u with
        ctl := c, rxq := [], txq := [], shift := none, line := [], rxBusy := false, lagging := false, lagLeft := 0
        deOn := false, released := false, relKept := false, rx := UaRx.reset, divTx := dd, divRx := dd }) ∧
    (bit v 0 = true → bit u.ctl 0 = false →
      write (.uaCtlWrite a n v) 0 { off { u with ctl := c } with rxq := [], txq := [] }) ∧
    (bit v 0 = true → bit u.ctl 0 = true → write (.uaCtlWrite a n v) 0 (pump (off { u with ctl := c })))

/-- R219, R225, R226, R352, R356-R358: TCH_CMD.START asks for a scan unless one runs or scanning is off, and it starts at
once when nothing holds it; REBASE is noted for every channel, or for the end of the scan that runs; the radio's
configuration is discarded with CFGLOCK while it is active; RF_CTL takes its value; RC registers clear. -/
def Obligations.TouchAndRadioRows : Prop :=
  ∀ (s : State) (a : Agent) (v : Word) (k : Fin 5),
    let t := s.per.tch
    let r := s.per.rf
    let tch := fun (i : Instr) (w : Word) (q : Tch) =>
      s.writes a (ioTch + 0x0C) w → s.becomes i (s.onTch fun _ => q)
    let held := t.susp = true ∨ (bit t.sync 0 = true ∧ t.free = false)
    let rf := fun (i : Instr) (off : Nat) (q : Rf) =>
      s.writes a (ioRf + off) v → s.becomes i (s.onRf fun _ => q)
    (bits t.ctl 0 2 = 0 ∨ t.scan ≠ none → tch (.tchStart a) 1#32 t) ∧
    (bits t.ctl 0 2 ≠ 0 → t.scan = none → held → tch (.tchStart a) 1#32 { t with due := true }) ∧
    (bits t.ctl 0 2 ≠ 0 → t.scan = none → ¬held →
      tch (.tchStart a) 1#32 ({ t with due := true }.startScan s.per.pin false)) ∧
    (t.scan = none → tch (.tchRebase a) 2#32 { t with el := t.el.map fun e => { e with rebase := true } }) ∧
    (∀ sc, t.scan = some sc → tch (.tchRebase a) 2#32
      { t with scan := some { sc with asked := BitVec.allOnes 25 } }) ∧
    (r.rxOn = true ∨ r.txOn = true →
      rf (.rfConfigWrite a k v) (0x10 + 4 * k) { r with stat := setBit r.stat 7 true }) ∧
    (r.rxOn = false → r.txOn = false → rf (.rfConfigWrite a k v) (0x10 + 4 * k) (match k with
      | 0 => { r with freq := v &&& 0x133FFFF#32 }
      | 1 => { r with rate := v &&& 0x3137#32 }
      | 2 => { r with sync := v }
      | 3 => { r with txpwr := (if 24 < bits v 0 5 then setBits v 0 5 24 else v) &&& 0xFFFF1F#32 }
      | 4 => { r with lbt := (if bits v 16 16 = 0 then setBits v 16 16 100 else v) &&& 0xFFFFFF01#32 })) ∧
    rf (.rfCtlWrite a v) 0 { r with ctl := v &&& 3#32, driven := r.driven || bit v 0 } ∧
    (s.reads a (ioRf + 0x30) → s.becomes (.rfAbortsRead a) (s.onRf fun r => { r with aborts := 0#32 })) ∧
    (s.reads a (ioRf + 0x38) → s.becomes (.rfRxerrRead a) (s.onRf fun r => { r with rxerr := 0#32 }))

/-- R387, R388, R391, R397: CNT_CMD.CAP copies every counter, a write of LO loads a counter with the writer's HI
shadow, a write of HI sets the shadow, a read of LO fills it, and the counters of C1 and C3 take no part under
Twin-skin; PIN_OUTp and PIN_HOLD take the bits of the balls that the writer owns, and OWNERR tells of another
bit that would change; PIN_BALLn takes PULL, EDGE, IE and DRV from the owner. Readings of the model that it
rests on: assumption 14. -/
def Obligations.CounterAndBallRows : Prop :=
  ∀ (s : State) (a : Agent) (v : Word) (i : Fin 24) (p : Fin 6) (n : Fin 96),
    let b := ioBank a
    let k := s.per.cnt.c[i]
    let dead := s.twin = true ∧ i.val < 16 ∧ i.val / 4 % 2 = 1
    let loaded := BitVec.ofNat 48 ((vget k.hi b 0#16).toNat * 2 ^ 32 + v.toNat)
    let cnt := fun (c : Instr) (off : Nat) (q : Counter) =>
      s.writes a (ioCnt + off) v →
        (dead → s.becomes c s) ∧
        (¬dead → s.becomes c (s.onCnt fun t => { t with c := t.c.set i q }))
    let q := s.per.pin
    let own := fun m : Nat => m < 96 ∧ ∃ c : CoreId, a = .core c ∧ bits (vget q.ball m 0x70#32) 4 3 = c
    let flagged := fun e : Prop => fun st : Word =>
      (e → st = setBit q.stat 1 true) ∧ (¬e → st = q.stat)
    (s.writes a (ioCnt + 8) 1#32 → s.becomes (.cntCapture a) (s.onCnt fun t =>
      { t with c := t.c.map fun k => { k with cap := k.count } })) ∧
    cnt (.cntLoWrite a i v) (0x104 + 32 * i) { k with count := loaded } ∧
    (s.writes a (ioCnt + (0x104 + 32 * i)) v → ¬dead → bit k.cfg 6 = false →
      ∃ t, exec (.cntLoWrite a i v) s = .next t ∧ t.per.cnt.c[i] = { k with count := loaded }) ∧
    cnt (.cntHiWrite a i v) (0x108 + 32 * i) { k with hi := vset k.hi b (v.setWidth 16) } ∧
    (s.reads a (ioCnt + 0x104 + 32 * i) →
      (dead → s.becomes (.cntLoRead a i) s) ∧
      (¬dead → s.becomes (.cntLoRead a i) (s.onCnt fun t =>
        { t with c := t.c.set i { k with hi := vset k.hi b ((k.count >>> 32).setWidth 16) } }))) ∧
    (s.writes a (ioPinOut + 4 * p) v → ∃ (o : BitVec 96) (st : Word),
      s.becomes (.pinOutWrite a p v) (s.onPin fun q => { q with out := o, stat := st }) ∧
      (∀ m < 96, bit o m = if m / 16 = p ∧ own m then bit v (m % 16) else bit q.out m) ∧
      flagged (∃ j < 16, ¬own (16 * p + j) ∧ bit v j ≠ bit q.out (16 * p + j)) st) ∧
    (s.writes a (ioPin + 0x30) v → ∃ (o : BitVec 16) (st : Word),
      s.becomes (.pinHoldWrite a v) (s.onPin fun q => { q with hold := o, stat := st }) ∧
      (∀ m < 16, bit o m = if own m then bit v m else bit q.hold m) ∧
      flagged (∃ j < 16, ¬own j ∧ bit v j ≠ bit q.hold j) st) ∧
    (s.writes a (ioPin + 0x100 + 4 * n) v →
      (own n → s.becomes (.pinBallWrite a n v) (s.onPin fun q =>
        { q with ball := q.ball.set n ((q.ball[n] &&& 0xFFFFC0FF#32) |||
          ((if bits v 8 2 = 3 then setBits v 8 2 0 else v) &&& 0x3F00#32)) })) ∧
      (¬own n → ∃ st, s.becomes (.pinBallWrite a n v) (s.onPin fun q => { q with stat := st }) ∧
        flagged ((q.ball[n] ^^^ v) &&& 0x3F7F#32 ≠ 0#32) st))

/-- R228, R246, R247, R249, R253-R259: the commands of NET_CMD end with a code in NET_TXSTAT: SEND refuses by
the first case that holds, JOIN, SURVEY, ADMIT, KEYSET and KEYUSE where the state of the node does not allow
them; LEAVE clears the slot timer and the tables. EN starts the engine where the set-up allows it, and otherwise
sets REFUSE; a read of NET_CNTn clears it. Readings of the model that it rests on: assumptions 69, 76, 77, 78, 110,
111, 113. -/
def Obligations.NetworkRows : Prop :=
  ∀ (s : State) (a : Agent) (v : Word) (n : Fin 3),
    let m := s.per.net
    let op := fun (i : Instr) (k : Word) (u : State) => s.writes a (ioNet + 0x2C) k → s.becomes i u
    let code := fun (u : State) (k : Nat) => u.onNet fun m => { m with txstat := setBits m.txstat 4 4 k }
    let at_ := m.state
    let len := bits m.txcfg 0 11
    let d := s.netM - 7
    let badlen := d = 0 ∨ len = 0 ∨ s.netLongest < len ∨ (bit m.txcfg 14 = true ∧ d < len)
    let nobuf := m.free < (len + d - 1) / d + 8
    let busy := bits m.txcfg 12 2 = 1 ∧ 8 ≤ m.trans.length
    let placed := at_ = 3 ∨ at_ = 5
    let got := s.netRead m.txaddr.toNat len
    let join := bit m.ctl 0 = true ∧ bit m.ctl 2 = false ∧ (at_ = 0 ∨ at_ = 1 ∨ at_ = 4)
    let survey := bit m.ctl 0 = true ∧ (placed ∨ at_ = 4)
    let joiner := bits m.txaddr 0 10
    let slot := bits m.txaddr 16 11
    let via := bits m.txcfg 16 10
    let store := s.rp
    let ctl := v &&& 0x3F#32
    let put := fun (m : Net) (c : Word) => { m with ctl := c, unalarm := !bit v 1 }
    let refuse := fun m : Net => { m with stat := setBit m.stat 20 true }
    let engaged := s.per.rf.txOn = true ∨ m.await ≠ none ∨ m.ackOn = true ∨
      (s.per.rf.rxOn = true ∧ s.per.rf.locked = true)
    let dropped := fun u : State => u.onNet fun m =>
      { m with stat := setBit m.stat 6 true, cnt1 := setBits m.cnt1 16 16 (satAdd 0xFFFF (bits m.cnt1 16 16) 1) }
    (badlen → op (.netCmdSend a) 1#32 (code s 1)) ∧
    (¬badlen → nobuf → op (.netCmdSend a) 1#32 (code (s.onNet fun m => { m with stat := setBit m.stat 10 true }) 2)) ∧
    (¬badlen → ¬nobuf → busy → op (.netCmdSend a) 1#32 (code s 3)) ∧
    (¬badlen → ¬nobuf → ¬busy → ¬placed → op (.netCmdSend a) 1#32 (code s 4)) ∧
    (¬badlen → ¬nobuf → ¬busy → placed →
      (got.2.1 = true → s.twin = false → op (.netCmdSend a) 1#32 (code (dropped got.1) 0)) ∧
      (got.2.1 = true → s.twin = true → op (.netCmdSend a) 1#32 got.1) ∧
      (got.2.1 = false → op (.netCmdSend a) 1#32 (code (got.1.sendMessage got.2.2) 0))) ∧
    (join → op (.netCmdJoin a) 2#32 (code (((s.onNet fun m =>
      { m with stat := setBits m.stat 0 3 1, cand := none }).putJoined false).netListen) 0)) ∧
    (¬join → op (.netCmdJoin a) 2#32 (code s 4)) ∧
    op (.netCmdLeave a) 3#32 (code ((s.onNet fun m =>
      { m with
        stat := setBits m.stat 0 3 0
        own := 0, cur := 0, sfn := 0, map := 0#1152, timing := false, phase := 0, rateCorr := 0, synced := false
        sinceCorr := 0, aged := 0, load := false, unalarm := false, holdOff := false, inSlot := false, txq := [], trans := [], cand := none, oldParent := none
        pmiss := 0, survey := false }).freshTable.netClose) 0) ∧
    (survey → op (.netCmdSurvey a) 4#32 (code (s.onNet fun m => { m with survey := true }).netListen 0)) ∧
    (¬survey → op (.netCmdSurvey a) 4#32 (code s 4)) ∧
    (at_ ≠ 5 → op (.netCmdAdmit a) 5#32 (code s 4) ∧ op (.netCmdKeyset a) 6#32 (code s 4) ∧
      op (.netCmdKeyuse a) 7#32 (code s 4)) ∧
    (at_ = 5 → store.key (2 + joiner) = none ∨ store.key 0 = none ∨ m.joins.lookup joiner = none ∨
      1152 ≤ slot ∨ slot % 9 = 8 ∨ s.netM < 18 → op (.netCmdAdmit a) 5#32 (code s 5)) ∧
    (∀ kj k0 fc, at_ = 5 → store.key (2 + joiner) = some kj → store.key 0 = some k0 →
      m.joins.lookup joiner = some fc → slot < 1152 → slot % 9 ≠ 8 → 18 ≤ s.netM →
        let rsp := m.joinRsp kj k0 joiner fc slot
        op (.netCmdAdmit a) 5#32 (code (if via = bits m.id 0 10 then s.txPut (plainFrame 4 joiner rsp false 0)
          else s.queueControl via (2#8 :: bytesOfNat 2 joiner ++ rsp)) 0)) ∧
    (at_ = 5 → store.key (2 + via) = none ∨ store.key 1 = none → op (.netCmdKeyset a) 6#32 (code s 5)) ∧
    (∀ kd k1, at_ = 5 → store.key (2 + via) = some kd → store.key 1 = some k1 →
      op (.netCmdKeyset a) 6#32 (code ((s.onNet fun m => { m with keyCtr := m.keyCtr + 1 }).queueControl via
        (3#8 :: m.keyset kd k1 (m.keyCtr + 1) ((m.gen + 1) % 256))) 0)) ∧
    (at_ = 5 → store.key 1 = none → op (.netCmdKeyuse a) 7#32 (code s 5)) ∧
    (at_ = 5 → store.key 1 ≠ none → op (.netCmdKeyuse a) 7#32 (code s.swapKeys 0)) ∧
    (s.writes a ioNet v →
      (bit v 0 = true → bit m.ctl 0 = false → s.enOk ctl = true →
        s.becomes (.netEnWrite a v) (s.onNet fun m => put m ctl).netStart) ∧
      (bit v 0 = true → bit m.ctl 0 = false → s.enOk ctl = false →
        s.becomes (.netEnWrite a v) (s.onNet fun m => refuse (put m (setBit ctl 0 false)))) ∧
      (bit v 0 = true → bit m.ctl 0 = true → bit v 2 = true → bits m.id 0 10 ≠ 0 →
        s.becomes (.netEnWrite a v) (s.onNet refuse)) ∧
      (bit v 0 = false → bit m.ctl 0 = true → ¬engaged →
        s.becomes (.netEnWrite a v) (s.onNet fun m => put m ctl).netStop) ∧
      ((bit v 0 = true ∧ bit m.ctl 0 = true ∧ (bit v 2 = false ∨ bits m.id 0 10 = 0)) ∨
          (bit v 0 = false ∧ (bit m.ctl 0 = false ∨ engaged)) →
        s.becomes (.netEnWrite a v) (s.onNet fun m => put m ctl))) ∧
    (s.reads a (ioNet + 0x60 + 4 * n) → s.becomes (.netCntRead a n) (s.onNet fun m => match n with
      | 0 => { m with cnt0 := 0#32 }
      | 1 => { m with cnt1 := 0#32 }
      | 2 => { m with cnt2 := 0#32 }))

/-- R372, R374, R376-R379: what a write of the mirror of the Peg map does for Ridgepole, and for Canvas where
R379 lets it in: the session closes, a word enters a mailbox and the last one announces it, a full mailbox
refuses, flags clear, an operation starts with its outcome to come, and the update window takes a place and a
word. Readings of the model that it rests on: assumptions 33, 50, 87. -/
def Obligations.PegRegisterRows : Prop :=
  ∀ (s : State) (a : Agent) (v : Word) (arg : BitVec 4) (op : BitVec 4),
    let p := s.peg
    let write := fun (i : Instr) (k : Nat) (w : Word) (u : State) =>
      s.writes a (ioPeg + 4 * k) w → s.becomes i u
    let rp := a = .ridgepole
    let put := fun (i : Instr) (k : Nat) (w : Word) (q : Peg) => write i k w { s with peg := q }
    let begun := fun (u : State) (o arg code : Nat) =>
      (u.onPeg fun p => { p with cmd := { p.cmd with op := o, arg := arg, busy := true, next := code } })
    let switching := ∃ c : CoreId, s.rp.serving = some (c, 2)
    let cmd := fun (i : Instr) (o arg : Nat) (Q : Prop) =>
      rp → s.writes a (ioPeg + 4 * 0xD0) (field 0 o ||| field 4 arg) →
        (p.cmd.busy = true ∨ switching → s.becomes i s) ∧ (p.cmd.busy = false → ¬switching → Q)
    let room := s.rp.gs.gen.toNat < 0xFFFFFFFE
    let key := fun n : Nat =>
      (s.onRp fun r => { r.setKey n (p.stg.toList.flatMap wireBytes) with keyWrite := some n }).storeWrites.onPeg fun p =>
        { p with stg := Vector.replicate 8 0#32 }
    let past := 0x100000 ≤ p.updOffs
    (rp → put (.pegSessClose a) 0xCB 0x100#32 { p with sess := { p.sess with state := .closed } }) ∧
    (rp → bit p.mbstat 0 = true → put (.pegH2d3Write a v) 0xC3 v p) ∧
    (rp → bit p.mbstat 0 = false → put (.pegH2d3Write a v) 0xC3 v
      { p with h2d := p.h2d.set 3 v, mbstat := setBit p.mbstat 0 true }) ∧
    (¬rp → bit p.mbstat 1 = true → put (.pegD2h3Write a v) 0xC7 v { p with mbstat := setBit p.mbstat 2 true }) ∧
    (¬rp → bit p.mbstat 1 = false → put (.pegD2h3Write a v) 0xC7 v
      { p with d2h := p.d2h.set 3 v, mbstat := setBit p.mbstat 1 true }) ∧
    (rp → put (.pegD2h3Write a v) 0xC7 v p) ∧
    (rp → put (.pegMbstatWrite a v) 0xC8 v
      { p with mbstat := ((p.mbstat &&& ~~~8#32) ||| (v &&& 8#32)) &&& ~~~(v &&& 7#32) }) ∧
    (¬rp → put (.pegMbstatWrite a v) 0xC8 v
      { p with mbstat := ((p.mbstat &&& ~~~8#32) ||| (v &&& 8#32)) &&& ~~~(v &&& 5#32) }) ∧
    cmd (.pegReset a) 1 0 (s.pwr.strike = none →
      ∃ t, exec (.pegReset a) s = .next t ∧ t.peg = (begun s 1 0 0).peg ∧
        t.pwr.strike = some ⟨.commanded, 0x80#32, 0#32, false⟩ ∧ t.wdn.mig = none ∧ t.wdn.queue = [] ∧
        t.cores = s.cores ∧ t.mem.cells.length ≤ s.mem.cells.length) ∧
    cmd (.gsWrite a) 2 0 (
      (gsClean p.gs = false → s.becomes (.gsWrite a) (begun s 2 0 2)) ∧
      (gsClean p.gs = true → ¬room → s.becomes (.gsWrite a) (begun s 2 0 6)) ∧
      (gsClean p.gs = true → room →
        s.becomes (.gsWrite a) (begun (s.writeGs (gsStaged p.gs)).adoptLimits.reloadGs 2 0 0))) ∧
    cmd (.pegImgSwitch a arg) 3 arg.toNat ((s.imgSwitch arg.toNat).1.rp.mode = s.rp.mode →
      s.becomes (.pegImgSwitch a arg) (begun (s.imgSwitch arg.toNat).1 3 arg.toNat (s.imgSwitch arg.toNat).2)) ∧
    cmd (.keySet a arg) 4 arg.toNat (
      (1 < arg.toNat → s.becomes (.keySet a arg) (begun s 4 arg.toNat 2)) ∧
      (arg.toNat ≤ 1 → s.becomes (.keySet a arg) (begun (key (1026 + arg.toNat)) 4 arg.toNat 0))) ∧
    (op.toNat = 0 ∨ 4 < op.toNat → cmd (.pegCmdBadOp a op) op.toNat 0
      (s.becomes (.pegCmdBadOp a op) (s.onPeg fun p => { p with cmd := ⟨op.toNat, 0, false, 2, 2⟩ }))) ∧
    (rp → put (.pegUpdAddrWrite a v) 0xD1 v
      { p with
        updOffs := bits v 2 18 * 4, updImg := bit v 24, updEnd := false, updCrc := 0#32, updBusy := true }) ∧
    (rp → past → put (.pegUpdDataWrite a v) 0xD2 v { p with updEnd := true }) ∧
    (rp → ¬past → s.rp.running = some p.updImg → put (.pegUpdDataWrite a v) 0xD2 v p) ∧
    (rp → ¬past → s.rp.running ≠ some p.updImg →
      write (.pegUpdDataWrite a v) 0xD2 v
        ((s.store 8 (imageBase p.updImg + p.updOffs) (bytesOf v)).s.onPeg fun p =>
          { p with
            updOffs := p.updOffs + 4
            updCrc := ~~~(crcFold (~~~p.updCrc) (bytesOf v))
            updBusy := true })) ∧
    (s.reads a (ioPeg + 4 * 0xD2) → s.becomes (.pegUpdDataRead a) s)

/-- R3, R6, R7, R158, R159, R189: a Canvas write that would change a field owned by Ridgepole or by another
core, or that reaches a controller of another core, takes the access exception and changes no register; under
Waymark a write to a block of R157 is kept for the boundary, and the 65th of one writer marks it instead.
Readings of the model that it rests on: assumption 31. -/
def Obligations.WritesHeldBack : Prop :=
  ∀ (s : State) (c : CoreId) (o : Nat) (v : Word),
    let i := Instr.registerWrite (.core c) (BitVec.ofNat 32 (0x40000000 + o)) v
    let mine := s.itg.defer.filter fun d => decide (d.writer = s.writerOf c)
    s.issues c = true → o < 0x100000 → o % 4 = 0 →
      (∀ f, s.ioWriteFault c o v = some f → s.handles c 3 →
        exceptionStep s i c 3 (0x100#32 ||| if f = .owned then 0x400#32 else 0x800#32)) ∧
      (s.ioWriteFault c o v = none → s.waymark = true → waymarkBlock o = true → mine.length < 64 →
        s.becomes i (s.onItg fun g => { g with defer := g.defer ++ [⟨s.writerOf c, c, o, v⟩] })) ∧
      (s.ioWriteFault c o v = none → s.waymark = true → waymarkBlock o = true → 64 ≤ mine.length →
        s.becomes i (s.onItg fun g =>
          { g with full := if s.writerOf c ∈ g.full then g.full else g.full ++ [s.writerOf c] })) ∧
      (s.handles c 3 → ∀ i ∈ ([.pegSessClose (.core c), .pegH2d3Write (.core c) v, .pegReset (.core c),
        .gsWrite (.core c), .pegUpdAddrWrite (.core c) v, .pegUpdDataWrite (.core c) v] : List Instr),
        exceptionStep s i c 3 0x500#32)

/-- R2, R3: a write to a register that has no row of its own changes its writable bits, whoever makes it, a
Canvas core or Ridgepole; a reserved offset ignores it. Readings of the model that it rests on: assumptions 14,
15. -/
def Obligations.RegistersWithoutRow : Prop :=
  ∀ (s : State) (a : Agent) (v : Word) (t : Fin 12) (k : Fin 4) (i : Fin 24),
    let i' := Instr.registerWrite a
    let put := fun (o : Nat) (u : State) =>
      s.writes a o v → s.becomes (i' (BitVec.ofNat 32 (0x40000000 + o)) v) u
    let b := ioBank a
    let per01 := (let w := if bits v 0 16 = 0 then setBits v 0 16 1 else v
      if bits v 16 16 = 0 then setBits w 16 16 1 else w)
    let ch := fun (o : Nat) (f : TimCh → TimCh) =>
      put (ioTim + 0x100 * t + 0x20 + 0x10 * k + o) (s.onTim t fun q => { q with ch := q.ch.set k (f q.ch[k]) })
    put 0x08 (s.onPwr fun p => { p with wakeEn := (p.wakeEn &&& ~~~0xF0797#32) ||| (v &&& 0xF0797#32) }) ∧
    put 0x0C (s.onPwr fun p => { p with wakePin := v }) ∧
    put 0x10 (s.onPwr fun p => { p with ticks := v.setWidth 16 }) ∧
    put 0x20 (s.onPwr fun p => { p with stat := p.stat &&& ~~~(v &&& 0x300#32) }) ∧
    put 0x24 (s.onPwr fun p => { p with ie := v &&& 0x300#32 }) ∧
    put 0x1000 (s.onClk fun p => { p with stat := p.stat &&& ~~~(v &&& 0x18#32) }) ∧
    put 0x1004 (s.onClk fun p => { p with ie := v &&& 0x18#32 }) ∧
    put (ioHrv + 0x04) (s.onHrv fun h => { h with ie := v &&& 0x7DFF0000#32 }) ∧
    put (ioHrv + 0x1C) (s.onHrv fun h => { h with kgate := v &&& 0x8001FFFF#32 }) ∧
    put (ioTim + 0x100 * t + 0x04) (s.onTim t fun q => { q with stat := q.stat &&& ~~~(v &&& 0x3F1F#32) }) ∧
    put (ioTim + 0x100 * t + 0x08) (s.onTim t fun q => { q with ie := v &&& 0x301F#32 }) ∧
    put (ioTim + 0x100 * t + 0x14) (s.onTim t fun q => { q with inp := v &&& 0x7F7F#32 }) ∧
    ch 0 (fun c => { c with ctl := (if bits v 0 2 = 3 then setBits v 0 2 0 else v) &&& 0x7F3F1F#32 }) ∧
    ch 8 (fun c => { c with int := v }) ∧ ch 0xC (fun c => { c with win := v }) ∧
    put (ioRtc + 0x04) (s.onRtc fun r => { r with stat := r.stat &&& ~~~(v &&& 0x7F#32) }) ∧
    put (ioRtc + 0x08) (s.onRtc fun r => { r with ie := v &&& 0x1FF#32 }) ∧
    put (ioRtc + 0x50) (s.onRtc fun r => { r with alm := r.alm.set 0 { r.alm[0] with val := v } }) ∧
    put (ioUa + 0x100 * k + 0x0C) (s.onUa k fun u => { u with de := v &&& 0xFFFF#32 }) ∧
    put (ioUa + 0x100 * k + 0x10) (s.onUa k fun u => { u with stat := u.stat &&& ~~~(v &&& 0xFC#32) }) ∧
    put (ioUa + 0x100 * k + 0x14) (s.onUa k fun u => { u with ie := v &&& 0xFF#32 }) ∧
    put (ioTch + 0x04) (s.onTch fun c => { c with stat := c.stat &&& ~~~(v &&& 0xFF#32) }) ∧
    put (ioTch + 0x1C) (s.onTch fun c => { c with thr := v &&& 0xFFFFFFF#32 }) ∧
    put (ioTch + 0x24) (s.onTch fun c => { c with per01 := per01 }) ∧
    put (ioRf + 0x04) (s.onRf fun r => { r with stat := r.stat &&& ~~~(v &&& 0x3FC#32) }) ∧
    put (ioRf + 0x24) (s.onRf fun r => { r with adm := setBits r.adm 0 12 (max 2800 (min 3600 (bits v 0 12))) }) ∧
    put (ioRf + 0x28) (s.onRf fun r => { r with duty := BitVec.ofNat 32 (min 1000 (bits v 0 10)) }) ∧
    put (ioNet + 0x08) (s.onNet fun m => { m with stat := m.stat &&& ~~~(v &&& 0x1FFFF0#32) }) ∧
    put (ioNet + 0x14) (s.onNet fun m => { m with rxobj := v }) ∧
    put (ioNet + 0x24) (s.onNet fun m => { m with txcfg := v &&& 0x3FF77FF#32 }) ∧
    put (ioWdn + 0x14) (s.onWdnBank b fun r => { r with objBase := v &&& 0xFFFFFF00#32 }) ∧
    put (ioWdn + 0x1C) (s.onWdnBank b fun r => { r with objRights := v &&& 0xFFFFFF#32 }) ∧
    put (ioWdn + 0x44) (s.onWdnBank b fun r => { r with tskEntry := v }) ∧
    put ioMem (s.onMm fun r => { r with stat := r.stat &&& ~~~(v &&& 0x3F#32) }) ∧
    put (ioMem + 0x04) (s.onMm fun r => { r with eccLim := v &&& 0xFFF#32 }) ∧
    put (ioItg + 0x04) (s.onItg fun g => { g with stat := g.stat &&& ~~~(v &&& 1#32) }) ∧
    put (ioItg + 0x14) (s.onItg fun g => { g with frame := if bits v 0 16 = 0 then 1#32 else v &&& 0xFFFF#32 }) ∧
    put (ioCnt + 0x04) (s.onCnt fun q => { q with ie := vset q.ie b (v &&& 0xFFFFFF#32) }) ∧
    (¬(s.twin = true ∧ i.val < 16 ∧ i.val / 4 % 2 = 1) →
      put (ioCnt + 0x100 + 32 * i) (s.onCnt fun q =>
        { q with c := q.c.set i { q.c[i] with cfg := (q.c[i].cfg &&& ~~~0xFF#32) ||| (v &&& 0xFF#32) } })) ∧
    put ioPin (s.onPin fun q => { q with stat := q.stat &&& ~~~(v &&& 3#32) }) ∧
    put (ioEvt + 0x04) s ∧ put (ioUa + 0x18) s ∧ put (ioWdn + 0x94) s ∧ put 0x2C s

/-- R371, R381: the host reaches a register by a frame at its offset of the Peg map, with the CRC of R366, and a register that
has no such offset not at all. Assumption 18 is the model's reading of a row whose agent is the host. -/
def Obligations.HostRows : Prop :=
  ∀ (s : State) (v : Word) (k3 : Fin 3) (k5 : Fin 5) (i : Fin 24) (arg op : BitVec 4) (t : Fin 12) (u : Fin 4)
    (b : Fin 5) (n : Fin 96),
    let frame := fun (k : Nat) (w : Word) =>
      Instr.pegWrite (BitVec.ofNat 8 k) w (crc8 ([0x02#8, BitVec.ofNat 8 k] ++ wireBytes w))
    let read := fun k : Nat => Instr.pegRead (BitVec.ofNat 8 k)
    let same := fun (x y : Instr) => exec x s = exec y s
    let cmd := fun o a : Nat => frame 0xD0 (field 0 o ||| field 4 a)
    same (.itgLogSelWrite .host v) (frame 0x53 v) ∧ same (.rtcTimeRead .host k5) (read (0x44 + k5)) ∧
    same (.netCntRead .host k3) (read (0xA1 + k3)) ∧
    (16 ≤ i.val → same (.cntLoRead .host i) (read (0xE0 + 2 * (i.val - 16)))) ∧
    (i.val < 16 → s.becomes (.cntLoRead .host i) s) ∧
    same (.pegSessClose .host) (frame 0xCB 0x100#32) ∧ same (.pegH2d3Write .host v) (frame 0xC3 v) ∧
    same (.pegD2h3Write .host v) (frame 0xC7 v) ∧ same (.pegMbstatWrite .host v) (frame 0xC8 v) ∧
    same (.pegReset .host) (cmd 1 0) ∧ same (.gsWrite .host) (cmd 2 0) ∧
    same (.pegImgSwitch .host arg) (cmd 3 arg.toNat) ∧ same (.keySet .host arg) (cmd 4 arg.toNat) ∧
    (op.toNat = 0 ∨ 4 < op.toNat → same (.pegCmdBadOp .host op) (cmd op.toNat 0)) ∧
    same (.pegUpdAddrWrite .host v) (frame 0xD1 v) ∧ same (.pegUpdDataWrite .host v) (frame 0xD2 v) ∧
    same (.pegUpdDataRead .host) (read 0xD2) ∧
    (∀ k : BitVec 8, same (.registerWrite .host (k.setWidth 32) v) (frame k.toNat v)) ∧
    ∀ x ∈ ([.irqEoi .host v, .irqSwset .host v, .irqEnWrite .host b u v, .irqPsetWrite .host b u v,
        .irqLostRead .host b u, .evtSwfire .host v, .evtConsWrite .host n v, .objDeclare .host,
        .objRelease .host, .objRights .host, .tskDeclare .host, .tskRelease .host, .jnlPurge .host,
        .wdnObjSelWrite .host v, .wdnTskSelWrite .host v, .wdnPolWrite .host v, .wdnEpochWrite .host v,
        .wdnLimWrite .host v, .wdnEpochLimWrite .host v, .wdnRetireWrite .host true v,
        .wdnRetireWrite .host false v, .memBankWearLoRead .host, .memConfSatRead .host, .vptWrite .host v,
        .clkDivWrite .host v, .hrvCtlWrite .host v, .hrvProtWrite .host v, .hrvTlimWrite .host v,
        .hrvChgWrite .host v, .hrvCapWrite .host v, .hrvLchgWrite .host v, .hrvThresholdWrite .host k3 v,
        .rtcStep .host, .rtcRel .host, .rtcSwclr .host, .rtcModeWrite .host v, .rtcSlewWrite .host v,
        .rtcEcapHiRead .host, .timerCntWrite .host t v, .timerCntRead .host t, .timerCmpWrite .host t u v,
        .timerStagWrite .host t v, .timerCtlWrite .host t v, .uaRxRead .host u, .uaTxWrite .host u v,
        .uaDivWrite .host u v, .uaQcfgWrite .host u v, .uaCtlWrite .host u v, .uaErrcntRead .host u,
        .tchStart .host, .tchRebase .host, .rfConfigWrite .host k5 v, .rfCtlWrite .host v,
        .rfAbortsRead .host, .rfRxerrRead .host, .netCmdSend .host, .netCmdJoin .host, .netCmdLeave .host,
        .netCmdSurvey .host, .netCmdAdmit .host, .netCmdKeyset .host, .netCmdKeyuse .host,
        .netEnWrite .host v, .cntCapture .host, .cntLoWrite .host i v, .cntHiWrite .host i v,
        .pinHoldWrite .host v, .pinBallWrite .host n v] : List Instr), s.becomes x s

/-! ## Events of the station engine -/

/-- R195-R197: an event that leaves the resynchronisers fires the channel that selects its producer: the fired
flag is set, and the channel's source is pending on its owner's controller where it is enabled and not active;
without an event for it the channel does nothing.

R32, R129: the Warden dispatches the ready task of highest priority, ties to the lower number, to the eligible
core of highest score, ties to the lower number: the core starts at the entry with the readiness in W0 and W1,
the stack top in W15 and the thread kept aside. With no task ready nothing happens. Readings of the model that
it rests on: assumption 42. -/
def Obligations.ChannelsAndDispatch : Prop :=
  (∀ (s : State) (n : Fin 64) (p : Nat),
    let e := s.per.evt
    let prod := bits e.ch[n] 0 8
    let o := bits e.ch[n] 12 3
    let comes := fun p : Nat => ∃ f ∈ s.inflight, f.ev = p
    s.running = true →
      (¬comes (1000 + n.val) → (bit e.ch[n] 8 = false ∨ ¬comes prod) →
        s.becomes (.guylineChannelFire n) s) ∧
      (¬comes (1000 + n.val) → prod = p → comes p → (∀ f ∈ s.inflight, f.ev = p → n.val ∉ f.gone) →
        bit e.ch[n] 8 = true → (p = 190 → bit e.ch[n] 15 = true) →
        ∃ t, exec (.guylineChannelFire n) s = .next t ∧ bit t.per.evt.fired n = true ∧
          (∀ b < 4, o = b → bit (vget s.irq b IrqBank.reset).en (64 + n) = true →
            bit (vget s.irq b IrqBank.reset).act (64 + n) = false →
            bit (vget t.irq b IrqBank.reset).pend (64 + n) = true) ∧
          (∀ k < 64, bit e.fired k = true → bit t.per.evt.fired k = true) ∧
          t.cores = s.cores ∧ t.mem = s.mem)) ∧
  (∀ (s : State) (i : Fin 64) (c : CoreId),
    let t := s.tskAt i
    let k := s.cores[c]
    let st := s.objAt t.stack
    let top := st.logical + 256 * 2 ^ st.size
    s.canvasUp = true →
      ((∀ j < 64, (s.tskAt j).state ≠ .ready) → s.becomes .wardenDispatch s) ∧
      (s.waymark = false → t.state = .ready → t.prio < 8 →
        (∀ j < 64, j ≠ i.val → (s.tskAt j).state = .ready →
          (s.tskAt j).prio < t.prio ∨ ((s.tskAt j).prio = t.prio ∧ i.val < j)) →
        s.affine t c = true → s.freeCore c = true →
        (∀ d : CoreId, d ≠ c → s.affine t d = true → s.freeCore d = true →
          s.score t d < s.score t c ∨ (s.score t d = s.score t c ∧ c < d)) →
        s.becomes .wardenDispatch (((s.onPwr fun p => { p with count := 0#16 }).onCore c fun _ =>
          { k with
            pl := 0#32, ph := 0#32, qt := 0#32, rm := 0#32, mul := none, div := none
            shadow := some ⟨k.w, k.pc, k.flg, k.epc, k.eflg, k.ecause⟩
            w := ((((Vector.replicate 16 0#32).set 0 (BitVec.ofNat 32 t.readiness.cause)).set 1
              t.readiness.detail).set 15 (BitVec.ofNat 32 top))
            pc := t.entry, flg := 0#32, task := BitVec.ofNat 32 i, phase := .run, repOpen := false
            cyc := k.cyc + 12#64 }).onTsk i fun t =>
              { t with state := .running, core := c, released := false })))

/-- R117, R119: the end of an epoch halves every heat count and counts down every hold; while every core is in WAIT it
places nothing; otherwise it queues migrations behind those that wait, within the budget.

R86, R122-R125: the first migration that waits starts, unless one is in progress or every core is in WAIT; the copy
waits until its destination has been cleared; at its end the object's bytes stand at the destination, which the
object now names, and MIGCNT is one higher; an uncorrectable word of the source abandons it and leaves the object
where it was. -/
def Obligations.EpochsAndMigrations : Prop :=
  (∀ s : State,
    let aged := fun e : ObjEntry => { e with heat := e.heat.map (· / 2), hold := e.hold - 1 }
    s.running = true →
      (s.allWaiting = true → s.becomes .epochEnd (s.onWdn fun w => { w with obj := w.obj.map aged })) ∧
      ∃ (t : State) (q : List Migration), exec .epochEnd s = .next t ∧ t.wdn.obj = s.wdn.obj.map aged ∧
        t.wdn.queue = s.wdn.queue ++ q ∧ t.wdn.mig = s.wdn.mig ∧ t.mem = s.mem ∧
        (q ≠ [] → t.wdn.queue.length + s.wdn.mig.toList.length ≤ bits s.wdn.lim 4 3)) ∧
  (∀ (s : State) (m : Migration) (q : List Migration),
    let e := s.objAt m.obj
    let n := 256 * 2 ^ e.size
    let src := s.migSource m
    let cleared := decide (m.bank < 16 ∨ 48 ≤ m.bank) || bit s.mm.sbPwr (m.bank - 16)
    s.running = true →
      (s.wdn.mig ≠ none ∨ s.allWaiting = true ∨ s.wdn.queue = [] → s.becomes .migrationStart s) ∧
      (s.wdn.mig = none → s.allWaiting = false → s.wdn.queue = m :: q → s.becomes .migrationStart
        (((s.flushLook m.obj).onWdn fun w => { w with mig := some m, queue := q }).powerSram m.bank)) ∧
      (s.wdn.mig = none → s.becomes .migrationComplete s ∧ s.becomes .copyUncorrectableRead s) ∧
      (s.wdn.mig = some m → cleared = false → s.becomes .migrationComplete s ∧ s.becomes .copyUncorrectableRead s) ∧
      (s.wdn.mig = some m → cleared = true → m.obj < 512 → e.phase = .live → s.mem.ecc = [] → 5 ≤ m.bank → m.bank < 49 →
        256 * m.offs + n ≤ bankBytes m.bank → ∃ t, exec .migrationComplete s = .next t ∧
          t.wdn.mig = none ∧ t.wdn.migcnt = s.wdn.migcnt + 1#32 ∧
          (t.objAt m.obj).bank = m.bank ∧ (t.objAt m.obj).offs = m.offs ∧
          (∀ j < 512, j ≠ m.obj → t.objAt j = s.objAt j) ∧
          (∀ j < n, t.mem.byte (bankBase m.bank + 256 * m.offs + j) = s.mem.byte (src + j)) ∧
          t.cores = s.cores) ∧
      (s.wdn.mig = some m → cleared = true →
        (∃ w ∈ s.badWords src (s.migBytes m), (s.mem.eccOf w).any uncorrectable = true) →
          ∃ t, exec .copyUncorrectableRead s = .next t ∧ t.wdn.mig = none ∧ bit t.wdn.stat 2 = true ∧
            t.wdn.obj = s.wdn.obj ∧ t.cores = s.cores))

/-- R79, R81, R83, R85, R86: a powered bank is granted once it has been cleared; the scrubber moves one word on
and begins a new pass after the last; a correction is written back without changing a byte; an overdue pass is
noted, and a correction window starts from zero. Readings of the model that it rests on: assumptions 45, 46. -/
def Obligations.MemoryEvents : Prop :=
  ∀ (s : State) (b : Fin 32) (k : Fin 50) (a : Word) (f : Option EccKind),
    let w := mramBase + 8 * s.mm.scrub
    let next := (s.mm.scrub + 1) % 2 ^ 20
    s.running = true →
      (bit s.mm.sbOn b = true → s.becomes (.sramBankClearDone b)
        (s.onMm fun r => { r with sbPwr := setBit r.sbPwr b true })) ∧
      (bit s.mm.sbOn b = false → s.becomes (.sramBankClearDone b) s) ∧
      (∃ t, exec (.scrubRead f) s = .next t ∧ t.mm.scrub = next ∧ t.cores = s.cores) ∧
      (s.mem.eccOf w = none → f = none → next ≠ 0 → s.becomes (.scrubRead f)
        (s.onMm fun r => { r with scrub := next })) ∧
      (s.mem.eccOf w = none → f = none → next = 0 → s.becomes (.scrubRead f)
        ((s.onMm fun r => { r with scrub := 0, stat := setBit r.stat 5 true }).onRp fun r =>
          { r with passStart := s.per.rtc.time / 32768, scrubLate := false }).storeWrites) ∧
      (a.toNat ∉ s.mem.writeback → s.becomes (.eccWriteback a) s) ∧
      (a.toNat ∈ s.mem.writeback → a.toNat % eccSize a.toNat = 0 → ∃ t, exec (.eccWriteback a) s = .next t ∧
        (∀ x, t.mem.byte x = s.mem.byte x) ∧ t.mem.eccOf a.toNat = none ∧ a.toNat ∉ t.mem.writeback ∧
        t.cores = s.cores) ∧
      s.becomes .scrubOverdue (s.onRp fun r => { r with scrubLate := true }) ∧
      s.becomes (.correctionWindowEnd k) (s.onMm fun r => { r with corr := r.corr.set k 0 })

/-- R138, R139, R142, R145, R146, R149-R151: a divergence under Twin-skin, and a fault whose class calls for the
safe state, resets the device with cause bit 4 after the log entry, with the reaction noted for the boot; a
class that does not arise in the configuration leaves nothing, and the others are recorded; the checkers run during
a Strike too; a supply of a VIO bank is watched once VIOW shows it, and read-back a ball that the part drives; a
self-test round is counted; a present supply becomes watched. Readings of the model that it rests on: assumptions 29, 30, 58, 60.
-/
def Obligations.IntegrityEvents : Prop :=
  ∀ (s : State) (p : Fin 2) (x : Word) (c : FaultClass) (u : BitVec 8) (a y : Word) (d : DWord) (b2 : Bool),
    let total := s.itg.total
    let slot := logBase + 64 * (total.toNat % 64)
    let down := fun (i : Instr) (cls unit : Nat) (f : PendingFault) => ∃ t, exec i s = .next t ∧
      t.rp.mode = .cold ∧ t.rp.itgPend = some f ∧
      t.pwr.cause = (0x10#32 ||| if s.rp.mode = .cold ∧ bit s.pwr.cause 3 = true then 8#32 else 0#32) ∧
      t.itg.total = total + 1#32 ∧
      t.mem.byte (slot + 4) = BitVec.ofNat 8 cls ∧ t.mem.byte (slot + 5) = BitVec.ofNat 8 unit ∧
      t.cores = Vector.replicate 4 Core.reset
    let at0 : Word := if c = .bpar ∧ u.toNat < 4 then s.cores[Fin.ofNat 4 u.toNat].pc else Config.freeWord s.free
    let info : FaultInfo :=
      { cls := classCode c, unit := u.toNat, syn := y, pc0 := at0
        addr := if c = .unc ∨ c = .bpar then a else 0#32, detail := if c = .supply ∨ c = .clock then d else 0#64 }
    let fault := Instr.integrityFault c u a y d
    let runs := s.pwr.state = .awake ∧
      (c = .supply → (u = 1#8 → bit s.itg.stat 5 = true) ∧ (u = 2#8 → bit s.itg.stat 6 = true)) ∧
      (c = .rdbk → bit s.itg.cfg 4 = true ∧ u.toNat < 96 ∧ s.per.pin.isOutput u.toNat = true ∧
        driveLevel s u.toNat ≠ none)
    let paired := s.pwr.state = .awake ∧ s.rp.mode = .up ∧ s.twin = true
    (¬paired → s.becomes (.lockstepDivergence p x) s) ∧
    (¬(s.canvasUp = true ∧ s.twin = true) → s.becomes .selfTestRound s) ∧
    (paired →
      let f : FaultInfo := { cls := 1, unit := p, pc0 := s.cores[Fin.ofNat 4 (2 * p.val)].pc, pc1 := x }
      down (.lockstepDivergence p x) 1 p ⟨faultAction s f, p⟩) ∧
    (s.canvasUp = true → s.twin = true →
      s.becomes .selfTestRound { s with
        itg := { s.itg with stest := setBits s.itg.stest 16 8 (bits s.itg.stest 16 8 + 1) }
        irq := let q := s.irq[(4 : Fin 5)]
          s.irq.set 4 (if bit q.en 59 = true ∧ bit q.act 59 = false
            then { q with pend := setBit q.pend 59 true } else q) }) ∧
    (¬runs → s.becomes fault s) ∧
    (runs → s.twin = true ∨ c ∈ [.rplock, .mcmp, .bpar, .tpar, .pcmp, .clock, .supply] →
      down fault (classCode c) u.toNat ⟨faultAction s info, (lockPair info).getD 0⟩) ∧
    (runs → s.twin = false → c = .rdbk ∨ c = .check → s.becomes fault (s.useFree 1)) ∧
    (runs → s.twin = false → c = .unc → s.becomes fault ((s.useFree 1).recordFault info 0)) ∧
    (s.running = true → (if b2 then s.pwr.vio2 else s.pwr.vio1) = true →
      s.becomes (.supplyWatchQualified b2)
        (s.onItg fun g => { g with stat := setBit g.stat (if b2 then 6 else 5) true })) ∧
    ((if b2 then s.pwr.vio2 else s.pwr.vio1) = false → s.becomes (.supplyWatchQualified b2) s)

/-- R16, R178, R179, R196: a watchdog that is not kicked in its period leaves a log entry of class WDOG and
resets the device with cause bit 5, at the end of a Strike that runs and in place of what that would have led to; the
count of Canvas's pauses while a core is halted; half way Ridgepole's watchdog fires producer 190. Readings of the model that it rests on: assumption
58. -/
def Obligations.WatchdogEvents : Prop :=
  ∀ s : State,
    let slot := logBase + 64 * (s.itg.total.toNat % 64)
    let canvas := s.pwr.state = .awake ∧ s.rp.mode = .up ∧ s.rp.wdog ≠ 0 ∧ s.rp.wdogLeft = 0 ∧
      ∀ c : CoreId, s.cores[c].halted = false
    let resets := fun (i : Instr) (unit : Nat) => ∃ t, exec i s = .next t ∧
      t.mem.byte (slot + 4) = 0x10#8 ∧ t.mem.byte (slot + 5) = BitVec.ofNat 8 unit ∧
      t.itg.total = s.itg.total + 1#32 ∧
      (s.pwr.strike = none → t.rp.mode = .cold ∧ t.pwr.cause = 0x20#32) ∧
      (∀ k, s.pwr.strike = some k → t.rp.mode = s.rp.mode ∧ t.cores = s.cores ∧
        t.pwr = { s.pwr with strike := some { k with causes := (k.causes &&& 0x22#32) ||| 0x20#32 } })
    (¬canvas → s.becomes .canvasWatchdogExpire s) ∧ (canvas → resets .canvasWatchdogExpire 0xFF) ∧
    (s.pwr.state ≠ .awake → s.becomes .ridgepoleWatchdogExpire s) ∧
    (s.pwr.state = .awake → resets .ridgepoleWatchdogExpire 4) ∧
    (s.running = true → s.becomes .ridgepoleWatchdogWarning { s with inflight := ⟨190, 0, []⟩ :: s.inflight })

/-- R180, R181: a right response opens the Trail port for its SCOPE, a wrong one counts a failure and three lock
the port; a session that closes ends it. In a session the debugger halts, steps and resumes the cores in scope
and writes the registers of a halted one, and reads and writes memory as thread code of task group 0; outside it
nothing happens. Readings of the model that it rests on: assumptions 61, 106. -/
def Obligations.TrailEvents : Prop :=
  ∀ (s : State) (resp : List Byte) (scope : Word) (c : CoreId) (reg : DebugReg) (v w : Word),
    let r := s.rp.trail
    let sc := scope &&& 0xF#32
    let off := s.rp.dbgen = false ∨ s.rp.key 1027 = none
    let right := r.locked = false ∧ (s.twin = true → bit sc 0 = bit sc 1 ∧ bit sc 2 = bit sc 3) ∧
      s.rp.dbgen = true ∧ ∃ k, s.rp.key 1027 = some k ∧
        resp = hmac k (r.chal ++ uidBytes ++ bytesOf sc)
    let n := min 3 (r.fails + 1)
    let put := fun (u : State) (t : Trail) => u.onRp fun r => { r with trail := t }
    let l : CoreId := if s.twin = true ∧ c.val % 2 = 1 then Fin.ofNat 4 (c.val - 1) else c
    let k := s.cores[l]
    let core := fun (i : Instr) (q : Core) => s.becomes i (s.onCore l fun _ => q)
    let any := [Instr.debugHalt c, .debugStep c, .debugResume c, .debugRegisterAccess c reg (some v),
      .debugRegisterAccess c reg none]
    let serves := s.rp.mode = .up ∨ s.rp.mode = .stopped
    let group0 := s.onCore l fun k => { k with task := 0x80000000#32 }
    let word := fun x => Instr.debugRegisterAccess c (.word w) x
    s.running = true →
      (¬serves → s.becomes (.trailSubmit resp scope) s) ∧
      (serves → right → s.becomes (.trailSubmit resp scope) (put s { r with scope := sc, isOpen := true })) ∧
      (serves → ¬right → s.becomes (.trailSubmit resp scope) (put (s.useFree 16)
        { r with
          chal := freeBytes s.free 16, scope := sc, disabled := r.disabled || decide off
          fails := n, locked := r.locked || decide (n = 3) })) ∧
      s.becomes .trailClose (put s { r with isOpen := false }) ∧
      (r.isOpen = false ∨ bit r.scope c = false → ∀ i ∈ any, s.becomes i s) ∧
      (r.isOpen = true → bit r.scope c = true →
        s.becomes (.debugHalt c)
          ((s.onPwr fun p => { p with count := 0#16 }).onCore l fun _ => { k with halted := true }) ∧
        core (.debugStep c) (if k.halted then { k with stepArm := true } else k) ∧
        core (.debugResume c) { k with halted := false, stepArm := false } ∧
        ((∀ x, reg ≠ .word x) → core (.debugRegisterAccess c reg none) k) ∧
        ((∀ x, reg ≠ .word x) →
          core (.debugRegisterAccess c reg (some v)) (if k.halted = false then k else match reg with
            | .w d => { k with w := k.w.set d v }
            | .pc => { k with pc := v }
            | .special n => k.writeSpecial n v
            | .word _ => k)) ∧
        (k.halted = false ∨ bankOf (s.physical w.toNat) = some 0 →
          s.becomes (word none) s ∧ s.becomes (word (some v)) s) ∧
        (k.halted = true → bankOf (s.physical w.toNat) ≠ some 0 → group0.accessible l true false w.toNat 4 →
          ∃ t, exec (word none) s = .next t ∧ t.cores[l].seen = k.seen ∧ ∀ p, t.seenByte p = s.seenByte p) ∧
        (k.halted = true → bankOf (s.physical w.toNat) ≠ some 0 → group0.storable l w.toNat 4 →
          ∃ t, exec (word (some v)) s = .next t ∧ t.cores[l].seen = k.seen ∧ Stored s t w.toNat 4 v.toNat))

/-- R51, R154-R158, R162: a frame boundary under Waymark ends late tasks, commits the deferred writes of the
frame, shows Canvas the inputs captured, moves FRM on, takes the earliest 256 events in order, and lets the
cores go on; the lists of the frame are empty again. Readings of the model that it rests on: assumption 34. -/
def Obligations.FrameBoundaries : Prop :=
  ∀ s : State,
    (¬(s.canvasUp = true ∧ s.waymark = true) → s.becomes .frameBoundary s) ∧
    (s.canvasUp = true → s.waymark = true → ∃ t, exec .frameBoundary s = .next t ∧
      t.itg.frm = s.itg.frm + 1#32 ∧ t.itg.frameNow = s.itg.frame ∧
      t.itg.wev = (sortBy eventBefore s.itg.coll).take 256 ∧ t.itg.coll = [] ∧
      t.itg.defer = [] ∧ t.itg.full = [] ∧ t.itg.ready = [] ∧ t.itg.rcRead = [] ∧
      t.snap.pin.inp = s.per.pin.inp ∧ (∃ f ∈ t.inflight, f.ev = 187) ∧
      (∀ c : CoreId, bit s.cores[c].task 31 = true →
        t.cores[c] = { s.cores[c] with
          phase := if s.cores[c].phase = .frame ∨ s.cores[c].phase = .wait then .run else s.cores[c].phase }) ∧
      (∀ c : CoreId, bit s.cores[c].task 31 = false → s.cores[c].phase ≠ .off →
        bit t.cores[c].task 31 = true) ∧
      (∀ d, s.overrunners = [] → s.itg.defer = [d] → d.writer ∈ writersInOrder → s.itg.rcRead = [] →
        t.per.hrv = (s.periphWrite (.core d.core) d.addr d.value).per.hrv ∧
        t.per.tch = (s.periphWrite (.core d.core) d.addr d.value).per.tch ∧
        t.per.evt = (s.periphWrite (.core d.core) d.addr d.value).per.evt))

/-! ## Events of the supplies, the clocks and the harvest manager -/

/-- R97, R99, R288, R289, R16, R293: the idle timer begins an entry Strike where the conditions of R288 hold. At
the end of a Strike whose lines hold no error every dirty line stands in its free image, and the record that was
not in force is a valid one with the next SEQ and the inverted map; then Bivouac is entered, or the resets that
were due take place, or the Porch runs from the cell or loses its supply.

R290-R292: a source that is not enabled wakes nothing; in an entry Strike the wake is latched, with the first
source and its time, in Bivouac it resets the device with cause bit 3, until that reset is released it is recorded
with the first source, and anywhere else nothing happens.
Readings of the model that it rests on: assumptions 47, 52. -/
def Obligations.StrikeAndWakeEvents : Prop :=
  (∀ s : State,
    let m := s.mm
    let rec_ := recordBase m.nextSlot
    let idle := s.running = true ∧ s.pwr.ticks ≠ 0#16 ∧ s.mayCount = true ∧
      (s.waymark = false ∨ s.rp.mode = .stopped ∨ s.allHalted = true)
    (¬idle → s.becomes .idleTimerExpire s) ∧
    (idle → s.becomes .idleTimerExpire
      ((s.onPwr fun p => { p with count := p.ticks, strike := some ⟨.entry, 0#32, 0#32, false⟩ }).onWdn fun w =>
        { w with queue := [] })) ∧
    (s.pwr.strike = none → s.becomes .strikeComplete s) ∧
    (∀ k, s.pwr.strike = some k → s.mem.ecc = [] → ∃ t, exec .strikeComplete s = .next t ∧
      (∀ l < 256, bit m.dirty l = true → ∀ j < 64,
        t.mem.byte (m.freeImage l + j) = s.mem.byte (emberBase + 64 * l + j)) ∧
      recordOk t.mem m.nextSlot = true ∧ recordSeq t.mem m.nextSlot = m.seq + 1#32 ∧
      t.mem.num (rec_ + 4) 4 = m.scrub % 2 ^ 20 ∧ t.mem.num (rec_ + 8) 32 = (m.map ^^^ m.dirty).toNat ∧
      (∀ j < 256, t.mem.byte (recordBase (!m.nextSlot) + j) = s.mem.byte (recordBase (!m.nextSlot) + j)) ∧
      t.pwr.strike = none ∧
      (k.causes ≠ 0#32 → t.rp.mode = .cold ∧ t.pwr.cause = k.causes ∧ t.cores = Vector.replicate 4 Core.reset ∧
        t.pwr.state = if s.pwr.state = .held then .held else .awake) ∧
      (k.causes = 0#32 → k.kind = .entry → k.mainLost = false →
        t.pwr.bivcnt = s.pwr.bivcnt + 1#32 ∧
        (k.wake = 0#32 → t.pwr.state = .bivouac ∧ t.per.pin.latch = s.per.pin.out.setWidth 16) ∧
        (k.wake ≠ 0#32 → t.rp.mode = .cold ∧ t.pwr.state = .awake ∧ t.pwr.cause = 8#32 ∧ t.pwr.wakeSrc = k.wake)) ∧
      (k.causes = 0#32 → k.kind ≠ .entry ∨ k.mainLost = true →
        t.pwr.state = if s.cellUp then .depleted else .unpowered))) ∧
  (∀ (s : State) (k : Fin 11) (pin : Fin 16) (rise : Bool),
    let i := Instr.wakeSourceQualify k pin rise
    let src := s.pwr.wakeSrc
    let waking := s.running = true ∧ s.rp.mode = .cold ∧ s.pwr.cause = 8#32
    let on := if k = 3 then s.per.net.timing = true
      else if k = 5 then bit s.pwr.wakePin (if rise then pin.val else 16 + pin.val) = true
      else if k = 6 then True else bit s.pwr.wakeEn k = true
    (¬on → s.becomes i s) ∧
    (s.pwr.strike = none → s.pwr.state ≠ .bivouac → ¬waking → s.becomes i s) ∧
    (on → waking → ∃ w : Word, s.becomes i (s.onPwr fun p => { p with wakeSrc := w }) ∧
      (∀ j < 11, bit w j = (bit src j || decide (j = k.val))) ∧
      (src ≠ 0#32 → bits w 24 8 = bits src 24 8) ∧
      (k = 5 → bits w 16 4 = if bit src 5 then min pin.val (bits src 16 4) else pin.val)) ∧
    (on → ∀ x, s.pwr.strike = some x → x.kind ≠ .entry → s.becomes i s) ∧
    (on → ∀ x, s.pwr.strike = some x → x.kind = .entry → ∃ w : Word,
      s.becomes i (s.onPwr fun p => { p with strike := some { x with wake := w } }) ∧
      (∀ j < 11, bit w j = (bit x.wake j || decide (j = k.val))) ∧
      (x.wake = 0#32 → bits w 24 4 = k ∧ bit w 31 = true) ∧
      (x.wake ≠ 0#32 → bits w 24 8 = bits x.wake 24 8) ∧
      (k = 5 → bits w 16 4 = if bit x.wake 5 then min pin.val (bits x.wake 16 4) else pin.val)) ∧
    (on → s.pwr.strike = none → s.pwr.state = .bivouac → ∃ t, exec i s = .next t ∧
      t.pwr.state = .awake ∧ t.rp.mode = .cold ∧ t.pwr.cause = 8#32 ∧
      (∀ j < 11, bit t.pwr.wakeSrc j = decide (j = k.val)) ∧ bits t.pwr.wakeSrc 24 4 = k ∧
      bit t.pwr.wakeSrc 31 = false ∧ t.pwr.wakeEn = s.pwr.wakeEn ∧ t.pwr.ticks = s.pwr.ticks ∧
      t.cores = Vector.replicate 4 Core.reset ∧ t.wdn = Warden.reset ∧
      (∀ x, inMram x = true → t.mem.byte x = s.mem.byte x)))

/-- R20, R146, R147, R164, R165, R168, R169: a Bivouac wake takes the Pitch path with the recorded image and
selections; every other reset makes a full boot, which starts the preferred image where it verifies, the other
one where it does not, and otherwise enters the stopped state, as it does where the recorded fault asks for it.
A core that is not retired and leads its pair starts at the entry point with its stack pointer. Readings of the
model that it rests on: assumptions 6, 82. -/
def Obligations.BootEvents : Prop :=
  ∀ s : State,
    let r := s.rp
    let copy := gsChoose s.mem
    let g := match copy with
      | none => Groundsheet.default
      | some c => gsAt s.mem c
    let cold := s.running = true ∧ r.mode = .cold
    let fresh := s.wdn.retiring = 0#50
    let short := s.pwr.cause = 8#32 ∧ r.record ≠ none
    let started := fun (t : State) (p : Bool) (sel retire : Word) =>
      let entry := BitVec.ofNat 32 (imageWord t.mem p 8)
      t.rp.mode = .up ∧ t.rp.running = some p ∧ t.itg.cfg = sel ∧ t.wdn.retire = retire ∧ t.peg.ready = true ∧
        (∀ c : CoreId,
          (bit retire (16 + c) = false → bit sel 0 = false ∨ c.val % 2 = 0 →
            t.cores[c].phase = .run ∧ t.cores[c].pc = entry ∧
            t.cores[c].w[15] = BitVec.ofNat 32 (0x6FFFF400 + 0x400 * c)) ∧
          (bit retire (16 + c) = true ∨ (bit sel 0 = true ∧ c.val % 2 = 1) → t.cores[c].phase = .off)) ∧
        (t.objAt 0).phase = .live ∧ (t.objAt 0).base = 0#20 ∧ (t.objAt 0).bank = (if p then 3 else 1) ∧
        (t.objAt 1).phase = .live ∧ (t.objAt 1).bank = (if p then 4 else 2)
    let plain := r.itgPend = none ∧ (r.stoppedRec = false ∨ s.pwr.cause &&& 0x83#32 ≠ 0#32) ∧
      bit g.boot 1 = false
    let starts := ∃ c : CoreId, bit r.retire (16 + c) = false ∧ (bit g.sel 0 = false ∨ c.val % 2 = 0)
    (¬(cold ∧ short) → s.becomes .pitchPath s) ∧ (¬cold ∨ short → s.becomes .fullBoot s) ∧
    (cold → fresh → s.mem.ecc = [] → s.pwr.cause = 8#32 → ∀ b, r.record = some b → ∃ t, exec .pitchPath s = .next t ∧
      started t b.image b.sel r.retire) ∧
    (cold → ¬short → s.mem.ecc = [] → ∃ t, exec .fullBoot s = .next t ∧
      (Config.startTest (s.free + 1) = false → t.rp.mode = .halted ∧ t.cores = s.cores ∧ t.mem = s.mem) ∧
      (Config.startTest (s.free + 1) = true → fresh → plain →
        let first := bit g.boot 0
        (starts → imageOk s.mem first r.ctr = true → started t first (g.sel &&& 0x1F#32) r.retire) ∧
        (starts → imageOk s.mem first r.ctr = false → imageOk s.mem (!first) r.ctr = true →
          started t (!first) (g.sel &&& 0x1F#32) r.retire) ∧
        (¬starts ∨ (imageOk s.mem first r.ctr = false ∧ imageOk s.mem (!first) r.ctr = false) →
          t.rp.mode = .stopped ∧ bit t.itg.stat 1 = true)) ∧
      (Config.startTest (s.free + 1) = true → fresh → (∃ f, r.itgPend = some f ∧ f.action = 3) →
        t.rp.mode = .stopped ∧ t.rp.stoppedRec = true ∧ t.rp.itgPend = none))

/-- R16, R98, R262, R293, R295, R325, R327, R328, R394, R403, R404: the Porch gains its supply and resets with
POR; NRST resets and holds the device, or waits for the Strike that runs; the loss of VMAIN switches the
calendar clock over, and at or below Reserve begins the final Strike or ends the Porch's supply; its return is a
brown-out reset from the depleted state or after a final Strike; the hold-up's collapse leaves the record in
force as it was. Readings of the model that it rests on: assumptions 2, 53, 54, 83. -/
def Obligations.SupplyEvents : Prop :=
  ∀ (s : State) (cell lost b2 up : Bool) (words : Nat),
    let p := s.pwr
    let off := p.state = .unpowered
    let enough := s.per.hrv.res < s.per.hrv.lchg ∧ s.per.hrv.switchOpen = false
    let seen := if b2 then { p with vio2 := up } else { p with vio1 := up }
    let watched := up = false ∧ bit s.itg.stat (if b2 then 6 else 5) = true ∧ p.state = .awake
    let cellUp := p.cell = true ∧ s.per.hrv.switchOpen = false
    let rtc := if s.cellUp then s.per.rtc.switchOver else s.per.rtc
    let cut := (s.useFree 1).onRp fun r => r.cutFuses s.free
    let lose := fun (q : Pwr) => (cut.onPwr fun _ => q).onRtc fun _ => rtc
    let fusing := s.rp.fusing = true ∧ s.rp.ctr ≤ s.rp.rollback
    let away := { p with main := false }
    let served := fun k : Strike =>
      { k with
        kind := if k.kind = .commanded then .final else k.kind
        causes := k.causes &&& ~~~0xC4#32
        mainLost := true }
    (¬off → s.becomes (.powerOn cell lost) s) ∧
    (off → ∃ t, exec (.powerOn cell lost) s = .next t ∧ t.rp.mode = .cold ∧ t.pwr.state = .awake ∧
      t.pwr.cause = (1#32 ||| if lost = true ∨ p.rtcLost = true then 0x100#32 else 0#32) ∧
      t.pwr.main = (!cell) ∧ t.pwr.cell = (cell || p.cell) ∧ t.pwr.bivcnt = 0#32 ∧
      t.cores = Vector.replicate 4 Core.reset ∧ (∀ x, inMram x = true → t.mem.byte x = s.mem.byte x)) ∧
    (off → s.becomes .nrstAssert s) ∧
    (¬off → p.strike = none → ∃ t, exec .nrstAssert s = .next t ∧ t.rp.mode = .cold ∧ t.pwr.state = .held ∧
      t.pwr.cause = (if s.waking = true then 0xA#32 else 2#32) ∧ t.cores = Vector.replicate 4 Core.reset) ∧
    (¬off → ∀ k, p.strike = some k → s.becomes .nrstAssert (s.onPwr fun p =>
      { p with strike := some { k with causes := (k.causes &&& 0x22#32) ||| 2#32 }, state := .held })) ∧
    (p.state ≠ .held → s.becomes .nrstRelease s) ∧
    (p.state = .held → s.becomes .nrstRelease (s.onPwr fun p => { p with state := .awake })) ∧
    (cellUp → s.becomes (.porchSupplyLoss words) s) ∧
    (¬cellUp → ∃ t, exec (.porchSupplyLoss words) s = .next t ∧
      t.pwr = { away with state := .unpowered, strike := none } ∧
      (p.strike = none → t.mem = s.mem) ∧
      (fusing → s.rp.ctr ≤ t.rp.ctr ∧ t.rp.ctr ≤ s.rp.rollback) ∧ (s.rp.fusing = false → t.rp.ctr = s.rp.ctr) ∧
      (∀ n, p.strike = none → s.rp.keyWrite = some n → Config.freeBool s.free = true → t.rp.key n = none) ∧
      (words ≤ 8 * s.mm.dirtyLines.length →
        ∀ j < 512, t.mem.byte (mramBase + 0x10000 + j) = s.mem.byte (mramBase + 0x10000 + j)) ∧
      (∀ j < 256, t.mem.byte (recordBase (!s.mm.nextSlot) + j) = s.mem.byte (recordBase (!s.mm.nextSlot) + j)) ∧
      (∀ l < 256, ∀ j < 64, t.mem.byte (imageAddr s (emberBase + 64 * l + j)) =
        s.mem.byte (imageAddr s (emberBase + 64 * l + j)))) ∧
    (p.main = false ∨ off → s.becomes .vmainLoss s) ∧
    (p.main = true → ¬off → enough → s.becomes .vmainLoss (lose { away with cell := true })) ∧
    (p.main = true → ¬off → ¬enough → ∀ k, p.strike = some k → s.becomes .vmainLoss (lose
      { away with strike := some (served k) })) ∧
    (p.main = true → p.state = .awake → ¬enough → p.strike = none → ∃ t, exec .vmainLoss s = .next t ∧
      t.pwr.strike = some ⟨.final, 0#32, 0#32, false⟩ ∧ t.pwr.main = false ∧ t.wdn.mig = none ∧
      t.wdn.queue = [] ∧ t.cores = s.cores ∧ t.per.rf.txOn = false ∧ t.per.rf.paEn = false ∧ t.per.rf.trSw = false ∧
      (s.wdn.mig = none → t.mem = s.mem)) ∧
    (p.main = true → ¬off → p.state ≠ .awake → ¬enough → p.strike = none → ∃ t, exec .vmainLoss s = .next t ∧
      t.pwr.state = (if s.cellUp then .depleted else .unpowered) ∧ t.mem = s.mem) ∧
    (p.main = true ∨ off → s.becomes .vmainReturn s) ∧
    (p.main = false → ∀ k, ¬off → p.strike = some k → k.kind = .final ∨ k.kind = .drain ∨ k.mainLost = true →
      s.becomes .vmainReturn (s.onPwr fun p =>
        { p with
          main := true
          strike := some { k with
            causes := if k.causes &&& 0x22#32 = 0#32 then k.causes ||| 4#32 else k.causes, mainLost := false } })) ∧
    (p.main = false → p.strike = none → p.state = .depleted → ∃ t, exec .vmainReturn s = .next t ∧
      t.rp.mode = .cold ∧ t.pwr.cause = 4#32 ∧ t.pwr.state = .awake ∧ t.pwr.main = true) ∧
    (p.main = false → ¬off → p.strike = none → p.state ≠ .depleted → p.state ≠ .bivouac →
      s.waking = false ∨ bit p.wakeEn 10 = false →
      s.becomes .vmainReturn (s.onPwr fun p => { p with main := true })) ∧
    s.becomes .rtcDomainReset
      (((s.onRtc fun _ => Rtc.reset).onRf fun r => { r with credit := 0 }).onPwr fun p => { p with rtcLost := true }) ∧
    (¬watched → s.becomes (.bankSupplyChange b2 up) (s.onPwr fun _ => seen)) ∧
    (watched → ∃ t, exec (.bankSupplyChange b2 up) s = .next t ∧ t.rp.mode = .cold ∧ bit t.pwr.cause 4 = true ∧
      t.itg.total = s.itg.total + 1#32 ∧
      t.mem.byte (logBase + 64 * (s.itg.total.toNat % 64) + 4) = 9#8 ∧
      t.mem.byte (logBase + 64 * (s.itg.total.toNat % 64) + 5) = if b2 then 2#8 else 1#8)

/-- R282, R284, R287, R315, R321-R323: the crystal is qualified or lost; a count of the loop moves DCO by one
code toward 10,800 and the eighth good count in succession sets LOCK; the buck's settling and a divider change
put the request in force; an alarm and a periodic event set their flags and fire their producers; the calendar
rolls over, and a slew ends with DONE. Readings of the model that it rests on: assumptions 44, 84. -/
def Obligations.ClockAndCalendarEvents : Prop :=
  ∀ (s : State) (count : Nat) (n : Fin 2) (e : Fin 3),
    let k := s.clk
    let r := s.per.rtc
    let ok := bit k.stat 0 = true
    let off := s.pwr.state = .unpowered
    let code := bits k.dco 0 12
    let good := if 10789 ≤ count ∧ count ≤ 10811 then min 8 (k.good + 1) else 0
    let alarm := s.onRtc fun r => { r with stat := setBit r.stat n true }
    let tick := s.onRtc fun r => { r with stat := setBit r.stat 2 true }
    (off ∨ ok → s.becomes .crystalQualified s) ∧
    (¬off → ¬ok → s.becomes .crystalQualified (s.onClk fun k =>
      { k with
        stat := setBit (setBit (setBit k.stat 0 true) 2 false) 4 (k.lost || bit k.stat 4)
        dco := setBit k.dco 31 false, lost := false, good := 0 })) ∧
    (off ∨ ¬ok → s.becomes .crystalLoss s) ∧
    (¬off → ok → s.becomes .crystalLoss (s.onClk fun k =>
      { k with
        stat := setBit (setBit (setBit (setBit k.stat 0 false) 1 false) 2 true) 3 true
        dco := setBit k.dco 31 true, lost := true, good := 0 })) ∧
    (s.pwr.state ≠ .awake ∨ ¬ok → s.becomes (.hearthFllCount count) s) ∧
    (s.pwr.state = .awake → ok → ∃ step : Nat, s.becomes (.hearthFllCount count) (s.onClk fun k =>
      { k with
        good := good, stat := setBit k.stat 1 (bit k.stat 1 || decide (good = 8))
        dco := setBits k.dco 0 12 step }) ∧
      (count = 10800 → step = code) ∧ (count ≠ 10800 → step = code - 1 ∨ step = min 4095 (code + 1))) ∧
    (s.running = false ∨ k.ramp = none → s.becomes .buckSettled s) ∧
    (s.running = true → ∀ p, k.ramp = some p → p < 4 → ∃ (w : Pwr) (x : Option Nat),
      s.becomes .buckSettled { s with pwr := w, clk := { k with ramp := x } } ∧ bits w.opp 4 2 = p ∧
      (s.pwr.vpt ≠ p ∨ k.divReq = k.divNow ∨ k.alone = true → bit w.stat 8 = true) ∧
      (s.pwr.vpt = p → x = none ∧ bit w.opp 8 = true ∧ bit w.stat 4 = false)) ∧
    (s.running = false ∨ k.divReq = k.divNow ∨ s.pwr.vnow < divPoint k.divReq → s.becomes .dividerChange s) ∧
    (s.running = true → k.divReq ≠ k.divNow → divPoint k.divReq ≤ s.pwr.vnow → ∃ (w : Pwr) (x : Option Nat),
      s.becomes .dividerChange
        { s with pwr := w, clk := { k with stat := setBits k.stat 8 2 k.divReq, ramp := x, alone := false } } ∧
      bit w.stat 5 = false ∧
      (k.alone = true ∨ (s.pwr.vpt = s.pwr.vnow ∧ k.ramp = none) → bit w.stat 8 = true)) ∧
    (bit (r.alarm n).ctl 0 = false → s.becomes (.rtcAlarmMatch n) s) ∧
    (bit (r.alarm n).ctl 0 = true → s.running = true → s.waking = false ∨ bit s.pwr.wakeEn n = false →
      s.becomes (.rtcAlarmMatch n) { alarm with inflight := s.inflight ++ [⟨168 + n.val, 1, []⟩] }) ∧
    (bit r.per (4 + e) = false → s.becomes (.rtcPeriodicEvent e) s) ∧
    (bit r.per (4 + e) = true → s.running = true → s.waking = false ∨ bit s.pwr.wakeEn 2 = false →
      s.becomes (.rtcPeriodicEvent e) { tick with inflight := s.inflight ++ [⟨170 + e.val, 1, []⟩] }) ∧
    s.becomes .rtcCalendarRoll (s.onRtc fun r =>
      if r.mode then { r with time := 0, stat := setBit r.stat 6 true } else r) ∧
    (r.amt = 0 → s.becomes .rtcSlewDone s) ∧
    (r.amt ≠ 0 → s.becomes .rtcSlewDone (s.onRtc fun r =>
      { r with
        time := ((r.time : Int) + sbits r.slew 0 22).toNat, slew := setBits r.slew 0 22 0, slewWait := 0
        stat := setBit r.stat 4 true }))

/-- R262, R265, R266, R268-R276: an update of Lantern integrates the charge and judges the three thresholds, and
the fall of Reserve while awake on the cell begins a Strike; a sample stores its values, suspends charging on a
thermistor error and recalibrates at an empty cell in light; inputs are measured and limited while they harvest;
a trip and its release, and the charger's steps, act as the tables state. Readings of the model that it rests
on: assumptions 55, 57. -/
def Obligations.HarvestEvents : Prop :=
  ∀ (s : State) (delta inner : Int) (ntc : Option Int) (vc vm : BitVec 16) (light b : Bool) (mv : Nat)
    (pr : Protection),
    let h := s.per.hrv
    let main := s.pwr.main
    let off := s.pwr.state = .unpowered
    let put := fun (i : Instr) (q : Hrv) => s.becomes i (s.onHrv fun _ => q)
    let flag := fun (q : Hrv) (i : Nat) => { q with stat := setBit q.stat i true }
    let chgTo := fun (q : Hrv) (k : Nat) => { q with stat := setBits q.stat 8 3 k }
    let done := fun q : Hrv => if q.cap = 0 then chgTo q 4
      else { chgTo q 4 with lchg := q.fcc, stat := setBit (chgTo q 4).stat 25 false }
    let hold := fun q : Hrv =>
      let k := bits q.stat 8 3
      if q.ovcOn = true ∨ q.tempOn = true ∨ bit q.stat 23 = true then
        if 1 ≤ k ∧ k ≤ 4 then { chgTo q 5 with held := k } else q
      else if k = 5 then (if q.held = 4 then done q else chgTo q q.held) else q
    let all := h.residue + delta
    let sum := ((h.lchg : Int) + all / 1000).toNat
    let lchg := if h.cap = 0 then sum else min sum h.fcc
    let met := fun k => main || decide (h.level k ≤ lchg) ||
      (bit h.stat (2 + k) && decide (h.level k ≤ lchg + bits h.gauge 0 8))
    let bad := bit h.prot 7 = true ∧ (ntc.any fun t => decide (-50 ≤ t ∧ t ≤ 150)) = false
    let reading := if bit h.prot 7 then ntc else some inner
    let low := light = true ∧ vc.toNat < 2800 + 10 * bits h.gauge 16 8 ∧ h.res < h.lchg
    let harvesting := bit h.ctl (if b then 2 else 1) = true ∧ (main = true ∨ 2900 ≤ h.vcell)
    let takesNone := h.charger = 0 ∨ 4 ≤ h.charger ∨ h.ovcOn = true
    let point := bits h.mppt (if b then 4 else 0) 4 * mv / 16
    let measuring := if b then h.measB = true else h.measA = true
    let strike := fun k : Strike => { k with
      kind := if k.kind = .commanded then .final else k.kind, causes := k.causes &&& ~~~0xC4#32, mainLost := true }
    let ends := fun (i : Instr) (q : Hrv) => s.becomes i ((s.onHrv fun _ => q).onPwr fun p =>
      { p with state := .unpowered, strike := none })
    let trips := fun (i : Instr) (q : Hrv) =>
      (∀ k, s.pwr.strike = some k → s.becomes i ((s.onHrv fun _ => q).onPwr fun p =>
        { p with strike := some (strike k) })) ∧
      (s.pwr.strike = none → s.pwr.state ≠ .awake → ends i q) ∧
      (s.pwr.strike = none → s.pwr.state = .awake → ∃ t, exec i s = .next t ∧ t.per.hrv = q ∧
        t.pwr.strike = some ⟨.final, 0#32, 0#32, false⟩ ∧ t.wdn.mig = none ∧ t.wdn.queue = [] ∧
        t.cores = s.cores)
    let tripped := h.ocOn = true ∧ ∃ k, s.pwr.strike = some k ∧ k.kind = .final
    let step := fun src dst => if h.charger = src then chgTo h dst else h
    (off → ∀ i ∈ ([.lanternUpdate delta, .lanternSample, .lanternSampleDone vc vm inner ntc light,
      .mpptMeasurementStart b, .harvestIntakeLimit b mv, .overchargeTrip,
      .overDischargeTrip, .overCurrentTrip, .chargeTemperatureTrip, .dischargeTemperatureTrip,
      .protectionRelease pr, .chargerTerminate] : List Instr), s.becomes i s) ∧
    (s.running = true → ∃ t, exec (.lanternUpdate delta) s = .next t ∧
      t.per.hrv.lchg = lchg ∧ t.per.hrv.residue = all % 1000 ∧
      t.per.hrv.lin = h.lin + (h.inRes + delta.toNat) / 1000000 ∧
      t.per.hrv.lout = h.lout + (h.outRes + (-delta).toNat) / 1000000 ∧
      (∀ k < 3, bit t.per.hrv.stat (2 + k) = met k ∧
        bit t.per.hrv.stat (16 + k) = (bit h.stat (16 + k) || (bit h.stat (2 + k) != met k))) ∧
      t.cores = s.cores ∧
      (bit h.stat 2 = true → met 0 = false → t.pwr.strike = some ⟨.drain, 0#32, 0#32, false⟩) ∧
      (bit h.stat 2 = false ∨ met 0 = true → s.waking = false → t.pwr = s.pwr)) ∧
    (¬off → put .lanternSample { h with sampling := true }) ∧
    (h.sampling = false → s.becomes (.lanternSampleDone vc vm inner ntc light) s) ∧
    (¬off → h.sampling = true → ∃ t : BitVec 8,
      (¬bad → ∀ x, reading = some x → -128 ≤ x → x ≤ 127 → t = BitVec.ofInt 8 x) ∧
      (let q := { h with sampling := false, vcell := vc.toNat, vmain := vm.toNat, temp := t }
       let q := if bad then hold (flag q 23) else q
       s.becomes (.lanternSampleDone vc vm inner ntc light)
        (((((s.useFree 1).onHrv fun _ =>
          if low then flag { q with fcc := h.fcc - (h.lchg - h.res), lchg := h.res } 26 else q)).onPwr fun p =>
            { p with
              fuseSupply := decide (2500 ≤ vm.toNat)
              cell := decide (2800 ≤ vc.toNat) || (!p.main && p.cell) }).judgeFuses))) ∧
    (¬harvesting → put (.mpptMeasurementStart b) h) ∧
    (¬harvesting ∨ mv ≤ (if b then h.regB else h.regA) → put (.harvestIntakeLimit b mv) h) ∧
    (¬off → harvesting →
      put (.mpptMeasurementStart b) (if b then { h with measB := true } else { h with measA := true }) ∧
      ((if b then h.regB else h.regA) < mv → put (.harvestIntakeLimit b mv) (if b then { flag h 28 with regB := mv } else { flag h 28 with regA := mv }))) ∧
    (off ∨ ¬measuring → s.becomes (.mpptMeasurementEnd b mv) (s.useFree 1)) ∧
    (¬off → measuring → ∃ r : Nat, s.becomes (.mpptMeasurementEnd b mv) ((s.useFree 1).onHrv fun _ =>
        if b then { h with measB := false, regB := r } else { h with measA := false, regA := r }) ∧
      (main = true ∨ ¬takesNone → r = point) ∧ point ≤ r ∧ r ≤ mv) ∧
    (¬off → put .overchargeTrip (hold { flag h 19 with ovcOn := true }) ∧
      put .chargeTemperatureTrip (hold { flag h 22 with tempOn := true }) ∧
      (main = true → put .overDischargeTrip { flag h 20 with swOpen := true } ∧ put .overCurrentTrip h ∧
        put .dischargeTemperatureTrip { flag h 22 with tdOn := true }) ∧
      (main = false → (¬tripped → ends .overDischargeTrip { flag h 20 with swOpen := true }) ∧
        (tripped → put .overDischargeTrip { flag h 20 with swOpen := true }) ∧
        trips .overCurrentTrip { flag h 21 with ocOn := true } ∧
        trips .dischargeTemperatureTrip { flag h 22 with tdOn := true }) ∧
      put (.protectionRelease .overcharge) (hold { h with ovcOn := false }) ∧
      put (.protectionRelease .chargeTemp) (hold { h with tempOn := false }) ∧
      put (.protectionRelease .overCurrent) (if main then { h with ocOn := false } else h) ∧
      put (.protectionRelease .dischargeTemp) (if main then { h with tdOn := false } else h) ∧
      put (.protectionRelease .overDischarge)
        (if main = true ∧ h.swOpen = true then
          if bit h.ctl 0 then hold (chgTo { h with swOpen := false } 1) else { h with swOpen := false }
         else h) ∧
      put (.chargerStateChange .precharged) (step 1 2) ∧ put (.chargerStateChange .reachedVcv) (step 2 3) ∧
      put (.chargerStateChange .recharge) (step 4 2) ∧
      put .chargerPrechargeTimeout (if h.charger = 1 then chgTo (flag h 27) 6 else h) ∧
      put .chargerTerminate (if h.charger = 3 then done h else h))

/-- R300, R303, R308, R383, R389, R399: the tick at which a running timer reaches a compare value sets the channel's
flag, fires its producer and moves CMP on by INT; the tick past 0xFFFF_FFFF sets OVF; a counter wraps with its
overflow bit and producer 186; a level reaches PIN_INp, and an edge that EDGE selects sets its flag and fires
the ball's producer. -/
def Obligations.TimerAndBallEvents : Prop :=
  ∀ (s : State) (n : Fin 12) (k : Fin 4) (i : Fin 24) (b : Fin 96) (rise : Bool),
    let t := s.per.tim[n]
    let c := t.ch[k]
    let runs := s.running = true ∧ timRuns s t = true
    let counts := s.running = true ∧ ¬(s.twin = true ∧ i.val < 16 ∧ i.val / 4 % 2 = 1) ∧
      bit s.per.cnt.c[i].cfg 6 = true ∧ (bit s.per.cnt.c[i].cfg 7 = false ∨ bit s.per.cnt.c[i].cfg 8 = true) ∧
      bits s.per.cnt.c[i].cfg 0 6 ≠ 0
    let moved := s.onPin fun p => { p with lvl := setBit p.lvl b rise }
    let l := ballLevel moved b
    let edge := bits (s.per.pin.cfg b) 10 2
    let fires := fun (p : Nat) (u : State) => ∃ f ∈ u.inflight, f.ev = p
    let quiet := s.running = false ∨ l = bit s.per.pin.inp b
    let wakes := b.val < 16 ∧ l ≠ ballLevel s b ∧ s.pwr.state ≠ .unpowered
    let deb := bits s.pwr.wakeEn 16 4
    let waits := fun d : Option Debounce => moved.onPwr fun p => { p with deb := vset p.deb b d }
    let on := bit s.pwr.wakePin (if l then b.val else 16 + b) = true
    (¬runs ∨ bits c.ctl 0 2 ≠ 1 → s.becomes (.timerCompareMatch n k) s) ∧
    (runs → bits c.ctl 0 2 = 1 → ∃ u, exec (.timerCompareMatch n k) s = .next u ∧
      u.per.tim[n].cnt = c.cmp ∧ u.per.tim[n].presc = 0 ∧ bit u.per.tim[n].stat k = true ∧
      u.per.tim[n].ch[k] = { c with cmp := if c.int = 0#32 then c.cmp else c.cmp + c.int } ∧
      fires (96 + 4 * n.val + k) u ∧ u.per.tim[n].ctl = t.ctl ∧ u.cores = s.cores ∧ u.mem = s.mem ∧
      (∀ m : Fin 12, m ≠ n → m.val ≠ n + 1 → u.per.tim[m] = s.per.tim[m])) ∧
    (¬runs → s.becomes (.timerOverflow n) s) ∧
    (runs → ∃ u, exec (.timerOverflow n) s = .next u ∧ u.per.tim[n].cnt = 0#32 ∧
      bit u.per.tim[n].stat 4 = true ∧ fires (144 + n.val) u ∧ u.cores = s.cores ∧ u.mem = s.mem) ∧
    (¬counts → s.becomes (.cntOverflow i) s) ∧
    (counts → ∃ u, exec (.cntOverflow i) s = .next u ∧ bit u.per.cnt.ovf i = true ∧ fires 186 u) ∧
    (quiet → ¬wakes → s.becomes (.pinEdge b rise) moved) ∧
    (quiet → wakes → deb ≠ 0 → s.becomes (.pinEdge b rise) (waits (some ⟨l, deb⟩))) ∧
    (quiet → wakes → deb = 0 → ¬on → s.becomes (.pinEdge b rise) (waits none)) ∧
    (wakes → deb = 0 → on → s.pwr.strike = none → s.pwr.state = .bivouac → ∃ u, exec (.pinEdge b rise) s = .next u ∧
      u.rp.mode = .cold ∧ u.pwr.cause = 8#32 ∧ bit u.pwr.wakeSrc 5 = true ∧ bits u.pwr.wakeSrc 16 4 = b) ∧
    (s.running = true → l ≠ bit s.per.pin.inp b → ∃ u, exec (.pinEdge b rise) s = .next u ∧
      bit u.per.pin.lvl b = rise ∧ bit u.per.pin.inp b = l ∧
      (bit s.per.pin.ef b = true ∨ edge = 3 ∨ (edge = 1 ∧ l = true) ∨ (edge = 2 ∧ l = false) →
        bit u.per.pin.ef b = true) ∧
      (edge = 3 ∨ (edge = 1 ∧ l = true) ∨ (edge = 2 ∧ l = false) → fires b u) ∧
      (edge = 0 → bit u.per.pin.ef b = bit s.per.pin.ef b) ∧
      (∀ a : Fin 96, a ≠ b → bit u.per.pin.inp a = bit s.per.pin.inp a))

/-- R332-R346: a start bit takes the divider and makes the receiver busy; a character, judged from the samples of its
bits, or a break enters the queue with its tags, and where the queue is full it is lost with OVR; in legacy mode an
edge in the stop bit ends the character with FE and is the next start; an idle line sets IDLE once; the transmitter
goes on with the next entry, or ends with TXDONE, after the lag where DE is driven. Readings of the model that it
rests on: assumptions 64, 105, 115. -/
def Obligations.SerialEvents : Prop :=
  ∀ (s : State) (n : Fin 4) (data : BitVec 9) (par : Bool) (stops : Bool × Bool) (edge : StartEdge),
    let u := s.per.ua[n]
    let put := fun (i : Instr) (q : Ua) => s.becomes i (s.onUa n fun _ => q)
    let listens := s.running = true ∧ bit u.ctl 0 = true ∧ bit u.ctl 1 = true ∧
      s.per.pin.func (49 + 4 * n) = 5 ∧ s.per.pin.owner (49 + 4 * n) < 4 ∧
      ¬(bit u.ctl 13 = true ∧ u.deOn = true)
    let mode := bits u.ctl 6 3
    let two := bit u.ctl 9
    let kept := fun d : BitVec 9 =>
      if bits u.ctl 4 2 = 0 then d &&& 0x7F#9 else if bits u.ctl 4 2 = 1 then d &&& 0xFF#9 else d
    let odd := fun d : BitVec 9 => decide (((List.range 9).filter fun i => d.getLsbD i).length % 2 = 1)
    let sent := fun d : BitVec 9 => if mode = 1 then odd d else if mode = 2 then !odd d else decide (mode = 3)
    let wrong := fun (d : BitVec 9) (p : Bool) => decide (mode ≠ 0) && (p != sent (kept d))
    let fe := !stops.1 || (two && !stops.2)
    let brk := kept data = 0#9 ∧ (mode ≠ 0 → par = false) ∧ stops.1 = false ∧ (two = true → stops.2 = false)
    let took := { u with rxBusy := false, idleArm := true, rx := { u.rx with pos := 0, got := [], quiet := 0 } }
    let tag := fun pe fe brk : Bool => if u.lost then (if fe || brk then 7 else if pe then 5 else 4)
      else if brk then 6 else (if fe then 2 else 0) + (if pe then 1 else 0)
    let stored := fun (d : BitVec 9) (pe fe brk : Bool) =>
      if 16 * 2 ^ bits u.qcfg 0 2 ≤ u.rxq.length then
        { took with stat := setBit u.stat 5 true, errcnt := satHalf u.errcnt 0, lost := true }
      else
        { took with
          rxq := u.rxq ++ [BitVec.ofNat 12 (tag pe fe brk * 512 + d.toNat)], lost := false
          stat := if pe || fe || brk then setBit u.stat 4 true else u.stat
          errcnt := if pe || fe || brk then satHalf u.errcnt 16 else u.errcnt }
    let broke := { stored 0#9 false false true with brkHold := true }
    let begun := fun q : Ua =>
      { q with divRx := u.div.setWidth 16, brkHold := false, rxBusy := !edge.high8, rx := { q.rx with quiet := 0 } }
    let ends := bit u.ctl 3 = true ∧ u.rxBusy = true
    let idle := s.running = true ∧ bit u.ctl 0 = true ∧ bit u.ctl 1 = true ∧ u.idleArm = true ∧ u.rxBusy = false
    let next := { u with shift := none, line := [], divTx := u.div.setWidth 16 }
    let stuck := u.txq = [] ∨ bit u.ctl 0 = false ∨ bit u.ctl 2 = false ∨ (bit u.ctl 10 = true ∧ u.released = false)
    let lag := if bit u.ctl 11 then bits u.de 8 8 * next.divTx.toNat else 0
    let done := fun q : Ua => (fun q : Ua => if u.txq = [] then { q with stat := setBit u.stat 3 true } else q)
      { q with lagging := false, lagLeft := 0, deOn := false }
    (¬listens → s.becomes (.uaCharacterReceived n data par stops) s ∧ s.becomes (.uaBreakReceived n) s ∧
      s.becomes (.uaStartBitDetect n edge) s) ∧
    (listens → put (.uaBreakReceived n) broke ∧
      (brk → put (.uaCharacterReceived n data par stops) broke) ∧
      (¬brk → put (.uaCharacterReceived n data par stops) (stored (kept data) (wrong data par) fe false))) ∧
    (listens → u.rxBusy = true → edge.cut = none ∨ ¬ends → s.becomes (.uaStartBitDetect n edge) s) ∧
    (listens → u.rxBusy = false → put (.uaStartBitDetect n edge) (begun u)) ∧
    (∀ d p, listens → ends → edge.cut = some (d, p) →
      put (.uaStartBitDetect n edge) (begun (stored (kept d) (wrong d p) true false))) ∧
    (¬idle → s.becomes (.uaIdleDetect n) s) ∧
    (idle → put (.uaIdleDetect n)
      { u with stat := setBit u.stat 2 true, idleArm := false, brkHold := false, rx := { u.rx with quiet := 0 } }) ∧
    (s.running = false ∨ u.shift = none → s.becomes (.uaCharacterSent n) s) ∧
    (s.running = true → u.shift ≠ none → ¬stuck → put (.uaCharacterSent n)
      { next with
        shift := u.txq.head?, txq := u.txq.tail, lagging := false, deOn := bit u.ctl 11
        line := (if bit u.ctl 11 = true ∧ u.deOn = false ∧ bits u.de 0 8 ≠ 0
          then [(true, bits u.de 0 8 * next.divTx.toNat)] else []) ++ (u.txq.head?.map next.frame).getD []
        released := u.released && !u.txq.tail.isEmpty }) ∧
    (s.running = true → u.shift ≠ none → stuck → put (.uaCharacterSent n)
      (if lag = 0 then done next else { next with lagging := true, lagLeft := lag })) ∧
    (s.running = false ∨ u.lagging = false → s.becomes (.uaDeLagEnd n) s) ∧
    (s.running = true → u.lagging = true → put (.uaDeLagEnd n) (done u))

/-- R349-R359: a scan that comes due starts at once or waits for what holds it; an edge of DQI starts it or lets
its next burst run, and without one scans run free; a measurement takes its count, and decides touch; the end
commits what was measured and sets the time of the next scheduled scan; the time without touch selects the rate. Readings of the model that it rests on:
assumption 63. -/
def Obligations.TouchEvents : Prop :=
  ∀ (s : State) (m : Fin 25) (count : Nat) (idle2 : Bool),
    let t := s.per.tch
    let asleep := decide (s.pwr.state = .bivouac)
    let on := s.running = true ∨ (asleep = true ∧ t.biv = true) ∨
      ((∃ k, s.pwr.strike = some k ∧ k.kind = .entry) ∧ bit s.pwr.wakeEn 4 = true)
    let put := fun (i : Instr) (q : Tch) => s.becomes i (s.onTch fun _ => q)
    let go := fun q : Tch => q.startScan s.per.pin asleep
    let waits := bit t.sync 0 = true ∧ t.free = false ∧ asleep = false
    let due := { t with due := true }
    let fires := fun (p : Nat) (u : State) => ∃ f ∈ u.inflight, f.ev = p
    let edge := { t with stat := setBit t.stat 9 true }
    let lost := { t with stat := setBit (setBit t.stat 2 true) 9 false, free := true }
    (¬on → s.becomes .touchScanDue s ∧ s.becomes .touchScanStart s ∧ s.becomes .dqiTimeout s ∧
      s.becomes (.touchMeasurementDone m count) s ∧ s.becomes (.touchRateChange idle2) s ∧
      s.becomes .touchScanCommit s) ∧
    (bits t.ctl 0 2 ≠ 1 → s.becomes .touchScanDue s) ∧
    (on → bits t.ctl 0 2 = 1 → t.scan ≠ none ∨ t.susp = true ∨ waits → put .touchScanDue due) ∧
    (on → bits t.ctl 0 2 = 1 → t.scan = none → t.susp = false → ¬waits → put .touchScanDue (go due)) ∧
    (on → ¬waits → put .touchScanStart (if t.due = true ∧ t.scan = none ∧ t.susp = false then go t else t)) ∧
    (on → waits → t.scan = none → put .touchScanStart
      (if t.due = true ∧ t.susp = false then go edge else edge)) ∧
    (on → waits → ∀ c, t.scan = some c → put .touchScanStart
      (if c.waiting then { edge with scan := some { c with waiting := false, burst := bits c.cfg.sync 16 6 } }
       else edge)) ∧
    (¬waits → s.becomes .dqiTimeout s) ∧
    (on → waits → t.scan = none → put .dqiTimeout (if t.due = true ∧ t.susp = false then go lost else t)) ∧
    (on → waits → ∀ c, t.scan = some c → put .dqiTimeout
      (if c.waiting then { lost with scan := some { c with waiting := false, burst := 0 } } else t)) ∧
    (t.scan = none → s.becomes (.touchMeasurementDone m count) s ∧ s.becomes .touchScanCommit s) ∧
    (∀ c, t.scan = some c → c.waiting = true ∨ c.left.head? ≠ some m.val → s.becomes (.touchMeasurementDone m count) s) ∧
    (on → ∀ (c : Scan) (k : Fin 25) (left : List Nat), t.scan = some c → c.waiting = false → c.left = k.val :: left →
      let thr := if k.val = 24 then c.cfg.pthr else c.cfg.thr
      let e := c.work[k]
      let gained := count * 2 ^ gainCode c.cfg.ctl c.cfg.meas k
      let raw := min gained 0xFFFF
      let d : Int := (raw : Int) - (e.base / 256 : Nat)
      let touch : Int := bits thr 0 12
      let release : Int := touch - bits thr 12 8
      let need := if asleep then 1 else bits c.cfg.ctl 5 2 + 1
      let held := bits c.cfg.idle 16 8 ≠ 0 ∧ bits c.cfg.idle 16 8 * 32768 ≤ t.now - e.since
      ∃ (u : State) (q : Scan), exec (.touchMeasurementDone k count) s = .next u ∧ u.per.tch.scan = some q ∧
        q.left = left ∧ q.work[k].raw = raw ∧ (∀ j : Fin 25, j ≠ k → q.work[j] = c.work[j]) ∧
        u.per.tch.el = t.el ∧ (0xFFFF < gained → bit u.per.tch.stat 5 = true) ∧
        (e.rebase = true → q.work[k].base = raw * 256 ∧ q.work[k].touched = false ∧ q.work[k].rebase = false) ∧
        (e.rebase = false → e.touched = true → d < release → q.work[k].touched = false) ∧
        (e.rebase = false → e.touched = true → release ≤ d → ¬held → q.work[k].touched = true) ∧
        (e.rebase = false → e.touched = true → release ≤ d → held →
          q.work[k].touched = false ∧ q.work[k].base = raw * 256 ∧ bit u.per.tch.stat 3 = true) ∧
        (e.rebase = false → e.touched = false → touch ≤ d → q.work[k].touched = decide (need ≤ e.conf + 1) ∧
          (need ≤ e.conf + 1 → q.work[k].since = t.now)) ∧
        (e.rebase = false → e.touched = false → d < touch → q.work[k].touched = false ∧ q.work[k].conf = 0)) ∧
    (∀ c, t.scan = some c → c.left ≠ [] → s.becomes .touchScanCommit s) ∧
    (s.running = true → t.due = false → bits t.ctl 0 2 ≠ 1 ∨ (∀ q, t.age < { t with quiet := q }.period false) →
      ∀ c, t.scan = some c → c.left = [] →
      ∃ (u : State), exec .touchScanCommit s = .next u ∧ u.per.tch.scan = none ∧
        bit u.per.tch.stat 1 = true ∧ fires 177 u ∧
        (bits t.ctl 0 2 = 1 → u.per.tch.wait = some (u.per.tch.period false)) ∧
        (∀ k : Fin 25, u.per.tch.el[k] =
          { c.work[k] with rebase := c.work[k].rebase || bit c.asked k } ∧
          (t.el[k].touched ≠ c.work[k].touched →
            bit u.per.tch.chg k = true ∧ bit u.per.tch.stat 0 = true ∧ fires 176 u ∧ u.per.tch.quiet = 0) ∧
          (t.el[k].touched = c.work[k].touched → bit u.per.tch.chg k = bit t.chg k))) ∧
    (on → put (.touchRateChange idle2) { t with quiet := max t.quiet (bits t.idle (if idle2 then 8 else 0) 8 * 32768) })

/-! ## Events of the radio, the network and the Peg port -/

/-- R210-R217, R221-R223, R239, R240, R254: the end of a frame drops PA_EN and TR_SW, fires producer 179 and counts,
and the receiver opens for the ACK of a frame that has one, at the frame's symbol rate; an abort on the cell, once
VCELL is below VABORT, counts in RF_ABORTS and returns the frame, as a PLL that does not lock does, neither being an
attempt; a frame that the header or the CRC-32 has discarded counts, a sync word within TOL on a carrier in reach
locks the receiver; the duty credit grows to its limit. A frame as it is sent, heard without a wrong bit, gives back
its bytes and the highest LQI of a coded frame. Readings of the model that it rests on: assumptions 13, 66. -/
def Obligations.RadioEvents : Prop :=
  (∀ (s : State) (p : PhyFrame) (m : SyncMatch) (vcell : Nat),
    let r := s.per.rf
    let n := s.per.net
    let runs := s.running = true
    let tables := n.en = true ∧ s.tableObj.isSome = true
    let fires := fun (e : Nat) (t : State) => ∃ f ∈ t.inflight, f.ev = e
    let back := fun (m : Net) (f : TxFrame) (cut : Bool) =>
      { m with
        await := none, stopped := true
        txq := if f.typ = typBeacon then m.txq
          else { f with attempts := f.attempts - 1, wait := 0, aborted := cut } :: m.txq }
    let over_ := { r with txOn := false, begun := false, trSw := false, paEn := false }
    let cut := runs ∧ r.txOn = true ∧ r.begun = true ∧ s.pwr.main = false ∧ vcell < bits r.adm 0 12
    let rate := bits r.rate 0 3
    let header := crc8 [p.h0, p.h1] ≠ p.h2 ∨ p.h0 = 0#8 ∨ 16 ≤ p.h1.toNat ∨ 4 < p.h1.toNat % 8 ∨
      symbolRate (p.h1.toNat % 8) ≠ r.baud
    let hears := runs ∧ r.rxOn = true ∧ r.locked = true
    let reach := m.fofs.toInt.natAbs ≤ 250 * 2 ^ bits r.freq 20 2 ∧
      ((List.range 32).filter fun i => bit m.word i != bit r.sync i).length ≤ bits r.rate 12 2
    let lim := bits r.duty 0 10
    (¬(runs ∧ r.txOn = true ∧ r.begun = false) → s.becomes .rfPllLockFail s) ∧
    (¬(runs ∧ r.txOn = true ∧ r.begun = true) → s.becomes .rfTxEnd s) ∧
    (¬cut → s.becomes (.rfFrameAbort vcell) s) ∧
    (runs → tables → r.txOn = true → r.begun = false → ∀ f, n.await = some f →
      s.becomes .rfPllLockFail ((s.onRf fun r => { r with stat := setBit r.stat 9 true, txOn := false }).onNet
        fun m => back m f false)) ∧
    (cut → tables → ∀ f, n.await = some f →
      ∃ t, exec (.rfFrameAbort vcell) s = .next t ∧ t.per.net = back n f true ∧ fires 180 t ∧
        t.per.rf = { over_ with
          stat := setBit r.stat 2 true, aborts := setBits r.aborts 0 16 (satAdd 0xFFFF (bits r.aborts 0 16) 1) } ∧
        t.per.tch.susp = false ∧ t.cores = s.cores ∧ t.mem = s.mem) ∧
    (runs → tables → r.txOn = true → r.begun = true → r.rxOn = false → n.ackOn = false → ∀ f, n.await = some f →
      f.bcast = false → f.typ ≠ typJoinReq → f.typ ≠ typJoinRsp → ∃ t, exec .rfTxEnd s = .next t ∧ fires 179 t ∧
        t.per.net = { n with cnt0 := bump n.cnt0 false } ∧
        t.per.rf = (if txConfigOk r rate then
            { over_ with rxOn := true, locked := false, closing := false, baud := symbolRate rate }
          else { over_ with stat := setBit r.stat 6 true }) ∧
        t.per.tch.susp = false ∧ t.cores = s.cores ∧ t.mem = s.mem) ∧
    (¬(hears ∧ (header ∨ p.badCrc = true)) → s.becomes (.rfFrameReject p) s) ∧
    (hears → n.en = true → header ∨ p.badCrc = true → s.becomes (.rfFrameReject p) (s.onRf fun r =>
      let lo := if header then 0 else 16
      { r with
        locked := false, rxOn := r.rxOn && !r.closing, closing := false
        rxerr := setBits r.rxerr lo 16 (satAdd 0xFFFF (bits r.rxerr lo 16) 1) })) ∧
    (¬(runs ∧ r.rxOn = true ∧ reach) → s.becomes (.rfSyncDetect m) s) ∧
    (runs → r.rxOn = true → reach → s.becomes (.rfSyncDetect m) (s.onRf fun r => { r with locked := true })) ∧
    (s.pwr.state = .unpowered → s.becomes .dutyCreditAccrue s) ∧
    (s.pwr.state ≠ .unpowered → s.becomes .dutyCreditAccrue (s.onRf fun r =>
      { r with credit := max r.credit (min (r.credit + lim) (lim * 3600)) }))) ∧
  (∀ (p : PhyFrame) (body : List Byte) (rate : Fin 5) (code : Bool), 0 < body.length → body.length < 256 →
    [p.h0, p.h1, p.h2] = phyHeader body.length rate code → p.field = phyField code body →
      p.badHeader (symbolRate rate) = false ∧ p.badCrc = false ∧ p.body = body ∧
        p.lqi = if code then 255 else 0)

/-- R230-R235, R240, R246-R249, R252, R254, R256-R258: a mapped slot that begins keeps the device awake, moves
the slot timer on, and sets MISS where the engine is off; the engine listens in the slots of its neighbours and
sends in its own, where the radio accepts the frame; a window or a slot that ends closes the receiver; a frame
without its ACK is tried again in a later slot and fails at last; timers end what waited, the loss of the parent
makes an orphan; a message that waits goes to the next free entry. Readings of the model that it rests on:
assumptions 70, 71, 72, 79, 80. -/
def Obligations.NetworkEvents : Prop :=
  ∀ (s : State) (k : Fin 1152) (on : SlotStart) (tid : BitVec 16) (node : Fin 1024),
    let n := s.per.net
    let runs := s.running = true
    let tables := n.en = true ∧ s.tableObj.isSome = true
    let off := s.pwr.state = .unpowered
    let put := fun (i : Instr) (m : Net) => s.becomes i (s.onNet fun _ => m)
    let mapped := bit n.map k = true
    let exch := s.exchanging = true
    let listen := fun r : Rf =>
      if r.rxOn = true ∧ r.baud = symbolRate r.rxRate then { r with closing := false }
      else if txConfigOk r r.rxRate then
        { r with rxOn := true, locked := false, closing := false, baud := symbolRate r.rxRate }
      else { r with stat := setBit r.stat 6 true }
    let closed := fun u : State =>
      if n.en = true ∧ n.seeking = true then u.onRf listen
      else u.onRf fun r => if r.rxOn = true ∧ r.locked = true then { r with closing := true }
        else { r with rxOn := false }
    let fires := fun (e : Nat) (t : State) => ∃ f ∈ t.inflight, f.ev = e
    let takes := n.fresh = false ∨ on.inTime = true
    let sfn := if k ≤ n.cur then (n.sfn + 1) % 2 ^ 48 else n.sfn
    let on' := bit n.dropAlarms.map k
    let begins := { n.dropAlarms with
      sfn := sfn, cur := k, aged := if k ≤ n.cur then n.aged + 1 else n.aged
      inSlot := false, holdOff := on', fresh := false }
    let late := fun r : Reasm => r.orig = node.val ∧ r.tid = tid.toNat
    (n.timing = false ∨ ¬mapped ∨ off → s.becomes (.netSlotWake k) s) ∧
    (runs → s.waking = false → n.timing = true → mapped → put (.netSlotWake k) { n with holdOff := true }) ∧
    (s.pwr.state = .bivouac → s.pwr.strike = none → n.timing = true → mapped → ∃ t,
      exec (.netSlotWake k) s = .next t ∧ t.rp.mode = .cold ∧ t.pwr.cause = 8#32 ∧ bit t.pwr.wakeSrc 3 = true ∧
      t.per.net.cur = n.cur ∧ t.per.net.sfn = n.sfn ∧ t.per.net.timing = true) ∧
    ((n.timing = false ∧ n.load = false) ∨ off ∨ exch → s.becomes (.netSlotStart k on) s) ∧
    (n.timing = false ∨ exch → s.becomes .netSlotEnd s) ∧
    (n.timing = true → runs → ¬exch → n.en = false → n.load = false → put (.netSlotStart k on)
      (if on' then { begins with stat := setBit n.stat 15 true } else begins)) ∧
    (n.timing = true → runs → ¬exch → n.en = false → n.load = false → n.unalarm = true → k.val % 9 = 8 →
      on' = false) ∧
    (runs → ¬exch → n.en = true → s.mem.ecc = [] → n.load = true → ∃ t, exec (.netSlotStart k on) s = .next t ∧
      t.per.net.cur = s.per.rtc.time * 1000 / 32768 / slotMs n.slen % 1152 ∧ t.per.net.timing = true ∧
      t.per.net.load = false) ∧
    (n.timing = true → n.load = false → runs → ¬exch → tables → s.mem.ecc = [] → takes → n.cur < k.val →
      alarmSlot k = false → s.linkSlot k = true → (n.slotted = true → k.val ≠ n.own) →
      ∃ t, exec (.netSlotStart k on) s = .next t ∧ t.per.net.cur = k ∧ t.per.net.inSlot = true ∧
        t.per.net.heard = false ∧
        t.per.rf = listen s.per.rf ∧ t.cores = s.cores ∧ t.mem = s.mem) ∧
    (n.timing = true → n.load = false → runs → ¬exch → tables → s.mem.ecc = [] → takes → n.cur < k.val → alarmSlot k = false → n.slotted = true →
      k.val = n.own → ∀ (f : TxFrame) (rest : List TxFrame), n.txq = f :: rest → f.alarm = false →
      f.wait = 0 → f.lseq ≠ none → s.fitsAt (6 * symbolRate s.per.rf.txRate) f = true →
      let o := s.per.rf.offer s.per.hrv s.pwr.main s.per.rf.txRate f.len s.per.rf.code
        (bit s.per.rf.lbt 0 && s.per.rf.loud on.means)
      (o.2 = .sent → ∃ t, exec (.netSlotStart k on) s = .next t ∧ t.per.rf.txOn = true ∧
        t.per.net.txq = rest ∧
        t.per.net.await = some { f with attempts := f.attempts + 1, refused := false, aborted := false } ∧
        t.per.rf.wave = phySymbols s.per.rf.sync s.per.rf.txRate s.per.rf.code t.per.rf.air ∧
        t.per.net.fcnt = (n.fcnt + 1) % 2 ^ 48 ∧ t.cores = s.cores ∧ t.mem = s.mem) ∧
      (o.2 ≠ .sent → ∃ t, exec (.netSlotStart k on) s = .next t ∧ t.per.rf.txOn = s.per.rf.txOn ∧
        t.per.net.txq = { f with refused := decide (o.2 = .energy) } :: rest ∧ t.per.net.stopped = true ∧
        bit t.per.net.stat 9 = true ∧ t.cores = s.cores ∧ t.mem = s.mem)) ∧
    (n.inSlot = false → n.holdOff = false → s.becomes .netSlotEnd s) ∧
    (n.timing = true → ¬exch → n.inSlot = true ∨ n.holdOff = true → (n.en = true → n.cand ≠ none ∧ s.mem.ecc = []) →
      s.becomes .netSlotEnd (closed (s.onNet fun m =>
        { m with
          holdOff := false, inSlot := false, stopped := false
          txq := m.txq.map fun f => if f.alarm then f else { f with wait := 0 }
          pmiss := if m.en = true ∧ m.slotted = true ∧ s.parentSlot m.cur = true ∧ m.heard = false
            then m.pmiss + 1 else m.pmiss }))) ∧
    (¬runs ∨ s.per.rf.rxOn = false ∨ s.per.rf.locked = true ∨ exch ∨ n.more = true → s.becomes .listenWindowClose s) ∧
    (runs → s.per.rf.rxOn = true → s.per.rf.locked = false → ¬exch → n.more = false → s.becomes .listenWindowClose (closed s)) ∧
    (¬runs ∨ n.await = none ∨ s.per.rf.txOn = true ∨ (s.per.rf.rxOn = true ∧ s.per.rf.locked = true) →
      s.becomes .ackTimeout s) ∧
    (runs → tables → s.per.rf.txOn = false → s.per.rf.rxOn = false ∨ s.per.rf.locked = false → n.stopped = true → n.ackOn = false → ∀ f, n.await = some f →
      f.bcast = false → f.typ ≠ typJoinReq → f.typ ≠ typJoinRsp → f.alarm = false →
      (f.attempts < bits n.retry 0 4 → s.becomes .ackTimeout (closed ((s.useFree (1 + max 1 (bits s.per.rf.lbt 16 16 / 100))).onNet fun m =>
        { m with await := none, txq := { f with wait := 1 } :: m.txq }))) ∧
      (bits n.retry 0 4 ≤ f.attempts → f.own = true → ∃ t, exec .ackTimeout s = .next t ∧
        t.per.net.await = none ∧ bit t.per.net.stat 6 = true ∧ t.cores = s.cores ∧ t.mem = s.mem)) ∧
    (¬runs ∨ n.state ≠ netJoining → s.becomes .joinTimeout s) ∧
    (runs → n.state = netJoining → ∃ t, exec .joinTimeout s = .next t ∧ t.mem = s.mem ∧ t.cores = s.cores ∧
      (tables → t.per.net = { n with stat := setBits n.stat 0 3 netSeek, cand := none })) ∧
    (¬runs ∨ n.oldKey = false → s.becomes .oldKeyExpiry s) ∧
    (runs → n.oldKey = true → s.becomes .oldKeyExpiry ((s.onRp fun r =>
      { r with keys := r.keys.filter fun x => decide (x.slot ≠ 1) }).storeWrites.onNet fun m =>
        { m with oldKey := false })) ∧
    (¬runs ∨ n.survey = false → s.becomes .surveyEnd s) ∧
    (runs → n.survey = true → ∃ t, exec .surveyEnd s = .next t ∧ t.mem = s.mem ∧ t.cores = s.cores ∧
      (tables → t.per.net = { n with survey := false })) ∧
    (¬runs ∨ (∀ x ∈ n.trans, x.tid ≠ tid.toNat) → s.becomes (.transactionTimeout tid) s) ∧
    (runs → (∃ x ∈ n.trans, x.tid = tid.toNat) → put (.transactionTimeout tid)
      { n with stat := setBit n.stat 8 true, trans := n.trans.filter fun x => decide (x.tid ≠ tid.toNat) }) ∧
    (¬runs ∨ (∀ r ∈ n.reasm, ¬late r) → s.becomes (.reassemblyTimeout node tid) s) ∧
    (runs → (∃ r ∈ n.reasm, late r) → put (.reassemblyTimeout node tid)
      { n with stat := setBit n.stat 17 true, reasm := n.reasm.filter fun r => !decide (late r) }) ∧
    (¬runs ∨ n.en = false ∨ (∀ e, s.nbrOf node = some e → e.age < 32 ∨ e.isChild = false) →
      s.becomes (.childTimeout node) s) ∧
    (runs → n.en = true → ∀ e, s.nbrOf node = some e → 32 ≤ e.age → e.isChild = true →
      s.becomes (.childTimeout node) ((s.putNbr { e with isChild := false }).dropRoutes node).remap) ∧
    (¬runs ∨ n.en = false ∨ n.state ≠ netJoined → s.becomes .keepTimer s ∧ s.becomes .parentLoss s) ∧
    (runs → n.en = true → n.state = netJoined →
      s.becomes .keepTimer (s.queueControl (bits n.par 0 10) [0#8]) ∧
      (n.pmiss < 3 → s.becomes .parentLoss s) ∧
      (3 ≤ n.pmiss → s.bestNbr = none → put .parentLoss
        { n with stat := setBit (setBits n.stat 0 3 netOrphan) 13 true }) ∧
      (tables → 3 ≤ n.pmiss → ∀ e, s.bestNbr = some e → ∃ t, exec .parentLoss s = .next t ∧
        t.per.net.state = netOrphan ∧ bit t.per.net.stat 13 = true ∧ t.per.net.cand = some e.node ∧
        t.cores = s.cores)) ∧
    (¬runs ∨ n.en = false ∨ s.waymark = true ∨ n.ready = [] → s.becomes .messageDelivery s) ∧
    (runs → tables → s.waymark = false → s.mem.ecc = [] → s.wdn.mig = none →
      ∀ (r : Reasm) (rest : List Reasm), n.ready = r :: rest → ∀ e, s.rxObj = some e → e.bank < 48 →
      let m := 2 ^ min 4 (bits n.rxcfg 0 3)
      256 * e.offs + 1056 * m ≤ bankBytes e.bank →
      let i := n.rxNext % m
      let at_ := e.physical + 32 * i
      s.mem.num at_ 4 = 0 → r.data.length ≤ 1024 → ∃ t, exec .messageDelivery s = .next t ∧
        t.per.net.ready = rest ∧ t.per.net.rxNext = (i + 1) % m ∧ bit t.per.net.stat 4 = true ∧
        fires 182 t ∧ t.mem.bytes at_ 32 = r.descriptor ∧
        t.mem.bytes (e.physical + 32 * m + 1024 * i) r.data.length = r.data ∧ t.cores = s.cores)

/-- R212, R216, R217, R237-R247, R257: a frame that is heard leaves its RF_RXINFO, and the receiver closes unless MORE
follows; one that the header or the CRC-32 has discarded does nothing here; a replay, or one whose MIC fails, is
discarded and counted, and one that passes counts in NET_CNT0, whomever it is for. A JOIN_REQ gives the Basecamp its
joiner, a JOIN_RSP the joiner its slot and key, and an ACK ends the exchange of its frame. Readings of the model that
it rests on: assumptions 68, 72, 75, 77, 114. -/
def Obligations.ReceptionEvents : Prop :=
  ∀ (s : State) (p : PhyFrame),
    let n := s.per.net
    let r := s.per.rf
    let f := rxFrame p
    let gets := s.running = true ∧ r.rxOn = true ∧ r.locked = true ∧ p.badHeader r.baud = false ∧ p.badCrc = false ∧
      (n.en = true ∨ n.state ≠ netOff)
    let hears := gets ∧ n.en = true
    let free := s.exchanging = false
    let table := ∃ e, s.tableObj = some e ∧ e.bank < 16 ∧ 256 * e.offs + 0x2000 ≤ bankBytes e.bank
    let clean := s.mem.ecc = [] ∧ s.wdn.mig = none
    let info := BitVec.ofNat 32 (p.rssi.toNat + 256 * p.lqi + 65536 * p.fofs.toNat)
    let mine := f.bcast = true ∨ f.dst = bits n.id 0 10
    let linked : List (Instr × Nat) := [(.beaconReceived p, 0), (.dataReceived p, 1), (.attachReceived p, 5),
      (.detachReceived p, 6)]
    let others : List (Instr × Nat) := [(.joinReqReceived p, 3), (.joinRspReceived p, 4)]
    let ends := fun t : State => t.per.rf.rxinfo = info ∧ t.cores = s.cores ∧
      (f.more = true → t.per.rf.rxOn = !r.closing) ∧ (f.more = false → n.seeking = false → t.per.rf.rxOn = false)
    let failed := fun m : Net => m.cnt2 = bump n.cnt2 false ∧ bit m.stat 19 = true
    let same := fun m : Net => m.cnt0 = n.cnt0 ∧ m.cnt2 = n.cnt2
    let joiner := f.src
    (∀ x ∈ linked ++ others, ¬(gets ∧ (f.typ = x.2 ∨ f.typ = 7)) → s.becomes x.1 s) ∧
    (hears → table → clean → ∀ x ∈ linked ++ others, f.typ = 7 ∨ (f.typ = x.2 ∧ ¬free) → ∃ t, exec x.1 s = .next t ∧
      t.per.rf.rxinfo = info ∧ t.cores = s.cores ∧ same t.per.net) ∧
    (hears → free → table → clean → ¬mine → ∀ x ∈ others, f.typ = x.2 → ∃ t, exec x.1 s = .next t ∧ ends t ∧
      same t.per.net) ∧
    (hears → free → table → clean → n.state ≠ netSeek → ∀ x ∈ linked, f.typ = x.2 → ∃ t, exec x.1 s = .next t ∧
      t.per.rf.rxinfo = info ∧ t.cores = s.cores ∧
      (s.openFrame f = none → ends t ∧ failed t.per.net ∧ t.per.net.cnt0 = n.cnt0) ∧
      (∀ plain, s.openFrame f = some plain →
        (s.replayed f = true → ends t ∧ t.per.net.cnt2 = bump n.cnt2 true ∧ t.per.net.cnt0 = n.cnt0) ∧
        (s.replayed f = false → s.nbrFor f = none → ends t ∧ same t.per.net) ∧
        (s.replayed f = false → ∀ b, s.nbrFor f = some b → t.per.net.cnt0 = bump n.cnt0 true ∧
          (¬mine → t.per.net.cnt2 = n.cnt2)))) ∧
    (hears → free → table → clean → f.typ = 0 → n.state = netSeek → ∃ t, exec (.beaconReceived p) s = .next t ∧
      t.per.rf.rxinfo = info ∧ t.cores = s.cores ∧ t.per.net.state = netSeek ∧
      (s.replayed f = true → t.per.net.cnt2 = bump n.cnt2 true ∧ t.per.net.cnt0 = n.cnt0) ∧
      (s.replayed f = false → s.nbrFor f = none → same t.per.net) ∧
      (s.replayed f = false → ∀ b, s.nbrFor f = some b → t.per.net.cnt0 = bump n.cnt0 true)) ∧
    (hears → free → table → clean → f.typ = 3 → mine → n.base = true → n.state = netBase → s.replayed f = false →
      ∀ b, s.nbrFor f = some b → ∀ k, s.rp.key (2 + joiner) = some k → ∃ t, exec (.joinReqReceived p) s = .next t ∧
        t.per.rf.rxinfo = info ∧ t.cores = s.cores ∧ t.per.net.cnt0 = bump n.cnt0 true ∧
        (n.joinReqMic k joiner f.fcnt = f.payload.take 8 → t.per.net.joins.lookup joiner = some f.fcnt) ∧
        (n.joinReqMic k joiner f.fcnt ≠ f.payload.take 8 → failed t.per.net ∧ t.per.net.joins = n.joins)) ∧
    (hears → free → table → clean → f.typ = 4 → mine → n.state = netJoining → n.cand = some joiner →
      ∀ k, s.rp.key (2 + bits n.id 0 10) = some k →
      let nonce := netNonce n.netid (bits n.id 0 10) n.joinFc 4 false
      let key := ccmStream k nonce ((f.payload.drop 2).take 16)
      let right := f.payload.length = 26 ∧ ccmMic k nonce (f.payload.take 2) key = f.payload.drop 18
      ∃ t, exec (.joinRspReceived p) s = .next t ∧ t.per.rf.rxinfo = info ∧ t.cores = s.cores ∧
        (right → s.replayed f = false → ∀ b, s.nbrFor f = some b →
          t.per.net.state = netJoined ∧ t.per.net.own = numOf (f.payload.take 2) % 2048 ∧
          bit t.per.net.stat 12 = true ∧ t.rp.key 0 = some key ∧ t.per.net.cnt0 = bump n.cnt0 true ∧
          t.per.net.cand = none ∧ t.per.net.timing = true) ∧
        (¬right → failed t.per.net ∧ t.per.net.state = netJoining)) ∧
    (let b := p.body
     let lseq := numOf ((b.drop 1).take 2) % 4096
     let acks := numOf (b.take 1) % 8 = 2
     let ack := hears ∧ acks
     let waits := fun g : TxFrame => n.await = some g ∧ g.bcast = false ∧ g.typ ≠ 3 ∧ g.typ ≠ 4 ∧ g.lseq = some lseq
     (¬(gets ∧ acks) → s.becomes (.ackReceived p) s) ∧
     (ack → table → clean → r.txOn = true ∨ (∀ g, ¬waits g) → ∃ t, exec (.ackReceived p) s = .next t ∧
       t.per.rf.rxinfo = info ∧ t.cores = s.cores ∧ same t.per.net ∧ t.per.net.await = n.await) ∧
     (ack → table → clean → r.txOn = false → n.stopped = true → ∀ g, waits g →
        let old := decide (numOf (r.air.take 1) / 8 % 2 = 1)
        let mic := (s.rp.key (n.keySlot old)).map fun k =>
          ccmMic k (netNonce n.netid (bits n.id 0 10) (numOf ((r.air.drop 7).take 6)) g.typ true) (b.take 3) []
        ∃ t, exec (.ackReceived p) s = .next t ∧ t.per.rf.rxinfo = info ∧ t.cores = s.cores ∧
          (mic ≠ some (b.drop 3) → failed t.per.net ∧ t.per.net.await = some g) ∧
          (mic = some (b.drop 3) → t.per.net.await = none ∧ t.per.net.cnt0 = bump n.cnt0 true ∧
            (g.typ = 1 → g.own = true → g.last = true → bit t.per.net.stat 5 = true) ∧
            (g.typ = 5 → n.state = netOrphan → t.per.net.state = netJoined))))

/-- R364-R378, R382: a frame on a port that is not wired has no answer; a read answers with the register or
BUSY, a write with a wrong CRC counts in PEG_ERR and changes nothing else, one while a write is completing or
Ridgepole is not ready answers BUSY, and otherwise the register takes its value or the write is denied; a
session opens by its challenge and the eight words of the response; the window moves on with every word. The
device is awake in these clauses, and a frame in Bivouac wakes it and is answered. Readings of the model that it
rests on: assumptions 49, 50, 51, 87. -/
def Obligations.PegFrames : Prop :=
  ∀ (s : State) (x cmd crc : BitVec 8) (v : Word),
    let p := s.peg
    let k := x.toNat
    let put := fun (i : Instr) (q : Peg) => s.becomes i { s with peg := q }
    let woken := s.wake 6 0 false
    let hear := fun (i : Instr) (q : Peg) => s.becomes i { woken with peg := q }
    let wired := s.pwr.vio1 = true ∧ s.pwr.state ≠ .unpowered ∧ s.pwr.state ≠ .held
    let up := s.pwr.vio1 = true ∧ s.running = true
    let ready := p.ready = true ∧ p.writing = false
    let good := fun c : BitVec 8 => crc8 ([c, x] ++ wireBytes v) = crc
    let reply := fun (c : BitVec 8) (st : Nat) (w : Word) =>
      some ([0xFF#8, 0xFF#8, BitVec.ofNat 8 (0xA0 + st)] ++ wireBytes w ++
        [crc8 ([c, x, BitVec.ofNat 8 (0xA0 + st)] ++ wireBytes w)])
    let short := fun st : Nat => some (List.replicate 7 0xFF#8 ++ [BitVec.ofNat 8 (0xA0 + st)])
    let busyErr := setBit p.err 4 true
    let busy := { p with err := busyErr, reply := short 1 }
    let crcerr := { p with
      err := setBits (setBit p.err 0 true) 16 16 (satAdd 0xFFFF (bits p.err 16 16) 1), reply := short 2 }
    let denied := { p with err := setBit p.err 3 true, reply := short 3 }
    let badcmd := { p with err := setBit p.err 2 true, reply := short 4 }
    let ok := { p with reply := short 0, writing := true }
    let open_ := p.sess.state = .opened
    let value := if 0xD8 ≤ k ∧ k < 0xE0 then 0#32 else s.pegValue s.live s.pegState k
    let place := imageBase p.updImg + p.updOffs
    let frames : List Instr := [.pegRead x, .pegWrite x v crc, .readStatus x, .beginSession x v crc,
      .sessionResponse x v crc]
    (¬wired → (∀ i ∈ frames, put i { p with reply := none }) ∧ s.becomes .pegFrameCut s ∧
      put (.pegBadCommand cmd) { p with reply := none }) ∧
    (up → k < 0x20 → hear (.pegRead x) { p with reply := reply 1 0 (s.pegValue s.live s.pegState k) }) ∧
    (up → 0x20 ≤ k → ¬ready → hear (.pegRead x) { p with err := busyErr, reply := reply 1 1 0#32 }) ∧
    (up → 0x20 ≤ k → ready → k ≠ 0xD2 →
      s.becomes (.pegRead x) ({ woken with peg := { p with reply := reply 1 0 value } }.pegLatch k)) ∧
    (up → k = 0xD2 → ready →
      (0x100000 ≤ p.updOffs → hear (.pegRead x)
        { p with updEnd := true, err := setBit p.err 3 true, reply := reply 1 3 0#32 }) ∧
      (p.updOffs < 0x100000 → p.updBusy = true → hear (.pegRead x)
        { p with err := busyErr, reply := reply 1 1 0#32 }) ∧
      (p.updOffs < 0x100000 → p.updBusy = false → hear (.pegRead x)
        { p with updOffs := p.updOffs + 4, updBusy := true
                 reply := reply 1 (if p.updErr then 5 else 0) p.updWord })) ∧
    (up → hear (.readStatus x) { p with reply := reply 3 0 (s.pegStat s.pegState) }) ∧
    (up → ¬good 2 → hear (.pegWrite x v crc) crcerr) ∧
    (up → good 2 → k ≠ 4 → k ≠ 5 → ¬ready → hear (.pegWrite x v crc) busy) ∧
    (up → good 2 → k = 4 → hear (.pegWrite x v crc) { ok with rstn := p.rstn && !bit v 8 }) ∧
    (up → good 2 → k = 5 → hear (.pegWrite x v crc) { ok with err := p.err &&& ~~~(v &&& 0x1F#32) }) ∧
    (up → good 2 → ready → k = 0xC9 → hear (.pegWrite x v crc) { ok with atnen := v &&& 7#32 }) ∧
    (up → good 2 → ready → ∀ i : Fin 7, k = 0x21 + i →
      hear (.pegWrite x v crc) (if open_ then { ok with gs := vset p.gs (i + 1) v } else denied)) ∧
    (up → good 2 → ready → ∀ i : Fin 8, k = 0xD8 + i → hear (.pegWrite x v crc)
      (if open_ ∨ s.rp.key 1026 = none then { ok with stg := p.stg.set i v } else denied)) ∧
    (up → good 2 → ready → k < 4 ∨ (0x10 ≤ k ∧ k < 0x17) ∨ (0x30 ≤ k ∧ k < 0x3F) →
      hear (.pegWrite x v crc) denied) ∧
    (up → good 2 → ready → (woken.pegStore .host k v).1.pegWired = true →
      s.becomes (.pegWrite x v crc) ((woken.pegStore .host k v).1.pegAnswer (woken.pegStore .host k v).2)) ∧
    (up → x ≠ 0#8 → hear (.beginSession x v crc) badcmd) ∧
    (up → x = 0#8 → ¬good 4 → hear (.beginSession x v crc) crcerr) ∧
    (up → x = 0#8 → good 4 → ¬ready → hear (.beginSession x v crc) busy) ∧
    (up → x = 0#8 → good 4 → ready → s.rp.key 1026 = none ∨ p.sess.locked = true →
      hear (.beginSession x v crc) denied) ∧
    (up → x = 0#8 → good 4 → ready → s.rp.key 1026 ≠ none → p.sess.locked = false → ∃ c : Vector Word 4,
      s.becomes (.beginSession x v crc) ({ woken with
        peg := { ok with chal := c, sess := { p.sess with state := .chal, idx := 0, nonce := v, resp := [] } } }.useFree 4)) ∧
    (up → ¬good 5 → hear (.sessionResponse x v crc) crcerr) ∧
    (up → good 5 → ¬ready → hear (.sessionResponse x v crc) busy) ∧
    (up → good 5 → ready → p.sess.state ≠ .chal ∨ k ≠ p.sess.idx →
      hear (.sessionResponse x v crc) { p with reply := short 6 }) ∧
    (up → good 5 → ready → p.sess.state = .chal → k = p.sess.idx → hear (.sessionResponse x v crc)
      { ok with sess :=
        { p.sess with
          resp := p.sess.resp ++ [v], idx := (k + 1) % 8, state := if k = 7 then .check else .chal } }) ∧
    (s.running = false ∨ p.sess.state ≠ .check → s.becomes .pegSessionCheck s) ∧
    (s.running = true → p.sess.state = .check → put .pegSessionCheck
      (if s.sessGood then { p with sess := { p.sess with state := .opened } }
       else { p with sess :=
        { p.sess with
          state := .closed, fails := min 3 (p.sess.fails + 1)
          locked := p.sess.locked || decide (2 ≤ p.sess.fails) } })) ∧
    (wired → 1 ≤ cmd.toNat → cmd.toNat ≤ 5 → s.becomes (.pegBadCommand cmd) s) ∧
    (up → cmd = 0#8 ∨ 5 < cmd.toNat → hear (.pegBadCommand cmd) badcmd) ∧
    (up → hear .pegFrameCut { p with err := setBit p.err 1 true, reply := none }) ∧
    (s.running = true → put .pegWriteComplete { p with writing := false } ∧
      put .pegSessionTimeout (if open_ then { p with sess := { p.sess with state := .closed } } else p) ∧
      s.becomes .pegCmdComplete { s with
        peg := if p.cmd.busy then { p with cmd := { p.cmd with busy := false, code := p.cmd.next } } else p
        rp := if p.cmd.busy = true ∧ p.cmd.op = 4 then { s.rp with keyWrite := none } else s.rp }) ∧
    (s.running = false → s.becomes .pegWriteComplete s ∧ s.becomes .pegSessionTimeout s ∧
      s.becomes .pegCmdComplete s) ∧
    (s.running = false ∨ p.updBusy = false → s.becomes .pegUpdPrefetchDone s) ∧
    (s.running = true → p.updBusy = true → 0x100000 ≤ p.updOffs →
      put .pegUpdPrefetchDone { p with updBusy := false }) ∧
    (s.running = true → p.updBusy = true → p.updOffs < 0x100000 → s.mem.ecc = [] →
      ∃ t, exec .pegUpdPrefetchDone s = .next t ∧
        t.peg = { p with updBusy := false, updWord := s.mem.word place, updErr := false } ∧
        t.cores = s.cores ∧ t.mem = s.mem) ∧
    (s.pwr.vio1 = true → s.pwr.state = .bivouac → s.pwr.strike = none → ∀ i ∈ frames, ∃ t,
      exec i s = .next t ∧ t.rp.mode = .cold ∧ t.pwr.cause = 8#32 ∧ t.peg.reply.isSome = true)

/-! ## The machine -/

/-- A step takes the command at the front of the queue, and is its effect on the state with the queue's rest.
Readings of the model that it rests on: assumption 1. -/
def Obligations.FrontCommandRuns : Prop :=
  ∀ (s : State) (i : Instr) (rest : List Instr),
    s.pending = i :: rest → step s = exec i { s with pending := rest }

/-- The model's choice for an empty queue (assumption 12), on R197, R204 and R314: one PCLK edge while the core domain
runs, at which EVT_TIME counts; otherwise one Porch tick, at which an untrimmed calendar clock counts. -/
def Obligations.EmptyQueuePassesTime : Prop :=
  ∀ s : State,
    let r := s.per.rtc
    s.pending = [] →
      (s.running = true → ∃ t, step s = .next t ∧ t.pending = [] ∧
        (t.rp.mode ≠ .cold → t.per.evt.time = s.per.evt.time + 1#32)) ∧
      (s.running = false → r.stepDue = false → r.modeDue = false → r.mode = false → bits r.trim 0 12 = 0 →
        r.trimAcc < 2 ^ 23 → bits r.slew 0 22 = 0 → ∃ t, step s = .next t ∧ t.pending = [] ∧
        t.per.rtc.time = (r.time + 1) % 2 ^ 63)

/-- R12, R20, R206, R297, R298, R313, R329, R348, R391, R410: the reset values that the rules state: no core
runs and none is in a task; the controllers are off and permit every channel, no channel has an owner; PWR, CLK,
the timers, the lines, the radio, the network, the balls and the Peg port hold the values of their tables.
Readings of the model that it rests on: assumption 2. -/
def Obligations.ResetState : Prop :=
  let s := State.reset
  s.pending = [] ∧ s.rp.mode = .cold ∧
  (∀ c : CoreId, s.cores[c].phase = .off ∧ s.cores[c].task = 0x80000000#32) ∧
  (∀ b : Fin 5, s.irq[b].gie = false ∧ s.irq[b].en = 0#128 ∧ s.irq[b].stack = [] ∧
    s.irq[b].permit = BitVec.allOnes 64) ∧
  (∀ n : Fin 64, s.per.evt.ch[n] = 0x7000#32) ∧
  (∀ i : Fin 512, s.wdn.obj[i].phase = .free) ∧ (∀ i : Fin 64, s.wdn.tsk[i].state = .free) ∧
  s.wdn.pol = 0x34081040#32 ∧ s.wdn.epoch = 0x10#32 ∧
  bit s.pwr.cause 0 = true ∧ s.pwr.wakeEn = 0x468#32 ∧ bits s.pwr.opp 4 2 = 0 ∧
  bits s.clk.stat 8 2 = 2 ∧ s.clk.div = 2#32 ∧
  (∀ n : Fin 12, s.per.tim[n].ctl = 0x40#32 ∧ s.per.tim[n].cnt = 0#32) ∧
  (∀ n : Fin 4, s.per.ua[n].div = 0x90#32 ∧ s.per.ua[n].ctl = 0x10#32 ∧ s.per.ua[n].rxq = []) ∧
  s.per.rf.rate = 0x2100#32 ∧ s.per.rf.sync = 0x2DD49A6B#32 ∧ s.per.net.cost = 0x82008#32 ∧
  s.per.net.retry = 0x604#32 ∧ s.per.tch.ctl = 0x20#32 ∧ s.per.cnt.ovf = 0#32 ∧
  (∀ b : Fin 96, s.per.pin.ball[b] = 0x70#32) ∧ s.peg.rstn = true ∧ s.peg.sess.state = .closed ∧
  s.itg.stest = 0xA#32

/-- The invariants of the model hold after reset. -/
def Obligations.InvariantsAtReset : Prop := State.reset.consistent ∧ State.reset.mem.wf = true

/-- R133, R258: every step leaves Ridgepole's store with the retired bits of a running Warden, and the network
engine off without its table object. Readings of the model that it rests on: assumption 40. -/
def Obligations.ConsistencyKept : Prop :=
  ∀ s t : State, s.consistent → step s = .next t → t.consistent

/-- Every step keeps memory in its canonical form: addresses strictly rise, and no listed byte is one that an
unlisted address reads as. Readings of the model that it rests on: assumption 5. -/
def Obligations.CanonicalMemoryKept : Prop :=
  ∀ s t : State, s.mem.wf = true → step s = .next t → t.mem.wf = true

/-- R182-R184: a request that rises with a command, and whose source is enabled at a controller, is pending or
active there after it. Readings of the model that it rests on: assumption 41. -/
def Obligations.RisenRequestIsRecorded : Prop :=
  ∀ (s t : State) (i : Instr) (b : Fin 5) (src : Fin 64),
    exec i s = .next t → t.rp.mode ≠ .cold → bit t.irq[b].en src = true →
      bit (t.requests b) src = true → bit (s.requests b) src = false →
      bit t.irq[b].pend src = true ∨ bit t.irq[b].act src = true
end

