-- ==== Sys2Proof/Laws/State.lean ====
section
/-! SUPPORT. What each update of the state leaves as it was and what it sets, one lemma for each field, so that
no proof unfolds a record update. -/

namespace Sys2Proof.Machine

open Sys2Proof

variable (s : State)

/-! ## `onCore` -/

@[simp] theorem State.onCore_pending (c : CoreId) (f : Core → Core) :
    (s.onCore c f).pending = s.pending := rfl
@[simp] theorem State.onCore_free (c : CoreId) (f : Core → Core) : (s.onCore c f).free = s.free := rfl
@[simp] theorem State.onCore_cores (c : CoreId) (f : Core → Core) :
    (s.onCore c f).cores = s.cores.set c (f s.cores[c]) := rfl
@[simp] theorem State.onCore_irq (c : CoreId) (f : Core → Core) : (s.onCore c f).irq = s.irq := rfl
@[simp] theorem State.onCore_mem (c : CoreId) (f : Core → Core) : (s.onCore c f).mem = s.mem := rfl
@[simp] theorem State.onCore_mm (c : CoreId) (f : Core → Core) : (s.onCore c f).mm = s.mm := rfl
@[simp] theorem State.onCore_wdn (c : CoreId) (f : Core → Core) : (s.onCore c f).wdn = s.wdn := rfl
@[simp] theorem State.onCore_itg (c : CoreId) (f : Core → Core) : (s.onCore c f).itg = s.itg := rfl
@[simp] theorem State.onCore_rp (c : CoreId) (f : Core → Core) : (s.onCore c f).rp = s.rp := rfl
@[simp] theorem State.onCore_pwr (c : CoreId) (f : Core → Core) : (s.onCore c f).pwr = s.pwr := rfl
@[simp] theorem State.onCore_clk (c : CoreId) (f : Core → Core) : (s.onCore c f).clk = s.clk := rfl
@[simp] theorem State.onCore_peg (c : CoreId) (f : Core → Core) : (s.onCore c f).peg = s.peg := rfl
@[simp] theorem State.onCore_per (c : CoreId) (f : Core → Core) : (s.onCore c f).per = s.per := rfl
@[simp] theorem State.onCore_snap (c : CoreId) (f : Core → Core) : (s.onCore c f).snap = s.snap := rfl
@[simp] theorem State.onCore_inflight (c : CoreId) (f : Core → Core) :
    (s.onCore c f).inflight = s.inflight := rfl
@[simp] theorem State.onCore_look (c : CoreId) (f : Core → Core) : (s.onCore c f).look = s.look := rfl
@[simp] theorem State.onCore_portA (c : CoreId) (f : Core → Core) : (s.onCore c f).portA = s.portA := rfl
@[simp] theorem State.onCore_stale (c : CoreId) (f : Core → Core) : (s.onCore c f).stale = s.stale := rfl

/-! ## `onIrq` -/

@[simp] theorem State.onIrq_pending (b : Nat) (f : IrqBank → IrqBank) :
    (s.onIrq b f).pending = s.pending := rfl
@[simp] theorem State.onIrq_free (b : Nat) (f : IrqBank → IrqBank) : (s.onIrq b f).free = s.free := rfl
@[simp] theorem State.onIrq_cores (b : Nat) (f : IrqBank → IrqBank) :
    (s.onIrq b f).cores = s.cores := rfl
@[simp] theorem State.onIrq_irq (b : Nat) (f : IrqBank → IrqBank) :
    (s.onIrq b f).irq = vmod s.irq b f := rfl
@[simp] theorem State.onIrq_mem (b : Nat) (f : IrqBank → IrqBank) : (s.onIrq b f).mem = s.mem := rfl
@[simp] theorem State.onIrq_mm (b : Nat) (f : IrqBank → IrqBank) : (s.onIrq b f).mm = s.mm := rfl
@[simp] theorem State.onIrq_wdn (b : Nat) (f : IrqBank → IrqBank) : (s.onIrq b f).wdn = s.wdn := rfl
@[simp] theorem State.onIrq_itg (b : Nat) (f : IrqBank → IrqBank) : (s.onIrq b f).itg = s.itg := rfl
@[simp] theorem State.onIrq_rp (b : Nat) (f : IrqBank → IrqBank) : (s.onIrq b f).rp = s.rp := rfl
@[simp] theorem State.onIrq_pwr (b : Nat) (f : IrqBank → IrqBank) : (s.onIrq b f).pwr = s.pwr := rfl
@[simp] theorem State.onIrq_clk (b : Nat) (f : IrqBank → IrqBank) : (s.onIrq b f).clk = s.clk := rfl
@[simp] theorem State.onIrq_peg (b : Nat) (f : IrqBank → IrqBank) : (s.onIrq b f).peg = s.peg := rfl
@[simp] theorem State.onIrq_per (b : Nat) (f : IrqBank → IrqBank) : (s.onIrq b f).per = s.per := rfl
@[simp] theorem State.onIrq_snap (b : Nat) (f : IrqBank → IrqBank) : (s.onIrq b f).snap = s.snap := rfl
@[simp] theorem State.onIrq_inflight (b : Nat) (f : IrqBank → IrqBank) :
    (s.onIrq b f).inflight = s.inflight := rfl
@[simp] theorem State.onIrq_look (b : Nat) (f : IrqBank → IrqBank) : (s.onIrq b f).look = s.look := rfl
@[simp] theorem State.onIrq_portA (b : Nat) (f : IrqBank → IrqBank) : (s.onIrq b f).portA = s.portA := rfl
@[simp] theorem State.onIrq_stale (b : Nat) (f : IrqBank → IrqBank) : (s.onIrq b f).stale = s.stale := rfl

/-! ## `onMm` -/

@[simp] theorem State.onMm_pending (f : MemRegs → MemRegs) : (s.onMm f).pending = s.pending := rfl
@[simp] theorem State.onMm_free (f : MemRegs → MemRegs) : (s.onMm f).free = s.free := rfl
@[simp] theorem State.onMm_cores (f : MemRegs → MemRegs) : (s.onMm f).cores = s.cores := rfl
@[simp] theorem State.onMm_irq (f : MemRegs → MemRegs) : (s.onMm f).irq = s.irq := rfl
@[simp] theorem State.onMm_mem (f : MemRegs → MemRegs) : (s.onMm f).mem = s.mem := rfl
@[simp] theorem State.onMm_mm (f : MemRegs → MemRegs) : (s.onMm f).mm = f s.mm := rfl
@[simp] theorem State.onMm_wdn (f : MemRegs → MemRegs) : (s.onMm f).wdn = s.wdn := rfl
@[simp] theorem State.onMm_itg (f : MemRegs → MemRegs) : (s.onMm f).itg = s.itg := rfl
@[simp] theorem State.onMm_rp (f : MemRegs → MemRegs) : (s.onMm f).rp = s.rp := rfl
@[simp] theorem State.onMm_pwr (f : MemRegs → MemRegs) : (s.onMm f).pwr = s.pwr := rfl
@[simp] theorem State.onMm_clk (f : MemRegs → MemRegs) : (s.onMm f).clk = s.clk := rfl
@[simp] theorem State.onMm_peg (f : MemRegs → MemRegs) : (s.onMm f).peg = s.peg := rfl
@[simp] theorem State.onMm_per (f : MemRegs → MemRegs) : (s.onMm f).per = s.per := rfl
@[simp] theorem State.onMm_snap (f : MemRegs → MemRegs) : (s.onMm f).snap = s.snap := rfl
@[simp] theorem State.onMm_inflight (f : MemRegs → MemRegs) : (s.onMm f).inflight = s.inflight := rfl
@[simp] theorem State.onMm_look (f : MemRegs → MemRegs) : (s.onMm f).look = s.look := rfl
@[simp] theorem State.onMm_portA (f : MemRegs → MemRegs) : (s.onMm f).portA = s.portA := rfl
@[simp] theorem State.onMm_stale (f : MemRegs → MemRegs) : (s.onMm f).stale = s.stale := rfl

/-! ## `onMem` -/

@[simp] theorem State.onMem_pending (f : Memory → Memory) : (s.onMem f).pending = s.pending := rfl
@[simp] theorem State.onMem_free (f : Memory → Memory) : (s.onMem f).free = s.free := rfl
@[simp] theorem State.onMem_cores (f : Memory → Memory) : (s.onMem f).cores = s.cores := rfl
@[simp] theorem State.onMem_irq (f : Memory → Memory) : (s.onMem f).irq = s.irq := rfl
@[simp] theorem State.onMem_mem (f : Memory → Memory) : (s.onMem f).mem = f s.mem := rfl
@[simp] theorem State.onMem_mm (f : Memory → Memory) : (s.onMem f).mm = s.mm := rfl
@[simp] theorem State.onMem_wdn (f : Memory → Memory) : (s.onMem f).wdn = s.wdn := rfl
@[simp] theorem State.onMem_itg (f : Memory → Memory) : (s.onMem f).itg = s.itg := rfl
@[simp] theorem State.onMem_rp (f : Memory → Memory) : (s.onMem f).rp = s.rp := rfl
@[simp] theorem State.onMem_pwr (f : Memory → Memory) : (s.onMem f).pwr = s.pwr := rfl
@[simp] theorem State.onMem_clk (f : Memory → Memory) : (s.onMem f).clk = s.clk := rfl
@[simp] theorem State.onMem_peg (f : Memory → Memory) : (s.onMem f).peg = s.peg := rfl
@[simp] theorem State.onMem_per (f : Memory → Memory) : (s.onMem f).per = s.per := rfl
@[simp] theorem State.onMem_snap (f : Memory → Memory) : (s.onMem f).snap = s.snap := rfl
@[simp] theorem State.onMem_inflight (f : Memory → Memory) : (s.onMem f).inflight = s.inflight := rfl
@[simp] theorem State.onMem_look (f : Memory → Memory) : (s.onMem f).look = s.look := rfl
@[simp] theorem State.onMem_portA (f : Memory → Memory) : (s.onMem f).portA = s.portA := rfl
@[simp] theorem State.onMem_stale (f : Memory → Memory) : (s.onMem f).stale = s.stale := rfl

/-! ## `onWdn` -/

@[simp] theorem State.onWdn_pending (f : Warden → Warden) : (s.onWdn f).pending = s.pending := rfl
@[simp] theorem State.onWdn_free (f : Warden → Warden) : (s.onWdn f).free = s.free := rfl
@[simp] theorem State.onWdn_cores (f : Warden → Warden) : (s.onWdn f).cores = s.cores := rfl
@[simp] theorem State.onWdn_irq (f : Warden → Warden) : (s.onWdn f).irq = s.irq := rfl
@[simp] theorem State.onWdn_mem (f : Warden → Warden) : (s.onWdn f).mem = s.mem := rfl
@[simp] theorem State.onWdn_mm (f : Warden → Warden) : (s.onWdn f).mm = s.mm := rfl
@[simp] theorem State.onWdn_wdn (f : Warden → Warden) : (s.onWdn f).wdn = f s.wdn := rfl
@[simp] theorem State.onWdn_itg (f : Warden → Warden) : (s.onWdn f).itg = s.itg := rfl
@[simp] theorem State.onWdn_rp (f : Warden → Warden) : (s.onWdn f).rp = s.rp := rfl
@[simp] theorem State.onWdn_pwr (f : Warden → Warden) : (s.onWdn f).pwr = s.pwr := rfl
@[simp] theorem State.onWdn_clk (f : Warden → Warden) : (s.onWdn f).clk = s.clk := rfl
@[simp] theorem State.onWdn_peg (f : Warden → Warden) : (s.onWdn f).peg = s.peg := rfl
@[simp] theorem State.onWdn_per (f : Warden → Warden) : (s.onWdn f).per = s.per := rfl
@[simp] theorem State.onWdn_snap (f : Warden → Warden) : (s.onWdn f).snap = s.snap := rfl
@[simp] theorem State.onWdn_inflight (f : Warden → Warden) : (s.onWdn f).inflight = s.inflight := rfl
@[simp] theorem State.onWdn_look (f : Warden → Warden) : (s.onWdn f).look = s.look := rfl
@[simp] theorem State.onWdn_portA (f : Warden → Warden) : (s.onWdn f).portA = s.portA := rfl
@[simp] theorem State.onWdn_stale (f : Warden → Warden) : (s.onWdn f).stale = s.stale := rfl

/-! ## `onItg` -/

@[simp] theorem State.onItg_pending (f : Itg → Itg) : (s.onItg f).pending = s.pending := rfl
@[simp] theorem State.onItg_free (f : Itg → Itg) : (s.onItg f).free = s.free := rfl
@[simp] theorem State.onItg_cores (f : Itg → Itg) : (s.onItg f).cores = s.cores := rfl
@[simp] theorem State.onItg_irq (f : Itg → Itg) : (s.onItg f).irq = s.irq := rfl
@[simp] theorem State.onItg_mem (f : Itg → Itg) : (s.onItg f).mem = s.mem := rfl
@[simp] theorem State.onItg_mm (f : Itg → Itg) : (s.onItg f).mm = s.mm := rfl
@[simp] theorem State.onItg_wdn (f : Itg → Itg) : (s.onItg f).wdn = s.wdn := rfl
@[simp] theorem State.onItg_itg (f : Itg → Itg) : (s.onItg f).itg = f s.itg := rfl
@[simp] theorem State.onItg_rp (f : Itg → Itg) : (s.onItg f).rp = s.rp := rfl
@[simp] theorem State.onItg_pwr (f : Itg → Itg) : (s.onItg f).pwr = s.pwr := rfl
@[simp] theorem State.onItg_clk (f : Itg → Itg) : (s.onItg f).clk = s.clk := rfl
@[simp] theorem State.onItg_peg (f : Itg → Itg) : (s.onItg f).peg = s.peg := rfl
@[simp] theorem State.onItg_per (f : Itg → Itg) : (s.onItg f).per = s.per := rfl
@[simp] theorem State.onItg_snap (f : Itg → Itg) : (s.onItg f).snap = s.snap := rfl
@[simp] theorem State.onItg_inflight (f : Itg → Itg) : (s.onItg f).inflight = s.inflight := rfl
@[simp] theorem State.onItg_look (f : Itg → Itg) : (s.onItg f).look = s.look := rfl
@[simp] theorem State.onItg_portA (f : Itg → Itg) : (s.onItg f).portA = s.portA := rfl
@[simp] theorem State.onItg_stale (f : Itg → Itg) : (s.onItg f).stale = s.stale := rfl

/-! ## `onRp` -/

@[simp] theorem State.onRp_pending (f : Ridgepole → Ridgepole) : (s.onRp f).pending = s.pending := rfl
@[simp] theorem State.onRp_free (f : Ridgepole → Ridgepole) : (s.onRp f).free = s.free := rfl
@[simp] theorem State.onRp_cores (f : Ridgepole → Ridgepole) : (s.onRp f).cores = s.cores := rfl
@[simp] theorem State.onRp_irq (f : Ridgepole → Ridgepole) : (s.onRp f).irq = s.irq := rfl
@[simp] theorem State.onRp_mem (f : Ridgepole → Ridgepole) : (s.onRp f).mem = s.mem := rfl
@[simp] theorem State.onRp_mm (f : Ridgepole → Ridgepole) : (s.onRp f).mm = s.mm := rfl
@[simp] theorem State.onRp_wdn (f : Ridgepole → Ridgepole) : (s.onRp f).wdn = s.wdn := rfl
@[simp] theorem State.onRp_itg (f : Ridgepole → Ridgepole) : (s.onRp f).itg = s.itg := rfl
@[simp] theorem State.onRp_rp (f : Ridgepole → Ridgepole) : (s.onRp f).rp = f s.rp := rfl
@[simp] theorem State.onRp_pwr (f : Ridgepole → Ridgepole) : (s.onRp f).pwr = s.pwr := rfl
@[simp] theorem State.onRp_clk (f : Ridgepole → Ridgepole) : (s.onRp f).clk = s.clk := rfl
@[simp] theorem State.onRp_peg (f : Ridgepole → Ridgepole) : (s.onRp f).peg = s.peg := rfl
@[simp] theorem State.onRp_per (f : Ridgepole → Ridgepole) : (s.onRp f).per = s.per := rfl
@[simp] theorem State.onRp_snap (f : Ridgepole → Ridgepole) : (s.onRp f).snap = s.snap := rfl
@[simp] theorem State.onRp_inflight (f : Ridgepole → Ridgepole) :
    (s.onRp f).inflight = s.inflight := rfl
@[simp] theorem State.onRp_look (f : Ridgepole → Ridgepole) : (s.onRp f).look = s.look := rfl
@[simp] theorem State.onRp_portA (f : Ridgepole → Ridgepole) : (s.onRp f).portA = s.portA := rfl
@[simp] theorem State.onRp_stale (f : Ridgepole → Ridgepole) : (s.onRp f).stale = s.stale := rfl

/-! ## `onPwr` -/

@[simp] theorem State.onPwr_pending (f : Pwr → Pwr) : (s.onPwr f).pending = s.pending := rfl
@[simp] theorem State.onPwr_free (f : Pwr → Pwr) : (s.onPwr f).free = s.free := rfl
@[simp] theorem State.onPwr_cores (f : Pwr → Pwr) : (s.onPwr f).cores = s.cores := rfl
@[simp] theorem State.onPwr_irq (f : Pwr → Pwr) : (s.onPwr f).irq = s.irq := rfl
@[simp] theorem State.onPwr_mem (f : Pwr → Pwr) : (s.onPwr f).mem = s.mem := rfl
@[simp] theorem State.onPwr_mm (f : Pwr → Pwr) : (s.onPwr f).mm = s.mm := rfl
@[simp] theorem State.onPwr_wdn (f : Pwr → Pwr) : (s.onPwr f).wdn = s.wdn := rfl
@[simp] theorem State.onPwr_itg (f : Pwr → Pwr) : (s.onPwr f).itg = s.itg := rfl
@[simp] theorem State.onPwr_rp (f : Pwr → Pwr) : (s.onPwr f).rp = s.rp := rfl
@[simp] theorem State.onPwr_pwr (f : Pwr → Pwr) : (s.onPwr f).pwr = f s.pwr := rfl
@[simp] theorem State.onPwr_clk (f : Pwr → Pwr) : (s.onPwr f).clk = s.clk := rfl
@[simp] theorem State.onPwr_peg (f : Pwr → Pwr) : (s.onPwr f).peg = s.peg := rfl
@[simp] theorem State.onPwr_per (f : Pwr → Pwr) : (s.onPwr f).per = s.per := rfl
@[simp] theorem State.onPwr_snap (f : Pwr → Pwr) : (s.onPwr f).snap = s.snap := rfl
@[simp] theorem State.onPwr_inflight (f : Pwr → Pwr) : (s.onPwr f).inflight = s.inflight := rfl
@[simp] theorem State.onPwr_look (f : Pwr → Pwr) : (s.onPwr f).look = s.look := rfl
@[simp] theorem State.onPwr_portA (f : Pwr → Pwr) : (s.onPwr f).portA = s.portA := rfl
@[simp] theorem State.onPwr_stale (f : Pwr → Pwr) : (s.onPwr f).stale = s.stale := rfl

/-! ## `onClk` -/

@[simp] theorem State.onClk_pending (f : Clk → Clk) : (s.onClk f).pending = s.pending := rfl
@[simp] theorem State.onClk_free (f : Clk → Clk) : (s.onClk f).free = s.free := rfl
@[simp] theorem State.onClk_cores (f : Clk → Clk) : (s.onClk f).cores = s.cores := rfl
@[simp] theorem State.onClk_irq (f : Clk → Clk) : (s.onClk f).irq = s.irq := rfl
@[simp] theorem State.onClk_mem (f : Clk → Clk) : (s.onClk f).mem = s.mem := rfl
@[simp] theorem State.onClk_mm (f : Clk → Clk) : (s.onClk f).mm = s.mm := rfl
@[simp] theorem State.onClk_wdn (f : Clk → Clk) : (s.onClk f).wdn = s.wdn := rfl
@[simp] theorem State.onClk_itg (f : Clk → Clk) : (s.onClk f).itg = s.itg := rfl
@[simp] theorem State.onClk_rp (f : Clk → Clk) : (s.onClk f).rp = s.rp := rfl
@[simp] theorem State.onClk_pwr (f : Clk → Clk) : (s.onClk f).pwr = s.pwr := rfl
@[simp] theorem State.onClk_clk (f : Clk → Clk) : (s.onClk f).clk = f s.clk := rfl
@[simp] theorem State.onClk_peg (f : Clk → Clk) : (s.onClk f).peg = s.peg := rfl
@[simp] theorem State.onClk_per (f : Clk → Clk) : (s.onClk f).per = s.per := rfl
@[simp] theorem State.onClk_snap (f : Clk → Clk) : (s.onClk f).snap = s.snap := rfl
@[simp] theorem State.onClk_inflight (f : Clk → Clk) : (s.onClk f).inflight = s.inflight := rfl
@[simp] theorem State.onClk_look (f : Clk → Clk) : (s.onClk f).look = s.look := rfl
@[simp] theorem State.onClk_portA (f : Clk → Clk) : (s.onClk f).portA = s.portA := rfl
@[simp] theorem State.onClk_stale (f : Clk → Clk) : (s.onClk f).stale = s.stale := rfl

/-! ## `onPeg` -/

@[simp] theorem State.onPeg_pending (f : Peg → Peg) : (s.onPeg f).pending = s.pending := rfl
@[simp] theorem State.onPeg_free (f : Peg → Peg) : (s.onPeg f).free = s.free := rfl
@[simp] theorem State.onPeg_cores (f : Peg → Peg) : (s.onPeg f).cores = s.cores := rfl
@[simp] theorem State.onPeg_irq (f : Peg → Peg) : (s.onPeg f).irq = s.irq := rfl
@[simp] theorem State.onPeg_mem (f : Peg → Peg) : (s.onPeg f).mem = s.mem := rfl
@[simp] theorem State.onPeg_mm (f : Peg → Peg) : (s.onPeg f).mm = s.mm := rfl
@[simp] theorem State.onPeg_wdn (f : Peg → Peg) : (s.onPeg f).wdn = s.wdn := rfl
@[simp] theorem State.onPeg_itg (f : Peg → Peg) : (s.onPeg f).itg = s.itg := rfl
@[simp] theorem State.onPeg_rp (f : Peg → Peg) : (s.onPeg f).rp = s.rp := rfl
@[simp] theorem State.onPeg_pwr (f : Peg → Peg) : (s.onPeg f).pwr = s.pwr := rfl
@[simp] theorem State.onPeg_clk (f : Peg → Peg) : (s.onPeg f).clk = s.clk := rfl
@[simp] theorem State.onPeg_peg (f : Peg → Peg) : (s.onPeg f).peg = f s.peg := rfl
@[simp] theorem State.onPeg_per (f : Peg → Peg) : (s.onPeg f).per = s.per := rfl
@[simp] theorem State.onPeg_snap (f : Peg → Peg) : (s.onPeg f).snap = s.snap := rfl
@[simp] theorem State.onPeg_inflight (f : Peg → Peg) : (s.onPeg f).inflight = s.inflight := rfl
@[simp] theorem State.onPeg_look (f : Peg → Peg) : (s.onPeg f).look = s.look := rfl
@[simp] theorem State.onPeg_portA (f : Peg → Peg) : (s.onPeg f).portA = s.portA := rfl
@[simp] theorem State.onPeg_stale (f : Peg → Peg) : (s.onPeg f).stale = s.stale := rfl

/-! ## `onPer` -/

@[simp] theorem State.onPer_pending (f : Periph → Periph) : (s.onPer f).pending = s.pending := rfl
@[simp] theorem State.onPer_free (f : Periph → Periph) : (s.onPer f).free = s.free := rfl
@[simp] theorem State.onPer_cores (f : Periph → Periph) : (s.onPer f).cores = s.cores := rfl
@[simp] theorem State.onPer_irq (f : Periph → Periph) : (s.onPer f).irq = s.irq := rfl
@[simp] theorem State.onPer_mem (f : Periph → Periph) : (s.onPer f).mem = s.mem := rfl
@[simp] theorem State.onPer_mm (f : Periph → Periph) : (s.onPer f).mm = s.mm := rfl
@[simp] theorem State.onPer_wdn (f : Periph → Periph) : (s.onPer f).wdn = s.wdn := rfl
@[simp] theorem State.onPer_itg (f : Periph → Periph) : (s.onPer f).itg = s.itg := rfl
@[simp] theorem State.onPer_rp (f : Periph → Periph) : (s.onPer f).rp = s.rp := rfl
@[simp] theorem State.onPer_pwr (f : Periph → Periph) : (s.onPer f).pwr = s.pwr := rfl
@[simp] theorem State.onPer_clk (f : Periph → Periph) : (s.onPer f).clk = s.clk := rfl
@[simp] theorem State.onPer_peg (f : Periph → Periph) : (s.onPer f).peg = s.peg := rfl
@[simp] theorem State.onPer_per (f : Periph → Periph) : (s.onPer f).per = f s.per := rfl
@[simp] theorem State.onPer_snap (f : Periph → Periph) : (s.onPer f).snap = s.snap := rfl
@[simp] theorem State.onPer_inflight (f : Periph → Periph) : (s.onPer f).inflight = s.inflight := rfl
@[simp] theorem State.onPer_look (f : Periph → Periph) : (s.onPer f).look = s.look := rfl
@[simp] theorem State.onPer_portA (f : Periph → Periph) : (s.onPer f).portA = s.portA := rfl
@[simp] theorem State.onPer_stale (f : Periph → Periph) : (s.onPer f).stale = s.stale := rfl

/-! ## `useFree` -/

@[simp] theorem State.useFree_pending (k : Nat) : (s.useFree k).pending = s.pending := rfl
@[simp] theorem State.useFree_free (k : Nat) : (s.useFree k).free = s.free + k := rfl
@[simp] theorem State.useFree_cores (k : Nat) : (s.useFree k).cores = s.cores := rfl
@[simp] theorem State.useFree_irq (k : Nat) : (s.useFree k).irq = s.irq := rfl
@[simp] theorem State.useFree_mem (k : Nat) : (s.useFree k).mem = s.mem := rfl
@[simp] theorem State.useFree_mm (k : Nat) : (s.useFree k).mm = s.mm := rfl
@[simp] theorem State.useFree_wdn (k : Nat) : (s.useFree k).wdn = s.wdn := rfl
@[simp] theorem State.useFree_itg (k : Nat) : (s.useFree k).itg = s.itg := rfl
@[simp] theorem State.useFree_rp (k : Nat) : (s.useFree k).rp = s.rp := rfl
@[simp] theorem State.useFree_pwr (k : Nat) : (s.useFree k).pwr = s.pwr := rfl
@[simp] theorem State.useFree_clk (k : Nat) : (s.useFree k).clk = s.clk := rfl
@[simp] theorem State.useFree_peg (k : Nat) : (s.useFree k).peg = s.peg := rfl
@[simp] theorem State.useFree_per (k : Nat) : (s.useFree k).per = s.per := rfl
@[simp] theorem State.useFree_snap (k : Nat) : (s.useFree k).snap = s.snap := rfl
@[simp] theorem State.useFree_inflight (k : Nat) : (s.useFree k).inflight = s.inflight := rfl
@[simp] theorem State.useFree_look (k : Nat) : (s.useFree k).look = s.look := rfl
@[simp] theorem State.useFree_portA (k : Nat) : (s.useFree k).portA = s.portA := rfl
@[simp] theorem State.useFree_stale (k : Nat) : (s.useFree k).stale = s.stale := rfl

/-! ## `onPin` -/

@[simp] theorem State.onPin_pending (f : Pin → Pin) : (s.onPin f).pending = s.pending := rfl
@[simp] theorem State.onPin_free (f : Pin → Pin) : (s.onPin f).free = s.free := rfl
@[simp] theorem State.onPin_cores (f : Pin → Pin) : (s.onPin f).cores = s.cores := rfl
@[simp] theorem State.onPin_irq (f : Pin → Pin) : (s.onPin f).irq = s.irq := rfl
@[simp] theorem State.onPin_mem (f : Pin → Pin) : (s.onPin f).mem = s.mem := rfl
@[simp] theorem State.onPin_mm (f : Pin → Pin) : (s.onPin f).mm = s.mm := rfl
@[simp] theorem State.onPin_wdn (f : Pin → Pin) : (s.onPin f).wdn = s.wdn := rfl
@[simp] theorem State.onPin_itg (f : Pin → Pin) : (s.onPin f).itg = s.itg := rfl
@[simp] theorem State.onPin_rp (f : Pin → Pin) : (s.onPin f).rp = s.rp := rfl
@[simp] theorem State.onPin_pwr (f : Pin → Pin) : (s.onPin f).pwr = s.pwr := rfl
@[simp] theorem State.onPin_clk (f : Pin → Pin) : (s.onPin f).clk = s.clk := rfl
@[simp] theorem State.onPin_peg (f : Pin → Pin) : (s.onPin f).peg = s.peg := rfl
@[simp] theorem State.onPin_snap (f : Pin → Pin) : (s.onPin f).snap = s.snap := rfl
@[simp] theorem State.onPin_inflight (f : Pin → Pin) : (s.onPin f).inflight = s.inflight := rfl
@[simp] theorem State.onPin_look (f : Pin → Pin) : (s.onPin f).look = s.look := rfl
@[simp] theorem State.onPin_portA (f : Pin → Pin) : (s.onPin f).portA = s.portA := rfl
@[simp] theorem State.onPin_stale (f : Pin → Pin) : (s.onPin f).stale = s.stale := rfl
@[simp] theorem State.onPin_per_pin (f : Pin → Pin) : (s.onPin f).per.pin = f s.per.pin := rfl
@[simp] theorem State.onPin_per_tim (f : Pin → Pin) : (s.onPin f).per.tim = s.per.tim := rfl
@[simp] theorem State.onPin_per_ua (f : Pin → Pin) : (s.onPin f).per.ua = s.per.ua := rfl
@[simp] theorem State.onPin_per_tch (f : Pin → Pin) : (s.onPin f).per.tch = s.per.tch := rfl
@[simp] theorem State.onPin_per_rf (f : Pin → Pin) : (s.onPin f).per.rf = s.per.rf := rfl
@[simp] theorem State.onPin_per_net (f : Pin → Pin) : (s.onPin f).per.net = s.per.net := rfl
@[simp] theorem State.onPin_per_evt (f : Pin → Pin) : (s.onPin f).per.evt = s.per.evt := rfl
@[simp] theorem State.onPin_per_rtc (f : Pin → Pin) : (s.onPin f).per.rtc = s.per.rtc := rfl
@[simp] theorem State.onPin_per_hrv (f : Pin → Pin) : (s.onPin f).per.hrv = s.per.hrv := rfl
@[simp] theorem State.onPin_per_cnt (f : Pin → Pin) : (s.onPin f).per.cnt = s.per.cnt := rfl

/-! ## `onTim` -/

@[simp] theorem State.onTim_pending (n : Nat) (f : Tim → Tim) : (s.onTim n f).pending = s.pending := rfl
@[simp] theorem State.onTim_free (n : Nat) (f : Tim → Tim) : (s.onTim n f).free = s.free := rfl
@[simp] theorem State.onTim_cores (n : Nat) (f : Tim → Tim) : (s.onTim n f).cores = s.cores := rfl
@[simp] theorem State.onTim_irq (n : Nat) (f : Tim → Tim) : (s.onTim n f).irq = s.irq := rfl
@[simp] theorem State.onTim_mem (n : Nat) (f : Tim → Tim) : (s.onTim n f).mem = s.mem := rfl
@[simp] theorem State.onTim_mm (n : Nat) (f : Tim → Tim) : (s.onTim n f).mm = s.mm := rfl
@[simp] theorem State.onTim_wdn (n : Nat) (f : Tim → Tim) : (s.onTim n f).wdn = s.wdn := rfl
@[simp] theorem State.onTim_itg (n : Nat) (f : Tim → Tim) : (s.onTim n f).itg = s.itg := rfl
@[simp] theorem State.onTim_rp (n : Nat) (f : Tim → Tim) : (s.onTim n f).rp = s.rp := rfl
@[simp] theorem State.onTim_pwr (n : Nat) (f : Tim → Tim) : (s.onTim n f).pwr = s.pwr := rfl
@[simp] theorem State.onTim_clk (n : Nat) (f : Tim → Tim) : (s.onTim n f).clk = s.clk := rfl
@[simp] theorem State.onTim_peg (n : Nat) (f : Tim → Tim) : (s.onTim n f).peg = s.peg := rfl
@[simp] theorem State.onTim_snap (n : Nat) (f : Tim → Tim) : (s.onTim n f).snap = s.snap := rfl
@[simp] theorem State.onTim_inflight (n : Nat) (f : Tim → Tim) :
    (s.onTim n f).inflight = s.inflight := rfl
@[simp] theorem State.onTim_look (n : Nat) (f : Tim → Tim) : (s.onTim n f).look = s.look := rfl
@[simp] theorem State.onTim_portA (n : Nat) (f : Tim → Tim) : (s.onTim n f).portA = s.portA := rfl
@[simp] theorem State.onTim_stale (n : Nat) (f : Tim → Tim) : (s.onTim n f).stale = s.stale := rfl
@[simp] theorem State.onTim_per_pin (n : Nat) (f : Tim → Tim) : (s.onTim n f).per.pin = s.per.pin := rfl
@[simp] theorem State.onTim_per_tim (n : Nat) (f : Tim → Tim) :
    (s.onTim n f).per.tim = vmod s.per.tim n f := rfl
@[simp] theorem State.onTim_per_ua (n : Nat) (f : Tim → Tim) : (s.onTim n f).per.ua = s.per.ua := rfl
@[simp] theorem State.onTim_per_tch (n : Nat) (f : Tim → Tim) : (s.onTim n f).per.tch = s.per.tch := rfl
@[simp] theorem State.onTim_per_rf (n : Nat) (f : Tim → Tim) : (s.onTim n f).per.rf = s.per.rf := rfl
@[simp] theorem State.onTim_per_net (n : Nat) (f : Tim → Tim) : (s.onTim n f).per.net = s.per.net := rfl
@[simp] theorem State.onTim_per_evt (n : Nat) (f : Tim → Tim) : (s.onTim n f).per.evt = s.per.evt := rfl
@[simp] theorem State.onTim_per_rtc (n : Nat) (f : Tim → Tim) : (s.onTim n f).per.rtc = s.per.rtc := rfl
@[simp] theorem State.onTim_per_hrv (n : Nat) (f : Tim → Tim) : (s.onTim n f).per.hrv = s.per.hrv := rfl
@[simp] theorem State.onTim_per_cnt (n : Nat) (f : Tim → Tim) : (s.onTim n f).per.cnt = s.per.cnt := rfl

/-! ## `onUa` -/

@[simp] theorem State.onUa_pending (n : Nat) (f : Ua → Ua) : (s.onUa n f).pending = s.pending := rfl
@[simp] theorem State.onUa_free (n : Nat) (f : Ua → Ua) : (s.onUa n f).free = s.free := rfl
@[simp] theorem State.onUa_cores (n : Nat) (f : Ua → Ua) : (s.onUa n f).cores = s.cores := rfl
@[simp] theorem State.onUa_irq (n : Nat) (f : Ua → Ua) : (s.onUa n f).irq = s.irq := rfl
@[simp] theorem State.onUa_mem (n : Nat) (f : Ua → Ua) : (s.onUa n f).mem = s.mem := rfl
@[simp] theorem State.onUa_mm (n : Nat) (f : Ua → Ua) : (s.onUa n f).mm = s.mm := rfl
@[simp] theorem State.onUa_wdn (n : Nat) (f : Ua → Ua) : (s.onUa n f).wdn = s.wdn := rfl
@[simp] theorem State.onUa_itg (n : Nat) (f : Ua → Ua) : (s.onUa n f).itg = s.itg := rfl
@[simp] theorem State.onUa_rp (n : Nat) (f : Ua → Ua) : (s.onUa n f).rp = s.rp := rfl
@[simp] theorem State.onUa_pwr (n : Nat) (f : Ua → Ua) : (s.onUa n f).pwr = s.pwr := rfl
@[simp] theorem State.onUa_clk (n : Nat) (f : Ua → Ua) : (s.onUa n f).clk = s.clk := rfl
@[simp] theorem State.onUa_peg (n : Nat) (f : Ua → Ua) : (s.onUa n f).peg = s.peg := rfl
@[simp] theorem State.onUa_snap (n : Nat) (f : Ua → Ua) : (s.onUa n f).snap = s.snap := rfl
@[simp] theorem State.onUa_inflight (n : Nat) (f : Ua → Ua) : (s.onUa n f).inflight = s.inflight := rfl
@[simp] theorem State.onUa_look (n : Nat) (f : Ua → Ua) : (s.onUa n f).look = s.look := rfl
@[simp] theorem State.onUa_portA (n : Nat) (f : Ua → Ua) : (s.onUa n f).portA = s.portA := rfl
@[simp] theorem State.onUa_stale (n : Nat) (f : Ua → Ua) : (s.onUa n f).stale = s.stale := rfl
@[simp] theorem State.onUa_per_pin (n : Nat) (f : Ua → Ua) : (s.onUa n f).per.pin = s.per.pin := rfl
@[simp] theorem State.onUa_per_tim (n : Nat) (f : Ua → Ua) : (s.onUa n f).per.tim = s.per.tim := rfl
@[simp] theorem State.onUa_per_ua (n : Nat) (f : Ua → Ua) :
    (s.onUa n f).per.ua = vmod s.per.ua n f := rfl
@[simp] theorem State.onUa_per_tch (n : Nat) (f : Ua → Ua) : (s.onUa n f).per.tch = s.per.tch := rfl
@[simp] theorem State.onUa_per_rf (n : Nat) (f : Ua → Ua) : (s.onUa n f).per.rf = s.per.rf := rfl
@[simp] theorem State.onUa_per_net (n : Nat) (f : Ua → Ua) : (s.onUa n f).per.net = s.per.net := rfl
@[simp] theorem State.onUa_per_evt (n : Nat) (f : Ua → Ua) : (s.onUa n f).per.evt = s.per.evt := rfl
@[simp] theorem State.onUa_per_rtc (n : Nat) (f : Ua → Ua) : (s.onUa n f).per.rtc = s.per.rtc := rfl
@[simp] theorem State.onUa_per_hrv (n : Nat) (f : Ua → Ua) : (s.onUa n f).per.hrv = s.per.hrv := rfl
@[simp] theorem State.onUa_per_cnt (n : Nat) (f : Ua → Ua) : (s.onUa n f).per.cnt = s.per.cnt := rfl

/-! ## `onTch` -/

@[simp] theorem State.onTch_pending (f : Tch → Tch) : (s.onTch f).pending = s.pending := rfl
@[simp] theorem State.onTch_free (f : Tch → Tch) : (s.onTch f).free = s.free := rfl
@[simp] theorem State.onTch_cores (f : Tch → Tch) : (s.onTch f).cores = s.cores := rfl
@[simp] theorem State.onTch_irq (f : Tch → Tch) : (s.onTch f).irq = s.irq := rfl
@[simp] theorem State.onTch_mem (f : Tch → Tch) : (s.onTch f).mem = s.mem := rfl
@[simp] theorem State.onTch_mm (f : Tch → Tch) : (s.onTch f).mm = s.mm := rfl
@[simp] theorem State.onTch_wdn (f : Tch → Tch) : (s.onTch f).wdn = s.wdn := rfl
@[simp] theorem State.onTch_itg (f : Tch → Tch) : (s.onTch f).itg = s.itg := rfl
@[simp] theorem State.onTch_rp (f : Tch → Tch) : (s.onTch f).rp = s.rp := rfl
@[simp] theorem State.onTch_pwr (f : Tch → Tch) : (s.onTch f).pwr = s.pwr := rfl
@[simp] theorem State.onTch_clk (f : Tch → Tch) : (s.onTch f).clk = s.clk := rfl
@[simp] theorem State.onTch_peg (f : Tch → Tch) : (s.onTch f).peg = s.peg := rfl
@[simp] theorem State.onTch_snap (f : Tch → Tch) : (s.onTch f).snap = s.snap := rfl
@[simp] theorem State.onTch_inflight (f : Tch → Tch) : (s.onTch f).inflight = s.inflight := rfl
@[simp] theorem State.onTch_look (f : Tch → Tch) : (s.onTch f).look = s.look := rfl
@[simp] theorem State.onTch_portA (f : Tch → Tch) : (s.onTch f).portA = s.portA := rfl
@[simp] theorem State.onTch_stale (f : Tch → Tch) : (s.onTch f).stale = s.stale := rfl
@[simp] theorem State.onTch_per_pin (f : Tch → Tch) : (s.onTch f).per.pin = s.per.pin := rfl
@[simp] theorem State.onTch_per_tim (f : Tch → Tch) : (s.onTch f).per.tim = s.per.tim := rfl
@[simp] theorem State.onTch_per_ua (f : Tch → Tch) : (s.onTch f).per.ua = s.per.ua := rfl
@[simp] theorem State.onTch_per_tch (f : Tch → Tch) : (s.onTch f).per.tch = f s.per.tch := rfl
@[simp] theorem State.onTch_per_rf (f : Tch → Tch) : (s.onTch f).per.rf = s.per.rf := rfl
@[simp] theorem State.onTch_per_net (f : Tch → Tch) : (s.onTch f).per.net = s.per.net := rfl
@[simp] theorem State.onTch_per_evt (f : Tch → Tch) : (s.onTch f).per.evt = s.per.evt := rfl
@[simp] theorem State.onTch_per_rtc (f : Tch → Tch) : (s.onTch f).per.rtc = s.per.rtc := rfl
@[simp] theorem State.onTch_per_hrv (f : Tch → Tch) : (s.onTch f).per.hrv = s.per.hrv := rfl
@[simp] theorem State.onTch_per_cnt (f : Tch → Tch) : (s.onTch f).per.cnt = s.per.cnt := rfl

/-! ## `onRf` -/

@[simp] theorem State.onRf_pending (f : Rf → Rf) : (s.onRf f).pending = s.pending := rfl
@[simp] theorem State.onRf_free (f : Rf → Rf) : (s.onRf f).free = s.free := rfl
@[simp] theorem State.onRf_cores (f : Rf → Rf) : (s.onRf f).cores = s.cores := rfl
@[simp] theorem State.onRf_irq (f : Rf → Rf) : (s.onRf f).irq = s.irq := rfl
@[simp] theorem State.onRf_mem (f : Rf → Rf) : (s.onRf f).mem = s.mem := rfl
@[simp] theorem State.onRf_mm (f : Rf → Rf) : (s.onRf f).mm = s.mm := rfl
@[simp] theorem State.onRf_wdn (f : Rf → Rf) : (s.onRf f).wdn = s.wdn := rfl
@[simp] theorem State.onRf_itg (f : Rf → Rf) : (s.onRf f).itg = s.itg := rfl
@[simp] theorem State.onRf_rp (f : Rf → Rf) : (s.onRf f).rp = s.rp := rfl
@[simp] theorem State.onRf_pwr (f : Rf → Rf) : (s.onRf f).pwr = s.pwr := rfl
@[simp] theorem State.onRf_clk (f : Rf → Rf) : (s.onRf f).clk = s.clk := rfl
@[simp] theorem State.onRf_peg (f : Rf → Rf) : (s.onRf f).peg = s.peg := rfl
@[simp] theorem State.onRf_snap (f : Rf → Rf) : (s.onRf f).snap = s.snap := rfl
@[simp] theorem State.onRf_inflight (f : Rf → Rf) : (s.onRf f).inflight = s.inflight := rfl
@[simp] theorem State.onRf_look (f : Rf → Rf) : (s.onRf f).look = s.look := rfl
@[simp] theorem State.onRf_portA (f : Rf → Rf) : (s.onRf f).portA = s.portA := rfl
@[simp] theorem State.onRf_stale (f : Rf → Rf) : (s.onRf f).stale = s.stale := rfl
@[simp] theorem State.onRf_per_pin (f : Rf → Rf) : (s.onRf f).per.pin = s.per.pin := rfl
@[simp] theorem State.onRf_per_tim (f : Rf → Rf) : (s.onRf f).per.tim = s.per.tim := rfl
@[simp] theorem State.onRf_per_ua (f : Rf → Rf) : (s.onRf f).per.ua = s.per.ua := rfl
@[simp] theorem State.onRf_per_tch (f : Rf → Rf) : (s.onRf f).per.tch = s.per.tch := rfl
@[simp] theorem State.onRf_per_rf (f : Rf → Rf) : (s.onRf f).per.rf = f s.per.rf := rfl
@[simp] theorem State.onRf_per_net (f : Rf → Rf) : (s.onRf f).per.net = s.per.net := rfl
@[simp] theorem State.onRf_per_evt (f : Rf → Rf) : (s.onRf f).per.evt = s.per.evt := rfl
@[simp] theorem State.onRf_per_rtc (f : Rf → Rf) : (s.onRf f).per.rtc = s.per.rtc := rfl
@[simp] theorem State.onRf_per_hrv (f : Rf → Rf) : (s.onRf f).per.hrv = s.per.hrv := rfl
@[simp] theorem State.onRf_per_cnt (f : Rf → Rf) : (s.onRf f).per.cnt = s.per.cnt := rfl

/-! ## `onNet` -/

@[simp] theorem State.onNet_pending (f : Net → Net) : (s.onNet f).pending = s.pending := rfl
@[simp] theorem State.onNet_free (f : Net → Net) : (s.onNet f).free = s.free := rfl
@[simp] theorem State.onNet_cores (f : Net → Net) : (s.onNet f).cores = s.cores := rfl
@[simp] theorem State.onNet_irq (f : Net → Net) : (s.onNet f).irq = s.irq := rfl
@[simp] theorem State.onNet_mem (f : Net → Net) : (s.onNet f).mem = s.mem := rfl
@[simp] theorem State.onNet_mm (f : Net → Net) : (s.onNet f).mm = s.mm := rfl
@[simp] theorem State.onNet_wdn (f : Net → Net) : (s.onNet f).wdn = s.wdn := rfl
@[simp] theorem State.onNet_itg (f : Net → Net) : (s.onNet f).itg = s.itg := rfl
@[simp] theorem State.onNet_rp (f : Net → Net) : (s.onNet f).rp = s.rp := rfl
@[simp] theorem State.onNet_pwr (f : Net → Net) : (s.onNet f).pwr = s.pwr := rfl
@[simp] theorem State.onNet_clk (f : Net → Net) : (s.onNet f).clk = s.clk := rfl
@[simp] theorem State.onNet_peg (f : Net → Net) : (s.onNet f).peg = s.peg := rfl
@[simp] theorem State.onNet_snap (f : Net → Net) : (s.onNet f).snap = s.snap := rfl
@[simp] theorem State.onNet_inflight (f : Net → Net) : (s.onNet f).inflight = s.inflight := rfl
@[simp] theorem State.onNet_look (f : Net → Net) : (s.onNet f).look = s.look := rfl
@[simp] theorem State.onNet_portA (f : Net → Net) : (s.onNet f).portA = s.portA := rfl
@[simp] theorem State.onNet_stale (f : Net → Net) : (s.onNet f).stale = s.stale := rfl
@[simp] theorem State.onNet_per_pin (f : Net → Net) : (s.onNet f).per.pin = s.per.pin := rfl
@[simp] theorem State.onNet_per_tim (f : Net → Net) : (s.onNet f).per.tim = s.per.tim := rfl
@[simp] theorem State.onNet_per_ua (f : Net → Net) : (s.onNet f).per.ua = s.per.ua := rfl
@[simp] theorem State.onNet_per_tch (f : Net → Net) : (s.onNet f).per.tch = s.per.tch := rfl
@[simp] theorem State.onNet_per_rf (f : Net → Net) : (s.onNet f).per.rf = s.per.rf := rfl
@[simp] theorem State.onNet_per_net (f : Net → Net) : (s.onNet f).per.net = f s.per.net := rfl
@[simp] theorem State.onNet_per_evt (f : Net → Net) : (s.onNet f).per.evt = s.per.evt := rfl
@[simp] theorem State.onNet_per_rtc (f : Net → Net) : (s.onNet f).per.rtc = s.per.rtc := rfl
@[simp] theorem State.onNet_per_hrv (f : Net → Net) : (s.onNet f).per.hrv = s.per.hrv := rfl
@[simp] theorem State.onNet_per_cnt (f : Net → Net) : (s.onNet f).per.cnt = s.per.cnt := rfl

/-! ## `onEvt` -/

@[simp] theorem State.onEvt_pending (f : Evt → Evt) : (s.onEvt f).pending = s.pending := rfl
@[simp] theorem State.onEvt_free (f : Evt → Evt) : (s.onEvt f).free = s.free := rfl
@[simp] theorem State.onEvt_cores (f : Evt → Evt) : (s.onEvt f).cores = s.cores := rfl
@[simp] theorem State.onEvt_irq (f : Evt → Evt) : (s.onEvt f).irq = s.irq := rfl
@[simp] theorem State.onEvt_mem (f : Evt → Evt) : (s.onEvt f).mem = s.mem := rfl
@[simp] theorem State.onEvt_mm (f : Evt → Evt) : (s.onEvt f).mm = s.mm := rfl
@[simp] theorem State.onEvt_wdn (f : Evt → Evt) : (s.onEvt f).wdn = s.wdn := rfl
@[simp] theorem State.onEvt_itg (f : Evt → Evt) : (s.onEvt f).itg = s.itg := rfl
@[simp] theorem State.onEvt_rp (f : Evt → Evt) : (s.onEvt f).rp = s.rp := rfl
@[simp] theorem State.onEvt_pwr (f : Evt → Evt) : (s.onEvt f).pwr = s.pwr := rfl
@[simp] theorem State.onEvt_clk (f : Evt → Evt) : (s.onEvt f).clk = s.clk := rfl
@[simp] theorem State.onEvt_peg (f : Evt → Evt) : (s.onEvt f).peg = s.peg := rfl
@[simp] theorem State.onEvt_snap (f : Evt → Evt) : (s.onEvt f).snap = s.snap := rfl
@[simp] theorem State.onEvt_inflight (f : Evt → Evt) : (s.onEvt f).inflight = s.inflight := rfl
@[simp] theorem State.onEvt_look (f : Evt → Evt) : (s.onEvt f).look = s.look := rfl
@[simp] theorem State.onEvt_portA (f : Evt → Evt) : (s.onEvt f).portA = s.portA := rfl
@[simp] theorem State.onEvt_stale (f : Evt → Evt) : (s.onEvt f).stale = s.stale := rfl
@[simp] theorem State.onEvt_per_pin (f : Evt → Evt) : (s.onEvt f).per.pin = s.per.pin := rfl
@[simp] theorem State.onEvt_per_tim (f : Evt → Evt) : (s.onEvt f).per.tim = s.per.tim := rfl
@[simp] theorem State.onEvt_per_ua (f : Evt → Evt) : (s.onEvt f).per.ua = s.per.ua := rfl
@[simp] theorem State.onEvt_per_tch (f : Evt → Evt) : (s.onEvt f).per.tch = s.per.tch := rfl
@[simp] theorem State.onEvt_per_rf (f : Evt → Evt) : (s.onEvt f).per.rf = s.per.rf := rfl
@[simp] theorem State.onEvt_per_net (f : Evt → Evt) : (s.onEvt f).per.net = s.per.net := rfl
@[simp] theorem State.onEvt_per_evt (f : Evt → Evt) : (s.onEvt f).per.evt = f s.per.evt := rfl
@[simp] theorem State.onEvt_per_rtc (f : Evt → Evt) : (s.onEvt f).per.rtc = s.per.rtc := rfl
@[simp] theorem State.onEvt_per_hrv (f : Evt → Evt) : (s.onEvt f).per.hrv = s.per.hrv := rfl
@[simp] theorem State.onEvt_per_cnt (f : Evt → Evt) : (s.onEvt f).per.cnt = s.per.cnt := rfl

/-! ## `onRtc` -/

@[simp] theorem State.onRtc_pending (f : Rtc → Rtc) : (s.onRtc f).pending = s.pending := rfl
@[simp] theorem State.onRtc_free (f : Rtc → Rtc) : (s.onRtc f).free = s.free := rfl
@[simp] theorem State.onRtc_cores (f : Rtc → Rtc) : (s.onRtc f).cores = s.cores := rfl
@[simp] theorem State.onRtc_irq (f : Rtc → Rtc) : (s.onRtc f).irq = s.irq := rfl
@[simp] theorem State.onRtc_mem (f : Rtc → Rtc) : (s.onRtc f).mem = s.mem := rfl
@[simp] theorem State.onRtc_mm (f : Rtc → Rtc) : (s.onRtc f).mm = s.mm := rfl
@[simp] theorem State.onRtc_wdn (f : Rtc → Rtc) : (s.onRtc f).wdn = s.wdn := rfl
@[simp] theorem State.onRtc_itg (f : Rtc → Rtc) : (s.onRtc f).itg = s.itg := rfl
@[simp] theorem State.onRtc_rp (f : Rtc → Rtc) : (s.onRtc f).rp = s.rp := rfl
@[simp] theorem State.onRtc_pwr (f : Rtc → Rtc) : (s.onRtc f).pwr = s.pwr := rfl
@[simp] theorem State.onRtc_clk (f : Rtc → Rtc) : (s.onRtc f).clk = s.clk := rfl
@[simp] theorem State.onRtc_peg (f : Rtc → Rtc) : (s.onRtc f).peg = s.peg := rfl
@[simp] theorem State.onRtc_snap (f : Rtc → Rtc) : (s.onRtc f).snap = s.snap := rfl
@[simp] theorem State.onRtc_inflight (f : Rtc → Rtc) : (s.onRtc f).inflight = s.inflight := rfl
@[simp] theorem State.onRtc_look (f : Rtc → Rtc) : (s.onRtc f).look = s.look := rfl
@[simp] theorem State.onRtc_portA (f : Rtc → Rtc) : (s.onRtc f).portA = s.portA := rfl
@[simp] theorem State.onRtc_stale (f : Rtc → Rtc) : (s.onRtc f).stale = s.stale := rfl
@[simp] theorem State.onRtc_per_pin (f : Rtc → Rtc) : (s.onRtc f).per.pin = s.per.pin := rfl
@[simp] theorem State.onRtc_per_tim (f : Rtc → Rtc) : (s.onRtc f).per.tim = s.per.tim := rfl
@[simp] theorem State.onRtc_per_ua (f : Rtc → Rtc) : (s.onRtc f).per.ua = s.per.ua := rfl
@[simp] theorem State.onRtc_per_tch (f : Rtc → Rtc) : (s.onRtc f).per.tch = s.per.tch := rfl
@[simp] theorem State.onRtc_per_rf (f : Rtc → Rtc) : (s.onRtc f).per.rf = s.per.rf := rfl
@[simp] theorem State.onRtc_per_net (f : Rtc → Rtc) : (s.onRtc f).per.net = s.per.net := rfl
@[simp] theorem State.onRtc_per_evt (f : Rtc → Rtc) : (s.onRtc f).per.evt = s.per.evt := rfl
@[simp] theorem State.onRtc_per_rtc (f : Rtc → Rtc) : (s.onRtc f).per.rtc = f s.per.rtc := rfl
@[simp] theorem State.onRtc_per_hrv (f : Rtc → Rtc) : (s.onRtc f).per.hrv = s.per.hrv := rfl
@[simp] theorem State.onRtc_per_cnt (f : Rtc → Rtc) : (s.onRtc f).per.cnt = s.per.cnt := rfl

/-! ## `onHrv` -/

@[simp] theorem State.onHrv_pending (f : Hrv → Hrv) : (s.onHrv f).pending = s.pending := rfl
@[simp] theorem State.onHrv_free (f : Hrv → Hrv) : (s.onHrv f).free = s.free := rfl
@[simp] theorem State.onHrv_cores (f : Hrv → Hrv) : (s.onHrv f).cores = s.cores := rfl
@[simp] theorem State.onHrv_irq (f : Hrv → Hrv) : (s.onHrv f).irq = s.irq := rfl
@[simp] theorem State.onHrv_mem (f : Hrv → Hrv) : (s.onHrv f).mem = s.mem := rfl
@[simp] theorem State.onHrv_mm (f : Hrv → Hrv) : (s.onHrv f).mm = s.mm := rfl
@[simp] theorem State.onHrv_wdn (f : Hrv → Hrv) : (s.onHrv f).wdn = s.wdn := rfl
@[simp] theorem State.onHrv_itg (f : Hrv → Hrv) : (s.onHrv f).itg = s.itg := rfl
@[simp] theorem State.onHrv_rp (f : Hrv → Hrv) : (s.onHrv f).rp = s.rp := rfl
@[simp] theorem State.onHrv_pwr (f : Hrv → Hrv) : (s.onHrv f).pwr = s.pwr := rfl
@[simp] theorem State.onHrv_clk (f : Hrv → Hrv) : (s.onHrv f).clk = s.clk := rfl
@[simp] theorem State.onHrv_peg (f : Hrv → Hrv) : (s.onHrv f).peg = s.peg := rfl
@[simp] theorem State.onHrv_snap (f : Hrv → Hrv) : (s.onHrv f).snap = s.snap := rfl
@[simp] theorem State.onHrv_inflight (f : Hrv → Hrv) : (s.onHrv f).inflight = s.inflight := rfl
@[simp] theorem State.onHrv_look (f : Hrv → Hrv) : (s.onHrv f).look = s.look := rfl
@[simp] theorem State.onHrv_portA (f : Hrv → Hrv) : (s.onHrv f).portA = s.portA := rfl
@[simp] theorem State.onHrv_stale (f : Hrv → Hrv) : (s.onHrv f).stale = s.stale := rfl
@[simp] theorem State.onHrv_per_pin (f : Hrv → Hrv) : (s.onHrv f).per.pin = s.per.pin := rfl
@[simp] theorem State.onHrv_per_tim (f : Hrv → Hrv) : (s.onHrv f).per.tim = s.per.tim := rfl
@[simp] theorem State.onHrv_per_ua (f : Hrv → Hrv) : (s.onHrv f).per.ua = s.per.ua := rfl
@[simp] theorem State.onHrv_per_tch (f : Hrv → Hrv) : (s.onHrv f).per.tch = s.per.tch := rfl
@[simp] theorem State.onHrv_per_rf (f : Hrv → Hrv) : (s.onHrv f).per.rf = s.per.rf := rfl
@[simp] theorem State.onHrv_per_net (f : Hrv → Hrv) : (s.onHrv f).per.net = s.per.net := rfl
@[simp] theorem State.onHrv_per_evt (f : Hrv → Hrv) : (s.onHrv f).per.evt = s.per.evt := rfl
@[simp] theorem State.onHrv_per_rtc (f : Hrv → Hrv) : (s.onHrv f).per.rtc = s.per.rtc := rfl
@[simp] theorem State.onHrv_per_hrv (f : Hrv → Hrv) : (s.onHrv f).per.hrv = f s.per.hrv := rfl
@[simp] theorem State.onHrv_per_cnt (f : Hrv → Hrv) : (s.onHrv f).per.cnt = s.per.cnt := rfl

/-! ## `onCnt` -/

@[simp] theorem State.onCnt_pending (f : Cnt → Cnt) : (s.onCnt f).pending = s.pending := rfl
@[simp] theorem State.onCnt_free (f : Cnt → Cnt) : (s.onCnt f).free = s.free := rfl
@[simp] theorem State.onCnt_cores (f : Cnt → Cnt) : (s.onCnt f).cores = s.cores := rfl
@[simp] theorem State.onCnt_irq (f : Cnt → Cnt) : (s.onCnt f).irq = s.irq := rfl
@[simp] theorem State.onCnt_mem (f : Cnt → Cnt) : (s.onCnt f).mem = s.mem := rfl
@[simp] theorem State.onCnt_mm (f : Cnt → Cnt) : (s.onCnt f).mm = s.mm := rfl
@[simp] theorem State.onCnt_wdn (f : Cnt → Cnt) : (s.onCnt f).wdn = s.wdn := rfl
@[simp] theorem State.onCnt_itg (f : Cnt → Cnt) : (s.onCnt f).itg = s.itg := rfl
@[simp] theorem State.onCnt_rp (f : Cnt → Cnt) : (s.onCnt f).rp = s.rp := rfl
@[simp] theorem State.onCnt_pwr (f : Cnt → Cnt) : (s.onCnt f).pwr = s.pwr := rfl
@[simp] theorem State.onCnt_clk (f : Cnt → Cnt) : (s.onCnt f).clk = s.clk := rfl
@[simp] theorem State.onCnt_peg (f : Cnt → Cnt) : (s.onCnt f).peg = s.peg := rfl
@[simp] theorem State.onCnt_snap (f : Cnt → Cnt) : (s.onCnt f).snap = s.snap := rfl
@[simp] theorem State.onCnt_inflight (f : Cnt → Cnt) : (s.onCnt f).inflight = s.inflight := rfl
@[simp] theorem State.onCnt_look (f : Cnt → Cnt) : (s.onCnt f).look = s.look := rfl
@[simp] theorem State.onCnt_portA (f : Cnt → Cnt) : (s.onCnt f).portA = s.portA := rfl
@[simp] theorem State.onCnt_stale (f : Cnt → Cnt) : (s.onCnt f).stale = s.stale := rfl
@[simp] theorem State.onCnt_per_pin (f : Cnt → Cnt) : (s.onCnt f).per.pin = s.per.pin := rfl
@[simp] theorem State.onCnt_per_tim (f : Cnt → Cnt) : (s.onCnt f).per.tim = s.per.tim := rfl
@[simp] theorem State.onCnt_per_ua (f : Cnt → Cnt) : (s.onCnt f).per.ua = s.per.ua := rfl
@[simp] theorem State.onCnt_per_tch (f : Cnt → Cnt) : (s.onCnt f).per.tch = s.per.tch := rfl
@[simp] theorem State.onCnt_per_rf (f : Cnt → Cnt) : (s.onCnt f).per.rf = s.per.rf := rfl
@[simp] theorem State.onCnt_per_net (f : Cnt → Cnt) : (s.onCnt f).per.net = s.per.net := rfl
@[simp] theorem State.onCnt_per_evt (f : Cnt → Cnt) : (s.onCnt f).per.evt = s.per.evt := rfl
@[simp] theorem State.onCnt_per_rtc (f : Cnt → Cnt) : (s.onCnt f).per.rtc = s.per.rtc := rfl
@[simp] theorem State.onCnt_per_hrv (f : Cnt → Cnt) : (s.onCnt f).per.hrv = s.per.hrv := rfl
@[simp] theorem State.onCnt_per_cnt (f : Cnt → Cnt) : (s.onCnt f).per.cnt = f s.per.cnt := rfl

/-! ## `onObj` -/

@[simp] theorem State.onObj_pending (i : Nat) (f : ObjEntry → ObjEntry) :
    (s.onObj i f).pending = s.pending := rfl
@[simp] theorem State.onObj_free (i : Nat) (f : ObjEntry → ObjEntry) :
    (s.onObj i f).free = s.free := rfl
@[simp] theorem State.onObj_cores (i : Nat) (f : ObjEntry → ObjEntry) :
    (s.onObj i f).cores = s.cores := rfl
@[simp] theorem State.onObj_irq (i : Nat) (f : ObjEntry → ObjEntry) : (s.onObj i f).irq = s.irq := rfl
@[simp] theorem State.onObj_mem (i : Nat) (f : ObjEntry → ObjEntry) : (s.onObj i f).mem = s.mem := rfl
@[simp] theorem State.onObj_mm (i : Nat) (f : ObjEntry → ObjEntry) : (s.onObj i f).mm = s.mm := rfl
@[simp] theorem State.onObj_itg (i : Nat) (f : ObjEntry → ObjEntry) : (s.onObj i f).itg = s.itg := rfl
@[simp] theorem State.onObj_rp (i : Nat) (f : ObjEntry → ObjEntry) : (s.onObj i f).rp = s.rp := rfl
@[simp] theorem State.onObj_pwr (i : Nat) (f : ObjEntry → ObjEntry) : (s.onObj i f).pwr = s.pwr := rfl
@[simp] theorem State.onObj_clk (i : Nat) (f : ObjEntry → ObjEntry) : (s.onObj i f).clk = s.clk := rfl
@[simp] theorem State.onObj_peg (i : Nat) (f : ObjEntry → ObjEntry) : (s.onObj i f).peg = s.peg := rfl
@[simp] theorem State.onObj_per (i : Nat) (f : ObjEntry → ObjEntry) : (s.onObj i f).per = s.per := rfl
@[simp] theorem State.onObj_snap (i : Nat) (f : ObjEntry → ObjEntry) :
    (s.onObj i f).snap = s.snap := rfl
@[simp] theorem State.onObj_inflight (i : Nat) (f : ObjEntry → ObjEntry) :
    (s.onObj i f).inflight = s.inflight := rfl
@[simp] theorem State.onObj_look (i : Nat) (f : ObjEntry → ObjEntry) :
    (s.onObj i f).look = s.look := rfl
@[simp] theorem State.onObj_portA (i : Nat) (f : ObjEntry → ObjEntry) :
    (s.onObj i f).portA = s.portA := rfl
@[simp] theorem State.onObj_stale (i : Nat) (f : ObjEntry → ObjEntry) :
    (s.onObj i f).stale = s.stale := rfl
@[simp] theorem State.onObj_wdn_obj (i : Nat) (f : ObjEntry → ObjEntry) :
    (s.onObj i f).wdn.obj = vmod s.wdn.obj i f := rfl
@[simp] theorem State.onObj_wdn_tsk (i : Nat) (f : ObjEntry → ObjEntry) :
    (s.onObj i f).wdn.tsk = s.wdn.tsk := rfl
@[simp] theorem State.onObj_wdn_bank (i : Nat) (f : ObjEntry → ObjEntry) :
    (s.onObj i f).wdn.bank = s.wdn.bank := rfl
@[simp] theorem State.onObj_wdn_pol (i : Nat) (f : ObjEntry → ObjEntry) :
    (s.onObj i f).wdn.pol = s.wdn.pol := rfl
@[simp] theorem State.onObj_wdn_epoch (i : Nat) (f : ObjEntry → ObjEntry) :
    (s.onObj i f).wdn.epoch = s.wdn.epoch := rfl
@[simp] theorem State.onObj_wdn_lim (i : Nat) (f : ObjEntry → ObjEntry) :
    (s.onObj i f).wdn.lim = s.wdn.lim := rfl
@[simp] theorem State.onObj_wdn_epochLim (i : Nat) (f : ObjEntry → ObjEntry) :
    (s.onObj i f).wdn.epochLim = s.wdn.epochLim := rfl
@[simp] theorem State.onObj_wdn_stat (i : Nat) (f : ObjEntry → ObjEntry) :
    (s.onObj i f).wdn.stat = s.wdn.stat := rfl
@[simp] theorem State.onObj_wdn_migcnt (i : Nat) (f : ObjEntry → ObjEntry) :
    (s.onObj i f).wdn.migcnt = s.wdn.migcnt := rfl
@[simp] theorem State.onObj_wdn_retSb (i : Nat) (f : ObjEntry → ObjEntry) :
    (s.onObj i f).wdn.retSb = s.wdn.retSb := rfl
@[simp] theorem State.onObj_wdn_retire (i : Nat) (f : ObjEntry → ObjEntry) :
    (s.onObj i f).wdn.retire = s.wdn.retire := rfl
@[simp] theorem State.onObj_wdn_retiring (i : Nat) (f : ObjEntry → ObjEntry) :
    (s.onObj i f).wdn.retiring = s.wdn.retiring := rfl
@[simp] theorem State.onObj_wdn_queue (i : Nat) (f : ObjEntry → ObjEntry) :
    (s.onObj i f).wdn.queue = s.wdn.queue := rfl
@[simp] theorem State.onObj_wdn_mig (i : Nat) (f : ObjEntry → ObjEntry) :
    (s.onObj i f).wdn.mig = s.wdn.mig := rfl

/-! ## `onTsk` -/

@[simp] theorem State.onTsk_pending (i : Nat) (f : TaskEntry → TaskEntry) :
    (s.onTsk i f).pending = s.pending := rfl
@[simp] theorem State.onTsk_free (i : Nat) (f : TaskEntry → TaskEntry) :
    (s.onTsk i f).free = s.free := rfl
@[simp] theorem State.onTsk_cores (i : Nat) (f : TaskEntry → TaskEntry) :
    (s.onTsk i f).cores = s.cores := rfl
@[simp] theorem State.onTsk_irq (i : Nat) (f : TaskEntry → TaskEntry) : (s.onTsk i f).irq = s.irq := rfl
@[simp] theorem State.onTsk_mem (i : Nat) (f : TaskEntry → TaskEntry) : (s.onTsk i f).mem = s.mem := rfl
@[simp] theorem State.onTsk_mm (i : Nat) (f : TaskEntry → TaskEntry) : (s.onTsk i f).mm = s.mm := rfl
@[simp] theorem State.onTsk_itg (i : Nat) (f : TaskEntry → TaskEntry) : (s.onTsk i f).itg = s.itg := rfl
@[simp] theorem State.onTsk_rp (i : Nat) (f : TaskEntry → TaskEntry) : (s.onTsk i f).rp = s.rp := rfl
@[simp] theorem State.onTsk_pwr (i : Nat) (f : TaskEntry → TaskEntry) : (s.onTsk i f).pwr = s.pwr := rfl
@[simp] theorem State.onTsk_clk (i : Nat) (f : TaskEntry → TaskEntry) : (s.onTsk i f).clk = s.clk := rfl
@[simp] theorem State.onTsk_peg (i : Nat) (f : TaskEntry → TaskEntry) : (s.onTsk i f).peg = s.peg := rfl
@[simp] theorem State.onTsk_per (i : Nat) (f : TaskEntry → TaskEntry) : (s.onTsk i f).per = s.per := rfl
@[simp] theorem State.onTsk_snap (i : Nat) (f : TaskEntry → TaskEntry) :
    (s.onTsk i f).snap = s.snap := rfl
@[simp] theorem State.onTsk_inflight (i : Nat) (f : TaskEntry → TaskEntry) :
    (s.onTsk i f).inflight = s.inflight := rfl
@[simp] theorem State.onTsk_look (i : Nat) (f : TaskEntry → TaskEntry) :
    (s.onTsk i f).look = s.look := rfl
@[simp] theorem State.onTsk_portA (i : Nat) (f : TaskEntry → TaskEntry) :
    (s.onTsk i f).portA = s.portA := rfl
@[simp] theorem State.onTsk_stale (i : Nat) (f : TaskEntry → TaskEntry) :
    (s.onTsk i f).stale = s.stale := rfl
@[simp] theorem State.onTsk_wdn_obj (i : Nat) (f : TaskEntry → TaskEntry) :
    (s.onTsk i f).wdn.obj = s.wdn.obj := rfl
@[simp] theorem State.onTsk_wdn_tsk (i : Nat) (f : TaskEntry → TaskEntry) :
    (s.onTsk i f).wdn.tsk = vmod s.wdn.tsk i f := rfl
@[simp] theorem State.onTsk_wdn_bank (i : Nat) (f : TaskEntry → TaskEntry) :
    (s.onTsk i f).wdn.bank = s.wdn.bank := rfl
@[simp] theorem State.onTsk_wdn_pol (i : Nat) (f : TaskEntry → TaskEntry) :
    (s.onTsk i f).wdn.pol = s.wdn.pol := rfl
@[simp] theorem State.onTsk_wdn_epoch (i : Nat) (f : TaskEntry → TaskEntry) :
    (s.onTsk i f).wdn.epoch = s.wdn.epoch := rfl
@[simp] theorem State.onTsk_wdn_lim (i : Nat) (f : TaskEntry → TaskEntry) :
    (s.onTsk i f).wdn.lim = s.wdn.lim := rfl
@[simp] theorem State.onTsk_wdn_epochLim (i : Nat) (f : TaskEntry → TaskEntry) :
    (s.onTsk i f).wdn.epochLim = s.wdn.epochLim := rfl
@[simp] theorem State.onTsk_wdn_stat (i : Nat) (f : TaskEntry → TaskEntry) :
    (s.onTsk i f).wdn.stat = s.wdn.stat := rfl
@[simp] theorem State.onTsk_wdn_migcnt (i : Nat) (f : TaskEntry → TaskEntry) :
    (s.onTsk i f).wdn.migcnt = s.wdn.migcnt := rfl
@[simp] theorem State.onTsk_wdn_retSb (i : Nat) (f : TaskEntry → TaskEntry) :
    (s.onTsk i f).wdn.retSb = s.wdn.retSb := rfl
@[simp] theorem State.onTsk_wdn_retire (i : Nat) (f : TaskEntry → TaskEntry) :
    (s.onTsk i f).wdn.retire = s.wdn.retire := rfl
@[simp] theorem State.onTsk_wdn_retiring (i : Nat) (f : TaskEntry → TaskEntry) :
    (s.onTsk i f).wdn.retiring = s.wdn.retiring := rfl
@[simp] theorem State.onTsk_wdn_queue (i : Nat) (f : TaskEntry → TaskEntry) :
    (s.onTsk i f).wdn.queue = s.wdn.queue := rfl
@[simp] theorem State.onTsk_wdn_mig (i : Nat) (f : TaskEntry → TaskEntry) :
    (s.onTsk i f).wdn.mig = s.wdn.mig := rfl

end Sys2Proof.Machine
end

