-- ==== Sys2Proof/Laws/Count.lean ====
section
/-! SUPPORT. Counting events, firing producers and firing interrupt sources change the event counters,
the events on their way to the router and the interrupt controllers, and nothing else. -/

namespace Sys2Proof.Machine

open Sys2Proof

/-- The state without what counting and firing change. -/
def State.base (s : State) : State :=
  { s with irq := State.reset.irq, per := { s.per with cnt := Cnt.reset }, inflight := [] }

variable (s : State)

theorem foldl_base {α : Type} (f : State → α → State) (l : List α)
    (h : ∀ s a, (f s a).base = s.base) : ∀ s, (l.foldl f s).base = s.base := by
  induction l with
  | nil => intro s; rfl
  | cons a l ih => intro s; exact (ih _).trans (h s a)

theorem State.onCnt_base (f : Cnt → Cnt) : (s.onCnt f).base = s.base := rfl

theorem State.onIrq_base (b : Nat) (f : IrqBank → IrqBank) : (s.onIrq b f).base = s.base := rfl

theorem State.fire_base (p : Nat) : (s.fire p).base = s.base := rfl

theorem State.addCount_base (i n : Nat) : (s.addCount i n).base = s.base := by
  unfold State.addCount; dsimp only; split
  · rfl
  · exact State.fire_base ..

theorem State.countRange_base (lo src n k : Nat) : (s.countRange lo src n k).base = s.base := by
  induction k with
  | zero => rfl
  | succ k ih =>
    unfold State.countRange; dsimp only; split
    · exact (State.addCount_base ..).trans ih
    · exact ih

theorem State.countCore_base (c : CoreId) (src n : Nat) : (s.countCore c src n).base = s.base :=
  State.countRange_base ..

theorem State.countSys_base (src n : Nat) : (s.countSys src n).base = s.base :=
  State.countRange_base ..

theorem State.fireSource_base (b src : Nat) : (s.fireSource b src).base = s.base := by
  unfold State.fireSource; dsimp only; split
  · exact State.countSys_base ..
  · rfl

theorem State.fireMask_base (b : Nat) (m : BitVec 64) : (s.fireMask b m).base = s.base := by
  unfold State.fireMask; split
  · rfl
  · exact foldl_base _ _ (fun s i => State.fireSource_base s b i) s

theorem State.fireRisen_base (old : State) : (old.fireRisen s).base = s.base := by
  unfold State.fireRisen
  exact foldl_base _ _ (fun s b => State.fireMask_base s b _) s

theorem State.fireAll_base (old : State) (n : Nat) : (old.fireAll s n).base = s.base := by
  induction n generalizing old s with
  | zero => rfl
  | succ n ih =>
    unfold State.fireAll; dsimp only; split
    · exact State.fireRisen_base ..
    · exact (ih _ _).trans (State.fireRisen_base ..)

theorem State.fireIf_base (b : Bool) (p : Nat) : (s.fireIf b p).base = s.base := by
  unfold State.fireIf; split
  · exact State.fire_base ..
  · rfl

theorem State.fireTriggers_base (old : State) : (old.fireTriggers s).base = s.base := by
  unfold State.fireTriggers
  exact foldl_base _ _
    (fun s u => (State.fireIf_base ..).trans (State.fireIf_base ..)) s

theorem State.fireProducers_base (old : State) : (old.fireProducers s).base = s.base := by
  unfold State.fireProducers
  exact (State.fireIf_base ..).trans ((State.fireIf_base ..).trans (State.fireTriggers_base ..))


/-! ## `fire` -/

@[simp] theorem State.fire_pending (p : Nat) : (s.fire p).pending = s.pending :=
  have h := congrArg State.pending (State.fire_base s p); h
@[simp] theorem State.fire_free (p : Nat) : (s.fire p).free = s.free :=
  have h := congrArg State.free (State.fire_base s p); h
@[simp] theorem State.fire_cores (p : Nat) : (s.fire p).cores = s.cores :=
  have h := congrArg State.cores (State.fire_base s p); h
@[simp] theorem State.fire_mem (p : Nat) : (s.fire p).mem = s.mem :=
  have h := congrArg State.mem (State.fire_base s p); h
@[simp] theorem State.fire_mm (p : Nat) : (s.fire p).mm = s.mm :=
  have h := congrArg State.mm (State.fire_base s p); h
@[simp] theorem State.fire_wdn (p : Nat) : (s.fire p).wdn = s.wdn :=
  have h := congrArg State.wdn (State.fire_base s p); h
@[simp] theorem State.fire_itg (p : Nat) : (s.fire p).itg = s.itg :=
  have h := congrArg State.itg (State.fire_base s p); h
@[simp] theorem State.fire_rp (p : Nat) : (s.fire p).rp = s.rp :=
  have h := congrArg State.rp (State.fire_base s p); h
@[simp] theorem State.fire_pwr (p : Nat) : (s.fire p).pwr = s.pwr :=
  have h := congrArg State.pwr (State.fire_base s p); h
@[simp] theorem State.fire_clk (p : Nat) : (s.fire p).clk = s.clk :=
  have h := congrArg State.clk (State.fire_base s p); h
@[simp] theorem State.fire_peg (p : Nat) : (s.fire p).peg = s.peg :=
  have h := congrArg State.peg (State.fire_base s p); h
@[simp] theorem State.fire_snap (p : Nat) : (s.fire p).snap = s.snap :=
  have h := congrArg State.snap (State.fire_base s p); h
@[simp] theorem State.fire_look (p : Nat) : (s.fire p).look = s.look :=
  have h := congrArg State.look (State.fire_base s p); h
@[simp] theorem State.fire_portA (p : Nat) : (s.fire p).portA = s.portA :=
  have h := congrArg State.portA (State.fire_base s p); h
@[simp] theorem State.fire_stale (p : Nat) : (s.fire p).stale = s.stale :=
  have h := congrArg State.stale (State.fire_base s p); h
@[simp] theorem State.fire_per_pin (p : Nat) : (s.fire p).per.pin = s.per.pin :=
  have h := congrArg (fun t => t.per.pin) (State.fire_base s p); h
@[simp] theorem State.fire_per_tim (p : Nat) : (s.fire p).per.tim = s.per.tim :=
  have h := congrArg (fun t => t.per.tim) (State.fire_base s p); h
@[simp] theorem State.fire_per_ua (p : Nat) : (s.fire p).per.ua = s.per.ua :=
  have h := congrArg (fun t => t.per.ua) (State.fire_base s p); h
@[simp] theorem State.fire_per_tch (p : Nat) : (s.fire p).per.tch = s.per.tch :=
  have h := congrArg (fun t => t.per.tch) (State.fire_base s p); h
@[simp] theorem State.fire_per_rf (p : Nat) : (s.fire p).per.rf = s.per.rf :=
  have h := congrArg (fun t => t.per.rf) (State.fire_base s p); h
@[simp] theorem State.fire_per_net (p : Nat) : (s.fire p).per.net = s.per.net :=
  have h := congrArg (fun t => t.per.net) (State.fire_base s p); h
@[simp] theorem State.fire_per_evt (p : Nat) : (s.fire p).per.evt = s.per.evt :=
  have h := congrArg (fun t => t.per.evt) (State.fire_base s p); h
@[simp] theorem State.fire_per_rtc (p : Nat) : (s.fire p).per.rtc = s.per.rtc :=
  have h := congrArg (fun t => t.per.rtc) (State.fire_base s p); h
@[simp] theorem State.fire_per_hrv (p : Nat) : (s.fire p).per.hrv = s.per.hrv :=
  have h := congrArg (fun t => t.per.hrv) (State.fire_base s p); h

/-! ## `countCore` -/

@[simp] theorem State.countCore_pending (c : CoreId) (a n : Nat) : (s.countCore c a n).pending = s.pending :=
  have h := congrArg State.pending (State.countCore_base s c a n); h
@[simp] theorem State.countCore_free (c : CoreId) (a n : Nat) : (s.countCore c a n).free = s.free :=
  have h := congrArg State.free (State.countCore_base s c a n); h
@[simp] theorem State.countCore_cores (c : CoreId) (a n : Nat) : (s.countCore c a n).cores = s.cores :=
  have h := congrArg State.cores (State.countCore_base s c a n); h
@[simp] theorem State.countCore_mem (c : CoreId) (a n : Nat) : (s.countCore c a n).mem = s.mem :=
  have h := congrArg State.mem (State.countCore_base s c a n); h
@[simp] theorem State.countCore_mm (c : CoreId) (a n : Nat) : (s.countCore c a n).mm = s.mm :=
  have h := congrArg State.mm (State.countCore_base s c a n); h
@[simp] theorem State.countCore_wdn (c : CoreId) (a n : Nat) : (s.countCore c a n).wdn = s.wdn :=
  have h := congrArg State.wdn (State.countCore_base s c a n); h
@[simp] theorem State.countCore_itg (c : CoreId) (a n : Nat) : (s.countCore c a n).itg = s.itg :=
  have h := congrArg State.itg (State.countCore_base s c a n); h
@[simp] theorem State.countCore_rp (c : CoreId) (a n : Nat) : (s.countCore c a n).rp = s.rp :=
  have h := congrArg State.rp (State.countCore_base s c a n); h
@[simp] theorem State.countCore_pwr (c : CoreId) (a n : Nat) : (s.countCore c a n).pwr = s.pwr :=
  have h := congrArg State.pwr (State.countCore_base s c a n); h
@[simp] theorem State.countCore_clk (c : CoreId) (a n : Nat) : (s.countCore c a n).clk = s.clk :=
  have h := congrArg State.clk (State.countCore_base s c a n); h
@[simp] theorem State.countCore_peg (c : CoreId) (a n : Nat) : (s.countCore c a n).peg = s.peg :=
  have h := congrArg State.peg (State.countCore_base s c a n); h
@[simp] theorem State.countCore_snap (c : CoreId) (a n : Nat) : (s.countCore c a n).snap = s.snap :=
  have h := congrArg State.snap (State.countCore_base s c a n); h
@[simp] theorem State.countCore_look (c : CoreId) (a n : Nat) : (s.countCore c a n).look = s.look :=
  have h := congrArg State.look (State.countCore_base s c a n); h
@[simp] theorem State.countCore_portA (c : CoreId) (a n : Nat) : (s.countCore c a n).portA = s.portA :=
  have h := congrArg State.portA (State.countCore_base s c a n); h
@[simp] theorem State.countCore_stale (c : CoreId) (a n : Nat) : (s.countCore c a n).stale = s.stale :=
  have h := congrArg State.stale (State.countCore_base s c a n); h
@[simp] theorem State.countCore_per_pin (c : CoreId) (a n : Nat) : (s.countCore c a n).per.pin = s.per.pin :=
  have h := congrArg (fun t => t.per.pin) (State.countCore_base s c a n); h
@[simp] theorem State.countCore_per_tim (c : CoreId) (a n : Nat) : (s.countCore c a n).per.tim = s.per.tim :=
  have h := congrArg (fun t => t.per.tim) (State.countCore_base s c a n); h
@[simp] theorem State.countCore_per_ua (c : CoreId) (a n : Nat) : (s.countCore c a n).per.ua = s.per.ua :=
  have h := congrArg (fun t => t.per.ua) (State.countCore_base s c a n); h
@[simp] theorem State.countCore_per_tch (c : CoreId) (a n : Nat) : (s.countCore c a n).per.tch = s.per.tch :=
  have h := congrArg (fun t => t.per.tch) (State.countCore_base s c a n); h
@[simp] theorem State.countCore_per_rf (c : CoreId) (a n : Nat) : (s.countCore c a n).per.rf = s.per.rf :=
  have h := congrArg (fun t => t.per.rf) (State.countCore_base s c a n); h
@[simp] theorem State.countCore_per_net (c : CoreId) (a n : Nat) : (s.countCore c a n).per.net = s.per.net :=
  have h := congrArg (fun t => t.per.net) (State.countCore_base s c a n); h
@[simp] theorem State.countCore_per_evt (c : CoreId) (a n : Nat) : (s.countCore c a n).per.evt = s.per.evt :=
  have h := congrArg (fun t => t.per.evt) (State.countCore_base s c a n); h
@[simp] theorem State.countCore_per_rtc (c : CoreId) (a n : Nat) : (s.countCore c a n).per.rtc = s.per.rtc :=
  have h := congrArg (fun t => t.per.rtc) (State.countCore_base s c a n); h
@[simp] theorem State.countCore_per_hrv (c : CoreId) (a n : Nat) : (s.countCore c a n).per.hrv = s.per.hrv :=
  have h := congrArg (fun t => t.per.hrv) (State.countCore_base s c a n); h

/-! ## `countSys` -/

@[simp] theorem State.countSys_pending (a n : Nat) : (s.countSys a n).pending = s.pending :=
  have h := congrArg State.pending (State.countSys_base s a n); h
@[simp] theorem State.countSys_free (a n : Nat) : (s.countSys a n).free = s.free :=
  have h := congrArg State.free (State.countSys_base s a n); h
@[simp] theorem State.countSys_cores (a n : Nat) : (s.countSys a n).cores = s.cores :=
  have h := congrArg State.cores (State.countSys_base s a n); h
@[simp] theorem State.countSys_mem (a n : Nat) : (s.countSys a n).mem = s.mem :=
  have h := congrArg State.mem (State.countSys_base s a n); h
@[simp] theorem State.countSys_mm (a n : Nat) : (s.countSys a n).mm = s.mm :=
  have h := congrArg State.mm (State.countSys_base s a n); h
@[simp] theorem State.countSys_wdn (a n : Nat) : (s.countSys a n).wdn = s.wdn :=
  have h := congrArg State.wdn (State.countSys_base s a n); h
@[simp] theorem State.countSys_itg (a n : Nat) : (s.countSys a n).itg = s.itg :=
  have h := congrArg State.itg (State.countSys_base s a n); h
@[simp] theorem State.countSys_rp (a n : Nat) : (s.countSys a n).rp = s.rp :=
  have h := congrArg State.rp (State.countSys_base s a n); h
@[simp] theorem State.countSys_pwr (a n : Nat) : (s.countSys a n).pwr = s.pwr :=
  have h := congrArg State.pwr (State.countSys_base s a n); h
@[simp] theorem State.countSys_clk (a n : Nat) : (s.countSys a n).clk = s.clk :=
  have h := congrArg State.clk (State.countSys_base s a n); h
@[simp] theorem State.countSys_peg (a n : Nat) : (s.countSys a n).peg = s.peg :=
  have h := congrArg State.peg (State.countSys_base s a n); h
@[simp] theorem State.countSys_snap (a n : Nat) : (s.countSys a n).snap = s.snap :=
  have h := congrArg State.snap (State.countSys_base s a n); h
@[simp] theorem State.countSys_look (a n : Nat) : (s.countSys a n).look = s.look :=
  have h := congrArg State.look (State.countSys_base s a n); h
@[simp] theorem State.countSys_portA (a n : Nat) : (s.countSys a n).portA = s.portA :=
  have h := congrArg State.portA (State.countSys_base s a n); h
@[simp] theorem State.countSys_stale (a n : Nat) : (s.countSys a n).stale = s.stale :=
  have h := congrArg State.stale (State.countSys_base s a n); h
@[simp] theorem State.countSys_per_pin (a n : Nat) : (s.countSys a n).per.pin = s.per.pin :=
  have h := congrArg (fun t => t.per.pin) (State.countSys_base s a n); h
@[simp] theorem State.countSys_per_tim (a n : Nat) : (s.countSys a n).per.tim = s.per.tim :=
  have h := congrArg (fun t => t.per.tim) (State.countSys_base s a n); h
@[simp] theorem State.countSys_per_ua (a n : Nat) : (s.countSys a n).per.ua = s.per.ua :=
  have h := congrArg (fun t => t.per.ua) (State.countSys_base s a n); h
@[simp] theorem State.countSys_per_tch (a n : Nat) : (s.countSys a n).per.tch = s.per.tch :=
  have h := congrArg (fun t => t.per.tch) (State.countSys_base s a n); h
@[simp] theorem State.countSys_per_rf (a n : Nat) : (s.countSys a n).per.rf = s.per.rf :=
  have h := congrArg (fun t => t.per.rf) (State.countSys_base s a n); h
@[simp] theorem State.countSys_per_net (a n : Nat) : (s.countSys a n).per.net = s.per.net :=
  have h := congrArg (fun t => t.per.net) (State.countSys_base s a n); h
@[simp] theorem State.countSys_per_evt (a n : Nat) : (s.countSys a n).per.evt = s.per.evt :=
  have h := congrArg (fun t => t.per.evt) (State.countSys_base s a n); h
@[simp] theorem State.countSys_per_rtc (a n : Nat) : (s.countSys a n).per.rtc = s.per.rtc :=
  have h := congrArg (fun t => t.per.rtc) (State.countSys_base s a n); h
@[simp] theorem State.countSys_per_hrv (a n : Nat) : (s.countSys a n).per.hrv = s.per.hrv :=
  have h := congrArg (fun t => t.per.hrv) (State.countSys_base s a n); h

/-! ## `fireSource` -/

@[simp] theorem State.fireSource_pending (b a : Nat) : (s.fireSource b a).pending = s.pending :=
  have h := congrArg State.pending (State.fireSource_base s b a); h
@[simp] theorem State.fireSource_free (b a : Nat) : (s.fireSource b a).free = s.free :=
  have h := congrArg State.free (State.fireSource_base s b a); h
@[simp] theorem State.fireSource_cores (b a : Nat) : (s.fireSource b a).cores = s.cores :=
  have h := congrArg State.cores (State.fireSource_base s b a); h
@[simp] theorem State.fireSource_mem (b a : Nat) : (s.fireSource b a).mem = s.mem :=
  have h := congrArg State.mem (State.fireSource_base s b a); h
@[simp] theorem State.fireSource_mm (b a : Nat) : (s.fireSource b a).mm = s.mm :=
  have h := congrArg State.mm (State.fireSource_base s b a); h
@[simp] theorem State.fireSource_wdn (b a : Nat) : (s.fireSource b a).wdn = s.wdn :=
  have h := congrArg State.wdn (State.fireSource_base s b a); h
@[simp] theorem State.fireSource_itg (b a : Nat) : (s.fireSource b a).itg = s.itg :=
  have h := congrArg State.itg (State.fireSource_base s b a); h
@[simp] theorem State.fireSource_rp (b a : Nat) : (s.fireSource b a).rp = s.rp :=
  have h := congrArg State.rp (State.fireSource_base s b a); h
@[simp] theorem State.fireSource_pwr (b a : Nat) : (s.fireSource b a).pwr = s.pwr :=
  have h := congrArg State.pwr (State.fireSource_base s b a); h
@[simp] theorem State.fireSource_clk (b a : Nat) : (s.fireSource b a).clk = s.clk :=
  have h := congrArg State.clk (State.fireSource_base s b a); h
@[simp] theorem State.fireSource_peg (b a : Nat) : (s.fireSource b a).peg = s.peg :=
  have h := congrArg State.peg (State.fireSource_base s b a); h
@[simp] theorem State.fireSource_snap (b a : Nat) : (s.fireSource b a).snap = s.snap :=
  have h := congrArg State.snap (State.fireSource_base s b a); h
@[simp] theorem State.fireSource_look (b a : Nat) : (s.fireSource b a).look = s.look :=
  have h := congrArg State.look (State.fireSource_base s b a); h
@[simp] theorem State.fireSource_portA (b a : Nat) : (s.fireSource b a).portA = s.portA :=
  have h := congrArg State.portA (State.fireSource_base s b a); h
@[simp] theorem State.fireSource_stale (b a : Nat) : (s.fireSource b a).stale = s.stale :=
  have h := congrArg State.stale (State.fireSource_base s b a); h
@[simp] theorem State.fireSource_per_pin (b a : Nat) : (s.fireSource b a).per.pin = s.per.pin :=
  have h := congrArg (fun t => t.per.pin) (State.fireSource_base s b a); h
@[simp] theorem State.fireSource_per_tim (b a : Nat) : (s.fireSource b a).per.tim = s.per.tim :=
  have h := congrArg (fun t => t.per.tim) (State.fireSource_base s b a); h
@[simp] theorem State.fireSource_per_ua (b a : Nat) : (s.fireSource b a).per.ua = s.per.ua :=
  have h := congrArg (fun t => t.per.ua) (State.fireSource_base s b a); h
@[simp] theorem State.fireSource_per_tch (b a : Nat) : (s.fireSource b a).per.tch = s.per.tch :=
  have h := congrArg (fun t => t.per.tch) (State.fireSource_base s b a); h
@[simp] theorem State.fireSource_per_rf (b a : Nat) : (s.fireSource b a).per.rf = s.per.rf :=
  have h := congrArg (fun t => t.per.rf) (State.fireSource_base s b a); h
@[simp] theorem State.fireSource_per_net (b a : Nat) : (s.fireSource b a).per.net = s.per.net :=
  have h := congrArg (fun t => t.per.net) (State.fireSource_base s b a); h
@[simp] theorem State.fireSource_per_evt (b a : Nat) : (s.fireSource b a).per.evt = s.per.evt :=
  have h := congrArg (fun t => t.per.evt) (State.fireSource_base s b a); h
@[simp] theorem State.fireSource_per_rtc (b a : Nat) : (s.fireSource b a).per.rtc = s.per.rtc :=
  have h := congrArg (fun t => t.per.rtc) (State.fireSource_base s b a); h
@[simp] theorem State.fireSource_per_hrv (b a : Nat) : (s.fireSource b a).per.hrv = s.per.hrv :=
  have h := congrArg (fun t => t.per.hrv) (State.fireSource_base s b a); h

/-! ## `fireAll` -/

@[simp] theorem State.fireAll_pending (old : State) (n : Nat) : (old.fireAll s n).pending = s.pending :=
  have h := congrArg State.pending (State.fireAll_base s old n); h
@[simp] theorem State.fireAll_free (old : State) (n : Nat) : (old.fireAll s n).free = s.free :=
  have h := congrArg State.free (State.fireAll_base s old n); h
@[simp] theorem State.fireAll_cores (old : State) (n : Nat) : (old.fireAll s n).cores = s.cores :=
  have h := congrArg State.cores (State.fireAll_base s old n); h
@[simp] theorem State.fireAll_mem (old : State) (n : Nat) : (old.fireAll s n).mem = s.mem :=
  have h := congrArg State.mem (State.fireAll_base s old n); h
@[simp] theorem State.fireAll_mm (old : State) (n : Nat) : (old.fireAll s n).mm = s.mm :=
  have h := congrArg State.mm (State.fireAll_base s old n); h
@[simp] theorem State.fireAll_wdn (old : State) (n : Nat) : (old.fireAll s n).wdn = s.wdn :=
  have h := congrArg State.wdn (State.fireAll_base s old n); h
@[simp] theorem State.fireAll_itg (old : State) (n : Nat) : (old.fireAll s n).itg = s.itg :=
  have h := congrArg State.itg (State.fireAll_base s old n); h
@[simp] theorem State.fireAll_rp (old : State) (n : Nat) : (old.fireAll s n).rp = s.rp :=
  have h := congrArg State.rp (State.fireAll_base s old n); h
@[simp] theorem State.fireAll_pwr (old : State) (n : Nat) : (old.fireAll s n).pwr = s.pwr :=
  have h := congrArg State.pwr (State.fireAll_base s old n); h
@[simp] theorem State.fireAll_clk (old : State) (n : Nat) : (old.fireAll s n).clk = s.clk :=
  have h := congrArg State.clk (State.fireAll_base s old n); h
@[simp] theorem State.fireAll_peg (old : State) (n : Nat) : (old.fireAll s n).peg = s.peg :=
  have h := congrArg State.peg (State.fireAll_base s old n); h
@[simp] theorem State.fireAll_snap (old : State) (n : Nat) : (old.fireAll s n).snap = s.snap :=
  have h := congrArg State.snap (State.fireAll_base s old n); h
@[simp] theorem State.fireAll_look (old : State) (n : Nat) : (old.fireAll s n).look = s.look :=
  have h := congrArg State.look (State.fireAll_base s old n); h
@[simp] theorem State.fireAll_portA (old : State) (n : Nat) : (old.fireAll s n).portA = s.portA :=
  have h := congrArg State.portA (State.fireAll_base s old n); h
@[simp] theorem State.fireAll_stale (old : State) (n : Nat) : (old.fireAll s n).stale = s.stale :=
  have h := congrArg State.stale (State.fireAll_base s old n); h
@[simp] theorem State.fireAll_per_pin (old : State) (n : Nat) : (old.fireAll s n).per.pin = s.per.pin :=
  have h := congrArg (fun t => t.per.pin) (State.fireAll_base s old n); h
@[simp] theorem State.fireAll_per_tim (old : State) (n : Nat) : (old.fireAll s n).per.tim = s.per.tim :=
  have h := congrArg (fun t => t.per.tim) (State.fireAll_base s old n); h
@[simp] theorem State.fireAll_per_ua (old : State) (n : Nat) : (old.fireAll s n).per.ua = s.per.ua :=
  have h := congrArg (fun t => t.per.ua) (State.fireAll_base s old n); h
@[simp] theorem State.fireAll_per_tch (old : State) (n : Nat) : (old.fireAll s n).per.tch = s.per.tch :=
  have h := congrArg (fun t => t.per.tch) (State.fireAll_base s old n); h
@[simp] theorem State.fireAll_per_rf (old : State) (n : Nat) : (old.fireAll s n).per.rf = s.per.rf :=
  have h := congrArg (fun t => t.per.rf) (State.fireAll_base s old n); h
@[simp] theorem State.fireAll_per_net (old : State) (n : Nat) : (old.fireAll s n).per.net = s.per.net :=
  have h := congrArg (fun t => t.per.net) (State.fireAll_base s old n); h
@[simp] theorem State.fireAll_per_evt (old : State) (n : Nat) : (old.fireAll s n).per.evt = s.per.evt :=
  have h := congrArg (fun t => t.per.evt) (State.fireAll_base s old n); h
@[simp] theorem State.fireAll_per_rtc (old : State) (n : Nat) : (old.fireAll s n).per.rtc = s.per.rtc :=
  have h := congrArg (fun t => t.per.rtc) (State.fireAll_base s old n); h
@[simp] theorem State.fireAll_per_hrv (old : State) (n : Nat) : (old.fireAll s n).per.hrv = s.per.hrv :=
  have h := congrArg (fun t => t.per.hrv) (State.fireAll_base s old n); h

/-! ## `fireProducers` -/

@[simp] theorem State.fireProducers_pending (old : State) : (old.fireProducers s).pending = s.pending :=
  have h := congrArg State.pending (State.fireProducers_base s old); h
@[simp] theorem State.fireProducers_free (old : State) : (old.fireProducers s).free = s.free :=
  have h := congrArg State.free (State.fireProducers_base s old); h
@[simp] theorem State.fireProducers_cores (old : State) : (old.fireProducers s).cores = s.cores :=
  have h := congrArg State.cores (State.fireProducers_base s old); h
@[simp] theorem State.fireProducers_mem (old : State) : (old.fireProducers s).mem = s.mem :=
  have h := congrArg State.mem (State.fireProducers_base s old); h
@[simp] theorem State.fireProducers_mm (old : State) : (old.fireProducers s).mm = s.mm :=
  have h := congrArg State.mm (State.fireProducers_base s old); h
@[simp] theorem State.fireProducers_wdn (old : State) : (old.fireProducers s).wdn = s.wdn :=
  have h := congrArg State.wdn (State.fireProducers_base s old); h
@[simp] theorem State.fireProducers_itg (old : State) : (old.fireProducers s).itg = s.itg :=
  have h := congrArg State.itg (State.fireProducers_base s old); h
@[simp] theorem State.fireProducers_rp (old : State) : (old.fireProducers s).rp = s.rp :=
  have h := congrArg State.rp (State.fireProducers_base s old); h
@[simp] theorem State.fireProducers_pwr (old : State) : (old.fireProducers s).pwr = s.pwr :=
  have h := congrArg State.pwr (State.fireProducers_base s old); h
@[simp] theorem State.fireProducers_clk (old : State) : (old.fireProducers s).clk = s.clk :=
  have h := congrArg State.clk (State.fireProducers_base s old); h
@[simp] theorem State.fireProducers_peg (old : State) : (old.fireProducers s).peg = s.peg :=
  have h := congrArg State.peg (State.fireProducers_base s old); h
@[simp] theorem State.fireProducers_snap (old : State) : (old.fireProducers s).snap = s.snap :=
  have h := congrArg State.snap (State.fireProducers_base s old); h
@[simp] theorem State.fireProducers_look (old : State) : (old.fireProducers s).look = s.look :=
  have h := congrArg State.look (State.fireProducers_base s old); h
@[simp] theorem State.fireProducers_portA (old : State) : (old.fireProducers s).portA = s.portA :=
  have h := congrArg State.portA (State.fireProducers_base s old); h
@[simp] theorem State.fireProducers_stale (old : State) : (old.fireProducers s).stale = s.stale :=
  have h := congrArg State.stale (State.fireProducers_base s old); h
@[simp] theorem State.fireProducers_per_pin (old : State) : (old.fireProducers s).per.pin = s.per.pin :=
  have h := congrArg (fun t => t.per.pin) (State.fireProducers_base s old); h
@[simp] theorem State.fireProducers_per_tim (old : State) : (old.fireProducers s).per.tim = s.per.tim :=
  have h := congrArg (fun t => t.per.tim) (State.fireProducers_base s old); h
@[simp] theorem State.fireProducers_per_ua (old : State) : (old.fireProducers s).per.ua = s.per.ua :=
  have h := congrArg (fun t => t.per.ua) (State.fireProducers_base s old); h
@[simp] theorem State.fireProducers_per_tch (old : State) : (old.fireProducers s).per.tch = s.per.tch :=
  have h := congrArg (fun t => t.per.tch) (State.fireProducers_base s old); h
@[simp] theorem State.fireProducers_per_rf (old : State) : (old.fireProducers s).per.rf = s.per.rf :=
  have h := congrArg (fun t => t.per.rf) (State.fireProducers_base s old); h
@[simp] theorem State.fireProducers_per_net (old : State) : (old.fireProducers s).per.net = s.per.net :=
  have h := congrArg (fun t => t.per.net) (State.fireProducers_base s old); h
@[simp] theorem State.fireProducers_per_evt (old : State) : (old.fireProducers s).per.evt = s.per.evt :=
  have h := congrArg (fun t => t.per.evt) (State.fireProducers_base s old); h
@[simp] theorem State.fireProducers_per_rtc (old : State) : (old.fireProducers s).per.rtc = s.per.rtc :=
  have h := congrArg (fun t => t.per.rtc) (State.fireProducers_base s old); h
@[simp] theorem State.fireProducers_per_hrv (old : State) : (old.fireProducers s).per.hrv = s.per.hrv :=
  have h := congrArg (fun t => t.per.hrv) (State.fireProducers_base s old); h

/-! ## Counting leaves the controllers -/

theorem State.addCount_irq (i n : Nat) : (s.addCount i n).irq = s.irq := by
  unfold State.addCount; dsimp only; split
  · rfl
  · rfl

theorem State.countRange_irq (lo src n k : Nat) : (s.countRange lo src n k).irq = s.irq := by
  induction k with
  | zero => rfl
  | succ k ih =>
    unfold State.countRange; dsimp only; split
    · exact (State.addCount_irq ..).trans ih
    · exact ih

@[simp] theorem State.countCore_irq (c : CoreId) (a n : Nat) : (s.countCore c a n).irq = s.irq :=
  State.countRange_irq ..
@[simp] theorem State.countSys_irq (a n : Nat) : (s.countSys a n).irq = s.irq :=
  State.countRange_irq ..
@[simp] theorem State.fire_irq (p : Nat) : (s.fire p).irq = s.irq := rfl
@[simp] theorem State.fire_per_cnt (p : Nat) : (s.fire p).per.cnt = s.per.cnt := rfl

end Sys2Proof.Machine
end

