-- ==== Sys2Proof/Laws/Finish.lean ====
section
/-! SUPPORT. What the end of a command can change: the interrupt controllers, the counters, the events on
their way, what a retirement settles and writes to Ridgepole's store, and the network engine when its table object is
gone. -/

namespace Sys2Proof.Machine

open Sys2Proof

/-- The state without what the end of a command can change. -/
def State.core0 (s : State) : State :=
  { s.base with
    free := 0
    portA := []
    mm := { s.mm with wear := Vector.replicate 16 0 }
    wdn := { s.wdn with stat := 0#32, retiring := 0#50, retSb := 0#32, retire := 0#32 }
    itg := { s.itg with stat := 0#32 }
    rp := { s.rp with retSb := 0#32, retire := 0#32 }
    per := { s.base.per with net := Net.reset, rf := Rf.reset } }

variable (old s : State)

theorem core0_of_base {s t : State} (h : s.base = t.base) : s.core0 = t.core0 :=
  have k := congrArg State.core0 h
  k

theorem State.stuckNew_core0 : (old.stuckNew s).core0 = s.core0 := by
  unfold State.stuckNew; split
  · rfl
  · split <;> rfl

theorem foldl_core0 {α : Type} (f : State → α → State) (l : List α)
    (h : ∀ s a, (f s a).core0 = s.core0) : ∀ s, (l.foldl f s).core0 = s.core0 := by
  induction l with
  | nil => intro s; rfl
  | cons a l ih => intro s; exact (ih _).trans (h s a)

theorem State.settleRetiring_core0 : s.settleRetiring.core0 = s.core0 := by
  unfold State.settleRetiring; split
  · rfl
  · exact foldl_core0 (fun (s : State) (b : Nat) => s.onWdn fun w => w.retireBank b) _
      (fun _ _ => rfl) s

theorem State.copyRetired_core0 : s.copyRetired.core0 = s.core0 := by
  unfold State.copyRetired; split <;> rfl

theorem State.netGuard_core0 : s.netGuard.core0 = s.core0 := by
  unfold State.netGuard
  by_cases h : (s.per.net.en && s.tableObj.isNone) = true
  · rw [if_pos h]
    simp only [State.core0, State.base, State.netStop, State.netFlag, State.onNet, State.onRf, State.onPer]
  · rw [if_neg h]

theorem State.netGuard_wdn : s.netGuard.wdn = s.wdn := by
  unfold State.netGuard
  by_cases h : (s.per.net.en && s.tableObj.isNone) = true
  · rw [if_pos h]
    simp only [State.netStop, State.netFlag, State.onNet, State.onRf, State.onPer]
  · rw [if_neg h]

theorem State.dropPortA_core0 : (s.dropPortA old).core0 = s.core0 := rfl

theorem State.housekeep_core0 : (old.housekeep s).core0 = s.core0 :=
  ((State.netGuard_core0 _).trans (State.copyRetired_core0 _)).trans
    ((State.settleRetiring_core0 _).trans (State.stuckNew_core0 old s))

theorem finish_core0 : (finish old s).core0 = s.core0 := by
  have hh := (State.housekeep_core0 old (s.dropPortA old)).trans (State.dropPortA_core0 old s)
  unfold finish; dsimp only; split
  · exact hh
  · exact (core0_of_base ((State.fireAll_base ..).trans (State.fireProducers_base ..))).trans hh

/-! ## The fields that the end of a command leaves -/

@[simp] theorem finish_pending : (finish old s).pending = s.pending :=
  have h := congrArg (fun t : State => t.pending) (finish_core0 old s); h
@[simp] theorem finish_cores : (finish old s).cores = s.cores :=
  have h := congrArg (fun t : State => t.cores) (finish_core0 old s); h
@[simp] theorem finish_mem : (finish old s).mem = s.mem :=
  have h := congrArg (fun t : State => t.mem) (finish_core0 old s); h
@[simp] theorem finish_mm_stat : (finish old s).mm.stat = s.mm.stat :=
  have h := congrArg (fun t : State => t.mm.stat) (finish_core0 old s); h
@[simp] theorem finish_mm_eccLim : (finish old s).mm.eccLim = s.mm.eccLim :=
  have h := congrArg (fun t : State => t.mm.eccLim) (finish_core0 old s); h
@[simp] theorem finish_mm_log0 : (finish old s).mm.log0 = s.mm.log0 :=
  have h := congrArg (fun t : State => t.mm.log0) (finish_core0 old s); h
@[simp] theorem finish_mm_log1 : (finish old s).mm.log1 = s.mm.log1 :=
  have h := congrArg (fun t : State => t.mm.log1) (finish_core0 old s); h
@[simp] theorem finish_mm_scrub : (finish old s).mm.scrub = s.mm.scrub :=
  have h := congrArg (fun t : State => t.mm.scrub) (finish_core0 old s); h
@[simp] theorem finish_mm_sbPwr : (finish old s).mm.sbPwr = s.mm.sbPwr :=
  have h := congrArg (fun t : State => t.mm.sbPwr) (finish_core0 old s); h
@[simp] theorem finish_mm_sbOn : (finish old s).mm.sbOn = s.mm.sbOn :=
  have h := congrArg (fun t : State => t.mm.sbOn) (finish_core0 old s); h
@[simp] theorem finish_mm_norec : (finish old s).mm.norec = s.mm.norec :=
  have h := congrArg (fun t : State => t.mm.norec) (finish_core0 old s); h
@[simp] theorem finish_mm_badrec : (finish old s).mm.badrec = s.mm.badrec :=
  have h := congrArg (fun t : State => t.mm.badrec) (finish_core0 old s); h
@[simp] theorem finish_mm_slot : (finish old s).mm.slot = s.mm.slot :=
  have h := congrArg (fun t : State => t.mm.slot) (finish_core0 old s); h
@[simp] theorem finish_mm_seq : (finish old s).mm.seq = s.mm.seq :=
  have h := congrArg (fun t : State => t.mm.seq) (finish_core0 old s); h
@[simp] theorem finish_mm_rights : (finish old s).mm.rights = s.mm.rights :=
  have h := congrArg (fun t : State => t.mm.rights) (finish_core0 old s); h
@[simp] theorem finish_mm_restored : (finish old s).mm.restored = s.mm.restored :=
  have h := congrArg (fun t : State => t.mm.restored) (finish_core0 old s); h
@[simp] theorem finish_mm_dirty : (finish old s).mm.dirty = s.mm.dirty :=
  have h := congrArg (fun t : State => t.mm.dirty) (finish_core0 old s); h
@[simp] theorem finish_mm_map : (finish old s).mm.map = s.mm.map :=
  have h := congrArg (fun t : State => t.mm.map) (finish_core0 old s); h
@[simp] theorem finish_mm_conf : (finish old s).mm.conf = s.mm.conf :=
  have h := congrArg (fun t : State => t.mm.conf) (finish_core0 old s); h
@[simp] theorem finish_mm_confSat : (finish old s).mm.confSat = s.mm.confSat :=
  have h := congrArg (fun t : State => t.mm.confSat) (finish_core0 old s); h
@[simp] theorem finish_mm_sel : (finish old s).mm.sel = s.mm.sel :=
  have h := congrArg (fun t : State => t.mm.sel) (finish_core0 old s); h
@[simp] theorem finish_mm_corr : (finish old s).mm.corr = s.mm.corr :=
  have h := congrArg (fun t : State => t.mm.corr) (finish_core0 old s); h
@[simp] theorem finish_mm_retreq : (finish old s).mm.retreq = s.mm.retreq :=
  have h := congrArg (fun t : State => t.mm.retreq) (finish_core0 old s); h
@[simp] theorem finish_mm_unc : (finish old s).mm.unc = s.mm.unc :=
  have h := congrArg (fun t : State => t.mm.unc) (finish_core0 old s); h
@[simp] theorem finish_mm_wearHi : (finish old s).mm.wearHi = s.mm.wearHi :=
  have h := congrArg (fun t : State => t.mm.wearHi) (finish_core0 old s); h
@[simp] theorem finish_pwr : (finish old s).pwr = s.pwr :=
  have h := congrArg (fun t : State => t.pwr) (finish_core0 old s); h
@[simp] theorem finish_clk : (finish old s).clk = s.clk :=
  have h := congrArg (fun t : State => t.clk) (finish_core0 old s); h
@[simp] theorem finish_peg : (finish old s).peg = s.peg :=
  have h := congrArg (fun t : State => t.peg) (finish_core0 old s); h
@[simp] theorem finish_snap : (finish old s).snap = s.snap :=
  have h := congrArg (fun t : State => t.snap) (finish_core0 old s); h
@[simp] theorem finish_stale : (finish old s).stale = s.stale :=
  have h := congrArg (fun t : State => t.stale) (finish_core0 old s); h
@[simp] theorem finish_look : (finish old s).look = s.look :=
  have h := congrArg (fun t : State => t.look) (finish_core0 old s); h
@[simp] theorem finish_per_pin : (finish old s).per.pin = s.per.pin :=
  have h := congrArg (fun t : State => t.per.pin) (finish_core0 old s); h
@[simp] theorem finish_per_tim : (finish old s).per.tim = s.per.tim :=
  have h := congrArg (fun t : State => t.per.tim) (finish_core0 old s); h
@[simp] theorem finish_per_ua : (finish old s).per.ua = s.per.ua :=
  have h := congrArg (fun t : State => t.per.ua) (finish_core0 old s); h
@[simp] theorem finish_per_tch : (finish old s).per.tch = s.per.tch :=
  have h := congrArg (fun t : State => t.per.tch) (finish_core0 old s); h
@[simp] theorem finish_per_evt : (finish old s).per.evt = s.per.evt :=
  have h := congrArg (fun t : State => t.per.evt) (finish_core0 old s); h
@[simp] theorem finish_per_rtc : (finish old s).per.rtc = s.per.rtc :=
  have h := congrArg (fun t : State => t.per.rtc) (finish_core0 old s); h
@[simp] theorem finish_per_hrv : (finish old s).per.hrv = s.per.hrv :=
  have h := congrArg (fun t : State => t.per.hrv) (finish_core0 old s); h
@[simp] theorem finish_wdn_obj : (finish old s).wdn.obj = s.wdn.obj :=
  have h := congrArg (fun t : State => t.wdn.obj) (finish_core0 old s); h
@[simp] theorem finish_wdn_tsk : (finish old s).wdn.tsk = s.wdn.tsk :=
  have h := congrArg (fun t : State => t.wdn.tsk) (finish_core0 old s); h
@[simp] theorem finish_wdn_bank : (finish old s).wdn.bank = s.wdn.bank :=
  have h := congrArg (fun t : State => t.wdn.bank) (finish_core0 old s); h
@[simp] theorem finish_wdn_pol : (finish old s).wdn.pol = s.wdn.pol :=
  have h := congrArg (fun t : State => t.wdn.pol) (finish_core0 old s); h
@[simp] theorem finish_wdn_epoch : (finish old s).wdn.epoch = s.wdn.epoch :=
  have h := congrArg (fun t : State => t.wdn.epoch) (finish_core0 old s); h
@[simp] theorem finish_wdn_lim : (finish old s).wdn.lim = s.wdn.lim :=
  have h := congrArg (fun t : State => t.wdn.lim) (finish_core0 old s); h
@[simp] theorem finish_wdn_epochLim : (finish old s).wdn.epochLim = s.wdn.epochLim :=
  have h := congrArg (fun t : State => t.wdn.epochLim) (finish_core0 old s); h
@[simp] theorem finish_wdn_migcnt : (finish old s).wdn.migcnt = s.wdn.migcnt :=
  have h := congrArg (fun t : State => t.wdn.migcnt) (finish_core0 old s); h
@[simp] theorem finish_wdn_queue : (finish old s).wdn.queue = s.wdn.queue :=
  have h := congrArg (fun t : State => t.wdn.queue) (finish_core0 old s); h
@[simp] theorem finish_wdn_mig : (finish old s).wdn.mig = s.wdn.mig :=
  have h := congrArg (fun t : State => t.wdn.mig) (finish_core0 old s); h
@[simp] theorem finish_itg_cfg : (finish old s).itg.cfg = s.itg.cfg :=
  have h := congrArg (fun t : State => t.itg.cfg) (finish_core0 old s); h
@[simp] theorem finish_itg_total : (finish old s).itg.total = s.itg.total :=
  have h := congrArg (fun t : State => t.itg.total) (finish_core0 old s); h
@[simp] theorem finish_itg_logSel : (finish old s).itg.logSel = s.itg.logSel :=
  have h := congrArg (fun t : State => t.itg.logSel) (finish_core0 old s); h
@[simp] theorem finish_itg_logData : (finish old s).itg.logData = s.itg.logData :=
  have h := congrArg (fun t : State => t.itg.logData) (finish_core0 old s); h
@[simp] theorem finish_itg_stest : (finish old s).itg.stest = s.itg.stest :=
  have h := congrArg (fun t : State => t.itg.stest) (finish_core0 old s); h
@[simp] theorem finish_itg_frame : (finish old s).itg.frame = s.itg.frame :=
  have h := congrArg (fun t : State => t.itg.frame) (finish_core0 old s); h
@[simp] theorem finish_itg_frameNow : (finish old s).itg.frameNow = s.itg.frameNow :=
  have h := congrArg (fun t : State => t.itg.frameNow) (finish_core0 old s); h
@[simp] theorem finish_itg_frm : (finish old s).itg.frm = s.itg.frm :=
  have h := congrArg (fun t : State => t.itg.frm) (finish_core0 old s); h
@[simp] theorem finish_itg_wstat : (finish old s).itg.wstat = s.itg.wstat :=
  have h := congrArg (fun t : State => t.itg.wstat) (finish_core0 old s); h
@[simp] theorem finish_itg_ovrTask : (finish old s).itg.ovrTask = s.itg.ovrTask :=
  have h := congrArg (fun t : State => t.itg.ovrTask) (finish_core0 old s); h
@[simp] theorem finish_itg_ovrFrm : (finish old s).itg.ovrFrm = s.itg.ovrFrm :=
  have h := congrArg (fun t : State => t.itg.ovrFrm) (finish_core0 old s); h
@[simp] theorem finish_itg_wevSel : (finish old s).itg.wevSel = s.itg.wevSel :=
  have h := congrArg (fun t : State => t.itg.wevSel) (finish_core0 old s); h
@[simp] theorem finish_itg_wev : (finish old s).itg.wev = s.itg.wev :=
  have h := congrArg (fun t : State => t.itg.wev) (finish_core0 old s); h
@[simp] theorem finish_itg_coll : (finish old s).itg.coll = s.itg.coll :=
  have h := congrArg (fun t : State => t.itg.coll) (finish_core0 old s); h
@[simp] theorem finish_itg_ovrDone : (finish old s).itg.ovrDone = s.itg.ovrDone :=
  have h := congrArg (fun t : State => t.itg.ovrDone) (finish_core0 old s); h
@[simp] theorem finish_itg_defer : (finish old s).itg.defer = s.itg.defer :=
  have h := congrArg (fun t : State => t.itg.defer) (finish_core0 old s); h
@[simp] theorem finish_itg_full : (finish old s).itg.full = s.itg.full :=
  have h := congrArg (fun t : State => t.itg.full) (finish_core0 old s); h
@[simp] theorem finish_itg_ready : (finish old s).itg.ready = s.itg.ready :=
  have h := congrArg (fun t : State => t.itg.ready) (finish_core0 old s); h
@[simp] theorem finish_itg_rcRead : (finish old s).itg.rcRead = s.itg.rcRead :=
  have h := congrArg (fun t : State => t.itg.rcRead) (finish_core0 old s); h
@[simp] theorem finish_rp_mode : (finish old s).rp.mode = s.rp.mode :=
  have h := congrArg (fun t : State => t.rp.mode) (finish_core0 old s); h
@[simp] theorem finish_rp_limWlim : (finish old s).rp.limWlim = s.rp.limWlim :=
  have h := congrArg (fun t : State => t.rp.limWlim) (finish_core0 old s); h
@[simp] theorem finish_rp_limWepoch : (finish old s).rp.limWepoch = s.rp.limWepoch :=
  have h := congrArg (fun t : State => t.rp.limWepoch) (finish_core0 old s); h
@[simp] theorem finish_rp_limEcc : (finish old s).rp.limEcc = s.rp.limEcc :=
  have h := congrArg (fun t : State => t.rp.limEcc) (finish_core0 old s); h
@[simp] theorem finish_rp_limMisc : (finish old s).rp.limMisc = s.rp.limMisc :=
  have h := congrArg (fun t : State => t.rp.limMisc) (finish_core0 old s); h
@[simp] theorem finish_rp_record : (finish old s).rp.record = s.rp.record :=
  have h := congrArg (fun t : State => t.rp.record) (finish_core0 old s); h
@[simp] theorem finish_rp_booted : (finish old s).rp.booted = s.rp.booted :=
  have h := congrArg (fun t : State => t.rp.booted) (finish_core0 old s); h
@[simp] theorem finish_rp_stoppedRec : (finish old s).rp.stoppedRec = s.rp.stoppedRec :=
  have h := congrArg (fun t : State => t.rp.stoppedRec) (finish_core0 old s); h
@[simp] theorem finish_rp_lockRec : (finish old s).rp.lockRec = s.rp.lockRec :=
  have h := congrArg (fun t : State => t.rp.lockRec) (finish_core0 old s); h
@[simp] theorem finish_rp_itgPend : (finish old s).rp.itgPend = s.rp.itgPend :=
  have h := congrArg (fun t : State => t.rp.itgPend) (finish_core0 old s); h
@[simp] theorem finish_rp_passStart : (finish old s).rp.passStart = s.rp.passStart :=
  have h := congrArg (fun t : State => t.rp.passStart) (finish_core0 old s); h
@[simp] theorem finish_rp_ctr : (finish old s).rp.ctr = s.rp.ctr :=
  have h := congrArg (fun t : State => t.rp.ctr) (finish_core0 old s); h
@[simp] theorem finish_rp_keys : (finish old s).rp.keys = s.rp.keys :=
  have h := congrArg (fun t : State => t.rp.keys) (finish_core0 old s); h
@[simp] theorem finish_rp_fcntBlock : (finish old s).rp.fcntBlock = s.rp.fcntBlock :=
  have h := congrArg (fun t : State => t.rp.fcntBlock) (finish_core0 old s); h
@[simp] theorem finish_rp_gs : (finish old s).rp.gs = s.rp.gs :=
  have h := congrArg (fun t : State => t.rp.gs) (finish_core0 old s); h
@[simp] theorem finish_rp_gsCopy : (finish old s).rp.gsCopy = s.rp.gsCopy :=
  have h := congrArg (fun t : State => t.rp.gsCopy) (finish_core0 old s); h
@[simp] theorem finish_rp_dbgen : (finish old s).rp.dbgen = s.rp.dbgen :=
  have h := congrArg (fun t : State => t.rp.dbgen) (finish_core0 old s); h
@[simp] theorem finish_rp_stay : (finish old s).rp.stay = s.rp.stay :=
  have h := congrArg (fun t : State => t.rp.stay) (finish_core0 old s); h
@[simp] theorem finish_rp_wdog : (finish old s).rp.wdog = s.rp.wdog :=
  have h := congrArg (fun t : State => t.rp.wdog) (finish_core0 old s); h
@[simp] theorem finish_rp_trail : (finish old s).rp.trail = s.rp.trail :=
  have h := congrArg (fun t : State => t.rp.trail) (finish_core0 old s); h
@[simp] theorem finish_rp_running : (finish old s).rp.running = s.rp.running :=
  have h := congrArg (fun t : State => t.rp.running) (finish_core0 old s); h
@[simp] theorem finish_rp_rollback : (finish old s).rp.rollback = s.rp.rollback :=
  have h := congrArg (fun t : State => t.rp.rollback) (finish_core0 old s); h
@[simp] theorem finish_rp_version : (finish old s).rp.version = s.rp.version :=
  have h := congrArg (fun t : State => t.rp.version) (finish_core0 old s); h

/-! ## When nothing retires -/

theorem State.stuckNew_of_none (h : s.wdn.retiring = 0#50) : old.stuckNew s = s := by
  unfold State.stuckNew
  have hn : (indices 50 fun b => s.wdn.isRetiring b && !old.wdn.isRetiring b && s.wdn.holdsFix b)
      = [] := by simp [indices, Warden.isRetiring, h, bit]
  simp [hn]

theorem State.settleRetiring_of_none (h : s.wdn.retiring = 0#50) : s.settleRetiring = s := by
  simp [State.settleRetiring, h]

/-- While no bank retires, the end of a command leaves the Warden. -/
theorem finish_wdn (h : s.wdn.retiring = 0#50) : (finish old s).wdn = s.wdn := by
  have hh : (old.housekeep (s.dropPortA old)).wdn = s.wdn := by
    have h' : (s.dropPortA old).wdn.retiring = 0#50 := h
    unfold State.housekeep
    rw [State.stuckNew_of_none _ _ h', State.settleRetiring_of_none _ h']
    have h1 : ∀ t : State, t.copyRetired.wdn = t.wdn := by
      intro t; unfold State.copyRetired; split <;> rfl
    exact (State.netGuard_wdn _).trans (h1 _)
  unfold finish; dsimp only; split
  · exact hh
  · simpa using hh

/-! ## When the network engine has its table object -/

theorem State.tableObj_core0 {s t : State} (h : s.wdn.obj = t.wdn.obj)
    (hn : s.per.net.tbl = t.per.net.tbl) : s.tableObj = t.tableObj := by
  unfold State.tableObj Warden.objAtBase; rw [h, hn]

/-- While the engine is off or has its table object, the end of a command leaves it and the radio. -/
theorem finish_net (h : s.per.net.en = true → s.tableObj.isSome = true) :
    (finish old s).per.net = s.per.net ∧ (finish old s).per.rf = s.per.rf := by
  let u := (old.stuckNew (s.dropPortA old)).settleRetiring.copyRetired
  have hk : ∀ t : State, t.settleRetiring.per = t.per := by
    intro t; unfold State.settleRetiring; split
    · rfl
    · dsimp only
      generalize (indices 50 _) = l
      clear * -
      induction l generalizing t with
      | nil => rfl
      | cons a l ih => exact ih _
  have hp : u.per = s.per := by
    have h1 : ∀ t : State, t.copyRetired.per = t.per := by
      intro t; unfold State.copyRetired; split <;> rfl
    have h3 : (old.stuckNew (s.dropPortA old)).per = s.per := by
      unfold State.stuckNew; split
      · rfl
      · split <;> rfl
    exact (h1 _).trans ((hk _).trans h3)
  have ho : u.wdn.obj = s.wdn.obj := by
    have hc : u.core0 = s.core0 := (State.copyRetired_core0 _).trans
      ((State.settleRetiring_core0 _).trans (State.stuckNew_core0 old _))
    have h5 := congrArg (fun t : State => t.wdn.obj) hc
    exact h5
  have hg : u.netGuard = u := by
    unfold State.netGuard
    have : (u.per.net.en && u.tableObj.isNone) = false := by
      rw [State.tableObj_core0 ho (by rw [hp]), hp]
      cases hen : s.per.net.en with
      | false => rfl
      | true =>
        have h6 := h hen
        cases hto : s.tableObj with
        | none => simp [hto] at h6
        | some x => rfl
    rw [if_neg (by simp [this])]
  have hh : (old.housekeep (s.dropPortA old)).per = s.per := by
    show u.netGuard.per = s.per
    rw [hg]; exact hp
  unfold finish; dsimp only; split
  · exact ⟨congrArg Periph.net hh, congrArg Periph.rf hh⟩
  · constructor
    · simpa using congrArg Periph.net hh
    · simpa using congrArg Periph.rf hh

end Sys2Proof.Machine
end

