-- ==== Sys2Proof/Laws/Memory.lean ====
section
/-! SUPPORT. The bytes of memory: a read after a write, the places that a write leaves, and the canonical
form, which every operation on memory keeps. -/

namespace Sys2Proof.Machine

open Sys2Proof

/-! ## Lists of cells -/

theorem cellsFrom_mono {lo hi : Nat} (h : lo ≤ hi) :
    ∀ l : List Host.Cell, cellsFrom hi l = true → cellsFrom lo l = true
  | [], _ => rfl
  | (a, b) :: r, k => by
    simp only [cellsFrom, Bool.and_eq_true, decide_eq_true_eq] at k ⊢
    exact ⟨⟨Nat.le_trans h k.1.1, k.1.2⟩, k.2⟩

theorem cellsFrom_tail {lo a : Nat} {b : Byte} {r : List Host.Cell}
    (h : cellsFrom lo ((a, b) :: r) = true) : cellsFrom (a + 1) r = true := by
  simp only [cellsFrom, Bool.and_eq_true] at h
  exact h.2

theorem cellsFrom_filter {lo : Nat} (p : Host.Cell → Bool) :
    ∀ l : List Host.Cell, cellsFrom lo l = true → cellsFrom lo (l.filter p) = true
  | [], _ => rfl
  | (a, b) :: r, h => by
    simp only [cellsFrom, Bool.and_eq_true, decide_eq_true_eq] at h
    have ih := cellsFrom_filter p r h.2
    rw [List.filter_cons]
    split
    · simp [cellsFrom, h.1.1, h.1.2, ih]
    · exact cellsFrom_mono (by omega) _ ih

theorem readCell_filter (p : Nat → Bool) (x : Nat) :
    ∀ l : List Host.Cell,
      readCell (l.filter fun c => p c.1) x = if p x then readCell l x else blankByte
  | [] => by simp [readCell]
  | (a, b) :: r => by
    have ih := readCell_filter p x r
    rw [List.filter_cons]
    by_cases hp : p a = true
    · simp only [hp, if_true, readCell, ih]
      by_cases he : x = a
      · subst he; simp [hp]
      · simp [he]
    · simp only [hp, readCell]
      rw [if_neg Bool.false_ne_true, ih]
      by_cases he : x = a
      · subst he; simp [hp]
      · simp [he]

theorem cellsFrom_write {lo x : Nat} (hx : lo ≤ x) (v : Byte) :
    ∀ l : List Host.Cell, cellsFrom lo l = true → cellsFrom lo (writeCell l x v) = true
  | [], _ => by
    unfold writeCell
    split
    · rfl
    · simp [cellsFrom, *]
  | (a, b) :: r, h => by
    have h' := h
    simp only [cellsFrom, Bool.and_eq_true, decide_eq_true_eq] at h'
    obtain ⟨⟨h1, h2⟩, h3⟩ := h'
    unfold writeCell
    split
    · next hlt =>
      have ih := cellsFrom_write (lo := a + 1) (x := x) (by omega) v r h3
      simp [cellsFrom, h1, h2, ih]
    · split
      · exact cellsFrom_filter _ _ h
      · split
        · next he => subst he; simp [cellsFrom, *]
        · have : x + 1 ≤ a := by omega
          simp [cellsFrom, *]

/-- A read after a write at the same address gives the byte written. -/
theorem readCell_write_same (x : Nat) (v : Byte) :
    ∀ l : List Host.Cell, readCell (writeCell l x v) x = v
  | [] => by
    unfold writeCell
    split
    · simp [readCell, *]
    · simp [readCell]
  | (a, b) :: r => by
    unfold writeCell
    split
    · have h1 : x ≠ a := by omega
      simp [readCell, h1, readCell_write_same x v r]
    · split
      · next hv =>
        rw [readCell_filter (fun y => decide (y ≠ x))]
        simp [hv]
      · split <;> simp [readCell]

/-- A write leaves every other address. -/
theorem readCell_write_other {x y : Nat} (hne : y ≠ x) (v : Byte) :
    ∀ l : List Host.Cell, readCell (writeCell l x v) y = readCell l y
  | [] => by
    unfold writeCell
    split
    · rfl
    · simp [readCell, hne]
  | (a, b) :: r => by
    unfold writeCell
    split
    · simp [readCell, readCell_write_other hne v r]
    · split
      · rw [readCell_filter (fun z => decide (z ≠ x))]
        simp [hne]
      · split
        · next he => subst he; simp [readCell, hne]
        · simp [readCell, hne]

/-! ## Bytes -/

@[simp] theorem Memory.byte_setByte_same (m : Memory) (a : Nat) (v : Byte) :
    (m.setByte a v).byte a = v := readCell_write_same a v m.cells

theorem Memory.byte_setByte_other (m : Memory) {a x : Nat} (hx : x ≠ a) (v : Byte) :
    (m.setByte a v).byte x = m.byte x := readCell_write_other hx v m.cells

theorem Memory.wf_setByte (m : Memory) (h : m.wf = true) (a : Nat) (v : Byte) :
    (m.setByte a v).wf = true := cellsFrom_write (Nat.zero_le a) v m.cells h

theorem Memory.wf_setBytes (bs : List Byte) :
    ∀ (m : Memory) (a : Nat), m.wf = true → (m.setBytes a bs).wf = true := by
  induction bs with
  | nil => intro m a h; exact h
  | cons b bs ih => intro m a h; exact ih _ _ (m.wf_setByte h a b)

/-- A write of bytes leaves every address outside them. -/
theorem Memory.byte_setBytes_other (bs : List Byte) :
    ∀ (m : Memory) (a x : Nat), (x < a ∨ a + bs.length ≤ x) →
      (m.setBytes a bs).byte x = m.byte x := by
  induction bs with
  | nil => intro m a x _; rfl
  | cons b bs ih =>
    intro m a x hx
    simp only [List.length_cons] at hx
    show ((m.setByte a b).setBytes (a + 1) bs).byte x = m.byte x
    rw [ih _ _ _ (by omega)]
    exact m.byte_setByte_other (by omega) b

/-- The bytes written are read back. -/
theorem Memory.byte_setBytes_same (bs : List Byte) :
    ∀ (m : Memory) (a i : Nat) (h : i < bs.length), (m.setBytes a bs).byte (a + i) = bs[i] := by
  induction bs with
  | nil => intro m a i h; exact absurd h (Nat.not_lt_zero i)
  | cons b bs ih =>
    intro m a i h
    show ((m.setByte a b).setBytes (a + 1) bs).byte (a + i) = _
    cases i with
    | zero =>
      rw [Memory.byte_setBytes_other bs _ _ _ (by omega)]
      exact m.byte_setByte_same a b
    | succ i =>
      have h' : i < bs.length := by simpa using h
      have k := ih (m.setByte a b) (a + 1) i h'
      rw [show a + (i + 1) = a + 1 + i by omega, k]
      rfl

theorem Memory.wf_keep (m : Memory) (h : m.wf = true) (p : Nat → Bool) : (m.keep p).wf = true :=
  cellsFrom_filter _ m.cells h

theorem Memory.byte_keep (m : Memory) (p : Nat → Bool) (x : Nat) :
    (m.keep p).byte x = if p x then m.byte x else blankByte := readCell_filter p x m.cells

theorem Memory.wf_blank (m : Memory) (h : m.wf = true) (a n : Nat) : (m.blank a n).wf = true :=
  m.wf_keep h _

theorem Memory.byte_blank (m : Memory) (a n x : Nat) :
    (m.blank a n).byte x = if a ≤ x ∧ x < a + n then blankByte else m.byte x := by
  unfold Memory.blank
  rw [Memory.byte_keep]
  by_cases h : a ≤ x ∧ x < a + n
  · have : (decide (x < a) || decide (a + n ≤ x)) = false := by simp; omega
    simp [h, this]
  · have : (decide (x < a) || decide (a + n ≤ x)) = true := by simp; omega
    simp [h, this]

theorem Memory.wf_setCells :
    ∀ (l : List Host.Cell) (m : Memory), m.wf = true → (m.setCells l).wf = true
  | [], _, h => h
  | (a, b) :: r, m, h => Memory.wf_setCells r (m.setByte a b) (m.wf_setByte h a b)

theorem Memory.byte_setCells_other (x : Nat) :
    ∀ (l : List Host.Cell) (m : Memory), (∀ c ∈ l, c.1 ≠ x) → (m.setCells l).byte x = m.byte x
  | [], _, _ => rfl
  | (a, b) :: r, m, h => by
    show ((m.setByte a b).setCells r).byte x = m.byte x
    rw [Memory.byte_setCells_other x r _ fun c hc => h c (List.mem_cons_of_mem _ hc)]
    exact m.byte_setByte_other (fun e => h (a, b) List.mem_cons_self e.symm) b

theorem Memory.setCells_append :
    ∀ (l k : List Host.Cell) (m : Memory), m.setCells (l ++ k) = (m.setCells l).setCells k
  | [], _, _ => rfl
  | (a, b) :: r, k, m => Memory.setCells_append r k (m.setByte a b)

/-- Cells written from the last to the first: an address takes what the list reads as there. -/
theorem Memory.byte_setCells_reverse (x : Nat) (m : Memory) :
    ∀ l : List Host.Cell, (m.setCells l.reverse).byte x =
      if x ∈ l.map Prod.fst then readCell l x else m.byte x
  | [] => by simp [Memory.setCells]
  | (a, b) :: r => by
    rw [List.reverse_cons, Memory.setCells_append]
    show ((m.setCells r.reverse).setByte a b).byte x = _
    by_cases h : x = a
    · subst h; simp [readCell]
    · rw [Memory.byte_setByte_other _ h, Memory.byte_setCells_reverse x m r]
      simp [readCell, h]

theorem readCell_unlisted (x : Nat) :
    ∀ l : List Host.Cell, x ∉ l.map Prod.fst → readCell l x = blankByte
  | [], _ => rfl
  | (a, b) :: r, h => by
    simp only [List.map_cons, List.mem_cons, not_or] at h
    simp [readCell, h.1, readCell_unlisted x r h.2]

theorem readCell_moved (src dst n x : Nat) (hx : dst ≤ x ∧ x < dst + n) :
    ∀ l : List Host.Cell, readCell (movedCells l src dst n) x = readCell l (src + (x - dst))
  | [] => rfl
  | (a, b) :: r => by
    have ih := readCell_moved src dst n x hx r
    unfold movedCells at ih ⊢
    rw [List.filter_cons]
    by_cases h : src ≤ a ∧ a < src + n
    · have : (decide (src ≤ a) && decide (a < src + n)) = true := by simp [h]
      simp only [this, if_true, List.map_cons, readCell]
      by_cases e : x = a - src + dst
      · have : src + (x - dst) = a := by omega
        rw [if_pos e, if_pos this]
      · have : src + (x - dst) ≠ a := by omega
        simp only [e, this, if_false, ih]
    · have e : (decide (src ≤ a) && decide (a < src + n)) = false := by simp; omega
      have : src + (x - dst) ≠ a := by omega
      simp only [e, Bool.false_eq_true, if_false, readCell, this, ih]

/-- A copy puts the bytes of the source range at the destination and leaves every other byte. -/
theorem Memory.byte_copy (m : Memory) (src dst n x : Nat) :
    (m.copy src dst n).byte x =
      if dst ≤ x ∧ x < dst + n then m.byte (src + (x - dst)) else m.byte x := by
  unfold Memory.copy
  rw [Memory.byte_setCells_reverse, Memory.byte_blank]
  by_cases h : dst ≤ x ∧ x < dst + n
  · have e := readCell_moved src dst n x h m.cells
    by_cases k : x ∈ (movedCells m.cells src dst n).map Prod.fst
    · simp [h, k, e, Memory.byte]
    · have u := readCell_unlisted x _ k
      rw [e] at u
      simp [h, k, Memory.byte, u]
  · have k : x ∉ (movedCells m.cells src dst n).map Prod.fst := by
      intro k
      simp only [movedCells, List.mem_map, List.mem_filter, Bool.and_eq_true, decide_eq_true_eq] at k
      obtain ⟨p, ⟨q, ⟨_, h1, h2⟩, rfl⟩, rfl⟩ := k
      dsimp only at h
      omega
    simp [h, k]

theorem Memory.wf_copy (m : Memory) (h : m.wf = true) (src dst n : Nat) :
    (m.copy src dst n).wf = true := Memory.wf_setCells _ _ (m.wf_blank h dst n)

theorem Memory.wf_setWord (m : Memory) (h : m.wf = true) (a : Nat) (v : Word) :
    (m.setWord a v).wf = true := Memory.wf_setBytes _ m a h

theorem reset_memory_wf : State.reset.mem.wf = true := rfl

theorem Memory.bytes_length (m : Memory) : ∀ (n a : Nat), (m.bytes a n).length = n
  | 0, _ => rfl
  | n + 1, a => congrArg (· + 1) (m.bytes_length n (a + 1))

theorem Memory.bytes_congr {m k : Memory} (h : m.cells = k.cells) (a n : Nat) :
    m.bytes a n = k.bytes a n := by
  induction n generalizing a with
  | zero => rfl
  | succ n ih => simp only [Memory.bytes, Memory.byte, h, ih]

end Sys2Proof.Machine
end

