-- ==== Sys2Proof/Laws/Fetch.lean ====
section
/-! SUPPORT. What the fetch of an instruction and the beats of its accesses leave: the lookasides, the heat of
the objects, the counters and the free counter move, and nothing that a program sees does. -/

namespace Sys2Proof.Machine

open Sys2Proof

/-! ## The state without what an access notes -/

def Core.still (k : Core) : Core := { k with sample := 0 }

def ObjEntry.cold (e : ObjEntry) : ObjEntry := { e with heat := Vector.replicate 4 0 }

/-- The state without what an access of core `c` notes: the lookasides, the prefetch buffers, heat, waits on a
bank, the core's sample counter, the event counters and the free counter. -/
def State.plain (s : State) (c : CoreId) : State :=
  { s.base with
    free := 0
    look := Vector.replicate 9 Look.reset
    stale := Vector.replicate 4 []
    mm := { s.mm with conf := Vector.replicate 9 0#32, confSat := 0#32 }
    cores := s.cores.set c s.cores[c].still
    wdn := { s.wdn with obj := s.wdn.obj.map ObjEntry.cold } }

theorem plain_of_base {s t : State} (h : s.base = t.base) (c : CoreId) : s.plain c = t.plain c := by
  have k := congrArg (fun u : State => u.plain c) h
  exact k

variable (s : State)

@[simp] theorem State.countCore_plain (m c : CoreId) (a n : Nat) :
    (s.countCore c a n).plain m = s.plain m := plain_of_base (State.countCore_base ..) m
@[simp] theorem State.countSys_plain (m : CoreId) (a n : Nat) : (s.countSys a n).plain m = s.plain m :=
  plain_of_base (State.countSys_base ..) m
@[simp] theorem State.useFree_plain (m : CoreId) (n : Nat) : (s.useFree n).plain m = s.plain m := rfl
@[simp] theorem State.lookUp_plain (m : CoreId) (k i : Nat) : (s.lookUp k i).plain m = s.plain m := rfl

theorem vector_map_set {α β : Type} {n : Nat} (v : Vector α n) (i : Nat) (h : i < n) (x : α)
    (f : α → β) (hx : f x = f v[i]) : (v.set i x h).map f = v.map f := by
  ext j hj
  simp only [Vector.getElem_map, Vector.getElem_set]
  split
  · next e => subst e; exact hx
  · rfl

theorem vector_map_vmod {α β : Type} {n : Nat} (v : Vector α n) (i : Nat) (g : α → α) (f : α → β)
    (hx : ∀ x, f (g x) = f x) : (vmod v i g).map f = v.map f := by
  unfold vmod; split
  · exact vector_map_set _ _ _ _ _ (hx _)
  · rfl

theorem State.onCore_plain (c : CoreId) (f : Core → Core) (h : ∀ k, (f k).still = k.still) :
    (s.onCore c f).plain c = s.plain c := by
  have e : (s.onCore c f).cores.set c (s.onCore c f).cores[c].still = s.cores.set c s.cores[c].still := by
    simp [State.onCore_cores, h]
  unfold State.plain
  rw [e]; rfl

theorem State.onObj_plain (m : CoreId) (i : Nat) (f : ObjEntry → ObjEntry) (h : ∀ e, (f e).cold = e.cold) :
    (s.onObj i f).plain m = s.plain m := by
  have e : (s.onObj i f).wdn.obj.map ObjEntry.cold = s.wdn.obj.map ObjEntry.cold :=
    vector_map_vmod _ _ _ _ h
  unfold State.plain
  rw [e]; rfl

@[simp] theorem State.touchObject_plain (c : CoreId) (i : Nat) :
    (s.touchObject c i).plain c = s.plain c := by
  let u := (s.countCore c 10 (s.misses c i).toNat).lookUp c i
  let v := u.onCore c fun k => { k with sample := if s.sampled c then 0 else k.sample + 1 }
  have hu : u.plain c = s.plain c := State.countCore_plain ..
  have hv : v.plain c = u.plain c := State.onCore_plain u c _ fun _ => rfl
  show (if s.sampled c then v.onObj i fun e => e.addHeat c else v).plain c = s.plain c
  split
  · exact (State.onObj_plain v c i (fun e => e.addHeat c) fun _ => rfl).trans (hv.trans hu)
  · exact hv.trans hu

@[simp] theorem State.conflict_plain (m : CoreId) (k : Nat) : (s.conflict k).plain m = s.plain m := rfl
@[simp] theorem State.refill_plain (m c : CoreId) (a : Nat) : (s.refill c a).plain m = s.plain m := rfl

@[simp] theorem State.invalidateCode_plain (m : CoreId) (i a n : Nat) :
    (s.invalidateCode i a n).plain m = s.plain m := by
  unfold State.invalidateCode; split <;> rfl

@[simp] theorem State.countPlace_plain (m c : CoreId) (p : Nat) :
    (s.countPlace c p).plain m = s.plain m := by
  unfold State.countPlace; simp

@[simp] theorem State.noteBeat_plain (c : CoreId) (src a : Nat) :
    (s.noteBeat c src a).plain c = s.plain c := by
  unfold State.noteBeat; dsimp only; split <;> simp

@[simp] theorem State.noteFetch_plain (c : CoreId) (i a p : Nat) :
    (s.noteFetch c i a p).plain c = s.plain c := by
  unfold State.noteFetch; split
  · split <;> simp
  · simp

/-! ## The interrupt controllers -/

@[simp] theorem State.lookUp_irq (k i : Nat) : (s.lookUp k i).irq = s.irq := rfl

@[simp] theorem State.touchObject_irq (c : CoreId) (i : Nat) : (s.touchObject c i).irq = s.irq := by
  unfold State.touchObject; dsimp only; split <;> simp [State.onObj]

@[simp] theorem State.conflict_irq (k : Nat) : (s.conflict k).irq = s.irq := rfl
@[simp] theorem State.refill_irq (c : CoreId) (a : Nat) : (s.refill c a).irq = s.irq := rfl

@[simp] theorem State.countPlace_irq (c : CoreId) (p : Nat) : (s.countPlace c p).irq = s.irq := by
  unfold State.countPlace; simp

@[simp] theorem State.noteBeat_irq (c : CoreId) (src a : Nat) : (s.noteBeat c src a).irq = s.irq := by
  unfold State.noteBeat; dsimp only; split <;> simp

@[simp] theorem State.noteFetch_irq (c : CoreId) (i a p : Nat) : (s.noteFetch c i a p).irq = s.irq := by
  unfold State.noteFetch; split
  · split <;> simp
  · simp

/-! ## What depends on no more than that -/

variable {s} {t : State} {m : CoreId}

theorem plain_mem (h : s.plain m = t.plain m) : s.mem = t.mem := by
  have k := congrArg State.mem h
  exact k

theorem plain_restored (h : s.plain m = t.plain m) : s.mm.restored = t.mm.restored := by
  have k := congrArg (fun u : State => u.mm.restored) h
  exact k

theorem plain_map (h : s.plain m = t.plain m) : s.mm.map = t.mm.map := by
  have k := congrArg (fun u : State => u.mm.map) h
  exact k

theorem plain_rights (h : s.plain m = t.plain m) : s.mm.rights = t.mm.rights := by
  have k := congrArg (fun u : State => u.mm.rights) h
  exact k

theorem plain_portA (h : s.plain m = t.plain m) : s.portA = t.portA := by
  have k := congrArg State.portA h
  exact k

theorem plain_cores (h : s.plain m = t.plain m) :
    s.cores.set m s.cores[m].still = t.cores.set m t.cores[m].still := congrArg State.cores h

theorem plain_core (h : s.plain m = t.plain m) (c : CoreId) : s.cores[c].still = t.cores[c].still := by
  have k := congrArg (fun v : Vector Core 4 => v[c].still) (plain_cores h)
  have e : ∀ v : Vector Core 4, (v.set m v[m].still)[c].still = v[c].still := by
    intro v
    by_cases hc : m = c
    · subst hc
      have : (v.set m v[m].still)[m] = v[m].still := Vector.getElem_set_self _
      rw [this]; rfl
    · have : (v.set m v[m].still)[c] = v[c] :=
        Vector.getElem_set_ne (by omega) (by omega) fun k => hc (Fin.ext k)
      rw [this]
  rw [e, e] at k
  exact k

theorem plain_other (h : s.plain m = t.plain m) {c : CoreId} (hc : c ≠ m) : s.cores[c] = t.cores[c] := by
  have k := congrArg (fun v : Vector Core 4 => v[c]) (plain_cores h)
  have e : ∀ v : Vector Core 4, (v.set m v[m].still)[c] = v[c] := fun v =>
    Vector.getElem_set_ne (by omega) (by omega) fun k => hc (Fin.ext k.symm)
  rw [e, e] at k
  exact k

theorem plain_obj (h : s.plain m = t.plain m) :
    s.wdn.obj.map ObjEntry.cold = t.wdn.obj.map ObjEntry.cold := by
  have k := congrArg (fun u : State => u.wdn.obj) h
  exact k

theorem vget_map {α β : Type} {n : Nat} (v : Vector α n) (i : Nat) (d : α) (f : α → β) :
    vget (v.map f) i (f d) = f (vget v i d) := by
  unfold vget; split <;> simp

theorem plain_objAt (h : s.plain m = t.plain m) (i : Nat) : (s.objAt i).cold = (t.objAt i).cold := by
  unfold State.objAt
  have k : ∀ v : Vector ObjEntry 512,
      (vget v i ObjEntry.empty).cold = vget (v.map ObjEntry.cold) i ObjEntry.empty.cold :=
    fun v => (vget_map v i _ ObjEntry.cold).symm
  rw [k, k, plain_obj h]

theorem plain_tskAt (h : s.plain m = t.plain m) (i : Nat) : s.tskAt i = t.tskAt i := by
  have k := congrArg (fun u : State => u.tskAt i) h
  exact k

theorem plain_groupOf (h : s.plain m = t.plain m) (c : CoreId) : s.groupOf c = t.groupOf c := by
  have k' := congrArg Core.task (plain_core h c)
  have k : s.cores[c].task = t.cores[c].task := k'
  unfold State.groupOf
  rw [k, plain_tskAt h]

theorem findIdx?_map {α β : Type} (f : α → β) (p : β → Bool) (q : α → Bool) (h : ∀ x, p (f x) = q x) :
    ∀ l : List α, (l.map f).findIdx? p = l.findIdx? q
  | [] => rfl
  | x :: r => by
    simp only [List.map_cons, List.findIdx?_cons, h, findIdx?_map f p q h r]

theorem plain_index (h : s.plain m = t.plain m) (a : Nat) : s.wdn.index a = t.wdn.index a := by
  have k : ∀ u : State, u.wdn.index a =
      ((u.wdn.obj.map ObjEntry.cold).toList.findIdx? fun e => e.reachable && e.covers a) := by
    intro u
    rw [Vector.toList_map]
    exact (findIdx?_map ObjEntry.cold (fun e => e.reachable && e.covers a)
      (fun e => e.reachable && e.covers a) (fun _ => rfl) _).symm
  rw [k s, k t, plain_obj h]

theorem plain_translate (h : s.plain m = t.plain m) (i a : Nat) :
    (s.objAt i).translate a = (t.objAt i).translate a := by
  have k := congrArg (fun e : ObjEntry => e.translate a) (plain_objAt h i)
  exact k

theorem plain_reach (h : s.plain m = t.plain m) (a : Nat) : s.reach a = t.reach a := by
  unfold State.reach
  rw [plain_index h]
  split
  · split
    · rw [plain_translate h]
    · rfl
  · rfl

theorem plain_physical (h : s.plain m = t.plain m) (a : Nat) : s.physical a = t.physical a := by
  unfold State.physical; rw [plain_reach h]

theorem plain_fetchFault (h : s.plain m = t.plain m) (c : CoreId) (a : Nat) :
    s.fetchFault c a = t.fetchFault c a := by
  unfold State.fetchFault
  rw [plain_reach h, plain_groupOf h]
  split <;> try rfl
  next i _ _ =>
    have k := congrArg (fun e : ObjEntry => e.mayRun (t.groupOf c)) (plain_objAt h i)
    have k' : (s.objAt i).mayRun (t.groupOf c) = (t.objAt i).mayRun (t.groupOf c) := k
    rw [k']

theorem plain_beatFault (h : s.plain m = t.plain m) (c : CoreId) (rd wr : Bool) (a : Nat) :
    s.beatFault c rd wr a = t.beatFault c rd wr a := by
  unfold State.beatFault
  dsimp only
  rw [plain_reach h, plain_groupOf h]
  split <;> try rfl
  next i _ _ =>
    have k1 := congrArg (fun e : ObjEntry => e.mayWrite (t.groupOf c)) (plain_objAt h i)
    have k2 := congrArg (fun e : ObjEntry => e.mayRead (t.groupOf c)) (plain_objAt h i)
    have k1' : (s.objAt i).mayWrite (t.groupOf c) = (t.objAt i).mayWrite (t.groupOf c) := k1
    have k2' : (s.objAt i).mayRead (t.groupOf c) = (t.objAt i).mayRead (t.groupOf c) := k2
    rw [k1', k2']
  next p _ =>
    have k : s.emberMay (t.groupOf c) p = t.emberMay (t.groupOf c) p := by
      unfold State.emberMay; rw [plain_rights h]
    rw [k]

theorem plain_readPlace (h : s.plain m = t.plain m) (p : Nat) : readPlace s p = readPlace t p := by
  unfold readPlace imageAddr; rw [plain_restored h, plain_map h]

theorem plain_seenByte (h : s.plain m = t.plain m) (p : Nat) : s.seenByte p = t.seenByte p := by
  unfold State.seenByte; rw [plain_readPlace h, plain_mem h]

theorem plain_clean (h : s.plain m = t.plain m) (p n : Nat) : s.clean p n ↔ t.clean p n := by
  unfold State.clean; rw [plain_readPlace h, plain_mem h]

theorem plain_apart (h : s.plain m = t.plain m) (p n : Nat) : s.apart p n ↔ t.apart p n := by
  unfold State.apart; rw [plain_portA h]

theorem plain_fetchable (h : s.plain m = t.plain m) (c : CoreId) (a : Nat) :
    s.fetchable c a ↔ t.fetchable c a := by
  unfold State.fetchable
  rw [plain_fetchFault h, plain_physical h, plain_clean h, plain_apart h]

/-! ## Clean beats -/

theorem readWords_clean (s : State) (m : Nat) :
    ∀ l : List Nat, (∀ w ∈ l, s.mem.eccOf w = none) → s.readWords m l = ⟨s, []⟩
  | [], _ => rfl
  | w :: r, h => by
    have h1 : s.readWord m w = ⟨s, []⟩ := by simp [State.readWord, h w (by simp)]
    have h2 := readWords_clean s m r fun x hx => h x (by simp [hx])
    simp [State.readWords, h1, h2]

/-- Apart from port A nothing collides. -/
theorem collides_apart (s : State) (p n : Nat) (h : s.apart p n) : s.collides p n = false := by
  unfold State.collides
  cases hd : inDp p with
  | false => rfl
  | true =>
    have k : ((eccWords p n).any fun w => s.portA.any fun x => decide (x.word = w)) = false := by
      rw [List.any_eq_false]
      intro w hw
      simp only [List.any_eq_true, decide_eq_true_eq, not_exists, not_and]
      exact h hd w hw
    rw [k]; rfl

theorem noteCollision_apart (s : State) (p n : Nat) (h : s.apart p n) : s.noteCollision p n = s := by
  unfold State.noteCollision; rw [collides_apart s p n h]; rfl

theorem portB_apart (s : State) (p : Nat) (bs : List Byte) (h : s.apart p bs.length) :
    s.portB p bs = bs := by
  unfold State.portB; rw [collides_apart s p _ h]; rfl

/-- A beat that reads clean words reads their bytes and leaves the state. -/
theorem readBeat_clean (s : State) (m p n : Nat) (h : s.clean p n) :
    s.readBeat m p n = (⟨s, []⟩, s.mem.bytes (readPlace s p) n) := by
  unfold State.readBeat
  dsimp only
  rw [readWords_clean s m _ h]

/-- The fetch of a halfword that can be fetched leaves what a program sees. -/
theorem fetch_ok (s : State) (c : CoreId) (a : Nat) (h : s.fetchable c a) :
    (s.fetch c a).exn = none ∧ (s.fetch c a).unc = [] ∧ (s.fetch c a).s.plain c = s.plain c ∧
      (s.fetch c a).s.irq = s.irq := by
  unfold State.fetch
  rw [h.1]
  dsimp only
  split
  · next i p hr =>
    have hp : s.physical a = p := by unfold State.physical; rw [hr]
    have hc : (s.noteFetch c i a p).clean p 2 := by
      rw [plain_clean (State.noteFetch_plain s c i a p), ← hp]; exact h.2.1
    have ha : (s.noteFetch c i a p).apart p 2 := by
      rw [plain_apart (State.noteFetch_plain s c i a p), ← hp]; exact h.2.2
    rw [readBeat_clean _ _ _ _ hc]
    dsimp only
    rw [noteCollision_apart _ _ _ ha]
    simp
  · exact ⟨rfl, rfl, rfl, rfl⟩

theorem fetches_ok (n : Nat) : ∀ (s : State) (c : CoreId) (a : Nat),
    (∀ k < n, s.fetchable c (a + 2 * k)) →
    (s.fetches c a n).exn = none ∧ (s.fetches c a n).unc = [] ∧
      (s.fetches c a n).s.plain c = s.plain c ∧ (s.fetches c a n).s.irq = s.irq := by
  induction n with
  | zero => intro s c a _; exact ⟨rfl, rfl, rfl, rfl⟩
  | succ n ih =>
    intro s c a h
    obtain ⟨h1, h2, h3, h3'⟩ := fetch_ok s c a (h 0 (by omega))
    have h4 := ih (s.fetch c a).s c (a + 2) fun k hk => by
      rw [plain_fetchable h3]
      have := h (k + 1) (by omega)
      rwa [show a + 2 + 2 * k = a + 2 * (k + 1) by omega]
    unfold State.fetches
    dsimp only
    rw [h1, if_pos (.inl rfl)]
    refine ⟨?_, by simp [h2, h4.2.1], ?_⟩
    · show worst none _ = none
      rw [h4.1]; rfl
    exact ⟨ h4.2.2.1.trans h3, h4.2.2.2.trans h3'⟩

end Sys2Proof.Machine
end

