-- ==== Sys2Proof/Laws/Issue.lean ====
section
/-! SUPPORT. What issuing an instruction does: the fetch leaves what a program sees, and the end of the
instruction moves the PC and lets the issue cycles pass. -/

namespace Sys2Proof.Machine

open Sys2Proof

/-! ## One core -/

theorem Core.settleMul_seen (k : Core) : k.settleMul.seen = k.seen.settleMul := by
  unfold Core.settleMul
  have h : k.seen.mul = k.mul := rfl
  have i : k.seen.issue = k.issue := rfl
  rw [h, i]
  split
  · split <;> rfl
  · rfl

theorem Core.settleDiv_seen (k : Core) : k.settleDiv.seen = k.seen.settleDiv := by
  unfold Core.settleDiv
  have h : k.seen.div = k.div := rfl
  have i : k.seen.issue = k.issue := rfl
  rw [h, i]
  split
  · split <;> rfl
  · rfl

theorem Core.tick_seen (k : Core) (n : Nat) : (k.tick n).seen = k.seen.tick n := by
  unfold Core.tick
  rw [Core.settleDiv_seen, Core.settleMul_seen]
  rfl

@[simp] theorem Core.clock_seen (k : Core) (n : Nat) : (k.clock n).seen = k.seen := rfl

theorem Core.seen_of_still {k k' : Core} (h : k.still = k'.still) : k.seen = k'.seen := by
  have e := congrArg Core.seen h
  exact e

/-- Another core is untouched by an update of core `c`. -/
theorem onCore_other (s : State) {c e : CoreId} (h : e ≠ c) (f : Core → Core) :
    (s.onCore c f).cores[e] = s.cores[e] := by
  have : (c : Nat) ≠ e := fun k => h (Fin.ext k.symm)
  exact Vector.getElem_set_ne (by omega) (by omega) this

@[simp] theorem onCore_same (s : State) (c : CoreId) (f : Core → Core) :
    (s.onCore c f).cores[c] = f s.cores[c] := Vector.getElem_set_self _

/-! ## The end of an instruction -/

theorem State.spend_base (s : State) (c : CoreId) (n : Nat) :
    (s.spend c n).base = (s.onCore c fun k => (k.tick n).clock n).base :=
  (State.countCore_base ..).trans (State.countCore_base ..)

theorem State.delay_base (s : State) (c : CoreId) (n : Nat) :
    (s.delay c n).base = (s.onCore c fun k => k.clock n).base := State.countCore_base ..

/-- The state that the end of an instruction makes, but for the counters. -/
def State.completed (s : State) (c : CoreId) (pc : Word) (n : Nat) : State :=
  (((s.useFree 1).onCore c fun k => { k with pc := pc, stepArm := false }).onCore c fun k =>
    (k.tick n).clock n).onCore c fun k => k.clock (Config.freeNat s.free)

theorem State.onCore_base_congr {s t : State} (h : s.base = t.base) (c : CoreId) (f : Core → Core) :
    (s.onCore c f).base = (t.onCore c f).base := by
  have e' := congrArg State.cores h
  have e : s.cores = t.cores := e'
  have k : ∀ u : State, (u.onCore c f).base = { u.base with cores := u.cores.set c (f u.cores[c]) } :=
    fun _ => rfl
  rw [k, k, h, e]

theorem State.complete_base (s : State) (c : CoreId) (pc : Word) (n : Nat) :
    (s.complete c pc n).base = (s.completed c pc n).base := by
  unfold State.complete State.completed
  dsimp only
  refine (State.countCore_base ..).trans ((State.countCore_base ..).trans
    ((State.countCore_base ..).trans ?_))
  exact State.onCore_base_congr (State.spend_base ..) c _

theorem State.complete_core (s : State) (c : CoreId) (pc : Word) (n : Nat) :
    (s.complete c pc n).cores[c].seen = s.cores[c].after pc n := by
  have e := congrArg State.cores (State.complete_base s c pc n)
  have e' : (s.complete c pc n).cores = (s.completed c pc n).cores := e
  rw [e']
  unfold State.completed
  simp only [onCore_same, Core.clock_seen, Core.after]
  rw [Core.tick_seen, Core.tick_seen]
  rfl

theorem State.complete_other (s : State) {c e : CoreId} (h : e ≠ c) (pc : Word) (n : Nat) :
    (s.complete c pc n).cores[e] = s.cores[e] := by
  have k := congrArg State.cores (State.complete_base s c pc n)
  have k' : (s.complete c pc n).cores = (s.completed c pc n).cores := k
  rw [k']
  unfold State.completed
  rw [onCore_other _ h, onCore_other _ h, onCore_other _ h]
  rfl

theorem State.complete_mem (s : State) (c : CoreId) (pc : Word) (n : Nat) :
    (s.complete c pc n).mem = s.mem := by
  have k := congrArg State.mem (State.complete_base s c pc n)
  exact k

theorem State.complete_mm (s : State) (c : CoreId) (pc : Word) (n : Nat) :
    (s.complete c pc n).mm = s.mm := by
  have k := congrArg State.mm (State.complete_base s c pc n)
  exact k

/-! ## What stays -/

theorem SameBlocks.of_base {s t : State} (h : s.base = t.base) : SameBlocks s t := by
  have k := fun {α : Type} (f : State → α) => congrArg f h
  exact ⟨(k State.pwr).symm, (k State.clk).symm, (k State.peg).symm, (k fun u => u.per.pin).symm,
    (k fun u => u.per.tim).symm, (k fun u => u.per.ua).symm, (k fun u => u.per.tch).symm,
    (k fun u => u.per.evt).symm, (k fun u => u.per.rtc).symm, (k fun u => u.per.hrv).symm,
    (k State.snap).symm, (k State.pending).symm⟩

theorem SameBlocks.of_plain {s t : State} {c : CoreId} (h : s.plain c = t.plain c) : SameBlocks s t := by
  have k := fun {α : Type} (f : State → α) => congrArg f h
  exact ⟨(k State.pwr).symm, (k State.clk).symm, (k State.peg).symm, (k fun u => u.per.pin).symm,
    (k fun u => u.per.tim).symm, (k fun u => u.per.ua).symm, (k fun u => u.per.tch).symm,
    (k fun u => u.per.evt).symm, (k fun u => u.per.rtc).symm, (k fun u => u.per.hrv).symm,
    (k State.snap).symm, (k State.pending).symm⟩

theorem SameBlocks.refl (s : State) : SameBlocks s s :=
  ⟨rfl, rfl, rfl, rfl, rfl, rfl, rfl, rfl, rfl, rfl, rfl, rfl⟩

theorem SameBlocks.trans {s t u : State} (h : SameBlocks s t) (k : SameBlocks t u) : SameBlocks s u :=
  ⟨k.pwr.trans h.pwr, k.clk.trans h.clk, k.peg.trans h.peg, k.pin.trans h.pin, k.tim.trans h.tim,
    k.ua.trans h.ua, k.tch.trans h.tch, k.evt.trans h.evt, k.rtc.trans h.rtc, k.hrv.trans h.hrv,
    k.snap.trans h.snap, k.pending.trans h.pending⟩

theorem SameBlocks.onCore {s t : State} (h : SameBlocks s t) (c d : CoreId) (f g : Core → Core) :
    SameBlocks (s.onCore c f) (t.onCore d g) :=
  ⟨h.pwr, h.clk, h.peg, h.pin, h.tim, h.ua, h.tch, h.evt, h.rtc, h.hrv, h.snap, h.pending⟩

theorem SameBlocks.complete (s : State) (c : CoreId) (pc : Word) (n : Nat) :
    SameBlocks s (s.complete c pc n) := by
  have k := SameBlocks.of_base (State.complete_base s c pc n)
  exact ⟨k.pwr.symm, k.clk.symm, k.peg.symm, k.pin.symm, k.tim.symm, k.ua.symm, k.tch.symm,
    k.evt.symm, k.rtc.symm, k.hrv.symm, k.snap.symm, k.pending.symm⟩

theorem SameBlocks.finish (old s : State) : SameBlocks s (finish old s) :=
  ⟨by simp, by simp, by simp, by simp, by simp, by simp, by simp, by simp, by simp, by simp, by simp,
    by simp⟩

theorem finish_seenByte (old s : State) (p : Nat) : (finish old s).seenByte p = s.seenByte p := by
  unfold State.seenByte readPlace imageAddr; simp

/-- What a master reads rests on memory and on which lines are restored and where their images lie. -/
theorem seenByte_congr {s t : State} (h : s.mem.cells = t.mem.cells) (k : s.mm.restored = t.mm.restored)
    (m : s.mm.map = t.mm.map) (p : Nat) : s.seenByte p = t.seenByte p := by
  unfold State.seenByte readPlace imageAddr Memory.byte; rw [h, k, m]

/-! ## The issue of an instruction -/

/-- The state in which the body of an instruction runs: `u` is `s` but for what the fetch notes. -/
structure Fetched (s : State) (c : CoreId) (u : State) : Prop where
  plain : u.plain c = (s.onCore c fun k => { k with repOpen := false }).plain c
  irq : u.irq = s.irq

/-- A ready core runs the body of its instruction in a state that differs from the one before by what a
fetch notes. -/
theorem instr_ready {s : State} {c : CoreId} {n : Nat} (h : s.ready c n) (body : State → Out) :
    ∃ u : State, Fetched s c u ∧
      s.instr c n body =
        match (body u).exn with
        | some x => (body u).s.takeException c x s.cores[c].pc (body u).unc
        | none =>
          ((body u).s.complete c (body u).pc (body u).cycles).aftermath c s.cores[c].pc (body u).unc
            false := by
  obtain ⟨h1, h2⟩ := h
  obtain ⟨f1, f2, f3, f4⟩ := fetches_ok n s c s.cores[c].pc.toNat h2
  refine ⟨(s.fetches c s.cores[c].pc.toNat n).s.onCore c fun k => { k with repOpen := false }, ⟨?_, f4⟩, ?_⟩
  · have e : ∀ u : State, (u.onCore c fun k => { k with repOpen := false }).plain c =
        { u.plain c with
          cores := (u.plain c).cores.set c { (u.plain c).cores[c] with repOpen := false } } := by
      intro u
      simp [State.plain, State.onCore, Core.still, State.base]
    rw [e, e, f3]
  · unfold State.instr
    rw [if_pos h1]
    dsimp only
    rw [f1] <;> rfl

theorem aftermath_nil (s : State) (c : CoreId) (pc : Word) : s.aftermath c pc [] false = s := rfl

theorem Fetched.seen {s u : State} {c : CoreId} (h : Fetched s c u) :
    u.cores[c].seen = s.cores[c].seen := by
  have k := Core.seen_of_still (plain_core h.plain c)
  rw [k, onCore_same]; rfl

theorem Fetched.other {s u : State} {c e : CoreId} (h : Fetched s c u) (he : e ≠ c) :
    u.cores[e] = s.cores[e] := by rw [plain_other h.plain he, onCore_other _ he]

theorem Fetched.w {s u : State} {c : CoreId} (h : Fetched s c u) : u.cores[c].w = s.cores[c].w := by
  have k := congrArg Core.w h.seen
  exact k

theorem Fetched.flg {s u : State} {c : CoreId} (h : Fetched s c u) :
    u.cores[c].flg = s.cores[c].flg := by
  have k := congrArg Core.flg h.seen
  exact k

theorem Fetched.pc {s u : State} {c : CoreId} (h : Fetched s c u) : u.cores[c].pc = s.cores[c].pc := by
  have k := congrArg Core.pc h.seen
  exact k

theorem Fetched.nextPc {s u : State} {c : CoreId} (h : Fetched s c u) (n : Nat) :
    u.nextPc c n = s.nextPc c n := by unfold State.nextPc; rw [h.pc]

theorem Fetched.byte {s u : State} {c : CoreId} (h : Fetched s c u) (p : Nat) :
    u.seenByte p = s.seenByte p := (plain_seenByte h.plain p).trans rfl

theorem Fetched.blocks {s u : State} {c : CoreId} (h : Fetched s c u) : SameBlocks s u := by
  have k := SameBlocks.of_plain (Eq.symm h.plain)
  exact ⟨k.pwr, k.clk, k.peg, k.pin, k.tim, k.ua, k.tch, k.evt, k.rtc, k.hrv, k.snap, k.pending⟩

/-- An instruction whose body rewrites only its core, by `f`, and counts events, completes. -/
theorem instr_completes {s : State} {c : CoreId} {n cycles : Nat} {f : Core → Core} {i : Instr}
    {pc : Word} {body : State → Out} (h : s.ready c n)
    (hi : exec i s = .next (finish s (s.instr c n body)))
    (hf : ∀ k : Core, (f k).seen = f k.seen)
    (hb : ∀ u, Fetched s c u → (body u).exn = none ∧ (body u).unc = [] ∧
      (body u).s.base = (u.onCore c f).base ∧ (body u).pc = pc ∧ (body u).cycles = cycles) :
    registerStep s i c (f s.cores[c]) pc cycles := by
  obtain ⟨u, hu, hr⟩ := instr_ready h body
  obtain ⟨b1, b2, b3, b4, b5⟩ := hb u hu
  rw [b1, b2, b4, b5] at hr
  have hr' : s.instr c n body = (body u).s.complete c pc cycles := hr
  have hcores : (body u).s.cores = (u.onCore c f).cores := by
    have k := congrArg State.cores b3
    exact k
  refine ⟨_, hi, ?_, ?_, ?_, ?_⟩
  · rw [finish_cores, hr', State.complete_core, hcores, onCore_same]
    unfold Core.after
    rw [Core.tick_seen, Core.tick_seen]
    have e : ∀ k : Core, ({ k with pc := pc } : Core).seen = { k.seen with pc := pc } := fun _ => rfl
    rw [e, e, hf, hf, Fetched.seen hu]
  · intro e he
    rw [finish_cores, hr', State.complete_other _ he, hcores, onCore_other _ he, Fetched.other hu he]
  · intro a
    rw [finish_seenByte, hr']
    have k1 := congrArg State.mem b3
    have k2 := congrArg State.mm b3
    have k1' : (body u).s.mem = u.mem := k1
    have k2' : (body u).s.mm = u.mm := k2
    refine (seenByte_congr (t := u) ?_ ?_ ?_ a).trans (Fetched.byte hu a)
    · rw [State.complete_mem, k1']
    · rw [State.complete_mm, k2']
    · rw [State.complete_mm, k2']
  · rw [hr']
    refine SameBlocks.trans ?_ (SameBlocks.finish ..)
    refine SameBlocks.trans ?_ (SameBlocks.complete ..)
    have k := SameBlocks.of_base b3.symm
    have j := Fetched.blocks hu
    exact j.trans ⟨k.pwr, k.clk, k.peg, k.pin, k.tim, k.ua, k.tch, k.evt, k.rtc, k.hrv, k.snap, k.pending⟩

/-- An instruction that rewrites only its core completes. -/
theorem regs_completes {s : State} {c : CoreId} {n cycles : Nat} {f : Core → Core} {i : Instr}
    (hf : ∀ k : Core, (f k).seen = f k.seen) (h : s.ready c n)
    (hi : exec i s = .next (finish s (s.regs c n cycles f))) :
    registerStep s i c (f s.cores[c]) (s.nextPc c n) cycles :=
  instr_completes h hi hf fun _ hu => ⟨rfl, rfl, rfl, Fetched.nextPc hu n, rfl⟩

end Sys2Proof.Machine
end

