-- ==== Sys2Proof/Laws/Beats.lean ====
section
/-! SUPPORT. The beats of an access to memory: an access within one aligned 8-byte span lies in one object or
one Ember line, so its bytes stand side by side, and a load answers the bytes as a master reads them. -/

namespace Sys2Proof.Machine

open Sys2Proof

/-! ## One aligned span -/

theorem inRange_span {a j lo n : Nat} (h : a / 8 = (a + j) / 8) (hl : lo % 8 = 0) (hn : n % 8 = 0) :
    inRange (a + j) lo n = inRange a lo n := by
  unfold inRange
  rw [Bool.eq_iff_iff]
  simp only [Bool.and_eq_true, decide_eq_true_eq]
  omega

theorem covers_span (e : ObjEntry) {a j : Nat} (h : a / 8 = (a + j) / 8) :
    e.covers (a + j) = e.covers a := by
  unfold ObjEntry.covers
  apply inRange_span h
  · unfold ObjEntry.logical objBase; omega
  · unfold objBytes
    generalize 2 ^ e.size = k
    omega

theorem index_span (w : Warden) {a j : Nat} (h : a / 8 = (a + j) / 8) :
    w.index (a + j) = w.index a := by
  unfold Warden.index
  have k : (fun e : ObjEntry => e.reachable && e.covers (a + j)) =
      fun e : ObjEntry => e.reachable && e.covers a := funext fun e => by rw [covers_span e h]
  rw [k]

theorem index_covers (s : State) {a i : Nat} (h : s.wdn.index a = some i) :
    (s.objAt i).covers a = true := by
  unfold Warden.index at h
  rw [List.findIdx?_eq_some_iff_getElem] at h
  obtain ⟨hi, hp, _⟩ := h
  have hi' : i < 512 := by simpa using hi
  have e : s.objAt i = s.wdn.obj.toList[i] := by
    unfold State.objAt vget
    simp [hi']
  rw [e]
  simp only [Bool.and_eq_true] at hp
  exact hp.2

theorem reach_span (s : State) {a j : Nat} (h : a / 8 = (a + j) / 8) :
    s.reach (a + j) =
      match s.reach a with
      | .obj i p => .obj i (p + j)
      | .ember p => .ember (p + j)
      | .io o => .io (o + j)
      | .noobj => .noobj
      | .outside => .outside := by
  unfold State.reach
  have h1 : inObjWindow (a + j) = inObjWindow a := inRange_span h (by decide) (by decide)
  have h2 : inEmber (a + j) = inEmber a := inRange_span h (by decide) (by decide)
  have h3 : inPeriph (a + j) = inPeriph a := inRange_span h (by decide) (by decide)
  rw [h1, h2, h3, index_span _ h]
  split
  · split
    · next i hi =>
      have hc := index_covers s hi
      simp only [ObjEntry.covers, inRange, Bool.and_eq_true, decide_eq_true_eq] at hc
      simp only [ObjEntry.translate]
      congr 1; omega
    · rfl
  · split
    · rfl
    · split
      · next hp =>
        simp only [inPeriph, inRange, Bool.and_eq_true, decide_eq_true_eq] at hp
        have : a + j - periphBase = a - periphBase + j := by omega
        simp [this]
      · rfl

/-- An address in memory, in an object or in the Ember window. -/
def State.inMemory (s : State) (a : Nat) : Prop :=
  (∃ i p, s.reach a = .obj i p) ∨ ∃ p, s.reach a = .ember p

theorem inMemory_of_ok {s : State} {c : CoreId} {rd wr : Bool} {a : Nat} (hp : inPeriph a = false)
    (h : s.beatFault c rd wr a = none) : s.inMemory a := by
  unfold State.beatFault at h
  cases hr : s.reach a with
  | obj i p => exact .inl ⟨i, p, hr⟩
  | ember p => exact .inr ⟨p, hr⟩
  | noobj => simp [hr] at h
  | outside => simp [hr] at h
  | io o =>
    unfold State.reach at hr
    rw [hp] at hr
    split at hr
    · split at hr <;> simp at hr
    · split at hr <;> simp at hr

theorem physical_span {s : State} {a j : Nat} (h : a / 8 = (a + j) / 8) (hm : s.inMemory a) :
    s.physical (a + j) = s.physical a + j := by
  unfold State.physical
  rw [reach_span s h]
  rcases hm with ⟨i, p, e⟩ | ⟨p, e⟩ <;> simp [e]

theorem bankBase_mod (b : Nat) : bankBase b % 8 = 0 := by
  unfold bankBase mramBase sramBase dpBase emberBase
  split
  · omega
  · split
    · omega
    · split <;> omega

theorem physical_mod {s : State} {a : Nat} (hm : s.inMemory a) : s.physical a % 8 = a % 8 := by
  rcases hm with ⟨i, p, e⟩ | ⟨p, e⟩
  · have hp : s.physical a = p := by unfold State.physical; rw [e]
    rw [hp]
    unfold State.reach at e
    split at e
    · split at e
      · next i' hi =>
        simp only [Place.obj.injEq] at e
        obtain ⟨rfl, rfl⟩ := e
        have hc := index_covers s hi
        simp only [ObjEntry.covers, inRange, Bool.and_eq_true, decide_eq_true_eq] at hc
        have hb := bankBase_mod (s.objAt i').bank
        simp only [ObjEntry.translate, ObjEntry.physical]
        have hl : (s.objAt i').logical % 8 = 0 := by unfold ObjEntry.logical objBase; omega
        omega
      · simp at e
    · split at e
      · simp at e
      · split at e <;> simp at e
  · have hp : s.physical a = p := by unfold State.physical; rw [e]
    rw [hp]
    unfold State.reach at e
    split at e
    · split at e <;> simp at e
    · split at e
      · simp only [Place.ember.injEq] at e; rw [e]
      · split at e <;> simp at e

theorem imageAddr_span {s : State} {p j : Nat} (h : p / 8 = (p + j) / 8) (hp : emberBase ≤ p) :
    imageAddr s (p + j) = imageAddr s p + j := by
  unfold imageAddr
  dsimp only
  have e : (p + j - emberBase) / 64 = (p - emberBase) / 64 := by unfold emberBase at *; omega
  rw [e]
  split <;> omega

theorem readPlace_span {s : State} {p j : Nat} (h : p / 8 = (p + j) / 8) :
    readPlace s (p + j) = readPlace s p + j := by
  unfold readPlace
  have h1 : inEmber (p + j) = inEmber p := inRange_span h (by decide) (by decide)
  rw [h1]
  cases hp : inEmber p with
  | false => simp
  | true =>
    have hp' := hp
    simp only [inEmber, inRange, Bool.and_eq_true, decide_eq_true_eq] at hp'
    have e : (p + j - emberBase) / 64 = (p - emberBase) / 64 := by unfold emberBase at *; omega
    rw [e]
    split
    · exact imageAddr_span h hp'.1
    · rfl

theorem bytes_eq_map (m : Memory) (n : Nat) : ∀ a : Nat,
    m.bytes a n = (List.range n).map fun j => m.byte (a + j) := by
  induction n with
  | zero => intro a; rfl
  | succ n ih =>
    intro a
    rw [List.range_succ_eq_map, List.map_cons, List.map_map]
    show m.byte a :: m.bytes (a + 1) n = _
    rw [ih]
    congr 1
    apply List.map_congr_left
    intro j _
    show m.byte (a + 1 + j) = m.byte (a + (j + 1))
    congr 1; omega

/-- The bytes of one beat in memory are those that a master reads at its addresses. -/
theorem bytes_span {s : State} {a n : Nat} (h : a % 8 + n ≤ 8) (hm : s.inMemory a) :
    s.mem.bytes (readPlace s (s.physical a)) n =
      (List.range n).map fun j => s.seenByte (s.physical (a + j)) := by
  rw [bytes_eq_map]
  apply List.map_congr_left
  intro j hj
  rw [List.mem_range] at hj
  have h1 : a / 8 = (a + j) / 8 := by omega
  have hp := physical_mod hm
  have h2 : s.physical a / 8 = (s.physical a + j) / 8 := by omega
  unfold State.seenByte
  rw [physical_span h1 hm, readPlace_span h2]

theorem clean_span {s : State} {a n : Nat} (hn : 0 < n) (h : a % 8 + n ≤ 8) (hm : s.inMemory a)
    (hc : ∀ j < n, s.clean (s.physical (a + j)) 1) : s.clean (s.physical a) n := by
  have hp := physical_mod hm
  have h1 : a / 8 = (a + (n - 1)) / 8 := by omega
  have h2 : s.physical a / 8 = (s.physical a + (n - 1)) / 8 := by omega
  have e0 := hc 0 hn
  have e1 := hc (n - 1) (by omega)
  rw [physical_span h1 hm] at e1
  unfold State.clean eccWords at *
  rw [readPlace_span h2] at e1
  simp only [Nat.add_zero, Nat.add_sub_cancel, if_true, List.mem_singleton, forall_eq] at e0 e1
  intro w hw
  have hz : readPlace s (s.physical a) + n - 1 = readPlace s (s.physical a) + (n - 1) := by omega
  rw [hz] at hw
  dsimp only at hw
  split at hw
  · simp only [List.mem_singleton] at hw; rw [hw]; exact e0
  · simp only [List.mem_cons, List.not_mem_nil, or_false] at hw
    rcases hw with rfl | rfl
    · exact e0
    · exact e1

theorem apart_span {s : State} {a n : Nat} (hn : 0 < n) (h : a % 8 + n ≤ 8) (hm : s.inMemory a)
    (ha : ∀ j < n, s.apart (s.physical (a + j)) 1) : s.apart (s.physical a) n := by
  have hp := physical_mod hm
  have h1 : a / 8 = (a + (n - 1)) / 8 := by omega
  have h2 : s.physical a / 8 = (s.physical a + (n - 1)) / 8 := by omega
  have e0 := ha 0 hn
  have e1 := ha (n - 1) (by omega)
  rw [physical_span h1 hm] at e1
  unfold State.apart eccWords at *
  have hd : inDp (s.physical a + (n - 1)) = inDp (s.physical a) :=
    inRange_span h2 (by decide) (by decide)
  rw [hd] at e1
  simp only [Nat.add_zero, Nat.add_sub_cancel, if_true, List.mem_singleton, forall_eq] at e0 e1
  intro hi w hw
  have hz : s.physical a + n - 1 = s.physical a + (n - 1) := by omega
  rw [hz] at hw
  dsimp only at hw
  split at hw
  · simp only [List.mem_singleton] at hw; rw [hw]; exact e0 hi
  · simp only [List.mem_cons, List.not_mem_nil, or_false] at hw
    rcases hw with rfl | rfl
    · exact e0 hi
    · exact e1 hi

/-! ## Loads -/

theorem numOf_append (l k : List Byte) : numOf (l ++ k) = numOf l + 256 ^ l.length * numOf k := by
  induction l with
  | nil => simp [numOf]
  | cons b r ih =>
    simp only [List.cons_append, numOf, ih, List.length_cons, Nat.pow_succ]
    ring

theorem accessible_congr {s t : State} {c : CoreId} (h : s.plain c = t.plain c) (e : CoreId)
    (rd wr : Bool) (a n : Nat) : s.accessible e rd wr a n ↔ t.accessible e rd wr a n := by
  unfold State.accessible
  simp only [plain_beatFault h, plain_physical h, plain_clean h, plain_apart h]

theorem loadBeat_ok {s : State} {c : CoreId} {a n : Nat} (hn : 0 < n) (h8 : a % 8 + n ≤ 8)
    (h : s.accessible c true false a n) :
    (s.loadBeat c a n).exn = none ∧ (s.loadBeat c a n).unc = [] ∧
      (s.loadBeat c a n).s.plain c = s.plain c ∧
      (s.loadBeat c a n).v = numOf ((List.range n).map fun j => s.seenByte (s.physical (a + j))) := by
  obtain ⟨hp0, hb0, _⟩ := h 0 hn
  rw [Nat.add_zero] at hp0 hb0
  have hm := inMemory_of_ok hp0 hb0
  have hc := clean_span hn h8 hm fun j hj => (h j hj).2.2.1
  have ha := apart_span hn h8 hm fun j hj => (h j hj).2.2.2
  have hc' : (s.noteBeat c 7 a).clean (s.physical a) n := by
    rw [plain_clean (State.noteBeat_plain s c 7 a)]; exact hc
  have ha' : (s.noteBeat c 7 a).apart (s.physical a) n := by
    rw [plain_apart (State.noteBeat_plain s c 7 a)]; exact ha
  unfold State.loadBeat
  rw [hb0]
  dsimp only
  rw [readBeat_clean _ _ _ _ hc']
  rw [noteCollision_apart _ _ _ ha']
  refine ⟨rfl, rfl, State.noteBeat_plain s c 7 a, ?_⟩
  rw [portB_apart _ _ _ (by rw [Memory.bytes_length]; exact ha')]
  have e1 : readPlace (s.noteBeat c 7 a) (s.physical a) = readPlace s (s.physical a) :=
    plain_readPlace (State.noteBeat_plain s c 7 a) _
  have e2 : (s.noteBeat c 7 a).mem = s.mem := plain_mem (State.noteBeat_plain s c 7 a)
  dsimp only
  rw [e1, e2, bytes_span h8 hm]

theorem firstBeat_le (a n : Nat) : firstBeat a n ≤ n := Nat.min_le_left _ _

/-- A load of accessible bytes answers their number and leaves what a program sees. -/
theorem load_ok {s : State} {c : CoreId} {a n : Nat} (hn : 0 < n) (hn8 : n ≤ 8)
    (h : s.accessible c true false a n) :
    (s.load c a n).exn = none ∧ (s.load c a n).unc = [] ∧ (s.load c a n).s.plain c = s.plain c ∧
      (s.load c a n).v = s.valueAt a n := by
  have hp : inPeriph a = false := (h 0 hn).1
  have hk : 0 < firstBeat a n := by unfold firstBeat; omega
  have hk8 : a % 8 + firstBeat a n ≤ 8 := by unfold firstBeat; omega
  obtain ⟨g1, g2, g3, g4⟩ := loadBeat_ok (n := firstBeat a n) hk hk8 fun j hj => h j (by
    have := firstBeat_le a n; omega)
  unfold State.load
  rw [hp]
  simp only [Bool.false_eq_true, if_false]
  by_cases he : firstBeat a n = n
  · rw [if_pos (.inl he)]
    rw [he] at g1 g2 g3 g4
    rw [he]
    exact ⟨g1, g2, g3, g4⟩
  · have hlt : firstBeat a n < n := by have := firstBeat_le a n; omega
    rw [if_neg (by simp [he, g1])]
    have hc : ((s.loadBeat c a (firstBeat a n)).s.countCore c 9 1).plain c = s.plain c := by
      rw [State.countCore_plain]; exact g3
    have hmod : (a + firstBeat a n) % 8 = 0 := by unfold firstBeat at *; omega
    have hacc : ((s.loadBeat c a (firstBeat a n)).s.countCore c 9 1).accessible c true false
        (a + firstBeat a n) (n - firstBeat a n) := by
      rw [accessible_congr hc]
      intro j hj
      have := h (firstBeat a n + j) (by omega)
      rwa [← Nat.add_assoc] at this
    obtain ⟨k1, k2, k3, k4⟩ := loadBeat_ok (by omega) (by omega) hacc
    refine ⟨?_, ?_, ?_, ?_⟩
    · unfold Got.andLoad; simp [g1, k1, worst]
    · unfold Got.andLoad; simp [g2, k2]
    · unfold Got.andLoad; exact k3.trans hc
    · unfold Got.andLoad State.valueAt
      dsimp only
      rw [g4, k4]
      have e : List.range n = List.range (firstBeat a n) ++
          (List.range (n - firstBeat a n)).map (firstBeat a n + ·) := by
        rw [← List.range_add]; congr 1; omega
      rw [e, List.map_append, numOf_append, List.length_map, List.length_range, List.map_map]
      congr 3
      apply List.map_congr_left
      intro j _
      rw [plain_seenByte hc, plain_physical hc]
      simp only [Function.comp, Nat.add_assoc]

end Sys2Proof.Machine
end

