-- ==== Sys2Proof/Laws/Stores.lean ====
section
/-! SUPPORT. Stores: one beat puts its bytes in their place, in the copy of a migrating object, and over an
Ember line that it pulls, and the beats of an unaligned store follow one another. -/

namespace Sys2Proof.Machine

open Sys2Proof

/-! ## One beat in a bank -/

/-- The places that a state reads and writes through are the same: only memory contents, wear counts and
restored lines may differ, and no word has come into error. -/
structure SamePlaces (s u : State) : Prop where
  eq : { u with mem := s.mem, mm := s.mm } = s
  map : u.mm.map = s.mm.map
  rights : u.mm.rights = s.mm.rights
  ecc : ∀ w, s.mem.eccOf w = none → u.mem.eccOf w = none
  restored : ∀ i, bit s.mm.restored i = true → bit u.mm.restored i = true

theorem SamePlaces.refl (s : State) : SamePlaces s s :=
  ⟨rfl, rfl, rfl, fun _ h => h, fun _ h => h⟩

theorem SamePlaces.trans {s t u : State} (h : SamePlaces s t) (k : SamePlaces t u) : SamePlaces s u := by
  refine ⟨?_, k.map.trans h.map, k.rights.trans h.rights, fun w e => k.ecc w (h.ecc w e),
    fun i e => k.restored i (h.restored i e)⟩
  have h' := h.eq
  rw [← k.eq] at h'
  exact h'

theorem mergeWord_clean (s : State) (m a n w : Nat) (h : s.mem.eccOf w = none) :
    s.mergeWord m a n w = s := by
  unfold State.mergeWord
  dsimp only
  rw [h]

theorem countWear_same (s : State) (w : Nat) :
    ∃ v, s.countWear w = { s with mm := { s.mm with wear := v } } := by
  unfold State.countWear
  split
  · split
    · exact ⟨_, rfl⟩
    · exact ⟨s.mm.wear, rfl⟩
  · exact ⟨s.mm.wear, rfl⟩

theorem writeBeat_clean (s : State) (m a : Nat) (bs : List Byte)
    (h : ∀ w ∈ eccWords a bs.length, s.mem.eccOf w = none) :
    ∃ v, s.writeBeat m a bs =
      { s with mem := s.mem.setBytes a bs, mm := { s.mm with wear := v } } := by
  have k : ∀ (l : List Nat) (u : State), (∀ w ∈ l, u.mem.eccOf w = none) →
      ∃ v, l.foldl (fun s w => (s.mergeWord m a bs.length w).countWear w) u =
        { u with mm := { u.mm with wear := v } } := by
    intro l
    induction l with
    | nil => intro u _; exact ⟨u.mm.wear, rfl⟩
    | cons w r ih =>
      intro u hu
      obtain ⟨v, hv⟩ := countWear_same u w
      rw [List.foldl_cons, mergeWord_clean _ _ _ _ _ (hu w (by simp)), hv]
      obtain ⟨v', hv'⟩ := ih { u with mm := { u.mm with wear := v } } fun x hx => hu x (by simp [hx])
      exact ⟨v', hv'⟩
  obtain ⟨v, hv⟩ := k (eccWords a bs.length) s h
  refine ⟨v, ?_⟩
  unfold State.writeBeat
  dsimp only
  rw [hv]
  rfl

theorem SamePlaces.written {s : State} {a : Nat} {bs : List Byte} {v : Vector Nat 16} :
    SamePlaces s { s with mem := s.mem.setBytes a bs, mm := { s.mm with wear := v } } := by
  have k : ∀ (l : List Byte) (m : Memory) (a : Nat), (m.setBytes a l).ecc = m.ecc := by
    intro l
    induction l with
    | nil => intro m a; rfl
    | cons b r ih => intro m a; exact (ih _ _).trans rfl
  refine ⟨rfl, rfl, rfl, fun w h => ?_, fun _ h => h⟩
  show (s.mem.setBytes a bs).eccOf w = none
  unfold Memory.eccOf
  rw [k]; exact h

/-! ## The pull of an Ember line -/

/-- The byte at `x` lies in line `l` of the Ember window. -/
def inLine (l x : Nat) : Prop := emberBase + 64 * l ≤ x ∧ x < emberBase + 64 * l + 64

theorem lookup_filter_none (p : Nat → Bool) (w : Nat) :
    ∀ l : List (Nat × EccKind), l.lookup w = none → (l.filter fun e => p e.1).lookup w = none
  | [], _ => rfl
  | (a, k) :: r, h => by
    rw [List.lookup_cons] at h
    rw [List.filter_cons]
    cases e : w == a with
    | true => simp [e] at h
    | false =>
      rw [e] at h
      have ih := lookup_filter_none p w r h
      split
      · rw [List.lookup_cons, e]; exact ih
      · exact ih

theorem lookup_filter_out (p : Nat → Bool) (w : Nat) (hp : p w = false) :
    ∀ l : List (Nat × EccKind), (l.filter fun e => p e.1).lookup w = none
  | [] => rfl
  | (a, k) :: r => by
    rw [List.filter_cons]
    split
    · next h =>
      rw [List.lookup_cons]
      cases e : w == a with
      | true =>
        have : w = a := by simpa using e
        subst this
        rw [hp] at h; simp at h
      | false => exact lookup_filter_out p w hp r
    · exact lookup_filter_out p w hp r

theorem imageAddr_line (s : State) (l o : Nat) (ho : o < 64) :
    imageAddr s (emberBase + 64 * l + o) = imageAddr s (emberBase + 64 * l) + o := by
  unfold imageAddr
  dsimp only
  have e1 : (emberBase + 64 * l + o - emberBase) / 64 = l := by omega
  have e2 : (emberBase + 64 * l - emberBase) / 64 = l := by omega
  rw [e1, e2]
  split <;> omega

/-- The pull of an unrestored line whose image is clean: the line holds its image, and none of its words is in
error. -/
theorem pull_clean (s : State) (l : Nat) (hr : bit s.mm.restored l = false) (hl : l < 256)
    (hc : ∀ k < 8, s.mem.eccOf (imageAddr s (emberBase + 64 * l) + 8 * k) = none) :
    ∃ u, s.pull l = ⟨u, []⟩ ∧ SamePlaces s u ∧ bit u.mm.restored l = true ∧
      (∀ i, i ≠ l → bit u.mm.restored i = bit s.mm.restored i) ∧
      (∀ w, inLine l w → u.mem.eccOf w = none) ∧
      (∀ x, inLine l x → u.mem.byte x = s.mem.byte (imageAddr s x)) ∧
      ∀ x, ¬inLine l x → u.mem.byte x = s.mem.byte x := by
  have hw : s.readWords strikeEngine
      ((List.range 8).map fun k => imageAddr s (emberBase + 64 * l) + 8 * k) = ⟨s, []⟩ := by
    apply readWords_clean
    intro w hw
    simp only [List.mem_map, List.mem_range] at hw
    obtain ⟨k, hk, rfl⟩ := hw
    exact hc k hk
  refine ⟨(s.pullWords (imageAddr s (emberBase + 64 * l)) l []).onMm fun r =>
      { r with restored := setBit r.restored l true, dirty := setBit r.dirty l true },
    ?_, ?_, ?_, ?_, ?_, ?_, ?_⟩
  · unfold State.pull
    rw [hr]
    dsimp only
    rw [hw]
    rfl
  · refine ⟨rfl, rfl, rfl, fun w h => ?_, fun i h => ?_⟩
    · show (List.lookup w (_ ++ [])) = none
      rw [List.append_nil]
      exact lookup_filter_none
        (fun x => !(decide (emberBase + 64 * l ≤ x) && decide (x < emberBase + 64 * l + 64))) w _ h
    · show bit (setBit s.mm.restored l true) i = true
      unfold bit setBit at *
      simp [h]
  · show bit (setBit s.mm.restored l true) l = true
    unfold bit setBit
    simp [hl]
  · intro i hi
    show bit (setBit s.mm.restored l true) i = _
    unfold bit setBit
    simp [Ne.symm hi]
  · intro w hw'
    show (List.lookup w (_ ++ [])) = none
    rw [List.append_nil]
    refine lookup_filter_out
      (fun x => !(decide (emberBase + 64 * l ≤ x) && decide (x < emberBase + 64 * l + 64))) w ?_ _
    simp [hw'.1, hw'.2]
  · intro x hx
    show (s.mem.copy (imageAddr s (emberBase + 64 * l)) (emberBase + 64 * l) 64).byte x = _
    obtain ⟨o, ho, rfl⟩ : ∃ o < 64, x = emberBase + 64 * l + o :=
      ⟨x - (emberBase + 64 * l), by have := hx.2; have := hx.1; omega, by have := hx.1; omega⟩
    rw [Memory.byte_copy, if_pos ⟨hx.1, hx.2⟩, imageAddr_line s l o ho, Nat.add_sub_cancel_left]
  · intro x hx
    show (s.mem.copy (imageAddr s (emberBase + 64 * l)) (emberBase + 64 * l) 64).byte x = _
    have hx' : ¬(emberBase + 64 * l ≤ x ∧ x < emberBase + 64 * l + 64) := hx
    rw [Memory.byte_copy, if_neg hx']

/-! ## One beat of a store -/

/-- The line of the Ember window that holds a place. -/
def lineOf (p : Nat) : Nat := (p - emberBase) / 64

/-- A store at place `p` pulls the line that holds `x`. -/
def State.pulls (s : State) (p x : Nat) : Prop :=
  inEmber p = true ∧ bit s.mm.restored (lineOf p) = false ∧ inLine (lineOf p) x

theorem lineOf_lt {p : Nat} (h : inEmber p = true) : lineOf p < 256 := by
  simp only [inEmber, inRange, Bool.and_eq_true, decide_eq_true_eq] at h
  unfold lineOf emberBase at *; omega

theorem inLine_lineOf {p : Nat} (h : inEmber p = true) : inLine (lineOf p) p := by
  simp only [inEmber, inRange, Bool.and_eq_true, decide_eq_true_eq] at h
  unfold inLine lineOf emberBase at *; omega

/-- Memory after bytes are put at a place. -/
theorem byte_setBytes (m : Memory) (a x : Nat) (bs : List Byte) :
    (m.setBytes a bs).byte x = if a ≤ x ∧ x < a + bs.length then bs.getD (x - a) 0#8 else m.byte x := by
  split
  · next h =>
    have hl : x - a < bs.length := by omega
    have k := Memory.byte_setBytes_same bs m a (x - a) hl
    rw [show a + (x - a) = x by omega] at k
    rw [k, List.getD_eq_getElem _ _ hl]
  · next h => exact Memory.byte_setBytes_other bs m a x (by omega)

theorem eccWords_mem {p n w : Nat} (h : w ∈ eccWords p n) : w = eccWord p ∨ w = eccWord (p + n - 1) := by
  unfold eccWords at h
  dsimp only at h
  split at h
  · exact .inl (by simpa using h)
  · simpa using h

/-- The words of an Ember beat lie in its line. -/
theorem eccWords_line {p n : Nat} (hp : inEmber p = true) (hn : 0 < n) (h8 : p % 8 + n ≤ 8) {w : Nat}
    (h : w ∈ eccWords p n) : inLine (lineOf p) w := by
  have hp' := hp
  simp only [inEmber, inRange, Bool.and_eq_true, decide_eq_true_eq] at hp'
  have k : ∀ y, p ≤ y → y ≤ p + n - 1 → inLine (lineOf p) (eccWord y) := by
    intro y h1 h2
    have hm : inMram y = false := by
      simp only [inMram, inRange, Bool.and_eq_false_iff, decide_eq_false_iff_not]
      unfold mramBase emberBase at *; omega
    unfold eccWord eccSize
    rw [hm]
    unfold inLine lineOf emberBase at *
    simp only [Bool.false_eq_true, if_false]
    omega
  rcases eccWords_mem h with rfl | rfl
  · exact k p (Nat.le_refl _) (by omega)
  · exact k _ (by omega) (Nat.le_refl _)

theorem imageAddr_cases (s : State) (y : Nat) :
    imageAddr s (emberBase + y) = mramBase + 0x8000 + y ∨
      imageAddr s (emberBase + y) = mramBase + 0xC000 + y := by
  unfold imageAddr
  have e : emberBase + y - emberBase = y := by omega
  simp only [e]
  cases bit s.mm.map (y / 64) with
  | true => exact .inr rfl
  | false => exact .inl rfl

theorem eccWord_image (s : State) (y k : Nat) (hy : y % 8 = 0) (hlt : y + 8 * k < 0x4000 + 64) :
    eccWord (imageAddr s (emberBase + y) + 8 * k) = imageAddr s (emberBase + y) + 8 * k := by
  have hm : ∀ z, mramBase ≤ z → z < mramBase + 0x800000 → z % 8 = 0 → eccWord z = z := by
    intro z h1 h2 h3
    have : inMram z = true := by
      simp only [inMram, inRange, Bool.and_eq_true, decide_eq_true_eq]; exact ⟨h1, h2⟩
    unfold eccWord eccSize
    rw [this]
    simp only [if_true]; omega
  rcases imageAddr_cases s y with h | h <;> rw [h] <;> apply hm <;> unfold mramBase <;> omega

/-- One clean beat at a place: its bytes stand there, over the image of a line that it pulls. -/
theorem storeBeat_ok (s : State) (m p : Nat) (bs : List Byte) (hn : 0 < bs.length)
    (h8 : p % 8 + bs.length ≤ 8) (hc : s.clean p bs.length)
    (hl : ∀ x, s.pulls p x → s.mem.eccOf (eccWord (imageAddr s x)) = none) :
    ∃ u, s.storeBeat m p bs = ⟨u, []⟩ ∧ SamePlaces s u ∧
      (inEmber p = true → bit u.mm.restored (lineOf p) = true) ∧
      (∀ i, bit u.mm.restored i = true → bit s.mm.restored i = true ∨ inEmber p = true ∧ i = lineOf p) ∧
      (∀ w, s.pulls p w → u.mem.eccOf w = none) ∧
      (∀ x, p ≤ x → x < p + bs.length → u.mem.byte x = bs.getD (x - p) 0#8) ∧
      (∀ x, ¬(p ≤ x ∧ x < p + bs.length) → s.pulls p x → u.mem.byte x = s.mem.byte (imageAddr s x)) ∧
      ∀ x, ¬(p ≤ x ∧ x < p + bs.length) → ¬s.pulls p x → u.mem.byte x = s.mem.byte x := by
  by_cases hpull : inEmber p = true ∧ bit s.mm.restored (lineOf p) = false
  · obtain ⟨hp, hr⟩ := hpull
    have hlc : ∀ k < 8, s.mem.eccOf (imageAddr s (emberBase + 64 * lineOf p) + 8 * k) = none := by
      intro k hk
      have e := imageAddr_line s (lineOf p) (8 * k) (by omega)
      have hin : s.pulls p (emberBase + 64 * lineOf p + 8 * k) :=
        ⟨hp, hr, by unfold inLine; omega⟩
      have q := hl _ hin
      rw [e] at q
      have hw : eccWord (imageAddr s (emberBase + 64 * lineOf p) + 8 * k) =
          imageAddr s (emberBase + 64 * lineOf p) + 8 * k := by
        have hlt := lineOf_lt hp
        exact eccWord_image s (64 * lineOf p) k (by omega) (by omega)
      rw [hw] at q
      exact q
    obtain ⟨u, hu, hs, h1, h2, h3, h4, h5⟩ := pull_clean s (lineOf p) hr (lineOf_lt hp) hlc
    obtain ⟨v, hv⟩ := writeBeat_clean u m p bs fun w hw => h3 w (eccWords_line hp hn h8 hw)
    refine ⟨u.writeBeat m p bs, ?_, ?_⟩
    · unfold State.storeBeat
      rw [hp]
      simp only [if_true]
      show (⟨(s.pull (lineOf p)).s.writeBeat m p bs, (s.pull (lineOf p)).unc⟩ : Beat) = _
      rw [hu]
    · rw [hv]
      refine ⟨hs.trans SamePlaces.written, fun _ => h1, ?_, ?_, ?_, ?_, ?_⟩
      · intro i hi
        by_cases e : i = lineOf p
        · exact .inr ⟨hp, e⟩
        · exact .inl (by rw [← h2 i e]; exact hi)
      · intro w hw
        exact (SamePlaces.written (s := u)).ecc w (h3 w hw.2.2)
      · intro x hx1 hx2
        show (u.mem.setBytes p bs).byte x = _
        rw [byte_setBytes, if_pos ⟨hx1, hx2⟩]
      · intro x hx hq
        show (u.mem.setBytes p bs).byte x = _
        rw [byte_setBytes, if_neg hx]
        exact h4 x hq.2.2
      · intro x hx hq
        show (u.mem.setBytes p bs).byte x = _
        rw [byte_setBytes, if_neg hx]
        exact h5 x fun k => hq ⟨hp, hr, k⟩
  · have hrp : readPlace s p = p := by
      unfold readPlace
      cases hp : inEmber p with
      | false => simp
      | true =>
        have : bit s.mm.restored (lineOf p) = true := by
          cases hb : bit s.mm.restored (lineOf p) with
          | true => rfl
          | false => exact absurd ⟨hp, hb⟩ hpull
        have e : bit s.mm.restored ((p - emberBase) / 64) = true := this
        simp [e]
    obtain ⟨v, hv⟩ := writeBeat_clean s m p bs fun w hw => hc w (by rw [hrp]; exact hw)
    have hb : s.storeBeat m p bs = ⟨s.writeBeat m p bs, []⟩ := by
      unfold State.storeBeat
      cases hp : inEmber p with
      | false => simp
      | true =>
        have e : bit s.mm.restored (lineOf p) = true := by
          cases hb : bit s.mm.restored (lineOf p) with
          | true => rfl
          | false => exact absurd ⟨hp, hb⟩ hpull
        have e' : s.pull (lineOf p) = ⟨s, []⟩ := by unfold State.pull; simp [e]
        simp only [if_true]
        show (⟨(s.pull (lineOf p)).s.writeBeat m p bs, (s.pull (lineOf p)).unc⟩ : Beat) = _
        rw [e']
    have hno : ∀ x, ¬s.pulls p x := fun x h => hpull ⟨h.1, h.2.1⟩
    refine ⟨s.writeBeat m p bs, hb, ?_⟩
    rw [hv]
    refine ⟨SamePlaces.written, ?_, fun i hi => .inl hi, fun w hw => absurd hw (hno w), ?_,
      fun x _ hq => absurd hq (hno x), ?_⟩
    · intro hp
      cases hb : bit s.mm.restored (lineOf p) with
      | true => rfl
      | false => exact absurd ⟨hp, hb⟩ hpull
    · intro x hx1 hx2
      show (s.mem.setBytes p bs).byte x = _
      rw [byte_setBytes, if_pos ⟨hx1, hx2⟩]
    · intro x hx _
      show (s.mem.setBytes p bs).byte x = _
      rw [byte_setBytes, if_neg hx]

/-! ## The copy of a migrating object -/

theorem objBytes_mod (z : Nat) : objBytes z % 8 = 0 := by
  unfold objBytes; generalize 2 ^ z = k; omega

theorem physical_entry_mod (e : ObjEntry) : e.physical % 8 = 0 := by
  unfold ObjEntry.physical
  have := bankBase_mod e.bank
  omega

theorem migDest_mod (m : Migration) : migDest m % 8 = 0 := by
  unfold migDest
  have := bankBase_mod m.bank
  omega

/-- The bytes of one span are mirrored together. -/
theorem mirrorOf_span {s : State} (hm : ∀ m, s.wdn.mig = some m → m.obj < 512) {p j : Nat}
    (h : p / 8 = (p + j) / 8) : s.mirrorOf (p + j) = (s.mirrorOf p).map (· + j) := by
  unfold State.mirrorOf
  cases e : s.wdn.mig with
  | none => rfl
  | some m =>
    have ho := hm m e
    have h1 : s.migSource m % 8 = 0 := by
      unfold State.migSource; rw [if_pos ho]; exact physical_entry_mod _
    have h2 : s.migBytes m % 8 = 0 := by
      unfold State.migBytes; rw [if_pos ho]; exact objBytes_mod _
    dsimp only
    rw [inRange_span h h1 h2]
    split
    · next hr =>
      simp only [inRange, Bool.and_eq_true, decide_eq_true_eq] at hr
      simp only [Option.map_some, Option.some.injEq]
      omega
    · rfl

theorem mirrorOf_mod {s : State} (hm : ∀ m, s.wdn.mig = some m → m.obj < 512) {p q : Nat}
    (h : s.mirrorOf p = some q) : q % 8 = p % 8 := by
  unfold State.mirrorOf at h
  cases e : s.wdn.mig with
  | none => rw [e] at h; simp at h
  | some m =>
    rw [e] at h
    have ho := hm m e
    have h1 : s.migSource m % 8 = 0 := by
      unfold State.migSource; rw [if_pos ho]; exact physical_entry_mod _
    have h2 := migDest_mod m
    dsimp only at h
    split at h
    · next hr =>
      simp only [inRange, Bool.and_eq_true, decide_eq_true_eq] at hr
      simp only [Option.some.injEq] at h
      omega
    · simp at h

/-- What one beat of a store makes of memory. -/
structure BeatStored (s u : State) (p : Nat) (bs : List Byte) : Prop where
  same : SamePlaces s u
  line : inEmber p = true → bit u.mm.restored (lineOf p) = true
  lines : ∀ i, bit u.mm.restored i = true →
    bit s.mm.restored i = true ∨ inEmber p = true ∧ i = lineOf p
  ecc : ∀ w, s.pulls p w → u.mem.eccOf w = none
  mirror : ∀ q x, s.mirrorOf p = some q → q ≤ x → x < q + bs.length →
    u.mem.byte x = bs.getD (x - q) 0#8
  own : ∀ x, (∀ q, s.mirrorOf p = some q → ¬(q ≤ x ∧ x < q + bs.length)) → p ≤ x →
    x < p + bs.length → u.mem.byte x = bs.getD (x - p) 0#8
  image : ∀ x, (∀ q, s.mirrorOf p = some q → ¬(q ≤ x ∧ x < q + bs.length)) →
    ¬(p ≤ x ∧ x < p + bs.length) → s.pulls p x → u.mem.byte x = s.mem.byte (imageAddr s x)
  rest : ∀ x, (∀ q, s.mirrorOf p = some q → ¬(q ≤ x ∧ x < q + bs.length)) →
    ¬(p ≤ x ∧ x < p + bs.length) → ¬s.pulls p x → u.mem.byte x = s.mem.byte x

theorem store_ok (s : State) (m p : Nat) (bs : List Byte) (hn : 0 < bs.length)
    (h8 : p % 8 + bs.length ≤ 8) (hc : s.clean p bs.length)
    (hl : ∀ x, s.pulls p x → s.mem.eccOf (eccWord (imageAddr s x)) = none)
    (hq : ∀ q, s.mirrorOf p = some q → ∀ w ∈ eccWords q bs.length, s.mem.eccOf w = none) :
    ∃ u, s.store m p bs = ⟨u, []⟩ ∧ BeatStored s u p bs := by
  obtain ⟨u, hu, hs, h1, h2, h3, h4, h5, h6⟩ := storeBeat_ok s m p bs hn h8 hc hl
  cases hk : s.mirrorOf p with
  | none =>
    refine ⟨u, ?_, hs, h1, h2, h3, fun q _ e => ?_, fun x _ => h4 x, fun x _ => h5 x, fun x _ => h6 x⟩
    · unfold State.store
      rw [hu]
      unfold State.mirrorOf at hk
      dsimp only
      split
      · rfl
      · next mg e =>
        rw [e] at hk
        dsimp only at hk
        split at hk
        · simp at hk
        · next hr => simp [hr]
    · rw [hk] at e; simp at e
  | some q =>
    obtain ⟨v, hv⟩ := writeBeat_clean u m q bs fun w hw => hs.ecc w (hq q hk w hw)
    have hb : ∀ x, (u.writeBeat m q bs).mem.byte x =
        if q ≤ x ∧ x < q + bs.length then bs.getD (x - q) 0#8 else u.mem.byte x := by
      intro x
      rw [hv]
      exact byte_setBytes u.mem q x bs
    have hw : SamePlaces u (u.writeBeat m q bs) := by rw [hv]; exact SamePlaces.written
    have hr : (u.writeBeat m q bs).mm.restored = u.mm.restored := by rw [hv]
    refine ⟨u.writeBeat m q bs, ?_, hs.trans hw, ?_, ?_, ?_, ?_, ?_, ?_, ?_⟩
    · unfold State.store
      rw [hu]
      unfold State.mirrorOf at hk
      dsimp only
      split
      · next e => rw [e] at hk; simp at hk
      · next mg e =>
        rw [e] at hk
        dsimp only at hk
        split at hk
        · next hr =>
          simp only [Option.some.injEq] at hk
          simp [hr, hk]
        · simp at hk
    · rw [hr]; exact h1
    · rw [hr]; exact h2
    · exact fun w k => hw.ecc w (h3 w k)
    · intro q' x e k1 k2
      rw [hk] at e
      simp only [Option.some.injEq] at e
      subst e
      rw [hb, if_pos ⟨k1, k2⟩]
    · intro x k k1 k2
      rw [hb, if_neg (k q hk)]
      exact h4 x k1 k2
    · intro x k k1 k2
      rw [hb, if_neg (k q hk)]
      exact h5 x k1 k2
    · intro x k k1 k2
      rw [hb, if_neg (k q hk)]
      exact h6 x k1 k2

/-! ## What the places depend on -/

theorem plain_mig {s t : State} {m : CoreId} (h : s.plain m = t.plain m) : s.wdn.mig = t.wdn.mig := by
  have k := congrArg (fun u : State => u.wdn.mig) h
  exact k

theorem plain_mirrorOf {s t : State} {m : CoreId} (h : s.plain m = t.plain m) (p : Nat) :
    s.mirrorOf p = t.mirrorOf p := by
  have k1 : ∀ g, s.migSource g = t.migSource g := by
    intro g
    unfold State.migSource
    have k := congrArg (fun e : ObjEntry => e.physical) (plain_objAt h g.obj)
    have k' : (s.objAt g.obj).physical = (t.objAt g.obj).physical := k
    rw [k', plain_mem h]
  have k2 : ∀ g, s.migBytes g = t.migBytes g := by
    intro g
    unfold State.migBytes
    have k := congrArg (fun e : ObjEntry => e.size) (plain_objAt h g.obj)
    have k' : (s.objAt g.obj).size = (t.objAt g.obj).size := k
    rw [k', plain_mem h]
  unfold State.mirrorOf
  rw [plain_mig h]
  simp only [k1, k2]

theorem plain_imageAddr {s t : State} {m : CoreId} (h : s.plain m = t.plain m) (p : Nat) :
    imageAddr s p = imageAddr t p := by
  unfold imageAddr; rw [plain_map h]

theorem plain_pulls {s t : State} {m : CoreId} (h : s.plain m = t.plain m) (p x : Nat) :
    s.pulls p x ↔ t.pulls p x := by
  unfold State.pulls; rw [plain_restored h]

theorem SamePlaces.fields {s u : State} (h : SamePlaces s u) :
    u.wdn = s.wdn ∧ u.cores = s.cores ∧ u.itg = s.itg ∧ u.portA = s.portA := by
  have k := h.eq
  have k1 := congrArg State.wdn k
  have k2 := congrArg State.cores k
  have k3 := congrArg State.itg k
  have k4 := congrArg State.portA k
  exact ⟨k1, k2, k3, k4⟩

theorem SamePlaces.reach {s u : State} (h : SamePlaces s u) (a : Nat) : u.reach a = s.reach a := by
  unfold State.reach State.objAt; rw [h.fields.1]

theorem SamePlaces.physical {s u : State} (h : SamePlaces s u) (a : Nat) :
    u.physical a = s.physical a := by
  unfold State.physical; rw [h.reach]

theorem SamePlaces.beatFault {s u : State} (h : SamePlaces s u) (c : CoreId) (rd wr : Bool) (a : Nat) :
    u.beatFault c rd wr a = s.beatFault c rd wr a := by
  unfold State.beatFault State.groupOf State.emberMay State.tskAt State.objAt
  rw [h.reach, h.fields.1, h.fields.2.1, h.rights]

theorem SamePlaces.imageAddr {s u : State} (h : SamePlaces s u) (p : Nat) :
    imageAddr u p = imageAddr s p := by
  unfold Machine.imageAddr; rw [h.map]

theorem SamePlaces.mirrorOf {s u : State} (h : SamePlaces s u)
    (hm : ∀ m, s.wdn.mig = some m → m.obj < 512) (p : Nat) : u.mirrorOf p = s.mirrorOf p := by
  unfold State.mirrorOf
  rw [h.fields.1]
  cases e : s.wdn.mig with
  | none => rfl
  | some g =>
    have ho := hm g e
    have k1 : u.migSource g = s.migSource g := by
      unfold State.migSource State.objAt; rw [if_pos ho, if_pos ho, h.fields.1]
    have k2 : u.migBytes g = s.migBytes g := by
      unfold State.migBytes State.objAt; rw [if_pos ho, if_pos ho, h.fields.1]
    simp only [k1, k2]

/-! ## The beats of a store -/

theorem inLine_ember {l x : Nat} (hl : l < 256) (h : inLine l x) : inEmber x = true := by
  simp only [inEmber, inRange, Bool.and_eq_true, decide_eq_true_eq]
  unfold inLine at h; omega

theorem pulls_ember {s : State} {p x : Nat} (h : s.pulls p x) : inEmber x = true :=
  inLine_ember (lineOf_lt h.1) h.2.2

theorem pulled_iff (s : State) (a n x : Nat) :
    s.pulled a n x ↔ ∃ j < n, s.pulls (s.physical (a + j)) x := by
  unfold State.pulled State.pulls inLine lineOf
  constructor
  · rintro ⟨j, hj, h1, h2, h3, h4⟩
    exact ⟨j, hj, h1, h2, by omega⟩
  · rintro ⟨j, hj, h1, h2, h3⟩
    exact ⟨j, hj, h1, h2, by omega, by omega⟩

theorem pulls_span {s : State} {p j x : Nat} (h : p / 8 = (p + j) / 8) :
    s.pulls (p + j) x ↔ s.pulls p x := by
  unfold State.pulls
  have h1 : inEmber (p + j) = inEmber p := inRange_span h (by decide) (by decide)
  rw [h1]
  cases hp : inEmber p with
  | false => simp
  | true =>
    simp only [inEmber, inRange, Bool.and_eq_true, decide_eq_true_eq] at hp
    have e : lineOf (p + j) = lineOf p := by unfold lineOf emberBase at *; omega
    rw [e]

/-- What one beat of `bs` at address `a` makes of memory, byte by byte. -/
structure BeatBytes (s u : State) (a : Nat) (bs : List Byte) : Prop where
  same : SamePlaces s u
  line : ∀ j < bs.length, inEmber (s.physical (a + j)) = true →
    bit u.mm.restored (lineOf (s.physical (a + j))) = true
  lines : ∀ i, bit u.mm.restored i = true → bit s.mm.restored i = true ∨
    ∃ j < bs.length, inEmber (s.physical (a + j)) = true ∧ i = lineOf (s.physical (a + j))
  ecc : ∀ w, s.pulled a bs.length w → u.mem.eccOf w = none
  mirror : ∀ j < bs.length, ∀ x, s.mirrorOf (s.physical (a + j)) = some x →
    u.mem.byte x = bs.getD j 0#8
  own : ∀ j < bs.length, (∀ i < bs.length, s.mirrorOf (s.physical (a + i)) ≠
    some (s.physical (a + j))) → u.mem.byte (s.physical (a + j)) = bs.getD j 0#8
  image : ∀ x, ¬s.touched a bs.length x → s.pulled a bs.length x →
    u.mem.byte x = s.mem.byte (imageAddr s x)
  rest : ∀ x, ¬s.touched a bs.length x → ¬s.pulled a bs.length x → u.mem.byte x = s.mem.byte x

theorem BeatStored.bytes {s u : State} {a : Nat} {bs : List Byte}
    (hg : ∀ m, s.wdn.mig = some m → m.obj < 512) (hm : s.inMemory a) (hn : 0 < bs.length)
    (h8 : a % 8 + bs.length ≤ 8) (h : BeatStored s u (s.physical a) bs) : BeatBytes s u a bs := by
  have hpm := physical_mod hm
  have hph : ∀ j < bs.length, s.physical (a + j) = s.physical a + j := fun j hj =>
    physical_span (by omega) hm
  have hsp : ∀ j < bs.length, s.physical a / 8 = (s.physical a + j) / 8 := fun j hj => by omega
  have hmir : ∀ j < bs.length, s.mirrorOf (s.physical (a + j)) = (s.mirrorOf (s.physical a)).map (· + j) :=
    fun j hj => by rw [hph j hj, mirrorOf_span hg (hsp j hj)]
  have hpull : ∀ x, s.pulled a bs.length x ↔ s.pulls (s.physical a) x := by
    intro x
    rw [pulled_iff]
    constructor
    · rintro ⟨j, hj, k⟩
      rw [hph j hj, pulls_span (hsp j hj)] at k
      exact k
    · intro k
      exact ⟨0, hn, k⟩
  have hemb : ∀ j < bs.length, inEmber (s.physical a + j) = inEmber (s.physical a) := fun j hj =>
    inRange_span (hsp j hj) (by decide) (by decide)
  have hline : ∀ j < bs.length, inEmber (s.physical a) = true →
      lineOf (s.physical a + j) = lineOf (s.physical a) := by
    intro j hj k
    have := hsp j hj
    simp only [inEmber, inRange, Bool.and_eq_true, decide_eq_true_eq] at k
    unfold lineOf emberBase at *; omega
  have hnm : ∀ x, (∀ j < bs.length, s.mirrorOf (s.physical (a + j)) ≠ some x) →
      ∀ q, s.mirrorOf (s.physical a) = some q → ¬(q ≤ x ∧ x < q + bs.length) := by
    intro x k q e hx
    have hj : x - q < bs.length := by omega
    apply k (x - q) hj
    rw [hmir _ hj, e]
    simp only [Option.map_some, Option.some.injEq]
    omega
  have hnt : ∀ x, ¬s.touched a bs.length x →
      (∀ q, s.mirrorOf (s.physical a) = some q → ¬(q ≤ x ∧ x < q + bs.length)) ∧
      ¬(s.physical a ≤ x ∧ x < s.physical a + bs.length) := by
    intro x k
    refine ⟨hnm x fun j hj e => k ⟨j, hj, .inr e⟩, fun hx => k ⟨x - s.physical a, by omega, .inl ?_⟩⟩
    rw [hph _ (by omega)]; omega
  refine ⟨h.same, ?_, ?_, ?_, ?_, ?_, ?_, ?_⟩
  · intro j hj k
    rw [hph j hj] at k ⊢
    rw [hemb j hj] at k
    rw [hline j hj k]
    exact h.line k
  · intro i k
    rcases h.lines i k with e | ⟨e1, e2⟩
    · exact .inl e
    · exact .inr ⟨0, hn, e1, e2⟩
  · intro w k
    exact h.ecc w ((hpull w).1 k)
  · intro j hj x k
    rw [hmir j hj] at k
    cases e : s.mirrorOf (s.physical a) with
    | none => rw [e] at k; simp at k
    | some q =>
      rw [e] at k
      simp only [Option.map_some, Option.some.injEq] at k
      have r := h.mirror q x e (by omega) (by omega)
      rw [r]
      congr 1; omega
  · intro j hj k
    have r := h.own (s.physical (a + j)) (hnm _ k) (by rw [hph j hj]; omega) (by rw [hph j hj]; omega)
    rw [r, hph j hj]
    congr 1; omega
  · intro x k1 k2
    obtain ⟨e1, e2⟩ := hnt x k1
    exact h.image x e1 e2 ((hpull x).1 k2)
  · intro x k1 k2
    obtain ⟨e1, e2⟩ := hnt x k1
    exact h.rest x e1 e2 fun k => k2 ((hpull x).2 k)

theorem storable_congr {s t : State} {c : CoreId} (h : s.plain c = t.plain c) (a n : Nat) :
    s.storable c a n ↔ t.storable c a n := by
  unfold State.storable
  rw [accessible_congr h]
  have k : ∀ x, s.pulled a n x ↔ t.pulled a n x := by
    intro x
    rw [pulled_iff, pulled_iff]
    simp only [plain_physical h, plain_pulls h]
  simp only [k, plain_mig h, plain_physical h, plain_mirrorOf h, plain_mem h, plain_imageAddr h]

theorem State.dropLines_plain (s : State) (m : CoreId) (a n : Nat) :
    (s.dropLines a n).plain m = s.plain m := by
  unfold State.dropLines; split
  · exact State.invalidateCode_plain ..
  · rfl

theorem State.dropLines_mem (s : State) (a n : Nat) : (s.dropLines a n).mem = s.mem := by
  unfold State.dropLines; split
  · unfold State.invalidateCode; split <;> rfl
  · rfl

/-- One beat of a store by core `c`. -/
theorem storeOne_ok {s : State} {c : CoreId} {a : Nat} {bs : List Byte} (hn : 0 < bs.length)
    (h8 : a % 8 + bs.length ≤ 8) (h : s.storable c a bs.length) :
    ∃ s1 u, s1.plain c = s.plain c ∧ s.storeOne c a bs = ⟨u, none, [], 0⟩ ∧ BeatBytes s1 u a bs := by
  obtain ⟨hp0, hb0, _⟩ := h.1 0 hn
  rw [Nat.add_zero] at hp0 hb0
  have hm := inMemory_of_ok hp0 hb0
  have hpm := physical_mod hm
  let pull := inEmber (s.physical a) && !bit s.mm.restored ((s.physical a - emberBase) / 64)
  let s1 := ((s.dropLines a bs.length).noteBeat c 8 a).countCore c 22 pull.toNat
  have e1 : s1.plain c = s.plain c :=
    (State.countCore_plain ..).trans ((State.noteBeat_plain ..).trans (State.dropLines_plain ..))
  have hs1 : s1.storable c a bs.length := (storable_congr e1 a _).2 h
  have hm1 : s1.inMemory a := by unfold State.inMemory; simp only [plain_reach e1]; exact hm
  have ep : s1.physical a = s.physical a := plain_physical e1 a
  have hclean := clean_span hn h8 hm1 fun j hj => (hs1.1 j hj).2.2.1
  have hapart := apart_span hn h8 hm1 fun j hj => (hs1.1 j hj).2.2.2
  have hline : ∀ x, s1.pulls (s1.physical a) x → s1.mem.eccOf (eccWord (imageAddr s1 x)) = none :=
    fun x k => (hs1.2.2 0 hn).2 x ((pulled_iff ..).2 ⟨0, hn, k⟩)
  have hmir : ∀ q, s1.mirrorOf (s1.physical a) = some q → ∀ w ∈ eccWords q bs.length,
      s1.mem.eccOf w = none := by
    intro q e w hw
    have hq := mirrorOf_mod hs1.2.1 e
    have hj : ∀ j < bs.length, s1.mem.eccOf (eccWord (q + j)) = none := by
      intro j hj
      have k := (hs1.2.2 j hj).1 (q + j)
      apply k
      rw [physical_span (by omega) hm1, mirrorOf_span hs1.2.1 (by rw [ep]; omega), e]
      rfl
    rcases eccWords_mem hw with rfl | rfl
    · exact hj 0 hn
    · have := hj (bs.length - 1) (by omega)
      rwa [show q + (bs.length - 1) = q + bs.length - 1 by omega] at this
  obtain ⟨u, hu, hst⟩ := store_ok s1 c (s1.physical a) bs hn (by rw [ep]; omega) hclean hline hmir
  refine ⟨s1, u, e1, ?_, hst.bytes hs1.2.1 hm1 hn h8⟩
  unfold State.storeOne
  rw [hb0]
  dsimp only
  rw [ep] at hu
  show (⟨(s1.store c (s.physical a) bs).s.noteCollision (s.physical a) bs.length, none,
    (s1.store c (s.physical a) bs).unc, 0⟩ : Got) = _
  rw [hu]
  dsimp only
  rw [noteCollision_apart]
  unfold State.apart
  rw [ep] at hapart
  rw [hst.same.fields.2.2.2]
  exact hapart

/-! ## The whole store -/

theorem bytesOfNat_length : ∀ n v : Nat, (bytesOfNat n v).length = n
  | 0, _ => rfl
  | n + 1, v => congrArg (· + 1) (bytesOfNat_length n (v / 256))

theorem bytesOfNat_getD : ∀ (n v j : Nat), j < n →
    (bytesOfNat n v).getD j 0#8 = BitVec.ofNat 8 (v / 256 ^ j)
  | n + 1, v, 0, _ => by simp [bytesOfNat]
  | n + 1, v, j + 1, h => by
    have ih := bytesOfNat_getD n (v / 256) j (by omega)
    simp only [bytesOfNat, List.getD_cons_succ, ih, Nat.div_div_eq_div_mul]
    congr 2
    rw [Nat.pow_succ, Nat.mul_comm]

/-- Memory, the words in error and the restored lines apart, the state is as it was. -/
theorem SamePlaces.plain {s u : State} (h : SamePlaces s u) (c : CoreId) :
    ({ u with mem := s.mem, mm := s.mm } : State).plain c = s.plain c := by rw [h.eq]

theorem Stored.congr {s s1 u : State} {c : CoreId} {a n v : Nat} (e : s1.plain c = s.plain c)
    (h : Stored s1 u a n v) : Stored s u a n v := by
  obtain ⟨h1, h2, h3, h4⟩ := h
  have hpull : ∀ x, s1.pulled a n x ↔ s.pulled a n x := by
    intro x
    rw [pulled_iff, pulled_iff]
    simp only [plain_physical e, plain_pulls e]
  have htouch : ∀ x, s1.touched a n x ↔ s.touched a n x := by
    intro x; unfold State.touched; simp only [plain_physical e, plain_mirrorOf e]
  simp only [plain_physical e, plain_mirrorOf e] at h1 h2
  simp only [hpull, htouch, plain_mem e, plain_imageAddr e] at h3 h4
  exact ⟨h1, h2, h3, h4⟩

theorem Stored.of_beat {s s1 u : State} {c : CoreId} {a n v : Nat} (e : s1.plain c = s.plain c)
    (h : BeatBytes s1 u a (bytesOfNat n v)) : Stored s u a n v := by
  have hl := bytesOfNat_length n v
  have ht : ∀ x, s1.touched a n x ↔ s.touched a n x := by
    intro x; unfold State.touched; simp only [plain_physical e, plain_mirrorOf e]
  have hp : ∀ x, s1.pulled a n x ↔ s.pulled a n x := by
    intro x
    rw [pulled_iff, pulled_iff]
    simp only [plain_physical e, plain_pulls e]
  refine ⟨?_, ?_, ?_, ?_⟩
  · intro j hj k _
    have r := h.own j (by rw [hl]; exact hj)
    simp only [plain_physical e, plain_mirrorOf e, hl] at r
    rw [r k, bytesOfNat_getD n v j hj]
  · intro j hj q k _ _ _
    have r := h.mirror j (by rw [hl]; exact hj) q
    simp only [plain_physical e, plain_mirrorOf e] at r
    rw [r k, bytesOfNat_getD n v j hj]
  · intro x k1 k2 _
    have r := h.image x
    rw [hl, ht, hp, plain_imageAddr e, plain_mem e] at r
    exact r k1 k2
  · intro x k1 k2
    have r := h.rest x
    rw [hl, ht, hp, plain_mem e] at r
    exact r k1 k2

/-- The second beat may be made after the first. -/
theorem storable_after {s u : State} {c : CoreId} {a n : Nat} {bs : List Byte} (h : BeatBytes s u a bs)
    (hk : bs.length < n) (hs : s.storable c a n) :
    u.storable c (a + bs.length) (n - bs.length) := by
  have hp : ∀ x, u.physical x = s.physical x := h.same.physical
  have hg := hs.2.1
  have hpull : ∀ x, u.pulled (a + bs.length) (n - bs.length) x → s.pulled a n x := by
    intro x k
    rw [pulled_iff] at k ⊢
    obtain ⟨j, hj, k1, k2, k3⟩ := k
    rw [hp, Nat.add_assoc] at k1 k2 k3
    refine ⟨bs.length + j, by omega, k1, ?_, k3⟩
    cases e : bit s.mm.restored (lineOf (s.physical (a + (bs.length + j)))) with
    | false => rfl
    | true => rw [h.same.restored _ e] at k2; simp at k2
  refine ⟨?_, ?_, ?_⟩
  · intro j hj
    obtain ⟨k1, k2, k3, k4⟩ := hs.1 (bs.length + j) (by omega)
    rw [← Nat.add_assoc] at k1 k2 k3 k4
    refine ⟨k1, by rw [h.same.beatFault]; exact k2, ?_, by
      unfold State.apart; rw [hp, h.same.fields.2.2.2]; exact k4⟩
    rw [hp]
    generalize hP : s.physical (a + bs.length + j) = p at k3 ⊢
    unfold State.clean eccWords at k3 ⊢
    simp only [Nat.add_sub_cancel, if_true, List.mem_singleton, forall_eq] at k3 ⊢
    cases hemb : inEmber p with
    | false =>
      have e1 : readPlace u p = p := by unfold readPlace; rw [hemb]; rfl
      have e2 : readPlace s p = p := by unfold readPlace; rw [hemb]; rfl
      rw [e1]; rw [e2] at k3
      exact h.same.ecc _ k3
    | true =>
      cases hr : bit u.mm.restored (lineOf p) with
      | false =>
        have hs' : bit s.mm.restored (lineOf p) = false := by
          cases e : bit s.mm.restored (lineOf p) with
          | false => rfl
          | true => rw [h.same.restored _ e] at hr; simp at hr
        have e1 : readPlace u p = imageAddr s p := by
          unfold readPlace
          have hr' : bit u.mm.restored ((p - emberBase) / 64) = false := hr
          rw [hemb, hr', h.same.imageAddr]; rfl
        have e2 : readPlace s p = imageAddr s p := by
          unfold readPlace
          have hr' : bit s.mm.restored ((p - emberBase) / 64) = false := hs'
          rw [hemb, hr']; rfl
        rw [e1]; rw [e2] at k3
        exact h.same.ecc _ k3
      | true =>
        have e1 : readPlace u p = p := by
          unfold readPlace
          have hr' : bit u.mm.restored ((p - emberBase) / 64) = true := hr
          rw [hemb, hr']; rfl
        rw [e1]
        cases hs' : bit s.mm.restored (lineOf p) with
        | true =>
          have e2 : readPlace s p = p := by
            unfold readPlace
            have hr' : bit s.mm.restored ((p - emberBase) / 64) = true := hs'
            rw [hemb, hr']; rfl
          rw [e2] at k3
          exact h.same.ecc _ k3
        | false =>
          rcases h.lines _ hr with e | ⟨i, hi, e3, e4⟩
          · rw [hs'] at e; simp at e
          · apply h.ecc
            rw [pulled_iff]
            refine ⟨i, hi, e3, by rw [← e4]; exact hs', ?_⟩
            rw [← e4]
            have k := eccWords_line (n := 1) hemb (by omega) (by omega) (w := eccWord p)
              (by unfold eccWords; simp)
            exact k
  · intro m e
    rw [h.same.fields.1] at e
    exact hg m e
  · intro j hj
    obtain ⟨k1, k2⟩ := hs.2.2 (bs.length + j) (by omega)
    refine ⟨?_, ?_⟩
    · intro q e
      rw [hp, h.same.mirrorOf hg, Nat.add_assoc] at e
      exact h.same.ecc _ (k1 q e)
    · intro x e
      rw [h.same.imageAddr]
      exact h.same.ecc _ (k2 x (hpull x e))

theorem image_not_ember {s : State} {x : Nat} (h : inEmber x = true) :
    inEmber (imageAddr s x) = false := by
  simp only [inEmber, inRange, Bool.and_eq_true, decide_eq_true_eq] at h
  obtain ⟨y, hy, rfl⟩ : ∃ y < 0x4000, x = emberBase + y := ⟨x - emberBase, by omega, by omega⟩
  simp only [inEmber, inRange, Bool.and_eq_false_iff, decide_eq_false_iff_not]
  rcases imageAddr_cases s y with e | e <;> rw [e] <;> unfold mramBase emberBase <;> omega

/-- The bytes that one beat makes of memory. -/
structure BeatMem (s u : State) (a : Nat) (bs : List Byte) : Prop where
  mirror : ∀ j < bs.length, ∀ x, s.mirrorOf (s.physical (a + j)) = some x →
    u.mem.byte x = bs.getD j 0#8
  own : ∀ j < bs.length, (∀ i < bs.length, s.mirrorOf (s.physical (a + i)) ≠
    some (s.physical (a + j))) → u.mem.byte (s.physical (a + j)) = bs.getD j 0#8
  image : ∀ x, ¬s.touched a bs.length x → s.pulled a bs.length x →
    u.mem.byte x = s.mem.byte (imageAddr s x)
  rest : ∀ x, ¬s.touched a bs.length x → ¬s.pulled a bs.length x → u.mem.byte x = s.mem.byte x

theorem BeatBytes.toMem {s t u : State} {c : CoreId} {a : Nat} {bs : List Byte}
    (e : s.plain c = t.plain c) (h : BeatBytes s u a bs) : BeatMem t u a bs := by
  obtain ⟨_, _, _, _, h1, h2, h3, h4⟩ := h
  have hpull : ∀ x, s.pulled a bs.length x ↔ t.pulled a bs.length x := by
    intro x
    rw [pulled_iff, pulled_iff]
    simp only [plain_physical e, plain_pulls e]
  have htouch : ∀ x, s.touched a bs.length x ↔ t.touched a bs.length x := by
    intro x; unfold State.touched; simp only [plain_physical e, plain_mirrorOf e]
  simp only [plain_physical e, plain_mirrorOf e] at h1 h2
  simp only [hpull, htouch, plain_mem e, plain_imageAddr e] at h3 h4
  exact ⟨h1, h2, h3, h4⟩

/-- Two beats one after the other. -/
theorem Stored.of_beats {s u t : State} {a n v : Nat} {b1 b2 : List Byte}
    (hb : bytesOfNat n v = b1 ++ b2) (hg : ∀ m, s.wdn.mig = some m → m.obj < 512)
    (h1 : BeatBytes s u a b1) (h2 : BeatMem u t (a + b1.length) b2) : Stored s t a n v := by
  have hlen : n = b1.length + b2.length := by
    have := congrArg List.length hb
    rw [bytesOfNat_length, List.length_append] at this
    exact this
  have hp : ∀ x, u.physical x = s.physical x := h1.same.physical
  have hmo : ∀ p, u.mirrorOf p = s.mirrorOf p := h1.same.mirrorOf hg
  have hv1 : ∀ j < b1.length, b1.getD j 0#8 = BitVec.ofNat 8 (v / 256 ^ j) := by
    intro j hj
    rw [← bytesOfNat_getD n v j (by omega), hb]
    exact (List.getD_append _ _ _ _ hj).symm
  have hv2 : ∀ j < b2.length, b2.getD j 0#8 = BitVec.ofNat 8 (v / 256 ^ (b1.length + j)) := by
    intro j hj
    rw [← bytesOfNat_getD n v (b1.length + j) (by omega), hb,
      List.getD_append_right _ _ _ _ (by omega), Nat.add_sub_cancel_left]
  have ht1 : ∀ x, ¬s.touched a n x → ¬s.touched a b1.length x := fun x k ⟨j, hj, e⟩ =>
    k ⟨j, by omega, e⟩
  have ht2 : ∀ x, (∀ j, b1.length ≤ j → j < n → x ≠ s.physical (a + j) ∧
      s.mirrorOf (s.physical (a + j)) ≠ some x) → ¬u.touched (a + b1.length) b2.length x := by
    rintro x k ⟨j, hj, e⟩
    obtain ⟨k1, k2⟩ := k (b1.length + j) (by omega) (by omega)
    rw [hp, hmo, Nat.add_assoc] at e
    rcases e with e | e
    · exact k1 e
    · exact k2 e
  have ht2' : ∀ x, ¬s.touched a n x → ¬u.touched (a + b1.length) b2.length x := fun x k =>
    ht2 x fun j _ hj => ⟨fun e => k ⟨j, hj, .inl e⟩, fun e => k ⟨j, hj, .inr e⟩⟩
  -- a line restored by the first beat is not pulled by the second
  have hp2 : ∀ x, u.pulled (a + b1.length) b2.length x →
      inEmber x = true ∧ bit u.mm.restored (lineOf x) = false ∧ s.pulled a n x := by
    intro x k
    rw [pulled_iff] at k
    obtain ⟨j, hj, k⟩ := k
    have hx := pulls_ember k
    have hlx : lineOf x = lineOf (u.physical (a + b1.length + j)) := by
      have := k.2.2
      unfold inLine at this
      simp only [inEmber, inRange, Bool.and_eq_true, decide_eq_true_eq] at hx
      unfold lineOf at *; omega
    refine ⟨hx, by rw [hlx]; exact k.2.1, ?_⟩
    rw [pulled_iff]
    refine ⟨b1.length + j, by omega, ?_⟩
    rw [hp, Nat.add_assoc] at k
    refine ⟨k.1, ?_, k.2.2⟩
    cases e : bit s.mm.restored (lineOf (s.physical (a + (b1.length + j)))) with
    | false => rfl
    | true => have := h1.same.restored _ e; rw [k.2.1] at this; simp at this
  refine ⟨?_, ?_, ?_, ?_⟩
  · intro j hj k1 k2
    by_cases hjk : j < b1.length
    · have r := h1.own j hjk fun i hi => k1 i (by omega)
      rw [← hv1 j hjk, ← r]
      apply h2.rest
      · apply ht2
        intro i hi1 hi2
        exact ⟨fun e => k2 i hi2 (by omega) e.symm, k1 i hi2⟩
      · intro k
        obtain ⟨e1, e2, _⟩ := hp2 _ k
        rw [h1.line j hjk e1] at e2
        simp at e2
    · have r := h2.own (j - b1.length) (by omega) fun i hi => by
        rw [hp, hp, hmo, Nat.add_assoc, Nat.add_assoc, show b1.length + (j - b1.length) = j by omega]
        exact k1 _ (by omega)
      rw [hp, Nat.add_assoc, show b1.length + (j - b1.length) = j by omega, hv2 _ (by omega),
        show b1.length + (j - b1.length) = j by omega] at r
      exact r
  · intro j hj q k1 k2 k3 k4
    by_cases hjk : j < b1.length
    · have r := h1.mirror j hjk q k1
      rw [← hv1 j hjk, ← r]
      apply h2.rest
      · apply ht2
        intro i hi1 hi2
        exact ⟨fun e => k3 i hi2 e.symm, k4 i hi2 (by omega)⟩
      · intro k
        obtain ⟨e1, _⟩ := hp2 _ k
        rw [k2] at e1; simp at e1
    · have r := h2.mirror (j - b1.length) (by omega) q (by
        rw [hp, hmo, Nat.add_assoc, show b1.length + (j - b1.length) = j by omega]; exact k1)
      rw [hv2 _ (by omega), show b1.length + (j - b1.length) = j by omega] at r
      exact r
  · intro x k1 k2 k3
    have hx : inEmber x = true := by
      rw [pulled_iff] at k2
      obtain ⟨j, _, k⟩ := k2
      exact pulls_ember k
    by_cases hf : s.pulled a b1.length x
    · have r := h1.image x (ht1 x k1) hf
      rw [← r]
      apply h2.rest x (ht2' x k1)
      intro k
      obtain ⟨_, e2, _⟩ := hp2 x k
      rw [pulled_iff] at hf
      obtain ⟨j, hj, e⟩ := hf
      have hlx : lineOf x = lineOf (s.physical (a + j)) := by
        have := e.2.2
        unfold inLine at this
        simp only [inEmber, inRange, Bool.and_eq_true, decide_eq_true_eq] at hx
        unfold lineOf at *; omega
      rw [hlx, h1.line j hj e.1] at e2
      simp at e2
    · have hs2 : u.pulled (a + b1.length) b2.length x := by
        rw [pulled_iff] at k2 hf ⊢
        obtain ⟨j, hj, e⟩ := k2
        have hjk : b1.length ≤ j := by
          by_contra hc
          exact hf ⟨j, by omega, e⟩
        refine ⟨j - b1.length, by omega, ?_⟩
        rw [hp, Nat.add_assoc, show b1.length + (j - b1.length) = j by omega]
        refine ⟨e.1, ?_, e.2.2⟩
        cases er : bit u.mm.restored (lineOf (s.physical (a + j))) with
        | false => rfl
        | true =>
          rcases h1.lines _ er with e1 | ⟨i, hi, e1, e2⟩
          · rw [e.2.1] at e1; simp at e1
          · exact absurd ⟨i, hi, e1, by rw [← e2]; exact e.2.1, by rw [← e2]; exact e.2.2⟩ hf
      have r := h2.image x (ht2' x k1) hs2
      rw [h1.same.imageAddr] at r
      rw [r]
      apply h1.rest _ (ht1 _ k3)
      intro k
      rw [pulled_iff] at k
      obtain ⟨j, _, e⟩ := k
      have := pulls_ember e
      rw [image_not_ember hx] at this
      simp at this
  · intro x k1 k2
    have r := h1.rest x (ht1 x k1) (fun k => by
      rw [pulled_iff] at k k2
      obtain ⟨j, hj, e⟩ := k
      exact k2 ⟨j, by omega, e⟩)
    rw [← r]
    apply h2.rest x (ht2' x k1)
    intro k
    exact k2 (hp2 x k).2.2

/-- What a store by core `c` leaves: all but memory, and what an access notes. -/
def StoreKept (s t : State) (c : CoreId) : Prop :=
  ({ t with mem := s.mem, mm := s.mm } : State).plain c = s.plain c

/-- With one memory and one set of its registers in both, what is the same stays so. -/
theorem replaced {x y : State} {c : CoreId} {m : Memory} {r : MemRegs} (e : x.plain c = y.plain c) :
    ({ x with mem := m, mm := r } : State).plain c = ({ y with mem := m, mm := r } : State).plain c := by
  have k := congrArg (fun z : State =>
    { z with mem := m, mm := { r with conf := Vector.replicate 9 0#32, confSat := 0#32 } }) e
  exact k

theorem StoreKept.of {s s1 u : State} {c : CoreId} (e : s1.plain c = s.plain c) (h : SamePlaces s1 u) :
    StoreKept s u c := by
  exact (replaced (h.plain c)).trans (replaced e)

/-- A store of bytes that may be stored puts them into memory and changes nothing else that a program sees. -/
theorem storeBytes_ok {s : State} {c : CoreId} {a n v : Nat} (hn : 0 < n) (hn8 : n ≤ 8)
    (h : s.storable c a n) :
    ∃ t, s.storeBytes c a n v = ⟨t, none, [], 0⟩ ∧ Stored s t a n v ∧ StoreKept s t c := by
  have hp : inPeriph a = false := (h.1 0 hn).1
  have hl := bytesOfNat_length n v
  have hk : 0 < firstBeat a n := by unfold firstBeat; omega
  have hkn := firstBeat_le a n
  have hk8 : a % 8 + firstBeat a n ≤ 8 := by unfold firstBeat; omega
  have htake : ((bytesOfNat n v).take (firstBeat a n)).length = firstBeat a n := by
    rw [List.length_take, hl]; omega
  have hs1 : s.storable c a (firstBeat a n) := by
    refine ⟨fun j hj => h.1 j (by omega), h.2.1, fun j hj => ⟨(h.2.2 j (by omega)).1, ?_⟩⟩
    intro x k
    apply (h.2.2 j (by omega)).2 x
    rw [pulled_iff] at k ⊢
    obtain ⟨i, hi, e⟩ := k
    exact ⟨i, by omega, e⟩
  obtain ⟨s1, u, e1, ho, hb⟩ := storeOne_ok (bs := (bytesOfNat n v).take (firstBeat a n))
    (by rw [htake]; exact hk) (by rw [htake]; exact hk8) (by rw [htake]; exact hs1)
  unfold State.storeBytes
  rw [hp]
  simp only [Bool.false_eq_true, if_false]
  rw [ho]
  by_cases he : firstBeat a n = n
  · rw [if_pos (.inl he)]
    have ht : (bytesOfNat n v).take (firstBeat a n) = bytesOfNat n v := by
      rw [he]; exact List.take_of_length_le (by rw [hl])
    rw [ht] at hb
    exact ⟨u, rfl, Stored.of_beat e1 hb, StoreKept.of e1 hb.same⟩
  · rw [if_neg (by simp [he])]
    have hs1' : s1.storable c a n := (storable_congr e1 a n).2 h
    have hs2 := storable_after hb (by rw [htake]; omega) hs1'
    rw [htake] at hs2
    let u' := u.countCore c 9 1
    have eu : u'.plain c = u.plain c := State.countCore_plain ..
    have hdrop : ((bytesOfNat n v).drop (firstBeat a n)).length = n - firstBeat a n := by
      rw [List.length_drop, hl]
    have hmod : (a + firstBeat a n) % 8 = 0 := by unfold firstBeat at *; omega
    have hs3 : u'.storable c (a + firstBeat a n) (n - firstBeat a n) := (storable_congr eu _ _).2 hs2
    obtain ⟨s2, t, e2, ho2, hb2⟩ := storeOne_ok (bs := (bytesOfNat n v).drop (firstBeat a n))
      (by rw [hdrop]; omega) (by rw [hdrop, hmod]; unfold firstBeat; omega) (by rw [hdrop]; exact hs3)
    have ho2' : (u.countCore c 9 1).storeOne c (a + firstBeat a n)
        ((bytesOfNat n v).drop (firstBeat a n)) = ⟨t, none, [], 0⟩ := ho2
    dsimp only
    rw [ho2']
    refine ⟨t, rfl, ?_, ?_⟩
    · have e3 : s2.plain c = u.plain c := e2.trans eu
      have hmem := hb2.toMem e3
      rw [show a + firstBeat a n = a + ((bytesOfNat n v).take (firstBeat a n)).length by rw [htake]] at hmem
      have k := Stored.of_beats (v := v) (List.take_append_drop _ _).symm hs1'.2.1 hb hmem
      exact k.congr e1
    · have e3 : s2.plain c = u.plain c := e2.trans eu
      have k2 := hb2.same.plain c
      have k1 := hb.same.plain c
      unfold StoreKept
      exact (replaced k2).trans ((replaced e3).trans ((replaced k1).trans (replaced e1)))

end Sys2Proof.Machine
end

