-- ==== Sys2Proof/Laws/Atomics.lean ====
section
/-! SUPPORT. The indivisible read-modify-write: it answers the word as a master reads it and stores the new
word in its place. -/

namespace Sys2Proof.Machine

open Sys2Proof

/-- The line that a write to place `p` needs is pulled. -/
theorem pullFor_ok (s : State) (p : Nat)
    (hl : ∀ x, s.pulls p x → s.mem.eccOf (eccWord (imageAddr s x)) = none) :
    ∃ u, (if inEmber p then s.pull ((p - emberBase) / 64) else (⟨s, []⟩ : Beat)) = ⟨u, []⟩ ∧
      SamePlaces s u ∧ (inEmber p = true → bit u.mm.restored (lineOf p) = true) ∧
      (∀ i, bit u.mm.restored i = true → bit s.mm.restored i = true ∨ inEmber p = true ∧ i = lineOf p) ∧
      (∀ w, s.pulls p w → u.mem.eccOf w = none) ∧
      (∀ x, s.pulls p x → u.mem.byte x = s.mem.byte (imageAddr s x)) ∧
      ∀ x, ¬s.pulls p x → u.mem.byte x = s.mem.byte x := by
  cases hp : inEmber p with
  | false =>
    refine ⟨s, rfl, SamePlaces.refl s, by simp, fun i h => .inl h, ?_, ?_, fun _ _ => rfl⟩
    · intro w k; rw [k.1] at hp; simp at hp
    · intro w k; rw [k.1] at hp; simp at hp
  | true =>
    simp only [if_true]
    cases hr : bit s.mm.restored (lineOf p) with
    | true =>
      have e : s.pull ((p - emberBase) / 64) = ⟨s, []⟩ := by
        have hr' : bit s.mm.restored ((p - emberBase) / 64) = true := hr
        unfold State.pull; rw [hr']; rfl
      refine ⟨s, e, SamePlaces.refl s, fun _ => hr, fun i h => .inl h, ?_, ?_, fun _ _ => rfl⟩
      · intro w k; rw [k.2.1] at hr; simp at hr
      · intro w k; rw [k.2.1] at hr; simp at hr
    | false =>
      have hlc : ∀ k < 8, s.mem.eccOf (imageAddr s (emberBase + 64 * lineOf p) + 8 * k) = none := by
        intro k hk
        have e := imageAddr_line s (lineOf p) (8 * k) (by omega)
        have q := hl (emberBase + 64 * lineOf p + 8 * k) ⟨hp, hr, by unfold inLine; omega⟩
        have hlt := lineOf_lt hp
        rw [e, eccWord_image s (64 * lineOf p) k (by omega) (by omega)] at q
        exact q
      obtain ⟨u, hu, hs, h1, h2, h3, h4, h5⟩ := pull_clean s (lineOf p) hr (lineOf_lt hp) hlc
      refine ⟨u, hu, hs, fun _ => h1, ?_, fun w k => h3 w k.2.2, fun x k => h4 x k.2.2, ?_⟩
      · intro i hi
        by_cases e : i = lineOf p
        · exact .inr ⟨trivial, e⟩
        · exact .inl (by rw [← h2 i e]; exact hi)
      · intro x k
        exact h5 x fun e => k ⟨hp, hr, e⟩

/-- What stops neither the read nor the write stops neither of them. -/
theorem beatFault_both {s : State} {c : CoreId} {a : Nat} (h : s.beatFault c true true a = none) :
    s.beatFault c false true a = none := by
  unfold State.beatFault at *
  dsimp only at *
  split at h
  · next i p e =>
    simp only [Bool.true_and, Bool.false_and, Bool.false_eq_true, if_false] at *
    split at h
    · simp at h
    · next k => simp [k]
  · simp at h
  · exact h
  · rfl
  · simp at h

/-- An atomic access of an accessible aligned word answers the old word and stores the new one. -/
theorem atomic_ok {s : State} {c : CoreId} {a : Nat} (f : Word → Word) (h4 : a % 4 = 0)
    (hr : s.accessible c true true a 4) (hw : s.storable c a 4) :
    ∃ t, s.atomic c a f = ⟨t, none, [], (BitVec.ofNat 32 (s.valueAt a 4)).toNat⟩ ∧
      Stored s t a 4 (f (BitVec.ofNat 32 (s.valueAt a 4))).toNat ∧ StoreKept s t c := by
  obtain ⟨hp0, hb0, _⟩ := hr 0 (by omega)
  rw [Nat.add_zero] at hp0 hb0
  have hm := inMemory_of_ok hp0 hb0
  have hpm := physical_mod hm
  let line := (s.physical a - emberBase) / 64
  let pull := inEmber (s.physical a) && !bit s.mm.restored line
  let s1 := ((s.noteBeat c 7 a).countCore c 8 1).countCore c 22 pull.toNat
  have e1 : s1.plain c = s.plain c :=
    (State.countCore_plain ..).trans ((State.countCore_plain ..).trans (State.noteBeat_plain ..))
  have hs1 : s1.storable c a 4 := (storable_congr e1 a _).2 hw
  have hm1 : s1.inMemory a := by unfold State.inMemory; simp only [plain_reach e1]; exact hm
  have ep : s1.physical a = s.physical a := plain_physical e1 a
  have h8 : a % 8 + 4 ≤ 8 := by omega
  obtain ⟨u, hu, us, u1, u2, u3, u4, u5⟩ := pullFor_ok s1 (s1.physical a) fun x k =>
    (hs1.2.2 0 (by omega)).2 x ((pulled_iff ..).2 ⟨0, by omega, k⟩)
  have hnp : ∀ x, ¬u.pulls (u.physical a) x := by
    intro x k
    rw [us.physical] at k
    have k2 := k.2.1
    rw [u1 k.1] at k2
    exact absurd k2 (by simp)
  have hus : u.storable c a 4 := by
    refine ⟨?_, fun m e => hs1.2.1 m (by rw [← us.fields.1]; exact e), ?_⟩
    · intro j hj
      obtain ⟨k1, k2, k3, k4⟩ := hs1.1 j hj
      refine ⟨k1, by rw [us.beatFault]; exact k2, ?_, by
        unfold State.apart; rw [us.physical, us.fields.2.2.2]; exact k4⟩
      rw [us.physical]
      have hph := physical_span (s := s1) (a := a) (j := j) (by omega) hm1
      have hpm1 := physical_mod hm1
      unfold State.clean eccWords at k3 ⊢
      simp only [Nat.add_sub_cancel, if_true, List.mem_singleton, forall_eq] at k3 ⊢
      cases hemb : inEmber (s1.physical (a + j)) with
      | false =>
        have g1 : readPlace u (s1.physical (a + j)) = s1.physical (a + j) := by
          unfold readPlace; rw [hemb]; rfl
        have g2 : readPlace s1 (s1.physical (a + j)) = s1.physical (a + j) := by
          unfold readPlace; rw [hemb]; rfl
        rw [g1]; rw [g2] at k3
        exact us.ecc _ k3
      | true =>
        have hemb0 : inEmber (s1.physical a) = true := by
          rw [← hemb, hph]
          exact (inRange_span (by omega) (by decide) (by decide)).symm
        have hlj : lineOf (s1.physical (a + j)) = lineOf (s1.physical a) := by
          rw [hph]
          simp only [inEmber, inRange, Bool.and_eq_true, decide_eq_true_eq] at hemb0
          unfold lineOf emberBase at *; omega
        have g1 : readPlace u (s1.physical (a + j)) = s1.physical (a + j) := by
          unfold readPlace
          have e : bit u.mm.restored ((s1.physical (a + j) - emberBase) / 64) = true := by
            have := u1 hemb0; rw [← hlj] at this; exact this
          rw [hemb, e]; rfl
        rw [g1]
        cases hres : bit s1.mm.restored (lineOf (s1.physical a)) with
        | true =>
          have g2 : readPlace s1 (s1.physical (a + j)) = s1.physical (a + j) := by
            unfold readPlace
            have e : bit s1.mm.restored ((s1.physical (a + j) - emberBase) / 64) = true := by
              rw [← hlj] at hres; exact hres
            rw [hemb, e]; rfl
          rw [g2] at k3
          exact us.ecc _ k3
        | false =>
          apply u3
          refine ⟨hemb0, hres, ?_⟩
          rw [← hlj]
          exact eccWords_line (n := 1) hemb (by omega) (by omega) (by unfold eccWords; simp)
    · intro j hj
      obtain ⟨k1, k2⟩ := hs1.2.2 j hj
      refine ⟨?_, ?_⟩
      · intro q e
        rw [us.physical, us.mirrorOf hs1.2.1] at e
        exact us.ecc _ (k1 q e)
      · intro x e
        rw [pulled_iff] at e
        obtain ⟨i, hi, e⟩ := e
        rw [us.physical, physical_span (by omega) hm1, pulls_span (by
          have := physical_mod hm1; omega)] at e
        exact absurd e (by rw [← us.physical]; exact hnp x)
  have hum : u.inMemory a := by unfold State.inMemory; simp only [us.reach]; exact hm1
  have huc := clean_span (by omega) h8 hum fun j hj => (hus.1 j hj).2.2.1
  have hua := apart_span (by omega) h8 hum fun j hj => (hus.1 j hj).2.2.2
  have hbytes := bytes_span h8 hum
  have hval : u.mem.bytes (readPlace u (u.physical a)) 4 =
      (List.range 4).map fun j => s.seenByte (s.physical (a + j)) := by
    rw [hbytes]
    apply List.map_congr_left
    intro j hj
    rw [List.mem_range] at hj
    rw [us.physical, ← plain_seenByte e1, ← plain_physical e1]
    have hph := physical_span (s := s1) (a := a) (j := j) (by omega) hm1
    have hpm1 := physical_mod hm1
    unfold State.seenByte
    cases hemb : inEmber (s1.physical (a + j)) with
    | false =>
      have g1 : readPlace u (s1.physical (a + j)) = s1.physical (a + j) := by
        unfold readPlace; rw [hemb]; rfl
      have g2 : readPlace s1 (s1.physical (a + j)) = s1.physical (a + j) := by
        unfold readPlace; rw [hemb]; rfl
      rw [g1, g2]
      exact u5 _ fun k => by have := pulls_ember k; rw [hemb] at this; simp at this
    | true =>
      have hemb0 : inEmber (s1.physical a) = true := by
        rw [← hemb, hph]
        exact (inRange_span (by omega) (by decide) (by decide)).symm
      have hlj : lineOf (s1.physical (a + j)) = lineOf (s1.physical a) := by
        rw [hph]
        simp only [inEmber, inRange, Bool.and_eq_true, decide_eq_true_eq] at hemb0
        unfold lineOf emberBase at *; omega
      have g1 : readPlace u (s1.physical (a + j)) = s1.physical (a + j) := by
        unfold readPlace
        have e : bit u.mm.restored ((s1.physical (a + j) - emberBase) / 64) = true := by
          have := u1 hemb0; rw [← hlj] at this; exact this
        rw [hemb, e]; rfl
      rw [g1]
      cases hres : bit s1.mm.restored (lineOf (s1.physical a)) with
      | true =>
        have g2 : readPlace s1 (s1.physical (a + j)) = s1.physical (a + j) := by
          unfold readPlace
          have e : bit s1.mm.restored ((s1.physical (a + j) - emberBase) / 64) = true := by
            rw [← hlj] at hres; exact hres
          rw [hemb, e]; rfl
        rw [g2]
        exact u5 _ fun k => by rw [k.2.1] at hres; simp at hres
      | false =>
        have g2 : readPlace s1 (s1.physical (a + j)) = imageAddr s1 (s1.physical (a + j)) := by
          unfold readPlace
          have e : bit s1.mm.restored ((s1.physical (a + j) - emberBase) / 64) = false := by
            rw [← hlj] at hres; exact hres
          rw [hemb, e]; rfl
        rw [g2]
        apply u4
        refine ⟨hemb0, hres, ?_⟩
        rw [← hlj]
        exact inLine_lineOf hemb
  have hv : wordOf (u.mem.bytes (readPlace u (u.physical a)) 4) = BitVec.ofNat 32 (s.valueAt a 4) := by
    unfold wordOf State.valueAt; rw [hval]
  let v := f (BitVec.ofNat 32 (s.valueAt a 4))
  have hlen : (bytesOf v).length = 4 := rfl
  have hupm := physical_mod hum
  obtain ⟨t, ht, hst⟩ := store_ok u c (u.physical a) (bytesOf v) (by rw [hlen]; omega)
    (by rw [hlen, hupm]; exact h8) (by rw [hlen]; exact huc) (fun x k => absurd k (hnp x)) (by
      intro q e w hw'
      have hq := mirrorOf_mod hus.2.1 e
      have hj : ∀ j < 4, u.mem.eccOf (eccWord (q + j)) = none := by
        intro j hj
        apply (hus.2.2 j hj).1 (q + j)
        rw [physical_span (by omega) hum, mirrorOf_span hus.2.1 (by omega), e]
        rfl
      rcases eccWords_mem hw' with rfl | rfl
      · exact hj 0 (by omega)
      · have := hj 3 (by omega)
        rw [hlen]
        exact this)
  have hbs : BeatStored s1 t (s1.physical a) (bytesOf v) := by
    have hmo := us.mirrorOf hs1.2.1
    have hph := us.physical a
    refine ⟨us.trans hst.same, fun e => hst.same.restored _ (u1 e), ?_, ?_, ?_, ?_, ?_, ?_⟩
    · intro i e
      rcases hst.lines i e with k | ⟨k1, k2⟩
      · exact u2 i k
      · rw [hph] at k1 k2
        exact .inr ⟨k1, k2⟩
    · exact fun w k => hst.same.ecc w (u3 w k)
    · intro q x e k1 k2
      exact hst.mirror q x (by rw [hph, hmo]; exact e) k1 k2
    · intro x k k1 k2
      have r := hst.own x (fun q e => k q (by rw [hph, hmo] at e; exact e)) (by rw [hph]; exact k1)
        (by rw [hph]; exact k2)
      rw [hph] at r
      exact r
    · intro x k k1 k2
      rw [← u4 x k2]
      exact hst.rest x (fun q e => k q (by rw [hph, hmo] at e; exact e)) (by rw [hph]; exact k1) (hnp x)
    · intro x k k1 k2
      rw [← u5 x k2]
      exact hst.rest x (fun q e => k q (by rw [hph, hmo] at e; exact e)) (by rw [hph]; exact k1) (hnp x)
  have hfin := hbs.bytes hs1.2.1 hm1 (by rw [hlen]; omega) (by rw [hlen]; exact h8)
  have hbv : bytesOf v = bytesOfNat 4 v.toNat := by
    have k : ∀ i, v.extractLsb' i 8 = BitVec.ofNat 8 (v.toNat / 2 ^ i) := by
      intro i
      apply BitVec.eq_of_toNat_eq
      simp [Nat.shiftRight_eq_div_pow]
    unfold bytesOf
    rw [k, k, k, k]
    simp [bytesOfNat, Nat.div_div_eq_div_mul]
  rw [hbv] at hfin
  have hsd := Stored.of_beat e1 hfin
  have hb : ∀ x, (t.dropLines a 4).mem.byte x = t.mem.byte x := fun x => by rw [State.dropLines_mem]
  refine ⟨t.dropLines a 4, ?_,
    ⟨fun j hj k1 k2 => (hb _).trans (hsd.bytes j hj k1 k2),
      fun j hj q k1 k2 k3 k4 => (hb _).trans (hsd.mirror j hj q k1 k2 k3 k4),
      fun x k1 k2 k3 => (hb _).trans (hsd.image x k1 k2 k3), fun x k1 k2 => (hb _).trans (hsd.rest x k1 k2)⟩,
    (replaced (State.dropLines_plain t c a 4)).trans (StoreKept.of e1 hfin.same)⟩
  have hap : s.atomicPlace a = true := by
    unfold State.atomicPlace
    rcases hm with ⟨i, p, e⟩ | ⟨p, e⟩ <;> rw [e]
  have hf : s.atomicFault c a = none := by
    unfold State.atomicFault
    rw [hap]
    simp only [if_true]
    rw [if_neg (by omega)]
    exact hb0
  have hu' : (if inEmber (s.physical a) then s1.pull line else (⟨s1, []⟩ : Beat)) = ⟨u, []⟩ := by
    have := hu
    rw [ep] at this
    exact this
  unfold State.atomic
  rw [hf]
  dsimp only
  rw [show (if inEmber (s.physical a) = true then (((s.noteBeat c 7 a).countCore c 8 1).countCore c 22
    (inEmber (s.physical a) && !bit s.mm.restored ((s.physical a - emberBase) / 64)).toNat).pull
      ((s.physical a - emberBase) / 64) else (⟨((s.noteBeat c 7 a).countCore c 8 1).countCore c 22
    (inEmber (s.physical a) && !bit s.mm.restored ((s.physical a - emberBase) / 64)).toNat, []⟩ : Beat)) =
      ⟨u, []⟩ from hu']
  dsimp only
  have hup : s.physical a = u.physical a := by rw [us.physical, ep]
  rw [hup, readBeat_clean _ _ _ _ huc]
  dsimp only
  simp only [List.isEmpty_nil, if_true]
  rw [noteCollision_apart _ _ _ hua, portB_apart _ _ _ (by rw [Memory.bytes_length]; exact hua), hv]
  have ht' : u.store c (u.physical a) (bytesOf (f (BitVec.ofNat 32 (s.valueAt a 4)))) = ⟨t, []⟩ := ht
  rw [ht']
  rfl

end Sys2Proof.Machine
end

