-- ==== Sys2Proof/Laws/Complete.lean ====
section
/-! SUPPORT. How an instruction completes: from what its body does in the state that the fetch leaves, the
state that the command answers. -/

namespace Sys2Proof.Machine

open Sys2Proof

theorem SameBlocks.of_kept {s t : State} {c : CoreId} (h : StoreKept s t c) : SameBlocks s t := by
  have k := SameBlocks.of_plain (Eq.symm h)
  exact ⟨k.pwr, k.clk, k.peg, k.pin, k.tim, k.ua, k.tch, k.evt, k.rtc, k.hrv, k.snap, k.pending⟩

theorem StoreKept.refl (s : State) (c : CoreId) : StoreKept s s c := rfl

theorem StoreKept.of_plain {s t : State} {c : CoreId} (h : t.plain c = s.plain c) : StoreKept s t c := replaced h

theorem StoreKept.trans {s t u : State} {c : CoreId} (h : StoreKept s t c) (k : StoreKept t u c) :
    StoreKept s u c := (replaced k).trans h

theorem StoreKept.core {s t : State} {c : CoreId} (h : StoreKept s t c) :
    t.cores[c].seen = s.cores[c].seen :=
  Core.seen_of_still (plain_core (m := c) h c)

theorem StoreKept.other {s t : State} {c e : CoreId} (h : StoreKept s t c) (he : e ≠ c) :
    t.cores[e] = s.cores[e] := plain_other (m := c) h he

/-- An update of a core that does not read what an access notes commutes with noting it. -/
theorem StoreKept.onCore {s t : State} {c : CoreId} (h : StoreKept s t c) (f : Core → Core)
    (hf : ∀ k k' : Core, k.still = k'.still → (f k).still = (f k').still) :
    StoreKept (s.onCore c f) (t.onCore c f) c := by
  have hc : t.cores[c].still = s.cores[c].still := plain_core (m := c) h c
  have h0 : ({ t with mem := s.mem, mm := s.mm } : State).plain c = s.plain c := h
  have hs : t.cores.set c t.cores[c].still = s.cores.set c s.cores[c].still := by
    have k := plain_cores h0
    exact k
  have e : ∀ (u : State) (m : Memory) (mm : MemRegs),
      ({ u.onCore c f with mem := m, mm := mm } : State).plain c =
        { ({ u with mem := m, mm := mm } : State).plain c with
          cores := u.cores.set c (f u.cores[c]).still } := by
    intro u m mm
    simp [State.plain, State.onCore, State.base]
  have hset : t.cores.set c (f t.cores[c]).still = s.cores.set c (f s.cores[c]).still := by
    rw [hf _ _ hc]
    have k := congrArg (fun v : Vector Core 4 => v.set c (f s.cores[c]).still) hs
    simpa using k
  show ({ t.onCore c f with mem := s.mem, mm := s.mm } : State).plain c = (s.onCore c f).plain c
  have e1 := e t s.mem s.mm
  have e2 := e s s.mem s.mm
  have e2' : (s.onCore c f).plain c =
      { s.plain c with cores := s.cores.set c (f s.cores[c]).still } := e2
  rw [e1, e2', hset, h]

/-- An instruction completes: `P` is what its body makes of memory. -/
theorem instr_answers {s : State} {c : CoreId} {n cycles : Nat} {f : Core → Core} {i : Instr} {pc : Word}
    {body : State → Out} {P : State → State → Prop} (h : s.ready c n)
    (hi : exec i s = .next (finish s (s.instr c n body)))
    (hf : ∀ k : Core, (f k).seen = f k.seen)
    (hb : ∀ u, Fetched s c u → ∃ w, body u = ⟨w, none, [], pc, cycles⟩ ∧
      StoreKept (u.onCore c f) w c ∧ P u w) :
    ∃ t, exec i s = .next t ∧ t.cores[c].seen = (f s.cores[c]).after pc cycles ∧
      (∀ e : CoreId, e ≠ c → t.cores[e] = s.cores[e]) ∧ SameBlocks s t ∧
      ∃ u w, Fetched s c u ∧ P u w ∧ t.mem = w.mem ∧ t.mm.restored = w.mm.restored ∧
        t.mm.map = w.mm.map := by
  obtain ⟨u, hu, hr⟩ := instr_ready h body
  obtain ⟨w, hw, hk, hp⟩ := hb u hu
  rw [hw] at hr
  have hr' : s.instr c n body = w.complete c pc cycles := hr
  refine ⟨_, hi, ?_, ?_, ?_, u, w, hu, hp, ?_, ?_, ?_⟩
  · rw [finish_cores, hr', State.complete_core]
    unfold Core.after
    rw [Core.tick_seen, Core.tick_seen]
    have e : ∀ k : Core, ({ k with pc := pc } : Core).seen = { k.seen with pc := pc } := fun _ => rfl
    rw [e, e, hk.core, onCore_same, hf, hf, Fetched.seen hu]
  · intro e he
    rw [finish_cores, hr', State.complete_other _ he, hk.other he, onCore_other _ he, Fetched.other hu he]
  · rw [hr']
    refine SameBlocks.trans ?_ (SameBlocks.finish ..)
    refine SameBlocks.trans ?_ (SameBlocks.complete ..)
    have j := Fetched.blocks hu
    have k := SameBlocks.of_kept hk
    exact j.trans ⟨k.pwr, k.clk, k.peg, k.pin, k.tim, k.ua, k.tch, k.evt, k.rtc, k.hrv, k.snap, k.pending⟩
  · rw [finish_mem, hr', State.complete_mem]
  · rw [finish_mm_restored, hr', State.complete_mm]
  · rw [finish_mm_map, hr', State.complete_mm]

/-! ## What the fetch leaves for the body -/

theorem plain_started (s : State) (c : CoreId) (a : Nat) :
    (s.onCore c fun k => { k with repOpen := false }).physical a = s.physical a := rfl

theorem Fetched.accessible {s u : State} {c : CoreId} (h : Fetched s c u) (rd wr : Bool) (a n : Nat) :
    u.accessible c rd wr a n ↔ s.accessible c rd wr a n := by
  rw [accessible_congr h.plain]
  have g : (s.onCore c fun k => { k with repOpen := false }).groupOf c = s.groupOf c := by
    unfold State.groupOf
    rw [onCore_same]; rfl
  have e : ∀ x, (s.onCore c fun k => { k with repOpen := false }).beatFault c rd wr x =
      s.beatFault c rd wr x := by
    intro x
    unfold State.beatFault
    rw [g]; rfl
  unfold State.accessible
  simp only [e]
  rfl

theorem Fetched.value {s u : State} {c : CoreId} (h : Fetched s c u) (a n : Nat) :
    u.valueAt a n = s.valueAt a n := by
  unfold State.valueAt
  congr 1
  apply List.map_congr_left
  intro j _
  have e : u.physical (a + j) = s.physical (a + j) := (plain_physical h.plain _).trans rfl
  rw [e, Fetched.byte h]

theorem Fetched.storable {s u : State} {c : CoreId} (h : Fetched s c u) (a n : Nat) :
    u.storable c a n ↔ s.storable c a n := by
  have ha := Fetched.accessible h false true a n
  have e := storable_congr h.plain a n
  rw [e]
  unfold State.storable
  rw [← ha, accessible_congr h.plain]
  rfl

theorem Fetched.stored {s u t : State} {c : CoreId} (h : Fetched s c u) {a n v : Nat}
    (k : Stored u t a n v) : Stored s t a n v := by
  have e := Stored.congr h.plain k
  exact ⟨e.bytes, e.mirror, e.image, e.rest⟩

/-- An instruction that loads `n` accessible bytes at `a`. -/
theorem loads_complete {s : State} {c : CoreId} {halves n cycles : Nat} {i : Instr} {a : Nat}
    {body : State → Out} {f : Nat → Core → Core} (h : s.ready c halves) (hn : 0 < n) (hn8 : n ≤ 8)
    (hi : exec i s = .next (finish s (s.instr c halves body)))
    (hb : ∀ u, Fetched s c u → body u = (u.load c a n).into c f (s.nextPc c halves) cycles)
    (hf : ∀ v (k : Core), (f v k).seen = f v k.seen)
    (hs : ∀ v (k k' : Core), k.still = k'.still → (f v k).still = (f v k').still)
    (hacc : s.accessible c true false a n) :
    registerStep s i c (f (s.valueAt a n) s.cores[c]) (s.nextPc c halves) cycles := by
  obtain ⟨t, h1, h2, h3, h4, u, w, hu, hp, hm, hr, hk⟩ := instr_answers
    (f := f (s.valueAt a n)) (pc := s.nextPc c halves) (cycles := cycles)
    (P := fun u w => w.mem = u.mem ∧ w.mm.restored = u.mm.restored ∧ w.mm.map = u.mm.map) h hi (hf _) (by
      intro u hu
      obtain ⟨g1, g2, g3, g4⟩ := load_ok hn hn8 ((Fetched.accessible hu true false a n).2 hacc)
      refine ⟨(u.load c a n).s.onCore c (f (s.valueAt a n)), ?_, ?_, ?_⟩
      · rw [hb u hu]
        unfold Got.into
        rw [g1, g2, g4, Fetched.value hu]
        rfl
      · exact (StoreKept.of_plain g3).onCore _ (hs _)
      · have m := plain_mem g3
        have r := plain_restored g3
        have k := plain_map g3
        exact ⟨m, r, k⟩)
  refine ⟨t, h1, h2, h3, ?_, h4⟩
  intro x
  refine (seenByte_congr ?_ ?_ ?_ x).trans (Fetched.byte hu x)
  · rw [hm, hp.1]
  · rw [hr, hp.2.1]
  · rw [hk, hp.2.2]

/-- An instruction that stores the low `n` bytes of a value at `a`. -/
theorem stores_complete {s : State} {c : CoreId} {halves n cycles : Nat} {i : Instr} {a v : Nat}
    {body : State → Out} {f : Core → Core} (h : s.ready c halves) (hn : 0 < n) (hn8 : n ≤ 8)
    (hi : exec i s = .next (finish s (s.instr c halves body)))
    (hb : ∀ u, Fetched s c u →
      body u = (u.storeBytes c a n v).into c (fun _ => f) (s.nextPc c halves) cycles)
    (hf : ∀ k : Core, (f k).seen = f k.seen)
    (hs : ∀ k k' : Core, k.still = k'.still → (f k).still = (f k').still)
    (hacc : s.storable c a n) :
    storeStep s i c (f s.cores[c]) (s.nextPc c halves) cycles a n v := by
  obtain ⟨t, h1, h2, h3, h4, u, w, hu, hp, hm, hmm⟩ := instr_answers
    (f := f) (pc := s.nextPc c halves) (cycles := cycles)
    (P := fun u w => Stored u w a n v) h hi hf (by
      intro u hu
      obtain ⟨t, g1, g2, g3⟩ := storeBytes_ok (v := v) hn hn8
        ((Fetched.storable hu _ n).2 hacc)
      refine ⟨t.onCore c f, ?_, ?_, ?_⟩
      · rw [hb u hu]
        unfold Got.into
        rw [g1]
        rfl
      · exact g3.onCore _ hs
      · exact ⟨g2.bytes, g2.mirror, g2.image, g2.rest⟩)
  refine ⟨t, h1, h2, h3, ?_, h4⟩
  have k := Fetched.stored hu hp
  have e : ∀ x, t.mem.byte x = w.mem.byte x := fun x => by rw [hm]
  exact ⟨fun j hj k1 k2 => (e _).trans (k.bytes j hj k1 k2),
    fun j hj q k1 k2 k3 k4 => (e _).trans (k.mirror j hj q k1 k2 k3 k4),
    fun x k1 k2 k3 => (e _).trans (k.image x k1 k2 k3), fun x k1 k2 => (e _).trans (k.rest x k1 k2)⟩

/-- An atomic instruction on the word at `a`. -/
theorem atomics_complete {s : State} {c : CoreId} {halves : Nat} {i : Instr} {a : Reg}
    {f : Core → Word → Word} {d : Reg} (h : s.ready c halves)
    (hi : exec i s = .next (finish s (s.atomics c halves a f d)))
    (ha : ∀ k k' : Core, k.seen = k'.seen → f k = f k') (h4 : s.cores[c].w[a].toNat % 4 = 0)
    (hr : s.accessible c true true s.cores[c].w[a].toNat 4)
    (hw : s.storable c s.cores[c].w[a].toNat 4) :
    storeStep s i c (s.cores[c].wrote d (BitVec.ofNat 32 (s.valueAt s.cores[c].w[a].toNat 4)))
      (s.nextPc c halves) 2 s.cores[c].w[a].toNat 4
      (f s.cores[c] (BitVec.ofNat 32 (s.valueAt s.cores[c].w[a].toNat 4))).toNat := by
  let old := BitVec.ofNat 32 (s.valueAt s.cores[c].w[a].toNat 4)
  obtain ⟨t, h1, h2, h3, h4, u, w, hu, hp, hm, hmm⟩ := instr_answers
    (f := fun k => k.wrote d old) (pc := s.nextPc c halves) (cycles := 2)
    (P := fun u w => Stored u w s.cores[c].w[a].toNat 4 (f s.cores[c] old).toNat) h hi
    (fun _ => rfl) (by
      intro u hu
      have e1 : u.cores[c].w = s.cores[c].w := Fetched.w hu
      have e2 : f u.cores[c] = f s.cores[c] := ha _ _ (Fetched.seen hu)
      obtain ⟨t, g1, g2, g3⟩ := atomic_ok (f s.cores[c]) h4
        ((Fetched.accessible hu true true _ 4).2 hr) ((Fetched.storable hu _ 4).2 hw)
      rw [Fetched.value hu] at g1 g2
      refine ⟨t.onCore c fun k => k.wrote d old, ?_, ?_, ?_⟩
      · unfold Got.into Core.r
        rw [e1, e2, g1, Fetched.nextPc hu]
        have e3 : zeroExt old.toNat = old := by unfold zeroExt; simp
        dsimp only
        rw [if_pos rfl]
        show (⟨t.onCore c fun k => k.setR d (zeroExt old.toNat), none, [], _, _⟩ : Out) = _
        rw [e3]
        rfl
      · refine g3.onCore _ fun k k' e => ?_
        have e' := congrArg (fun k : Core => k.wrote d old) e
        exact e'
      · exact ⟨g2.bytes, g2.mirror, g2.image, g2.rest⟩)
  refine ⟨t, h1, h2, h3, ?_, h4⟩
  have k := Fetched.stored hu hp
  have e : ∀ x, t.mem.byte x = w.mem.byte x := fun x => by rw [hm]
  exact ⟨fun j hj k1 k2 => (e _).trans (k.bytes j hj k1 k2),
    fun j hj q k1 k2 k3 k4 => (e _).trans (k.mirror j hj q k1 k2 k3 k4),
    fun x k1 k2 k3 => (e _).trans (k.image x k1 k2 k3), fun x k1 k2 => (e _).trans (k.rest x k1 k2)⟩

end Sys2Proof.Machine
end

