-- ==== Sys2Proof/Laws/Exceptions.lean ====
section
/-! SUPPORT. Taking an exception: what the wait for the results in flight, the entry and the read of the vector
word leave. -/

namespace Sys2Proof.Machine

open Sys2Proof

/-! ## Updates of one core -/

theorem onCore_plain_congr {s t : State} {c : CoreId} (h : s.plain c = t.plain c) (f : Core → Core)
    (hf : ∀ k k' : Core, k.still = k'.still → (f k).still = (f k').still) :
    (s.onCore c f).plain c = (t.onCore c f).plain c := by
  have e : ∀ u : State, (u.onCore c f).plain c =
      { u.plain c with cores := u.cores.set c (f u.cores[c]).still } := by
    intro u
    simp [State.plain, State.onCore, State.base]
  have hs := plain_cores h
  have hset : s.cores.set c (f s.cores[c]).still = t.cores.set c (f t.cores[c]).still := by
    rw [hf _ _ (plain_core h c)]
    have k := congrArg (fun v : Vector Core 4 => v.set c (f t.cores[c]).still) hs
    simpa using k
  rw [e, e, h, hset]

theorem onCore_onCore (s : State) (c : CoreId) (f g : Core → Core) :
    (s.onCore c f).onCore c g = s.onCore c fun k => g (f k) := by
  unfold State.onCore
  simp

/-- An update of a core that keeps its task keeps what the core may access. -/
theorem accessible_onCore {s : State} {c : CoreId} {f : Core → Core}
    (hf : (f s.cores[c]).task = s.cores[c].task) (rd wr : Bool) (a n : Nat) :
    (s.onCore c f).accessible c rd wr a n ↔ s.accessible c rd wr a n := by
  have g : (s.onCore c f).groupOf c = s.groupOf c := by
    unfold State.groupOf
    rw [onCore_same, hf]; rfl
  have e : ∀ x, (s.onCore c f).beatFault c rd wr x = s.beatFault c rd wr x := by
    intro x
    unfold State.beatFault
    rw [g]; rfl
  unfold State.accessible
  simp only [e]
  rfl

theorem storable_onCore {s : State} {c : CoreId} {f : Core → Core}
    (hf : (f s.cores[c]).task = s.cores[c].task) (a n : Nat) :
    (s.onCore c f).storable c a n ↔ s.storable c a n := by
  unfold State.storable
  rw [accessible_onCore hf]
  rfl

theorem value_congr {s t : State} {c : CoreId} (h : s.plain c = t.plain c) (a n : Nat) :
    s.valueAt a n = t.valueAt a n := by
  unfold State.valueAt
  simp only [plain_physical h, plain_seenByte h]

/-! ## The wait for what is in flight -/

theorem Core.drained_seen (k : Core) : ((k.tick k.mathWait).clock k.mathWait).seen = k.drained.seen := by
  rw [Core.clock_seen]
  unfold Core.drained Core.tick Core.mathWait Core.mulWait Core.divWait Core.settleMul Core.settleDiv
  rcases hm : k.mul with _ | m <;> rcases hd : k.div with _ | d
  · simp [hd, Core.seen]
  · have h1 : d.due ≤ k.issue + (d.due - k.issue) := by omega
    simp [hd, h1, Core.seen]
  · have h1 : m.due ≤ k.issue + (m.due - k.issue) := by omega
    simp [h1, Core.seen]
  · have h1 : m.due ≤ k.issue + max (m.due - k.issue) (d.due - k.issue) := by omega
    have h2 : d.due ≤ k.issue + max (m.due - k.issue) (d.due - k.issue) := by omega
    simp [h1, h2, Core.seen]

theorem State.drainMath_plain (s : State) (c : CoreId) :
    (s.drainMath c).plain c =
      (s.onCore c fun k => (k.tick s.cores[c].mathWait).clock s.cores[c].mathWait).plain c :=
  plain_of_base (State.spend_base ..) c

/-! ## Entry -/

/-- Taking an exception enters its handler. -/
theorem takeException_ok {s : State} {c : CoreId} {x : Exn} {epc : Word}
    (hE : bit s.cores[c].flg 8 = false) (ha : s.accessible c true false (vectorOf x.code) 4)
    (hv : s.valueAt (vectorOf x.code) 4 % 2 = 0) :
    ∃ f : Core → Core, (s.takeException c x epc []).plain c = (s.onCore c f).plain c ∧
      (f s.cores[c]).seen =
        { s.cores[c].drained with
          epc := epc, eflg := s.cores[c].flg, flg := setBit s.cores[c].flg 8 true
          ecause := x.ecause, phase := .run
          pc := BitVec.ofNat 32 (s.valueAt (vectorOf x.code) 4) }.seen := by
  let n := s.cores[c].mathWait
  let g1 : Core → Core := fun k => (k.tick n).clock n
  let s1 := s.drainMath c
  have p1 : s1.plain c = (s.onCore c g1).plain c := State.drainMath_plain s c
  have c1 : s1.cores[c].still = (g1 s.cores[c]).still := by
    rw [plain_core p1 c, onCore_same]
  have d1 : (g1 s.cores[c]).seen = s.cores[c].drained.seen := Core.drained_seen _
  let g2 : Core → Core := fun k => k.enter x epc
  let s2 := (s1.onCore c g2).countCore c 23 1
  have p2 : s2.plain c = (s.onCore c fun k => g2 (g1 k)).plain c := by
    have e1 : s2.plain c = (s1.onCore c g2).plain c := State.countCore_plain ..
    have e2 := onCore_plain_congr p1 g2 fun k k' h => by
      have e := congrArg (fun k : Core => k.enter x epc) h
      exact e
    rw [e1, e2, onCore_onCore]
  have tick_task : ∀ k : Core, (g1 k).task = k.task := by
    intro k
    show (((({ k with issue := k.issue + n } : Core).settleMul).settleDiv).clock n).task = k.task
    unfold Core.clock Core.settleDiv Core.settleMul
    dsimp only
    repeat' split
    all_goals rfl
  have hl := load_ok (s := s2) (c := c) (a := vectorOf x.code) (n := 4) (by omega) (by omega) (by
    rw [accessible_congr p2]
    exact (accessible_onCore (by
      show (g1 s.cores[c]).task = _
      exact tick_task _) _ _ _ _).2 ha)
  obtain ⟨l1, l2, l3, l4⟩ := hl
  have hval : (s2.load c (vectorOf x.code) 4).v = s.valueAt (vectorOf x.code) 4 := by
    rw [l4, value_congr p2]; rfl
  let pc := BitVec.ofNat 32 (s.valueAt (vectorOf x.code) 4)
  let g3 : Core → Core := fun k => ({ k with pc := pc } : Core).clock 6
  refine ⟨fun k => g3 (g2 (g1 k)), ?_, ?_⟩
  · have e : s.takeException c x epc [] =
        ((s2.load c (vectorOf x.code) 4).s.onCore c fun k => { k with pc := pc }).delay c 6 := by
      unfold State.takeException
      rw [show flagE s.cores[c].flg = false from hE]
      simp only [Bool.false_eq_true, if_false]
      rw [show (((s.drainMath c).onCore c fun k => k.enter x epc).countCore c 23 1) = s2 from rfl]
      rw [hval, l1, l2]
      have : ¬((none : Option Exn) ≠ none ∨ s.valueAt (vectorOf x.code) 4 % 2 = 1) := by
        rw [hv]; simp
      rw [if_neg this]
      rfl
    rw [e]
    have e1 : ∀ u : State, (u.delay c 6).plain c = (u.onCore c fun k => k.clock 6).plain c := fun u =>
      plain_of_base (State.delay_base ..) c
    rw [e1, onCore_onCore]
    have e2 := onCore_plain_congr (l3.trans p2) g3 fun k k' h => by
      have e := congrArg (fun k : Core => ({ k with pc := pc } : Core).clock 6) h
      exact e
    rw [onCore_onCore] at e2
    exact e2
  · have e : ∀ k : Core, (g3 (g2 k)).seen =
        { k.seen with
          epc := epc, eflg := k.seen.flg, flg := setBit k.seen.flg 8 true
          ecause := x.ecause, phase := .run, pc := pc } := fun _ => rfl
    have fd : s.cores[c].drained.flg = s.cores[c].flg := by
      unfold Core.drained; dsimp only; split <;> split <;> rfl
    dsimp only
    rw [e, d1]
    have fd' : s.cores[c].drained.seen.flg = s.cores[c].flg := fd
    rw [fd']
    rfl

/-- A command that leaves all but its core as it was: what it answers. -/
theorem plain_step {s w : State} {c : CoreId} {i : Instr} {f : Core → Core}
    (hi : exec i s = .next (finish s w)) (h : w.plain c = (s.onCore c f).plain c) :
    ∃ t, exec i s = .next t ∧ t.cores[c].seen = (f s.cores[c]).seen ∧
      (∀ e : CoreId, e ≠ c → t.cores[e] = s.cores[e]) ∧ (∀ a, t.seenByte a = s.seenByte a) ∧
      SameBlocks s t := by
  refine ⟨_, hi, ?_, ?_, ?_, ?_⟩
  · rw [finish_cores]
    have e := Core.seen_of_still (plain_core h c)
    rw [e, onCore_same]
  · intro e he
    rw [finish_cores, plain_other h he, onCore_other _ he]
  · intro a
    rw [finish_seenByte]
    exact (plain_seenByte h a).trans rfl
  · refine SameBlocks.trans ?_ (SameBlocks.finish ..)
    have j := SameBlocks.of_plain h
    exact ⟨j.pwr.symm, j.clk.symm, j.peg.symm, j.pin.symm, j.tim.symm, j.ua.symm, j.tch.symm, j.evt.symm,
      j.rtc.symm, j.hrv.symm, j.snap.symm, j.pending.symm⟩

theorem Core.drained_phase (k : Core) : k.drained.phase = k.phase := by
  unfold Core.drained; dsimp only; split <;> split <;> rfl

/-- An instruction that raises an exception in its body enters the handler. -/
theorem raises_complete {s : State} {c : CoreId} {n code : Nat} {detail : Word} {i : Instr} {x : Exn}
    {body : State → Out} (h : s.ready c n) (hi : exec i s = .next (finish s (s.instr c n body)))
    (hb : ∀ u, Fetched s c u → (body u).exn = some x ∧ (body u).unc = [] ∧ (body u).s.plain c = u.plain c)
    (hc : x.code = code) (hx : x.ecause = BitVec.ofNat 32 code ||| detail) (hs : s.handles c code) :
    exceptionStep s i c code detail := by
  subst hc
  obtain ⟨u, hu, hr⟩ := instr_ready h body
  obtain ⟨b1, b2, b3⟩ := hb u hu
  rw [b1, b2] at hr
  have hr' : s.instr c n body = (body u).s.takeException c x s.cores[c].pc [] := hr
  let w := (body u).s
  let g0 : Core → Core := fun k => { k with repOpen := false }
  have pw : w.plain c = (s.onCore c g0).plain c := b3.trans hu.plain
  have cw : w.cores[c].seen = s.cores[c].seen := by
    have e := Core.seen_of_still (plain_core pw c)
    rw [e, onCore_same]; rfl
  have fw : w.cores[c].flg = s.cores[c].flg := by
    have e := congrArg Core.flg cw
    exact e
  have hv : w.valueAt (vectorOf x.code) 4 = s.valueAt (vectorOf x.code) 4 := (value_congr pw _ _).trans rfl
  have ha : w.accessible c true false (vectorOf x.code) 4 := by
    rw [accessible_congr pw]
    exact (accessible_onCore (by rfl) _ _ _ _).2 hs.2.1
  obtain ⟨f, hf, hk⟩ := takeException_ok (s := w) (x := x) (epc := s.cores[c].pc) (by rw [fw]; exact hs.1) ha
    (by rw [hv]; exact hs.2.2)
  have cf := plain_core hf c
  rw [onCore_same] at cf
  have ht : (w.takeException c x s.cores[c].pc []).plain c = (s.onCore c fun _ => f w.cores[c]).plain c := by
    have e : (w.onCore c f).plain c = (w.onCore c fun _ => f w.cores[c]).plain c := rfl
    rw [hf, e, onCore_plain_congr pw (fun _ => f w.cores[c]) fun _ _ _ => rfl, onCore_onCore]
  rw [hr'] at hi
  obtain ⟨t, h1, h2, h3⟩ := plain_step hi ht
  refine ⟨t, h1, ?_, h3⟩
  rw [h2, hk, fw, hv, hx]
  have dw : w.cores[c].drained.seen = s.cores[c].drained.seen := by
    rw [← Core.drained_seen, ← Core.drained_seen, Core.clock_seen, Core.clock_seen, Core.tick_seen,
      Core.tick_seen, cw]
    have : w.cores[c].mathWait = s.cores[c].mathWait := by
      have e1 := congrArg Core.mathWait cw; exact e1
    rw [this]
  have ph : s.cores[c].drained.phase = .run := by
    have h0 := h.1
    simp only [State.issues, Bool.and_eq_true, decide_eq_true_eq] at h0
    rw [Core.drained_phase]; exact h0.1.1.2
  have e2 : ∀ (k : Core) (p e v : Word), ({ k with
      epc := p, eflg := s.cores[c].flg, flg := setBit s.cores[c].flg 8 true, ecause := e, phase := .run
      pc := v } : Core).seen =
      { k.seen with epc := p, eflg := s.cores[c].flg, flg := setBit s.cores[c].flg 8 true, ecause := e
                    phase := .run, pc := v } :=
    fun _ _ _ _ => rfl
  rw [e2, dw, ← ph]
  rfl

end Sys2Proof.Machine
end

