-- ==== Sys2Proof/Laws/Settles.lean ====
section
/-! SUPPORT. The end of a command settles the state that the command makes: what counting and firing keep of the
interrupt controllers and the counters, that nothing pending is taken back, and when the Warden, the ITG
block, Ridgepole's store and the network engine stand. -/

namespace Sys2Proof.Machine

open Sys2Proof

/-! ## What counting and firing keep -/

theorem Flight.keeps.refl (p : Flight) : p.keeps p := ⟨rfl, rfl, fun _ h => h⟩

theorem Flight.keeps.trans {p q r : Flight} (h : r.keeps q) (k : q.keeps p) : r.keeps p :=
  ⟨h.1.trans k.1, h.2.1.trans k.2.1, fun n e => k.2.2 n (h.2.2 n e)⟩

/-- Each event on its way stays where the list is the same. -/
theorem keeps_same {l : List Flight} : ∀ p ∈ l, ∃ q ∈ l, q.keeps p := fun p h => ⟨p, h, .refl p⟩

/-- The set-up of the interrupt controllers and of the counters. -/
structure State.SameSetup (s t : State) : Prop where
  irq : t.irq.map IrqBank.setup = s.irq.map IrqBank.setup
  cfg : t.per.cnt.c.map Counter.setup = s.per.cnt.c.map Counter.setup
  ie : t.per.cnt.ie = s.per.cnt.ie
  pend : ∀ b i, bit (vget s.irq b IrqBank.reset).pend i = true →
    bit (vget t.irq b IrqBank.reset).pend i = true
  inflight : ∀ p ∈ s.inflight, ∃ q ∈ t.inflight, q.keeps p

namespace State.SameSetup

theorem refl (s : State) : s.SameSetup s :=
  ⟨rfl, rfl, rfl, fun _ _ h => h, fun p h => ⟨p, h, .refl p⟩⟩

theorem trans {s t u : State} (h : s.SameSetup t) (k : t.SameSetup u) : s.SameSetup u :=
  ⟨k.irq.trans h.irq, k.cfg.trans h.cfg, k.ie.trans h.ie, fun b i x => k.pend b i (h.pend b i x),
    fun p x => by
      obtain ⟨q, hq, e⟩ := h.inflight p x
      obtain ⟨r, hr, e'⟩ := k.inflight q hq
      exact ⟨r, hr, e'.trans e⟩⟩

end State.SameSetup

theorem map_vmod {α β : Type} {n : Nat} (v : Vector α n) (i : Nat) (g : α → α) (f : α → β)
    (hx : ∀ x, f (g x) = f x) : (vmod v i g).map f = v.map f := by
  unfold vmod; split
  · ext j hj
    simp only [Vector.getElem_map, Vector.getElem_set]
    split
    · next e => subst e; exact hx _
    · rfl
  · rfl

theorem vget_vmod {α : Type} {n : Nat} (v : Vector α n) (i j : Nat) (g : α → α) (d : α) :
    vget (vmod v i g) j d = if i = j ∧ j < n then g (vget v j d) else vget v j d := by
  unfold vget vmod
  by_cases hj : j < n
  · by_cases hi : i < n
    · simp only [hi, hj, dif_pos, Vector.getElem_set]
      by_cases e : i = j
      · subst e; simp
      · simp [e]
    · have : i ≠ j := by omega
      simp [hi, hj, this]
  · simp [hj]

theorem bit_setBit {n : Nat} (w : BitVec n) (i j : Nat) (b : Bool) :
    bit (setBit w i b) j = if i = j ∧ j < n then b else bit w j := by
  unfold bit setBit
  by_cases h : i = j
  · subst h
    by_cases hn : i < n
    · cases b <;> simp [hn]
    · have hw : w.getLsbD i = false := BitVec.getLsbD_of_ge _ _ (by omega)
      cases b <;> simp [hn, hw]
  · cases b
    · by_cases hn : j < n
      · simp [h, hn]; intro _ e; exact h e.symm
      · simp [hn, BitVec.getLsbD_of_ge w j (by omega)]
    · simp [h, BitVec.getLsbD_twoPow]

variable (s : State)

theorem State.SameSetup.foldl {α : Type} (f : State → α → State) (l : List α)
    (h : ∀ s a, State.SameSetup s (f s a)) : ∀ s, State.SameSetup s (l.foldl f s) := by
  induction l with
  | nil => intro s; exact .refl s
  | cons a l ih => intro s; exact (h s a).trans (ih _)

theorem State.fire_setup (p : Nat) : s.SameSetup (s.fire p) := by
  refine ⟨rfl, rfl, rfl, fun _ _ h => h, fun q hq => ?_⟩
  unfold State.fire
  by_cases e : q.ev = p ∧ q.left = resyncWait p
  · exact ⟨_, List.mem_append_right _ (List.mem_singleton.2 rfl), e.1.symm, e.2.symm, by simp⟩
  · exact ⟨q, List.mem_append_left _ (List.mem_filter.2 ⟨hq, by by_cases e1 : q.ev = p <;> simp_all⟩), .refl q⟩

theorem State.addCount_setup (i n : Nat) : s.SameSetup (s.addCount i n) := by
  have h : ∀ f : Vector Counter 24 → Vector Counter 24, (∀ v, (f v).map Counter.setup = v.map Counter.setup) →
      s.SameSetup (s.onCnt fun t => { t with c := f t.c }) := fun f hf =>
    ⟨rfl, hf _, rfl, fun _ _ h => h, keeps_same⟩
  have h1 := h (fun v => vmod v i fun k => { k with count := k.count + BitVec.ofNat 48 n })
    fun v => map_vmod v i _ _ fun _ => rfl
  unfold State.addCount; dsimp only; split
  · exact h1
  · refine h1.trans ?_
    refine State.SameSetup.trans ?_ (State.fire_setup _ _)
    exact ⟨rfl, rfl, rfl, fun _ _ h => h, keeps_same⟩

theorem State.countRange_setup (lo src n k : Nat) : s.SameSetup (s.countRange lo src n k) := by
  induction k with
  | zero => exact .refl s
  | succ k ih =>
    unfold State.countRange; dsimp only; split
    · exact ih.trans (State.addCount_setup ..)
    · exact ih

theorem IrqBank.lose_setup (b : IrqBank) (src : Nat) : (b.lose src).setup = b.setup := rfl

theorem IrqBank.fire56_setup (b : IrqBank) : b.fire56.setup = b.setup := by
  unfold IrqBank.fire56; split
  · split <;> rfl
  · rfl

theorem IrqBank.fire_setup (b : IrqBank) (src : Nat) : (b.fire src).setup = b.setup := by
  unfold IrqBank.fire; split
  · exact IrqBank.fire56_setup b
  · split
    · split
      · exact (IrqBank.fire56_setup _).trans (IrqBank.lose_setup ..)
      · rfl
    · rfl

theorem IrqBank.fire56_pend (b : IrqBank) (i : Nat) (h : bit b.pend i = true) :
    bit b.fire56.pend i = true := by
  unfold IrqBank.fire56; split
  · split
    · exact h
    · show bit (setBit b.pend 56 true) i = true
      rw [bit_setBit]; split
      · rfl
      · exact h
  · exact h

theorem IrqBank.fire_pend (b : IrqBank) (src i : Nat) (h : bit b.pend i = true) :
    bit (b.fire src).pend i = true := by
  unfold IrqBank.fire; split
  · exact IrqBank.fire56_pend b i h
  · split
    · split
      · exact IrqBank.fire56_pend _ i h
      · show bit (setBit b.pend src true) i = true
        rw [bit_setBit]; split
        · rfl
        · exact h
    · exact h

theorem State.fireSource_setup (b src : Nat) : s.SameSetup (s.fireSource b src) := by
  have h1 : s.SameSetup (s.onIrq b fun k => k.fire src) := by
    refine ⟨map_vmod _ _ _ _ fun k => IrqBank.fire_setup k src, rfl, rfl, ?_, keeps_same⟩
    intro c i h
    show bit (vget (vmod s.irq b fun k => k.fire src) c IrqBank.reset).pend i = true
    rw [vget_vmod]; split
    · exact IrqBank.fire_pend _ _ _ h
    · exact h
  unfold State.fireSource; dsimp only; split
  · exact h1.trans (State.countRange_setup ..)
  · exact h1

theorem State.fireMask_setup (b : Nat) (m : BitVec 64) : s.SameSetup (s.fireMask b m) := by
  unfold State.fireMask; split
  · exact .refl s
  · exact State.SameSetup.foldl _ _ (fun s i => State.fireSource_setup s b i) s

theorem State.fireRisen_setup (old : State) : s.SameSetup (old.fireRisen s) := by
  unfold State.fireRisen
  exact State.SameSetup.foldl _ _ (fun s b => State.fireMask_setup s b _) s

theorem State.fireAll_setup (old : State) (n : Nat) : s.SameSetup (old.fireAll s n) := by
  induction n generalizing old s with
  | zero => exact .refl s
  | succ n ih =>
    unfold State.fireAll; dsimp only; split
    · exact State.fireRisen_setup ..
    · exact (State.fireRisen_setup ..).trans (ih _ _)

theorem State.fireIf_setup (b : Bool) (p : Nat) : s.SameSetup (s.fireIf b p) := by
  unfold State.fireIf; split
  · exact State.fire_setup ..
  · exact .refl s

theorem State.fireTriggers_setup (old : State) : s.SameSetup (old.fireTriggers s) := by
  unfold State.fireTriggers
  exact State.SameSetup.foldl _ _
    (fun s u => (State.fireIf_setup ..).trans (State.fireIf_setup ..)) s

theorem State.fireProducers_setup (old : State) : s.SameSetup (old.fireProducers s) := by
  unfold State.fireProducers
  exact (State.fireTriggers_setup ..).trans ((State.fireIf_setup ..).trans (State.fireIf_setup ..))

/-! ## What the engines do at once -/

theorem netGuard_same (t : State) : t.netGuard.irq = t.irq ∧ t.netGuard.per.cnt = t.per.cnt ∧
    t.netGuard.inflight = t.inflight ∧ t.netGuard.itg = t.itg ∧ t.netGuard.rp = t.rp ∧
    t.netGuard.mm = t.mm ∧ t.netGuard.free = t.free := by
  unfold State.netGuard
  by_cases h : (t.per.net.en && t.tableObj.isNone) = true
  · rw [if_pos h]
    simp only [State.netStop, State.netFlag, State.onNet, State.onRf, State.onPer, and_self]
  · rw [if_neg h]
    simp only [and_self]

theorem housekeep_setup (old : State) : s.SameSetup (old.housekeep s) := by
  have h1 : s.SameSetup (old.stuckNew s) := by
    unfold State.stuckNew; split
    · exact .refl s
    · split
      · exact .refl s
      · exact ⟨rfl, rfl, rfl, fun _ _ h => h, keeps_same⟩
  have h2 : ∀ s : State, s.SameSetup s.settleRetiring := by
    intro s; unfold State.settleRetiring; split
    · exact .refl s
    · exact State.SameSetup.foldl (fun (s : State) (b : Nat) => s.onWdn fun w => w.retireBank b) _
        (fun s b => ⟨rfl, rfl, rfl, fun _ _ h => h, keeps_same⟩) s
  have h3 : ∀ s : State, s.SameSetup s.copyRetired := by
    intro s; unfold State.copyRetired; split
    · exact ⟨rfl, rfl, rfl, fun _ _ h => h, keeps_same⟩
    · exact .refl s
  have h4 : ∀ s : State, s.SameSetup s.netGuard := by
    intro s
    obtain ⟨e1, e2, e3, -⟩ := netGuard_same s
    exact ⟨by rw [e1], by rw [e2], by rw [e2], fun b i h => by rw [e1]; exact h,
      fun p h => ⟨p, by rw [e3]; exact h, .refl p⟩⟩
  exact ((h1.trans (h2 _)).trans (h3 _)).trans (h4 _)

theorem finish_setup (old : State) : s.SameSetup (finish old s) := by
  have hd : s.SameSetup (s.dropPortA old) := ⟨rfl, rfl, rfl, fun _ _ h => h, keeps_same⟩
  have hh := hd.trans (housekeep_setup _ old)
  unfold finish; dsimp only; split
  · exact hh
  · exact (hh.trans (State.fireProducers_setup ..)).trans (State.fireAll_setup ..)

theorem State.settled_of_core0 {s t : State} (h : s.core0 = t.core0) (k : t.SameSetup s) :
    s.settled = t.settled := by
  have e : ∀ u : State, u.settled =
      { u.core0 with
        irq := u.irq.map IrqBank.setup
        per := { u.core0.per with
          cnt := { ovf := 0#32, ie := u.per.cnt.ie, c := u.per.cnt.c.map Counter.setup } } } :=
    fun _ => rfl
  rw [e, e, h, k.irq, k.cfg, k.ie]

/-- While nothing retires, what shows the Warden's retired bits stands. -/
theorem finish_store (old : State) (h : s.wdn.retiring = 0#50)
    (k : s.rp.mode = .up ∨ s.rp.mode = .stopped →
      s.rp.retSb = s.wdn.retSb ∧ s.rp.retire = s.wdn.retire) :
    (finish old s).itg = s.itg ∧ (finish old s).rp = s.rp ∧ (finish old s).mm = s.mm ∧
      (finish old s).free = s.free := by
  let u := s.dropPortA old
  have hu : u.wdn.retiring = 0#50 := h
  have hc : u.copyRetired = u := by
    unfold State.copyRetired
    by_cases hm : s.rp.mode = .up ∨ s.rp.mode = .stopped
    · simp [u, State.dropPortA, k hm]
    · have h1 : ¬s.rp.mode = .up := fun e => hm (.inl e)
      have h2 : ¬s.rp.mode = .stopped := fun e => hm (.inr e)
      simp [u, State.dropPortA, h1, h2]
  have hg := netGuard_same u
  have hh : (old.housekeep u).itg = s.itg ∧ (old.housekeep u).rp = s.rp ∧ (old.housekeep u).mm = s.mm ∧
      (old.housekeep u).free = s.free := by
    unfold State.housekeep
    rw [State.stuckNew_of_none _ _ hu, State.settleRetiring_of_none _ hu, hc]
    exact hg.2.2.2
  unfold finish; dsimp only; split
  · exact hh
  · simpa using hh

/-- The end of a command settles the state that the command has made. -/
theorem finish_settles (old : State) : Settles s (finish old s) :=
  have k := finish_setup s old
  ⟨State.settled_of_core0 (finish_core0 old s) k, k.pend, k.inflight, finish_wdn old s,
    finish_store s old, finish_net old s⟩

/-- A command that leaves `u` to the end of the command makes `u`. -/
theorem State.becomes_of {s u : State} {i : Instr} (h : exec i s = .next (finish s u)) : s.becomes i u :=
  ⟨_, h, finish_settles u s⟩

end Sys2Proof.Machine
end

