-- ==== Sys2Proof/Tests/Slice0.lean ====
section
/-! SUPPORT. Small tests, and for each statement a concrete state that meets its hypotheses. -/

open Sys2Proof Sys2Proof.Machine

set_option linter.unusedSimpArgs false
set_option Elab.async false

namespace Sys2Proof.Tests

/-! ## States -/

/-- An object of 4 KiB at 0x6000_0000 in SB4 that every group may read, write and execute. -/
def tObj : ObjEntry :=
  { ObjEntry.empty with
    phase := .live, xp := true, base := 0#20, size := 4, rights := 0xFFFFFF#24, bank := 20, offs := 0 }

/-- A core that runs thread code at 0x6000_0000. -/
def tCore : Core := { Core.reset with phase := .run, pc := 0x60000000#32 }

/-- A core with one value in W1 and W15. -/
def tAt (v : Word) : Core := { tCore with w := (tCore.w.set 1 v).set 15 v }

/-- A core with values in W0, W1 and W2. -/
def tRegs (a b c : Word) : Core := { tCore with w := ((tCore.w.set 0 a).set 1 b).set 2 c }

/-- Canvas runs: core 0 is as given, and the object is declared. -/
def tUp (k : Core) : State :=
  { State.reset with
    rp := { Ridgepole.reset with mode := .up }
    mm := { MemRegs.reset with sbPwr := 0xFFFFFFFF#32, sbOn := 0xFFFFFFFF#32 }
    wdn := { Warden.reset with obj := Warden.reset.obj.set 0 tObj }
    cores := #v[k, Core.reset, Core.reset, Core.reset] }

/-- Task 0 is running on core 0. -/
def tTask : State :=
  (tUp { tCore with task := 0#32 }).onWdn fun w =>
    { w with tsk := w.tsk.set 0 { TaskEntry.empty with state := .running } }

/-- Waymark is in force. -/
def tWay (s : State) : State := s.onItg fun r => { r with cfg := 2#32 }

/-! ## What the hypotheses come to as tests -/

/-- `State.clean` and `State.apart`, as a test. -/
def tClean (s : State) (p q n : Nat) : Bool :=
  (eccWords (readPlace s p) n).all (fun w => (s.mem.eccOf w).isNone) &&
    (!inDp q || (eccWords q n).all fun w => s.portA.all fun x => x.word != w)

theorem implies_iff {b : Bool} {p : Prop} : (b = true → p) ↔ (b = false ∨ p) := by cases b <;> simp

/-- `State.ready`, as a test. -/
def tReadyB (s : State) (c : CoreId) (n : Nat) : Bool :=
  s.issues c && (List.range n).all fun k =>
    let a := s.cores[c].pc.toNat + 2 * k
    (s.fetchFault c a).isNone && tClean s (s.physical a) (s.physical a) 2

theorem ready_iff (s : State) (c : CoreId) (n : Nat) : s.ready c n ↔ tReadyB s c n = true := by
  simp [State.ready, State.fetchable, State.clean, State.apart, tReadyB, tClean, implies_iff]

/-- `State.accessible`, as a test. -/
def tAccess (s : State) (c : CoreId) (rd wr : Bool) (a n : Nat) : Bool :=
  (List.range n).all fun j =>
    !inPeriph (a + j) && (s.beatFault c rd wr (a + j)).isNone && tClean s (s.physical (a + j)) (s.physical (a + j)) 1

theorem accessible_iff (s : State) (c : CoreId) (rd wr : Bool) (a n : Nat) :
    s.accessible c rd wr a n ↔ tAccess s c rd wr a n = true := by
  simp [State.accessible, State.clean, State.apart, tAccess, tClean, implies_iff, and_assoc]

theorem handles_iff (s : State) (c : CoreId) (code : Nat) : s.handles c code ↔
    (!bit s.cores[c].flg 8 && tAccess s c true false (0x60000100 + 4 * code) 4 &&
      s.valueAt (0x60000100 + 4 * code) 4 % 2 == 0) = true := by
  simp [State.handles, accessible_iff, and_assoc]

theorem opens_iff (s : State) (c : CoreId) (n : Nat) :
    s.opens c n ↔ (tReadyB s c n && !s.cores[c].repOpen) = true := by
  simp [State.opens, ready_iff]

/-- Where nothing migrates and no line of Ember is pulled, a store asks for no more than access. -/
theorem storable_plain {s : State} {c : CoreId} {a n : Nat} (h : s.accessible c false true a n)
    (hm : s.wdn.mig = none) (he : ∀ j < n, inEmber (s.physical (a + j)) = false) :
    s.storable c a n := by
  refine ⟨h, by simp [hm], fun j hj => ⟨fun q hq => by simp [State.mirrorOf, hm] at hq, fun x hx => ?_⟩⟩
  obtain ⟨i, hi, he', -⟩ := hx
  simp [he i hi] at he'

/-! ## Register instructions -/

theorem test_witness_BinaryArithmeticAndLogic : (tUp tCore).ready 0 1 ∧ (tUp tCore).ready 0 2 := by
  simp only [ready_iff, accessible_iff, handles_iff, opens_iff]
  decide +kernel

theorem test_witness_ShiftsAndExtension :
    (tUp (tRegs 1#32 31#32 0#32)).ready 0 1 ∧ (tUp (tRegs 1#32 31#32 0#32)).ready 0 2 := by
  simp only [ready_iff, accessible_iff, handles_iff, opens_iff]
  decide +kernel

theorem test_witness_MultiplyAndDivide :
    (tUp (tRegs 7#32 0#32 0#32)).ready 0 1 ∧ (tRegs 7#32 0#32 0#32).w[1] = 0#32 ∧
    (tUp (tRegs 7#32 1#32 0#32)).ready 0 1 ∧ (tRegs 7#32 1#32 0#32).w[1] ≠ 0#32 ∧
    (tUp (tRegs 0x80000000#32 0xFFFFFFFF#32 0#32)).ready 0 1 ∧
    (tRegs 0x80000000#32 0xFFFFFFFF#32 0#32).w[0] = 0x80000000#32 ∧
    (tRegs 0x80000000#32 0xFFFFFFFF#32 0#32).w[1] = 0xFFFFFFFF#32 ∧
    (tUp { tCore with mul := some ⟨3, 0#32, 6#32⟩, div := some ⟨18, 2#32, 1#32⟩ }).issues 0 = true := by
  simp only [ready_iff, accessible_iff, handles_iff, opens_iff]
  decide +kernel

theorem test_witness_DecimalInstructions : (tUp (tRegs 0x99999999#32 1#32 0#32)).ready 0 1 := by
  simp only [ready_iff, accessible_iff, handles_iff, opens_iff]
  decide +kernel

/-! ## Memory -/

theorem test_witness_MemoryLoads :
    (∀ p ∈ [(0x60000FFF#32, 1), (0x60000FFE#32, 2), (0x60000FFC#32, 4), (0x60000000#32, 1)],
      (tUp (tAt p.1)).ready 0 1 ∧ (tUp (tAt p.1)).ready 0 2 ∧
        (tUp (tAt p.1)).accessible 0 true false (tAt p.1).w[1].toNat p.2) ∧
    (tUp (tAt 0x60001000#32)).accessible 0 true false (0x60001000#32 + (0xFFFF#16).signExtend 32).toNat 1 ∧
    (tUp (tAt 0x60000000#32)).accessible 0 true false (0x60000000#32 + 4#32 * (255#8).setWidth 32).toNat 4 := by
  simp only [ready_iff, accessible_iff, handles_iff, opens_iff]
  decide +kernel

theorem test_witness_MemoryStores :
    ∀ p ∈ [(0x60000FFF#32, 1), (0x60000FFE#32, 2), (0x60000FFC#32, 4)],
      (tUp (tAt p.1)).ready 0 1 ∧ (tUp (tAt p.1)).ready 0 2 ∧
        (tUp (tAt p.1)).storable 0 (tAt p.1).w[1].toNat p.2 ∧
        (tUp (tAt 0x60001000#32)).storable 0 ((tAt 0x60001000#32).w[15] - 4#32).toNat 4 := by
  intro p hp
  refine ⟨?_, ?_, storable_plain ?_ rfl ?_, storable_plain ?_ rfl ?_⟩ <;> revert p <;>
    (try simp only [ready_iff, accessible_iff, opens_iff]) <;> decide +kernel

theorem test_witness_AtomicAccess :
    let s := tUp (tAt 0x60000FFC#32)
    s.ready 0 1 ∧ s.ready 0 2 ∧ (tAt 0x60000FFC#32).w[1].toNat % 4 = 0 ∧
      s.accessible 0 true true (tAt 0x60000FFC#32).w[1].toNat 4 ∧
      s.storable 0 (tAt 0x60000FFC#32).w[1].toNat 4 := by
  refine ⟨?_, ?_, ?_, ?_, storable_plain ?_ rfl ?_⟩ <;>
    (try simp only [ready_iff, accessible_iff, opens_iff]) <;> decide +kernel

theorem test_witness_RegisterLanes :
    ∀ p ∈ [(0x400A0000#32, 4), (0x400A007F#32, 1), (0x400A007E#32, 2), (0x400A007C#32, 4), (0x400A00C0#32, 4),
        (0x400A00C3#32, 1), (0x400A00C2#32, 2)],
      (tUp (tAt p.1)).ready 0 1 ∧ (tAt p.1).w[1].toNat % p.2 = 0 ∧
        (0x400A0000 ≤ (tAt p.1).w[1].toNat ∧ (tAt p.1).w[1].toNat < 0x400A0080 ∨
          0x400A00C0 ≤ (tAt p.1).w[1].toNat ∧ (tAt p.1).w[1].toNat < 0x400A00C4) := by
  simp only [ready_iff, accessible_iff, handles_iff, opens_iff]
  decide +kernel

/-! ## Exceptions and interrupts -/

/-- Core 0 stands at the halfwords 0xFFFF and 0xFFFF, which no instruction has. -/
def tUndef (k : Core) : State := (tUp k).onMem fun m => m.setBytes (sramBase + 0x20000) [0xFF#8, 0xFF#8, 0xFF#8, 0xFF#8]

theorem test_witness_ExceptionEntry :
    ((tUp tCore).ready 0 1 ∧ (tUp tCore).handles 0 1 ∧ 8 ≤ (15 : SReg).val ∧ bit (tUp tCore).itg.cfg 1 = false ∧
      bit (tUp tCore).cores[0].task 31 = true ∧ (tUp tCore).opens 0 2 ∧ (tUp tCore).handles 0 3 ∧
      (tUp tCore).wdn.tsk[(tUp tCore).cores[0].w[0].toNat % 64].state = .free) ∧
    (tTask.ready 0 1 ∧ tTask.handles 0 1 ∧ bit tTask.cores[0].task 31 = false) ∧
    ((tUndef tCore).codeAt 0 0 = none ∧ (tUndef tCore).codeHalves 0 = 2 ∧ (tUndef tCore).ready 0 2 ∧
      (tUndef tCore).handles 0 1) := by
  simp only [ready_iff, accessible_iff, handles_iff, opens_iff]
  decide +kernel

theorem test_witness_ExceptionEntry_addresses :
    (∀ n ∈ [0x61000001, 0x60000001, 0x400A0001],
      (tUp (tAt (BitVec.ofNat 32 n))).ready 0 1 ∧ (tUp (tAt (BitVec.ofNat 32 n))).handles 0 3 ∧ (tUp (tAt (BitVec.ofNat 32 n))).handles 0 4 ∧
        (tAt (BitVec.ofNat 32 n)).w[1] = BitVec.ofNat 32 n ∧ bit (tAt (BitVec.ofNat 32 n)).w[1] 0 = true ∧ (tAt (BitVec.ofNat 32 n)).w[1].toNat % 4 ≠ 0) ∧
    inObjWindow 0x61000001 = true ∧ inPeriph 0x400A0001 = true ∧
    (∀ e ∈ (tUp (tAt 0x61000001#32)).wdn.obj.toList, (e.reachable && e.covers 0x61000001) = false) ∧
    (tUp (tAt 0x60000001#32)).accessible 0 true true 0x60000001 4 := by
  simp only [ready_iff, accessible_iff, handles_iff, opens_iff]
  (repeat' apply And.intro) <;> decide +kernel

theorem test_witness_ExceptionEntry_double :
    (tUndef { tCore with flg := 0x100#32 }).codeAt 0 0 = none ∧
      (tUndef { tCore with flg := 0x100#32 }).ready 0 ((tUndef { tCore with flg := 0x100#32 }).codeHalves 0) ∧
      bit (tUndef { tCore with flg := 0x100#32 }).cores[0].flg 8 = true ∧
      (tUndef { tCore with flg := 0x100#32 }).twin = false := by
  simp only [ready_iff]
  decide +kernel

/-- Source 5 of core 0 is pending, enabled, of priority 1, and the core runs in thread code with W15 in the object. -/
def tIrq : State :=
  { tUp (tAt 0x60000FF8#32) with
    irq := State.reset.irq.set 0
      { IrqBank.reset with gie := true, en := 0x20#128, pend := 0x20#128, pri := IrqBank.reset.pri.set 0 0x100000#32 } }

theorem test_witness_InterruptEntry :
    let sp := tIrq.cores[0].w[15] - 8#32
    tIrq.interruptible 0 = true ∧ tIrq.irq[0].acceptable = some 5 ∧ sp.toNat % 4 = 0 ∧
      tIrq.accessible 0 true false (0x60000200 + 4 * 5) 4 ∧ tIrq.valueAt (0x60000200 + 4 * 5) 4 % 2 = 0 ∧
      tIrq.storable 0 sp.toNat 8 := by
  refine ⟨?_, ?_, ?_, ?_, ?_, storable_plain ?_ rfl ?_⟩ <;>
    (try simp only [ready_iff, accessible_iff, opens_iff]) <;> decide +kernel

/-! ## Branches, special registers and returns -/

theorem test_witness_BranchesAndJumps :
    (tUp { tCore with flg := 1#32 }).ready 0 1 ∧ (tUp { tCore with flg := 1#32 }).ready 0 2 ∧
      condition .eq (tUp { tCore with flg := 1#32 }).cores[0].flg ∧ ¬condition .eq (tUp tCore).cores[0].flg ∧
      bit (tUp tCore).cores[0].w[1] 0 = false := by
  unfold condition
  simp only [ready_iff, accessible_iff, handles_iff, opens_iff]
  decide +kernel

/-- A core that the debugger halts and lets do one instruction, which takes no interrupt. -/
def tHalted : State := tIrq.onCore 0 fun k => { k with halted := true, stepArm := true }

theorem test_witness_SpecialRegistersAndWait :
    (tUp tCore).ready 0 1 ∧ 13 ≤ (13 : SReg).val ∧ bit (tUp tCore).cores[0].task 31 = true ∧
      (tUp tCore).irq[0].acceptable = none ∧ bit (tUp tCore).itg.cfg 1 = false ∧
      (tWay (tUp tCore)).ready 0 1 ∧ bit (tWay (tUp tCore)).itg.cfg 1 = true ∧
      bit (tWay (tUp tCore)).cores[0].task 31 = true ∧
      tHalted.ready 0 1 ∧ tHalted.irq[0].acceptable.isSome ∧ bit tHalted.itg.cfg 1 = false := by
  simp only [ready_iff, accessible_iff, handles_iff, opens_iff]
  decide +kernel

theorem test_witness_Returns :
    (tUp tCore).ready 0 1 ∧ bit (tUp tCore).cores[0].epc 0 = false ∧
      (tUp (tAt 0x60000FF8#32)).ready 0 1 ∧
      (tUp (tAt 0x60000FF8#32)).accessible 0 true false (tAt 0x60000FF8#32).w[15].toNat 4 ∧
      (tUp (tAt 0x60000FF8#32)).accessible 0 true false ((tAt 0x60000FF8#32).w[15] + 4#32).toNat 4 ∧
      (tUp (tAt 0x60000FF8#32)).valueAt ((tAt 0x60000FF8#32).w[15] + 4#32).toNat 4 % 2 = 0 := by
  simp only [ready_iff, accessible_iff, handles_iff, opens_iff]
  decide +kernel

/-! ## Tasks, string instructions and services -/

/-- The thread that task 0 has interrupted on core 0. -/
def tThread : ThreadCtx := ⟨Vector.replicate 16 0#32, 0x60000000#32, 0#32, 0#32, 0#32, 0#32⟩

/-- Core 0 runs task 0, and task 0 and task 1 stand as given. -/
def tTasks (a b : TaskState) (task : Word) : State :=
  (tUp { tCore with task := task, shadow := some tThread, w := tCore.w.set 0 1#32 }).onWdn fun w =>
    { w with tsk := (w.tsk.set 0 { TaskEntry.empty with state := a }).set 1 { TaskEntry.empty with state := b } }

theorem test_witness_TaskInstructions :
    (∀ x ∈ [TaskState.idle, .running, .ready, .runningPending],
      (tTasks .running x 0#32).ready 0 1 ∧ bit (tTasks .running x 0#32).itg.cfg 1 = false ∧
        (tTasks .running x 0#32).wdn.tsk[(tTasks .running x 0#32).cores[0].w[0].toNat % 64].state = x ∧
        (tWay (tTasks .running x 0#32)).ready 0 1 ∧ bit (tWay (tTasks .running x 0#32)).itg.cfg 1 = true) ∧
    ∀ x ∈ [TaskState.running, .runningPending],
      (tTasks x .free 0#32).ready 0 1 ∧ bit (tTasks x .free 0#32).cores[0].task 31 = false ∧
        (tTasks x .free 0#32).irq[0].stack.head?.all (fun e => decide (e.pri = 0)) ∧
        (tTasks x .free 0#32).cores[0].shadow = some tThread ∧ (tTasks x .free 0#32).wdn.tsk[0].state = x := by
  simp only [ready_iff, accessible_iff, handles_iff, opens_iff]
  decide +kernel

theorem test_witness_StringInstructions :
    let s := tUp (tRegs 0#32 0x60000FFC#32 0x60000FFC#32)
    s.ready 0 1 ∧ s.accessible 0 true false (s.cores[0].w[1]).toNat 4 ∧
      s.accessible 0 true false (s.cores[0].w[2]).toNat 4 ∧ s.storable 0 (s.cores[0].w[2]).toNat 4 ∧
      s.opens 0 2 ∧ s.cores[0].w[3] = 0#32 := by
  refine ⟨?_, ?_, ?_, storable_plain ?_ rfl ?_, ?_, ?_⟩ <;>
    (try simp only [ready_iff, accessible_iff, opens_iff]) <;> decide +kernel

/-- A key and the slot that holds it. -/
def tKey (slot : Nat) (key : List Byte) : KeySlot := ⟨slot, key, crc32 key⟩

/-- Core 0 with W1 and W2, and Ridgepole as given. -/
def tServe (a b : Word) (f : Ridgepole → Ridgepole) : State := (tUp (tRegs 0#32 a b)).onRp f

theorem test_witness_ServicesOfRidgepole :
    (tServe 0#32 0#32 id).mayAsk ∧ (tServe 0#32 0#32 fun r => { r with keys := [tKey 0 [0#8]] }).mayAsk ∧
    (tServe 0#32 0#32 id).ready 0 1 ∧ (tServe 1#32 0#32 id).ready 0 1 ∧ (tServe 2#32 0#32 id).ready 0 1 ∧
    (tServe 6553#32 0#32 id).ready 0 1 ∧ (tServe 6554#32 0#32 id).ready 0 1 ∧
    (tServe 1027#32 0#32 id).ready 0 1 ∧ (tServe 1028#32 0#32 id).ready 0 1 ∧
    (tServe 1027#32 0#32 id).rp.key 1027 = none ∧
    (tServe 0#32 0#32 fun r => { r with keys := [tKey 0 [0#8]] }).rp.key 0 = some [0#8] ∧
    (tServe 6553#32 0#32 id).rp.wdog = 0 ∧ (tServe 1#32 0#32 fun r => { r with wdog := 1 }).rp.wdog = 1 ∧
    16 ≤ (16#8).toNat ∧ bit (tServe 0#32 0#32 id).rp.gs.boot 1 = false ∧
    (let s := tServe 0#32 0#32 (fun r => { r with gs := { r.gs with boot := 2#32, gen := 0xFFFFFFFD#32 } })
     s.ready 0 1 ∧ bit s.rp.gs.boot 1 = true ∧ s.rp.gs.gen.toNat < 0xFFFFFFFE) ∧
    (let s := tServe 0#32 0#32 (fun r => { r with gs := { r.gs with boot := 2#32, gen := 0xFFFFFFFE#32 } })
     s.ready 0 1 ∧ bit s.rp.gs.boot 1 = true ∧ ¬s.rp.gs.gen.toNat < 0xFFFFFFFE) ∧
    (let s := tServe 1#32 0#32 (fun r => { r with running := some true })
     s.ready 0 1 ∧ s.rp.running = some (decide (s.cores[0].w[1] = 1#32))) ∧
    (let s := tServe 1#32 0#32 (fun r => { r with running := some false })
     s.ready 0 1 ∧ s.cores[0].w[1].toNat ≤ 1 ∧ s.rp.running ≠ some (decide (s.cores[0].w[1] = 1#32)) ∧
        s.mem.ecc = []) ∧
    (let s := tServe 0#32 0#32 (fun r => { r with rollback := 1 })
     s.ready 0 1 ∧ s.mayAsk ∧ s.rp.ctr < s.rp.rollback ∧ s.pwr.main = true ∧ s.pwr.fuseSupply = true) ∧
    (let s := (tServe 0#32 0#32 fun r => { r with rollback := 1 }).onPwr (fun p => { p with fuseSupply := false })
     s.ready 0 1 ∧ s.rp.ctr < s.rp.rollback ∧ ¬(s.pwr.main = true ∧ s.pwr.fuseSupply = true)) := by
  unfold State.mayAsk
  simp only [ready_iff, accessible_iff, handles_iff, opens_iff]
  (repeat' apply And.intro) <;> decide +kernel

/-- Core 0 owns ball 0 and channel 0. -/
def tOwner (b : Word) : State :=
  ((tUp (tRegs 0#32 b 1#32)).onPin fun p => { p with ball := p.ball.set 0 0x00#32 }).onEvt fun e =>
    { e with ch := e.ch.set 0 0x0000#32 }

theorem test_witness_ServicesOfOwnershipAndKeys :
    (tOwner 0#32).mayAsk ∧ tTask.mayAsk ∧
    (tOwner 0#32).ready 0 1 ∧ (tOwner 1#32).ready 0 1 ∧ (tOwner 61#32).ready 0 1 ∧ (tOwner 62#32).ready 0 1 ∧
    (tOwner 63#32).ready 0 1 ∧ (tOwner 64#32).ready 0 1 ∧ (tOwner 95#32).ready 0 1 ∧ (tOwner 96#32).ready 0 1 ∧
    (tOwner 0xFFFFFFFF#32).ready 0 1 ∧
    claimAllowed 1 96 = false ∧ claimAllowed 1 0 = true ∧ claimAllowed 1 1 = true ∧
    bits (vget (tOwner 0#32).per.pin.ball 0 0x70#32) 4 3 = 0 ∧
    bits (vget (tOwner 0#32).per.pin.ball 1 0x70#32) 4 3 = 7 ∧
    bits (vget (tOwner 0#32).per.pin.ball 95 0x70#32) 4 3 ≠ 0 ∧
    bits (vget (tOwner 0#32).per.evt.ch 0 0x7000#32) 12 3 = 0 ∧
    4 < bits (vget (tOwner 0#32).per.evt.ch 1 0x7000#32) 12 3 ∧
    4 < bits (vget (tOwner 0#32).per.evt.ch 61 0x7000#32) 12 3 ∧
    bits (vget (tOwner 0#32).per.evt.ch 63 0x7000#32) 12 3 ≠ 0 ∧
    (∀ m < 1, bits (vget (tOwner 0#32).per.evt.ch m 0x7000#32) 12 3 ≤ 4) ∧
    (let s := (tUp (tRegs 0#32 0xFFFFFFFF#32 0#32)).onEvt (fun e => { e with ch := Vector.replicate 64 0#32 })
     s.ready 0 1 ∧ ∀ m < 62, bits (vget s.per.evt.ch m 0x7000#32) 12 3 ≤ 4) ∧
    (tServe 1025#32 0x60000FF1#32 id).ready 0 1 ∧ (tServe 1025#32 0x60000FF0#32 id).ready 0 1 ∧
    (tServe 1026#32 0#32 id).ready 0 1 ∧ (tServe 1027#32 0#32 id).ready 0 1 ∧ (tServe 1028#32 0#32 id).ready 0 1 ∧
    (tServe 1025#32 0x60000FF1#32 id).readable ((tServe 1025#32 0x60000FF1#32 id).groupOf 0) 0x60000FF1 16 = false ∧
    (tServe 1025#32 0x60000FF0#32 id).readable ((tServe 1025#32 0x60000FF0#32 id).groupOf 0) 0x60000FF0 16 = true ∧
    (∀ j < 16, inObjWindow (0x60000FF0 + j) = true) ∧ (tServe 1025#32 0x60000FF0#32 id).mem.ecc = [] ∧
    (tServe 15#32 255#32 id).ready 0 1 ∧ bit (tServe 15#32 255#32 id).cores[0].task 31 = true ∧
    (tServe 15#32 256#32 id).ready 0 1 ∧ tTask.ready 0 1 ∧ tTask.cores[0].w[2].toNat < 256 ∧
      bit tTask.cores[0].task 31 = false := by
  unfold State.mayAsk
  simp only [ready_iff, accessible_iff, handles_iff, opens_iff]
  (repeat' apply And.intro) <;> decide +kernel

/-- Core 0 waits for an answer of service `n`, and Ridgepole is as given. -/
def tAnswer (n : Nat) (a : TrapAnswer) (f : Ridgepole → Ridgepole) : State :=
  (tUp { tCore with phase := .trap, trap := some a }).onRp fun r => f { r with serving := some (0, n) }

/-- Core 0 waits for an answer, and no other core asks. -/
def tAnswers (s : State) (n : Nat) (a : TrapAnswer) : Prop :=
  s.canvasUp = true ∧ s.cores[(0 : CoreId)].phase = .trap ∧ s.cores[(0 : CoreId)].trap = some a ∧
    s.rp.serving = some (0, n) ∧ ∀ e : CoreId, s.cores[e].asked = none

theorem test_witness_ResetServicesAndAnswers :
    (tServe 2#32 0#32 id).ready 0 1 ∧ (tServe 2#32 0#32 id).mayAsk ∧ (tServe 3#32 0#32 id).ready 0 1 ∧
    bits (tServe 2#32 0#32 id).rp.gs.misc 8 2 = 2 ∧
    (let s := tServe 2#32 0#32 (fun r => { r with gs := { r.gs with misc := 0x10A#32 } })
     s.ready 0 1 ∧ bits s.rp.gs.misc 8 2 < s.cores[0].w[1].toNat) ∧
    tAnswers (tAnswer 0 ⟨0#32, 1#32, 2#32, 3#32⟩ id) 0 ⟨0#32, 1#32, 2#32, 3#32⟩ ∧
    tAnswers (tAnswer 3 ⟨0#32, 1#32, 0#32, 0#32⟩ fun r => { r with fusing := true }) 3 ⟨0#32, 1#32, 0#32, 0#32⟩ ∧
    (let s := tAnswer 3 ⟨0#32, 1#32, 0#32, 0#32⟩ fun r => { r with rollback := 1 }
     tAnswers s 3 ⟨0#32, 1#32, 0#32, 0#32⟩ ∧ s.rp.fusing = false ∧ s.rp.ctr < s.rp.rollback) ∧
    tAnswers (tAnswer 8 ⟨0#32, 1#32, 0#32, 0#32⟩ id) 8 ⟨0#32, 1#32, 0#32, 0#32⟩ ∧
    (tAnswer 8 ⟨0#32, 1#32, 0#32, 0#32⟩ id).oppBusy = false ∧
    tAnswers (tAnswer 10 ⟨0#32, 0#32, 0#32, 0#32⟩ fun r => { r with keyWrite := some 0 }) 10
      ⟨0#32, 0#32, 0#32, 0#32⟩ := by
  unfold State.mayAsk tAnswers
  simp only [ready_iff]
  (repeat' apply And.intro) <;> decide +kernel


/-! ## Commands that access a register -/

/-- Ridgepole reaches every register of a state whose core domain runs. -/
def Reaches (s : State) : Prop := ∀ o v, s.writes .ridgepole o v ∧ s.reads .ridgepole o

theorem reaches {s : State} (h : s.running = true) : Reaches s := fun _ _ => ⟨h, h⟩

/-- Canvas runs, core 0 is in thread code, and nothing else is set up. -/
def tR : State := tUp tCore

/-- Twin-skin is in force. -/
def tTwin : State := tR.onItg fun g => { g with cfg := 1#32 }

theorem test_witness_InterruptRows :
    Reaches tR ∧ tR.writes (.core 0) (ioIrq + 0x08) 0#32 ∧ tR.writes (.core 0) (ioIrq + 0x0C) 1#32 ∧
      tR.irqDead 0 = false ∧ Reaches tTwin ∧ tTwin.irqDead 3 = true ∧ tTwin.irqDead 4 = false := by
  unfold State.writes
  (repeat' apply And.intro) <;> first | exact reaches (by decide +kernel) | decide +kernel

/-- Channel 0 is Ridgepole's and selects producer 188, channel 1 is core 0's, and the settings 0, 64 and 80 name
channel 0. -/
def tEvt : State := tR.onEvt fun e =>
  { e with
    ch := (e.ch.set 0 0x40BC#32).set 1 0#32
    cons := ((e.cons.set 0 0x40#32).set 64 0x40#32).set 80 0x40#32 }

/-- Core 0 may change what setting `k` names. -/
def tOpen (k : Nat) : Bool :=
  !bit (vget tEvt.per.evt.cons k 0#32) 6 ||
    decide (bits (vget tEvt.per.evt.ch (bits (vget tEvt.per.evt.cons k 0#32) 0 6) 0x7000#32) 12 3 = 0)

theorem test_witness_RouterRows :
    Reaches tEvt ∧ bits (vget tEvt.per.evt.ch 0 0x7000#32) 12 3 = ownerOf .ridgepole ∧
      bits (vget tEvt.per.evt.ch 0 0x7000#32) 0 8 = 188 ∧
      bits (vget tEvt.per.evt.ch 1 0x7000#32) 12 3 = ownerOf (.core 0) ∧
      tEvt.writes (.core 0) (ioEvt + 8) 0#32 ∧ tEvt.writes (.core 0) (ioEvt + 0x104) 0#32 ∧
      tEvt.writes (.core 0) (ioEvt + 0x200) 0#32 ∧ tEvt.writes (.core 0) (ioEvt + 0x204) 0#32 ∧
      tEvt.writes (.core 0) (ioEvt + 0x380) 0#32 ∧ tEvt.writes (.core 0) (ioEvt + 0x3FC) 0#32 ∧
      tOpen 0 = false ∧ tOpen 1 = true ∧ tOpen 64 = false ∧ tOpen 65 = true ∧ tOpen 80 = false ∧ tOpen 95 = true := by
  unfold State.writes
  (repeat' apply And.intro) <;> first | exact reaches (by decide +kernel) | decide +kernel

/-- Bank `b` holds `r`. -/
def tBank (b : Fin 5) (r : WdnBank) : State := tR.onWdn fun w => { w with bank := w.bank.set b r }

/-- A request for an object of 4 KiB at 0x6100_0000, entry 1. -/
def tReq : WdnBank := { WdnBank.reset with objSel := 1#32, objBase := 0x61000000#32, objAttr := 4#32 }

/-- A command in progress with an outcome. -/
def tBusy (op code : Nat) : State := tBank 4 { WdnBank.reset with cmd := some ⟨op, 0, code⟩ }

/-- Object 0 is as given, task 0 uses object `n` as its stack, and bank `b` has registers for a task. -/
def tStack (e : ObjEntry) (st : TaskState) (n : Nat) (b : Fin 5) : State := tR.onWdn fun w =>
  { w with
    obj := w.obj.set 0 e
    tsk := w.tsk.set 0 { TaskEntry.empty with state := st, stack := n }
    bank := w.bank.set b { WdnBank.reset with tskCfg := 0x1000#32, objRights := 1#32 } }

theorem test_witness_WardenCommands_declare :
    Reaches (tBank 4 tReq) ∧ ((tBank 4 tReq).wdnBank 4).cmd = none ∧
      ((tBank 4 tReq).declareCheck tReq .ridgepole).isLeft = true ∧
      ((tBank 4 tReq).objAt 1).phase = .free ∧
      ((tBank 4 WdnBank.reset).declareCheck WdnBank.reset .ridgepole).isLeft = false ∧
      ((tBank 4 WdnBank.reset).objAt 0).phase ≠ .free ∧ Reaches (tBusy 1 0) ∧
      ((tBusy 1 0).wdnBank 4).cmd.isSome = true ∧
      ((tStack { tObj with owner := 8 } .free 0 0).objAt 0).owner = 8 ∧
      (tStack { tObj with owner := 8 } .free 0 0).wdnCtx (.core 0) ≠ .ridgepole ∧
      (tStack { tObj with owner := 8 } .free 0 0).writes (.core 0) ioWdn 1#32 := by
  unfold State.writes
  (repeat' apply And.intro) <;> first | exact reaches (by decide +kernel) | decide +kernel

theorem test_witness_WardenCommands_objects :
    Reaches (tStack ObjEntry.empty .free 0 4) ∧ ((tStack ObjEntry.empty .free 0 4).objAt 0).phase = .free ∧
      Reaches (tStack tObj .idle 0 4) ∧ ((tStack tObj .idle 0 4).objAt 0).phase ≠ .free ∧
      (tStack tObj .idle 0 4).wdn.isStack 0 = true ∧ (tStack tObj .idle 1 4).wdn.isStack 0 = false ∧
      Reaches (tStack tObj .idle 1 4) ∧
      Reaches (tStack { tObj with xp := false } .idle 1 4) ∧
      (BitVec.ofNat 24 (bits 4#32 0 24) &&& 0x924924#24) ≠ 0#24 ∧
      (BitVec.ofNat 24 (bits 1#32 0 24) &&& 0x924924#24) = 0#24 := by
  (repeat' apply And.intro) <;> first | exact reaches (by decide +kernel) | decide +kernel

theorem test_witness_WardenCommands_tasks :
    Reaches (tStack tObj .free 0 4) ∧ ((tStack tObj .free 0 4).tskAt 0).state = .free ∧
      bits ((tStack tObj .free 0 4).wdnBank 4).tskCfg 12 4 ≠ 0 ∧
      ((tStack tObj .free 0 4).objAt (bits ((tStack tObj .free 0 4).wdnBank 4).tskCfg 0 9)).phase ≠ .free ∧
      bit ((tStack tObj .free 0 4).objAt 0).rights 0 = true ∧ bit ((tStack tObj .free 0 4).objAt 0).rights 1 = true ∧
      bits (tR.wdnBank 4).tskCfg 12 4 = 0 ∧ (tR.tskAt 0).state = .free ∧
      Reaches (tStack tObj .idle 0 4) ∧ ((tStack tObj .idle 0 4).tskAt 0).state = .idle ∧
      Reaches (tStack tObj .running 0 4) ∧ ((tStack tObj .running 0 4).tskAt 0).state = .running ∧
      tTask.wdnCtx (.core 0) = .task 0 ∧ tTask.writes (.core 0) ioWdn 4#32 ∧ (0#4).toNat = 0 ∧ 6 < (7#4).toNat := by
  unfold State.writes
  (repeat' apply And.intro) <;> first | exact reaches (by decide +kernel) | decide +kernel

/-- Entry 0 is as given, and its command has ended. -/
def tEnd (op : Nat) (e : ObjEntry) : State := (tBusy op 0).onWdn fun w => { w with obj := w.obj.set 0 e }

theorem test_witness_WardenCommands_complete :
    (tBusy 1 6).running = true ∧ ((tBusy 1 6).wdnBank 4).cmd = some ⟨1, 0, 6⟩ ∧
      (tEnd 1 { tObj with phase := .declaring }).running = true ∧
      ((tEnd 1 { tObj with phase := .declaring }).wdnBank 4).cmd = some ⟨1, 0, 0⟩ ∧
      ((tEnd 1 { tObj with phase := .declaring }).objAt 0).phase = .declaring ∧
      ((tEnd 2 { tObj with phase := .releasing }).wdnBank 4).cmd = some ⟨2, 0, 0⟩ ∧
      ((tEnd 2 { tObj with phase := .releasing }).objAt 0).phase = .releasing ∧
      ((tEnd 2 { tObj with phase := .releasing }).objAt 0).cls ≠ .per ∧
      ((tEnd 2 { tObj with phase := .releasing, cls := .per }).objAt 0).cls = .per ∧
      ((tEnd 3 tObj).wdnBank 4).cmd = some ⟨3, 0, 0⟩ := by
  (repeat' apply And.intro) <;> decide +kernel

/-- A command of bank 4 is in progress and one of bank 0 waits. -/
def tQueue : State := (tBusy 1 6).onWdn fun w =>
  { w with bank := w.bank.set 0 { WdnBank.reset with wait := some (3, .thread) } }

/-- Under Twin-skin, with a word of the journal that cannot be corrected, a request for a PER object. -/
def tUnread (r : WdnBank) : State :=
  (tTwin.onMem fun m => { m with ecc := [(journalBase, .double)] }).onWdn fun w => { w with bank := w.bank.set 4 r }

theorem test_witness_WardenCommands_turns :
    ((tBusy 1 0).wdnBank 0).busy = false ∧ (tBusy 1 0).writes (.core 0) ioWdn 1#32 ∧
      (∃ x ∈ (tBusy 1 0).wdn.bank.toList, x.cmd.isSome = true) ∧
      (∀ x ∈ (tBank 4 tReq).wdn.bank.toList, x.cmd = none) ∧
      ((tQueue.wdnBank 0).busy = true ∧ tQueue.running = true ∧ (tQueue.wdnBank 4).cmd = some ⟨1, 0, 6⟩ ∧
        tQueue.wdnNext 4 = some (0, 3, .thread)) ∧
      (∀ k, (k < 5 → ((tBusy 1 6).wdnBank k).wait = none)) ∧
      (let r := { tReq with objAttr := 0x14#32 }
       searchesJournal r 1 = true ∧ Reaches (tUnread r) ∧ ((tUnread r).wdnBank 4).busy = false ∧
         (∀ x ∈ (tUnread r).wdn.bank.toList, x.cmd = none) ∧
         (tUnread r).readJournal.rp.mode ≠ (tUnread r).rp.mode ∧
         ((tUnread r).onMem fun m => { m with ecc := [] }).readJournal.rp.mode = (tUnread r).rp.mode) ∧
      (let r := { tReq with objAttr := 0x84#32, objLoad := 0x60000000#32 }
       let s := (tUnread r).onMem fun m => { m with ecc := [(sramBase + 0x20000, .double)] }
       searchesJournal r 1 = false ∧ ((s.declareCheck r .ridgepole).elim (fun p =>
         decide ((s.declareAt 1 r.request p).rp.mode ≠ s.rp.mode)) fun _ => false) = true) := by
  unfold State.writes
  (repeat' apply And.intro) <;> first | exact reaches (by decide +kernel) | decide +kernel

theorem test_witness_WardenRegisters_twin :
    Reaches tTwin ∧ tTwin.twin = true ∧ (0x30000#32 : Word) = BitVec.ofNat 32 (3 * 2 ^ (16 + (1 : CoreId).val / 2 * 2)) ∧
      (0xC0000#32 : Word) = BitVec.ofNat 32 (3 * 2 ^ (16 + (3 : CoreId).val / 2 * 2)) ∧
      tTwin.coreRetired 1 = false ∧ tTwin.coreRetired 3 = false := by
  (repeat' apply And.intro) <;> first | exact reaches (by decide +kernel) | decide +kernel

theorem test_witness_WardenRegisters :
    Reaches tR ∧ tR.writes (.core 0) (ioWdn + 0x80) 0#32 ∧ bits 3#32 0 2 = 3 ∧ bits 2#32 0 2 < 3 ∧
      bit tR.wdn.lim 0 = true ∧ bits 15#32 0 10 < bits tR.wdn.epochLim 0 10 ∧
      bits tR.wdn.epochLim 16 10 < bits 1001#32 0 10 ∧ bits tR.wdn.epochLim 0 10 ≤ bits 16#32 0 10 ∧
      bits 1000#32 0 10 ≤ bits tR.wdn.epochLim 16 10 ∧ tR.writes (.core 0) (ioWdn + 0x84) 15#32 ∧
      (∀ c : CoreId, bit 0#32 (16 + c.val) = true → tR.coreRetired c = true) ∧ tR.coreRetired 3 = false ∧
      (let s := tR.onWdn (fun w => { w with lim := 0x2046#32 })
       s.writes (.core 0) (ioWdn + 0x80) 0#32 ∧ bit s.wdn.lim 0 = false) := by
  unfold State.writes
  dsimp only
  (repeat' apply And.intro) <;> first | exact reaches (by decide +kernel) | decide +kernel

/-- The clocks stand as given. -/
def tClk (opp stat div : Word) (ramp : Option Nat) : State :=
  { tR with
    pwr := { tR.pwr with opp := opp }
    clk := { tR.clk with stat := stat, div := div, ramp := ramp } }

theorem test_witness_MemoryAndClockRows :
    Reaches tR ∧ tR.reads (.core 0) (ioMem + 0xC8) ∧ tR.writes (.core 0) (ioItg + 0x0C) 63#32 ∧
      Reaches (tClk 0x100#32 0x204#32 2#32 none) ∧ bits 0x100#32 4 2 = 0 ∧ divPoint (bits 0x204#32 8 2) ≤ 1 ∧
      Reaches (tClk 0x122#32 0x004#32 0#32 none) ∧ 1 < divPoint (bits 0x004#32 8 2) ∧
      Reaches (tClk 0x100#32 0x204#32 2#32 (some 1)) ∧
      bits (tClk 0x100#32 0x204#32 2#32 none).pwr.opp 0 2 < divPoint (bits 0#32 0 2) ∧
      divPoint (bits 2#32 0 2) ≤ bits (tClk 0x100#32 0x204#32 2#32 none).pwr.opp 0 2 ∧
      bits 0x102#32 4 2 < divPoint (bits 0#32 0 2) ∧ divPoint (bits 0#32 0 2) ≤ bits 0x102#32 0 2 := by
  unfold State.writes State.reads
  (repeat' apply And.intro) <;> first | exact reaches (by decide +kernel) | decide +kernel

/-- HRV holds `h`, and the device runs from the cell. -/
def tHrv (h : Hrv) (main : Bool) : State :=
  { tR with
    pwr := { tR.pwr with main := main }
    per := { tR.per with hrv := h } }

theorem test_witness_HarvestRows :
    Reaches (tHrv Hrv.reset true) ∧ bit 0#32 0 = false ∧ bit 1#32 0 = true ∧ bit Hrv.reset.ctl 0 = false ∧
      Reaches (tHrv { Hrv.reset with ctl := 1#32 } true) ∧ Reaches (tHrv { Hrv.reset with swOpen := true } false) ∧
      Reaches (tHrv { Hrv.reset with ovcOn := true } true) ∧ bit Hrv.reset.stat 23 = false ∧
      Reaches (tHrv { Hrv.reset with prot := 0x80000000#32 } true) ∧ bit 0x80000000#32 31 = true ∧
      bit Hrv.reset.prot 31 = false ∧ bit Hrv.reset.stat 25 = true ∧
      Reaches (tHrv { Hrv.reset with stat := 0#32 } true) ∧ bit 0#32 25 = false := by
  (repeat' apply And.intro) <;> first | exact reaches (by decide +kernel) | decide +kernel

/-- The calendar clock holds `r`. -/
def tRtc (r : Rtc) : State := { tR with per := { tR.per with rtc := r } }

theorem test_witness_CalendarRows :
    Reaches (tRtc Rtc.reset) ∧ (0#32 &&& 1#32) = (flagAt 0 (Rtc.reset.mode != Rtc.reset.modeDue) : Word) ∧
      (1#32 &&& 1#32) ≠ (flagAt 0 (Rtc.reset.mode != Rtc.reset.modeDue) : Word) ∧ Rtc.reset.time / 32768 < calendarEnd ∧
      Reaches (tRtc { Rtc.reset with time := calendarEnd * 32768 }) ∧ calendarEnd ≤ calendarEnd * 32768 / 32768 ∧
      Reaches (tRtc { Rtc.reset with mode := true }) ∧ tR.writes (.core 0) ioRtc 4#32 ∧ tR.reads (.core 0) (ioRtc + 0x10) := by
  unfold State.writes State.reads
  (repeat' apply And.intro) <;> first | exact reaches (by decide +kernel) | decide +kernel

/-- Channel 0 of timer 0 compares at 0 with a window. -/
def tTim : State := tR.onTim 0 fun t => { t with ch := t.ch.set 0 ⟨1#32, 0#32, 0#32, 16#32, false⟩ }

theorem test_witness_TimerRows :
    Reaches tR ∧ ¬(bits (tR.timAt 0).ch[0].ctl 0 2 = 1) ∧ Reaches tTim ∧
      (bits (tTim.timAt 0).ch[0].ctl 0 2 = 1 ∧ (tTim.timAt 0).ch[0].win ≠ 0#32 ∧
        ((tTim.timAt 0).cnt - 0xFFFFFFF1#32).toNat < (tTim.timAt 0).ch[0].win.toNat) ∧
      ¬(((tTim.timAt 0).cnt - 0xFFFFFFF0#32).toNat < (tTim.timAt 0).ch[0].win.toNat) ∧
      bits 0xC#32 2 2 = 3 ∧ bits 0x20#32 4 2 = 2 ∧ bits 0#32 4 2 = 0 := by
  (repeat' apply And.intro) <;> first | exact reaches (by decide +kernel) | decide +kernel

/-- Serial line 0 is as given. -/
def tUa (f : Ua → Ua) : State := tR.onUa 0 f

theorem test_witness_SerialRows :
    Reaches tR ∧ 16 * 2 ^ bits (tUa id).per.ua[0].qcfg 2 2 = 16 ∧
      Reaches (tUa fun u => { u with txq := List.replicate 16 0#10 }) ∧
      16 ≤ (tUa fun u => { u with txq := List.replicate 16 0#10 }).per.ua[0].txq.length ∧
      Reaches (tUa fun u => { u with txq := List.replicate 15 0#10 }) ∧
      (tUa fun u => { u with txq := List.replicate 15 0#10 }).per.ua[0].txq.length < 16 ∧
      Reaches (tUa fun u => { u with ctl := 5#32 }) ∧ bit 5#32 0 = true ∧ bit Ua.reset.ctl 0 = false ∧
      tR.reads (.core 0) (ioUa + 0x1C) ∧ tR.writes (.core 0) (ioUa + 0x20) 0#32 := by
  unfold State.writes State.reads
  (repeat' apply And.intro) <;> first | exact reaches (by decide +kernel) | decide +kernel

/-- A scan with no electrode left. -/
def tScan : Scan := ⟨[], ⟨0#32, 0#32, 0#32, 0#32, 0#32, 0#32⟩, 0, false, Vector.replicate 25 Electrode.reset, 0#25⟩

/-- The touch panel and the radio are as given. -/
def tTch (t : Tch) (r : Rf) : State := { tR with per := { tR.per with tch := t, rf := r } }

theorem test_witness_TouchAndRadioRows :
    Reaches (tTch Tch.reset Rf.reset) ∧ bits Tch.reset.ctl 0 2 = 0 ∧ Tch.reset.scan = none ∧
      Reaches (tTch { Tch.reset with ctl := 1#32 } Rf.reset) ∧ bits 1#32 0 2 ≠ 0 ∧
      Reaches (tTch { Tch.reset with ctl := 1#32, susp := true } Rf.reset) ∧
      Reaches (tTch { Tch.reset with ctl := 1#32, scan := some tScan } Rf.reset) ∧ bit Tch.reset.sync 0 = false ∧
      Reaches (tTch Tch.reset { Rf.reset with rxOn := true }) ∧ Rf.reset.rxOn = false ∧ Rf.reset.txOn = false := by
  (repeat' apply And.intro) <;> first | exact reaches (by decide +kernel) | decide +kernel

/-- Ball 0 and ball 95 are core 0's, and counter 0 counts nothing. -/
def tBall : State := tR.onPin fun p => { p with ball := (p.ball.set 0 0#32).set 95 0#32 }

theorem test_witness_CounterAndBallRows :
    Reaches tR ∧ tR.twin = false ∧ bit (tR.per.cnt.c[0]).cfg 6 = false ∧ Reaches tTwin ∧ tTwin.twin = true ∧
      (4 : Fin 24).val / 4 % 2 = 1 ∧ tBall.writes (.core 0) ioPinOut 1#32 ∧ tBall.writes (.core 0) (ioPin + 0x30) 1#32 ∧
      tBall.writes (.core 0) (ioPin + 0x100 + 4 * 95) 0#32 ∧ tBall.writes (.core 0) (ioPin + 0x100 + 4) 0x70#32 ∧
      bits (vget tBall.per.pin.ball 95 0x70#32) 4 3 = 0 ∧ bits (vget tBall.per.pin.ball 1 0x70#32) 4 3 ≠ 0 := by
  unfold State.writes
  (repeat' apply And.intro) <;> first | exact reaches (by decide +kernel) | decide +kernel


/-! ## The network engine -/

/-- The engine's set-up: a table object of 8 KiB, a receive object of 4 KiB, symbol rate 4 and slots of 250 ms. -/
def tNet (f : Net → Net) : State :=
  { tR with
    wdn := { tR.wdn with
      obj := (tR.wdn.obj.set 1 { tObj with cls := .per, base := 0x50000#20, size := 5, rights := 0#24, bank := 4 }).set 2
        { tObj with base := 0x52000#20, offs := 16 } }
    per := { tR.per with
      rf := { Rf.reset with rate := 0x2104#32 }
      net := f { Net.reset with ctl := 0x10#32, tbl := 0x65000000#32, rxobj := 0x65200000#32 } } }

/-- A node in state `st` that sends `len` bytes from 0x6000_0000. -/
def tSend (st : Word) (cfg : Word) : State :=
  tNet fun n => { n with stat := st, txcfg := cfg, txaddr := 0x60000000#32 }

/-- A queued frame. -/
def tFrame : TxFrame :=
  { typ := 1, dst := 2, bcast := false, payload := [], alarm := false, lseq := none, attempts := 0
    refused := false, own := true, last := true, tid := none, wait := 0, buf := 0, aborted := false }

/-- The premises of a SEND of `len` bytes. -/
def tBadlen (s : State) : Bool :=
  let d := s.netM - 7
  let len := bits s.per.net.txcfg 0 11
  decide (d = 0) || decide (len = 0) || decide (s.netLongest < len) || (bit s.per.net.txcfg 14 && decide (d < len))

theorem test_witness_NetworkRows_send :
    Reaches (tSend 0#32 0#32) ∧ tBadlen (tSend 0#32 0#32) = true ∧ tBadlen (tSend 3#32 1025#32) = true ∧
      Reaches (tSend 3#32 1024#32) ∧ tBadlen (tSend 3#32 1024#32) = false ∧
      ¬(tSend 3#32 1024#32).per.net.free < (1024 + 199 - 1) / 199 + 8 ∧ (tSend 3#32 1024#32).netM - 7 = 199 ∧
      (tSend 3#32 1024#32).per.net.state = 3 ∧ ((tSend 3#32 1#32).netRead 0x60000000 1).2.1 = false ∧
      (tSend 0#32 1024#32).per.net.state = 0 ∧ tBadlen (tSend 0#32 1024#32) = false ∧
      (tNet fun n => { n with txcfg := 1#32, txq := List.replicate 88 tFrame }).per.net.free < 1 + 8 ∧
      tBadlen (tNet fun n => { n with txcfg := 1#32, txq := List.replicate 88 tFrame }) = false ∧
      bits 0x1001#32 12 2 = 1 ∧ 8 ≤ (tNet fun n => { n with trans := List.replicate 8 ⟨0, 0⟩ }).per.net.trans.length ∧
      (((tSend 3#32 1#32).onMem fun m => { m with ecc := [(sramBase + 0x20000, .double)] }).netRead 0x60000000 1).2.1 =
        true := by
  (repeat' apply And.intro) <;> first | exact reaches (by decide +kernel) | decide +kernel

/-- A Basecamp with the keys of device 3 and of slots 0 and 1 as given. -/
def tBase (keys : List KeySlot) : State :=
  (tNet fun n => { n with stat := 5#32, txaddr := 3#32, txcfg := 0x30000#32, joins := [(3, 1)] }).onRp fun r =>
    { r with keys := keys }

theorem test_witness_NetworkRows_commands :
    Reaches (tNet id) ∧ Reaches (tNet fun n => { n with ctl := 0x11#32 }) ∧ bit 0x11#32 0 = true ∧ bit 0x11#32 2 = false ∧
      (tNet fun n => { n with ctl := 0x11#32 }).per.net.state = 0 ∧
      Reaches (tNet fun n => { n with ctl := 0x11#32, stat := 4#32 }) ∧
      (tNet fun n => { n with ctl := 0x11#32, stat := 4#32 }).per.net.state = 4 ∧
      (tNet fun n => { n with ctl := 0x11#32, stat := 3#32 }).per.net.state = 3 ∧
      Reaches (tBase []) ∧ (tBase []).per.net.state = 5 ∧ (tBase []).rp.key 0 = none ∧ (tBase []).rp.key 1 = none ∧
      (tBase [tKey 0 [], tKey 1 [], tKey 5 []]).rp.key (2 + bits (tBase []).per.net.txaddr 0 10) = some [] ∧
      (tBase [tKey 0 [], tKey 1 [], tKey 5 []]).rp.key (2 + bits (tBase []).per.net.txcfg 16 10) = some [] ∧
      (tBase [tKey 0 [], tKey 1 [], tKey 5 []]).rp.key 0 = some [] ∧ (tBase [tKey 0 [], tKey 1 [], tKey 5 []]).rp.key 1 = some [] ∧
      (tBase []).per.net.joins.lookup (bits (tBase []).per.net.txaddr 0 10) = some 1 ∧
      bits (tBase []).per.net.txaddr 16 11 < 1152 ∧ bits (tBase []).per.net.txaddr 16 11 % 9 ≠ 8 ∧
      (tNet id).enOk 0x11#32 = true ∧ tR.enOk 1#32 = false ∧ Reaches tR ∧ (tNet id).per.rf.txOn = false ∧
      (tNet id).per.net.await = none ∧ (tNet id).per.net.ackOn = false ∧ (tNet id).per.rf.rxOn = false ∧ bits (tNet id).per.net.id 0 10 = 0 ∧
      bits ((tNet fun n => { n with ctl := 0x11#32, id := 5#32 }).per.net.id) 0 10 ≠ 0 ∧ 18 ≤ (tNet id).netM ∧
      tR.netM < 18 ∧
      Reaches (tNet fun n => { n with ctl := 0x11#32, ackOn := true }) := by
  (repeat' apply And.intro) <;> first | exact reaches (by decide +kernel) | decide +kernel

/-! ## The Peg map, held writes and registers without a row -/

/-- The Peg port is as given. -/
def tPeg (f : Peg → Peg) : State := tR.onPeg f

theorem test_witness_PegRegisterRows :
    Reaches tR ∧ bit Peg.reset.mbstat 0 = false ∧ bit Peg.reset.mbstat 1 = false ∧
      Reaches (tPeg fun p => { p with mbstat := 3#32 }) ∧ bit 3#32 0 = true ∧ bit 3#32 1 = true ∧
      tR.writes (.core 0) (ioPeg + 4 * 0xC7) 0#32 ∧ tR.writes (.core 0) (ioPeg + 4 * 0xC8) 1#32 ∧
      (tPeg fun p => { p with mbstat := 3#32 }).writes (.core 0) (ioPeg + 4 * 0xC7) 0#32 ∧
      tR.peg.cmd.busy = false ∧ (tPeg fun p => { p with cmd := { p.cmd with busy := true } }).peg.cmd.busy = true ∧
      Reaches (tPeg fun p => { p with cmd := { p.cmd with busy := true } }) ∧ tR.pwr.strike = none ∧
      (¬∃ c : CoreId, tR.rp.serving = some (c, 2)) ∧
      (∃ c : CoreId, (tR.onRp fun r => { r with serving := some (1, 2) }).rp.serving = some (c, 2)) ∧
      gsClean tR.peg.gs = true ∧ gsClean (tPeg fun p => { p with gs := p.gs.set 7 2#32 }).peg.gs = false ∧
      Reaches (tPeg fun p => { p with gs := p.gs.set 7 2#32 }) ∧ tR.rp.gs.gen.toNat < 0xFFFFFFFE ∧
      ¬((tR.onRp fun r => { r with gs := { r.gs with gen := 0xFFFFFFFE#32 } }).rp.gs.gen.toNat < 0xFFFFFFFE) ∧
      Reaches (tR.onRp fun r => { r with gs := { r.gs with gen := 0xFFFFFFFE#32 } }) ∧
      (tR.imgSwitch 2).1.rp.mode = tR.rp.mode ∧ 1 < (2#4).toNat ∧ (1#4).toNat ≤ 1 ∧ (0#4).toNat = 0 ∧ 4 < (5#4).toNat ∧
      Reaches (tPeg fun p => { p with updOffs := 0x100000 }) ∧
      ¬(0x100000 ≤ (tPeg fun p => { p with updOffs := 0xFFFFC }).peg.updOffs) ∧
      Reaches (tPeg fun p => { p with updOffs := 0xFFFFC }) ∧ tR.rp.running ≠ some tR.peg.updImg ∧
      (tR.onRp fun r => { r with running := some false }).rp.running = some tR.peg.updImg ∧
      Reaches (tR.onRp fun r => { r with running := some false }) := by
  unfold State.writes
  (repeat' apply And.intro) <;> first | exact reaches (by decide +kernel) | decide +kernel

/-- Core 0 has `n` deferred writes in the frame. -/
def tHeld (n : Nat) : State :=
  (tWay tR).onItg fun g => { g with defer := List.replicate n ⟨.thread 0, 0, ioPin, 0#32⟩ }

theorem test_witness_WritesHeldBack :
    tR.issues 0 = true ∧ tR.ioWriteFault 0 (ioWdn + 0x88) 0#32 = some .owned ∧ ioWdn + 0x88 < 0x100000 ∧ (ioWdn + 0x88) % 4 = 0 ∧
      tR.ioWriteFault 0 (ioIrq + 0x400) 0#32 = some .region ∧ tR.handles 0 3 ∧
      (tHeld 63).issues 0 = true ∧ (tHeld 63).ioWriteFault 0 ioPin 0#32 = none ∧ (tHeld 63).waymark = true ∧
      waymarkBlock ioPin = true ∧ ioPin < 0x100000 ∧ ioPin % 4 = 0 ∧
      ((tHeld 63).itg.defer.filter fun d => decide (d.writer = (tHeld 63).writerOf 0)).length = 63 ∧
      (tHeld 64).issues 0 = true ∧ (tHeld 64).ioWriteFault 0 ioPin 0#32 = none ∧ (tHeld 64).waymark = true ∧
      ((tHeld 64).itg.defer.filter fun d => decide (d.writer = (tHeld 64).writerOf 0)).length = 64 := by
  simp only [ready_iff, accessible_iff, handles_iff, opens_iff]
  (repeat' apply And.intro) <;> decide +kernel

theorem test_witness_RegistersWithoutRow :
    Reaches tR ∧ tR.writes (.core 0) (ioTim + 0x100 * 11 + 0x20 + 0x10 * 3 + 0xC) 1#32 ∧
      tR.writes (.core 0) (ioCnt + 0x04) 1#32 ∧ tR.twin = false ∧ Reaches tTwin := by
  unfold State.writes
  (repeat' apply And.intro) <;> first | exact reaches (by decide +kernel) | decide +kernel

theorem test_witness_HostRows : (16 : Fin 24).val = 16 ∧ (15 : Fin 24).val < 16 ∧ (0#4).toNat = 0 ∧ 4 < (15#4).toNat := by
  decide

/-! ## Events of the station engine -/

/-- Event 5 is in the resynchronisers, channel 0 is core 0's and selects it, and its source is enabled. -/
def tFire : State :=
  { (tR.onEvt fun e => { e with ch := e.ch.set 0 0x105#32 }) with
    inflight := [⟨5, 0, []⟩]
    irq := tR.irq.set 0 { IrqBank.reset with en := BitVec.twoPow 128 64 } }

/-- Core 0 waits. -/
def tWait : State := tUp { tCore with phase := .wait }

/-- Task 1 is ready for core 0, with object 0 as its stack. -/
def tReady : State := tWait.onWdn fun w =>
  { w with tsk := w.tsk.set 1 { TaskEntry.empty with state := .ready, aff := 1#4 } }

theorem test_witness_ChannelsAndDispatch :
    tR.running = true ∧ tR.inflight = [] ∧ bit tR.per.evt.ch[0] 8 = false ∧
      tFire.running = true ∧ bits tFire.per.evt.ch[0] 0 8 = 5 ∧ ⟨5, 0, []⟩ ∈ tFire.inflight ∧ (∀ f ∈ tFire.inflight, f.ev ≠ 1000) ∧
      bit tFire.per.evt.ch[0] 8 = true ∧ bits tFire.per.evt.ch[0] 12 3 = 0 ∧
      bit (vget tFire.irq 0 IrqBank.reset).en 64 = true ∧ bit (vget tFire.irq 0 IrqBank.reset).act 64 = false ∧
      tR.canvasUp = true ∧ (∀ j < 64, (tR.tskAt j).state ≠ .ready) ∧
      tReady.canvasUp = true ∧ tReady.waymark = false ∧ (tReady.tskAt 1).state = .ready ∧ (tReady.tskAt 1).prio < 8 ∧
      (∀ j < 64, j ≠ 1 → (tReady.tskAt j).state ≠ .ready) ∧ tReady.affine (tReady.tskAt 1) 0 = true ∧
      tReady.freeCore 0 = true ∧ (∀ d : CoreId, d ≠ 0 → tReady.affine (tReady.tskAt 1) d = false) := by
  (repeat' apply And.intro) <;> decide +kernel

/-- Object 0 moves, or waits to move, from SB4 to SB5. -/
def tMig : Migration := ⟨0, 21, 0⟩

theorem test_witness_EpochsAndMigrations :
    tWait.running = true ∧ tWait.allWaiting = true ∧ tR.running = true ∧ tR.allWaiting = false ∧ tR.wdn.mig = none ∧
      tR.wdn.queue = [] ∧ (tR.onWdn fun w => { w with queue := [tMig] }).wdn.queue = tMig :: [] ∧
      (tR.onWdn fun w => { w with queue := [tMig] }).allWaiting = false ∧
      (let s := tR.onWdn (fun w => { w with mig := some tMig })
       s.running = true ∧ s.wdn.mig = some tMig ∧ tMig.bank = 21 ∧ bit s.mm.sbPwr (tMig.bank - 16) = true ∧
         bit (s.onMm fun r => { r with sbPwr := 0#32 }).mm.sbPwr (tMig.bank - 16) = false ∧ tMig.obj < 512 ∧ (s.objAt tMig.obj).phase = .live ∧ s.mem.ecc = [] ∧
         5 ≤ tMig.bank ∧ tMig.bank < 49 ∧ 256 * tMig.offs + 256 * 2 ^ (s.objAt tMig.obj).size ≤ bankBytes tMig.bank) ∧
      (let s := (tR.onWdn (fun w => { w with mig := some tMig })).onMem
         (fun m => { m with ecc := [(sramBase + 0x20000, .double)] })
       s.running = true ∧ s.wdn.mig = some tMig ∧ bit s.mm.sbPwr (tMig.bank - 16) = true ∧ s.badWords (s.migSource tMig) (s.migBytes tMig) = [sramBase + 0x20000] ∧
         (s.mem.eccOf (sramBase + 0x20000)).any uncorrectable = true) := by
  dsimp only
  (repeat' apply And.intro) <;> decide +kernel

theorem test_witness_MemoryEvents :
    tR.running = true ∧ bit tR.mm.sbOn 31 = true ∧ (State.reset).running = true ∧ bit State.reset.mm.sbOn 0 = false ∧
      tR.mem.eccOf (mramBase + 8 * tR.mm.scrub) = none ∧ (tR.mm.scrub + 1) % 2 ^ 20 ≠ 0 ∧
      (let s := tR.onMm (fun r => { r with scrub := 2 ^ 20 - 1 })
       s.running = true ∧ (s.mm.scrub + 1) % 2 ^ 20 = 0 ∧ s.mem.eccOf (mramBase + 8 * s.mm.scrub) = none) ∧
      (0#32).toNat ∉ tR.mem.writeback ∧
      (let s := tR.onMem (fun m => { m with writeback := [sramBase] })
       s.running = true ∧ (BitVec.ofNat 32 sramBase).toNat ∈ s.mem.writeback ∧
         (BitVec.ofNat 32 sramBase).toNat % eccSize (BitVec.ofNat 32 sramBase).toNat = 0) := by
  dsimp only
  (repeat' apply And.intro) <;> decide +kernel

/-- A ball that drives its level on a bank that is present. -/
def tDrives : State :=
  (tR.onPin fun p => { p with ball := p.ball.set 5 0x01#32, out := setBit p.out 5 true }).onItg fun g =>
    { g with cfg := 0x10#32, stat := 0x60#32 }

theorem test_witness_IntegrityEvents :
    let strike := fun s : State => s.onPwr fun p => { p with strike := some ⟨.entry, 0#32, 0#32, false⟩ }
    ¬(tR.pwr.state = .awake ∧ tR.rp.mode = .up ∧ tR.twin = true) ∧
      (tTwin.pwr.state = .awake ∧ tTwin.rp.mode = .up ∧ tTwin.twin = true) ∧
      ((strike tTwin).pwr.state = .awake ∧ (strike tTwin).rp.mode = .up ∧ (strike tTwin).twin = true) ∧
      ¬(tR.canvasUp = true ∧ tR.twin = true) ∧ tTwin.canvasUp = true ∧ tTwin.twin = true ∧ tR.running = true ∧
      (strike tR).pwr.state = .awake ∧ tR.twin = false ∧ bit tR.itg.stat 5 = false ∧ bit tDrives.itg.stat 5 = true ∧
      bit tDrives.itg.stat 6 = true ∧ bit tDrives.itg.cfg 4 = true ∧ tDrives.per.pin.isOutput 5 = true ∧
      driveLevel tDrives 5 ≠ none ∧ tDrives.twin = false ∧ bit tR.itg.cfg 4 = false ∧
      tR.pwr.vio1 = true ∧ (tR.onPwr fun p => { p with vio2 := false }).pwr.vio2 = false := by
  dsimp only
  (repeat' apply And.intro) <;> decide +kernel

theorem test_witness_WatchdogEvents :
    tR.rp.wdog = 0 ∧
      (let s := tR.onRp (fun r => { r with wdog := 1, wdogLeft := 0 })
       s.pwr.state = .awake ∧ s.rp.mode = .up ∧ s.rp.wdog ≠ 0 ∧ s.rp.wdogLeft = 0 ∧
         (∀ c : CoreId, s.cores[c].halted = false) ∧ s.pwr.strike = none ∧
         (s.onPwr fun p => { p with strike := some ⟨.entry, 0#32, 0#32, false⟩ }).pwr.strike =
           some ⟨.entry, 0#32, 0#32, false⟩) ∧
      tR.pwr.state = .awake ∧ tR.pwr.strike = none ∧
      (let s := tR.onPwr (fun p => { p with strike := some ⟨.entry, 0#32, 0#32, false⟩ })
       s.pwr.state = .awake ∧ s.pwr.strike = some ⟨.entry, 0#32, 0#32, false⟩) ∧
      (tR.onPwr fun p => { p with state := .bivouac }).pwr.state ≠ .awake ∧ tR.running = true := by
  dsimp only
  (repeat' apply And.intro) <;> decide +kernel

/-- Ridgepole allows debugging with a key, and the Trail mailbox is as given. -/
def tTrail (t : Trail) : State := tR.onRp fun r => { r with dbgen := true, keys := [tKey 1027 []], trail := t }

theorem test_witness_TrailEvents :
    (tTrail Trail.reset).running = true ∧ (tTrail Trail.reset).rp.trail.locked = false ∧
      (tTrail Trail.reset).twin = false ∧ (tTrail Trail.reset).rp.dbgen = true ∧
      (tTrail Trail.reset).rp.key 1027 = some [] ∧ (tTrail { Trail.reset with locked := true }).rp.trail.locked = true ∧
      (tTrail Trail.reset).rp.trail.isOpen = false ∧
      (tTrail { Trail.reset with isOpen := true, scope := 1#32 }).rp.trail.isOpen = true ∧
      bit (tTrail { Trail.reset with isOpen := true, scope := 1#32 }).rp.trail.scope 0 = true ∧
      bit (tTrail { Trail.reset with isOpen := true, scope := 1#32 }).rp.trail.scope 3 = false ∧
      ∃ k resp, (tTrail Trail.reset).rp.key 1027 = some k ∧
        resp = hmac k ((tTrail Trail.reset).rp.trail.chal ++ uidBytes ++ bytesOf (0#32 &&& 0xF#32)) := by
  (repeat' apply And.intro) <;> first | exact ⟨_, _, rfl, rfl⟩ | decide +kernel

/-- A session over core 0, which is halted. -/
def tDebug : State :=
  (tTrail { Trail.reset with isOpen := true, scope := 1#32 }).onCore 0 fun k => { k with halted := true }

theorem test_witness_TrailEvents_words :
    let g := tDebug.onCore 0 fun k => { k with task := 0x80000000#32 }
    (tTrail Trail.reset).rp.mode = .up ∧ ((tTrail Trail.reset).onRp fun r => { r with mode := .halted }).rp.mode = .halted ∧
      tDebug.running = true ∧ tDebug.rp.trail.isOpen = true ∧ bit tDebug.rp.trail.scope 0 = true ∧
      tDebug.twin = false ∧ tDebug.cores[0].halted = true ∧
      bankOf (tDebug.physical 0x60000010) ≠ some 0 ∧ bankOf (tDebug.physical 0x60000010) = some 20 ∧
      g.accessible 0 true false 0x60000010 4 ∧ g.storable 0 0x60000010 4 := by
  refine ⟨?_, ?_, ?_, ?_, ?_, ?_, ?_, ?_, ?_, ?_, storable_plain ?_ rfl ?_⟩ <;>
    (try simp only [accessible_iff]) <;> decide +kernel

theorem test_witness_FrameBoundaries :
    ¬(tR.canvasUp = true ∧ tR.waymark = true) ∧ (tWay tR).canvasUp = true ∧ (tWay tR).waymark = true ∧
      bit (tWay tR).cores[0].task 31 = true ∧ bit (tWay tTask).cores[0].task 31 = false ∧
      (tWay tTask).cores[0].phase ≠ .off ∧ (tWay tTask).canvasUp = true ∧ (tWay tTask).waymark = true ∧
      (tHeld 1).overrunners = [] ∧ (tHeld 1).itg.defer = [⟨.thread 0, 0, ioPin, 0#32⟩] ∧
      Writer.thread 0 ∈ writersInOrder ∧ (tHeld 1).itg.rcRead = [] := by
  (repeat' apply And.intro) <;> decide +kernel


/-! ## Events of the supplies, the clocks and the harvest manager -/

/-- The supplies are as given. -/
def tPwr (f : Pwr → Pwr) : State := tR.onPwr f

/-- A Strike for entering Bivouac. -/
def tStrike : Strike := ⟨.entry, 0#32, 0#32, false⟩

/-- No core runs, and the idle timer is set. -/
def tIdle : State := (tUp { tCore with phase := .wait }).onPwr fun p => { p with ticks := 1#16 }

theorem test_witness_StrikeAndWakeEvents :
    ¬(tR.pwr.ticks ≠ 0#16) ∧ tIdle.running = true ∧ tIdle.pwr.ticks ≠ 0#16 ∧ tIdle.mayCount = true ∧
      tIdle.waymark = false ∧ tR.pwr.strike = none ∧ tR.mem.ecc = [] ∧
      (tPwr fun p => { p with strike := some tStrike }).pwr.strike = some tStrike ∧
      (tPwr fun p => { p with strike := some { tStrike with causes := 2#32 } }).pwr.strike =
        some { tStrike with causes := 2#32 } ∧ bit tR.mm.dirty 255 = true ∧
      (tPwr fun p => { p with strike := some { tStrike with wake := 1#32 } }).pwr.strike =
        some { tStrike with wake := 1#32 } ∧
      (tPwr fun p => { p with strike := some { tStrike with kind := .final } }).pwr.strike =
        some { tStrike with kind := .final } ∧
      (tPwr fun p => { p with strike := some { tStrike with mainLost := true } }).pwr.strike =
        some { tStrike with mainLost := true } ∧
      bit tR.pwr.wakeEn 0 = false ∧ bit tR.pwr.wakeEn 10 = true ∧ tR.per.net.timing = false ∧
      (tNet fun n => { n with timing := true }).per.net.timing = true ∧ bit tR.pwr.wakePin 0 = false ∧
      bit (tPwr fun p => { p with wakePin := 0x80008000#32 }).pwr.wakePin 31 = true ∧ tR.pwr.state ≠ .bivouac ∧
      (tPwr fun p => { p with state := .bivouac }).pwr.state = .bivouac ∧
      (tPwr fun p => { p with state := .bivouac }).pwr.strike = none := by
  (repeat' apply And.intro) <;> decide +kernel

/-- A wake from Bivouac whose reset has not been released. -/
def tWaking : State := State.reset.onPwr fun p => { p with cause := 8#32, wakeSrc := 0x01000002#32 }

theorem test_witness_StrikeAndWakeEvents_waking :
    tWaking.running = true ∧ tWaking.rp.mode = .cold ∧ tWaking.pwr.cause = 8#32 ∧ tWaking.waking = true ∧
      tWaking.pwr.wakeSrc ≠ 0#32 ∧ bit (tWaking.onPwr fun p => { p with wakePin := 1#32 }).pwr.wakePin 0 = true ∧
      bit tWaking.pwr.wakeSrc 5 = false ∧ tWaking.pwr.strike = none ∧ tWaking.pwr.state = .awake ∧ tR.waking = false := by
  (repeat' apply And.intro) <;> decide +kernel

/-- The Groundsheet that the boot of a fresh part takes. -/
theorem test_gs_fresh : gsChoose Memory.reset = none := by decide +kernel

theorem test_witness_BootEvents :
    State.reset.running = true ∧ State.reset.rp.mode = .cold ∧ State.reset.wdn.retiring = 0#50 ∧
      State.reset.pwr.cause ≠ 8#32 ∧ State.reset.mem.ecc = [] ∧ State.reset.rp.itgPend = none ∧
      State.reset.rp.stoppedRec = false ∧ bit Groundsheet.default.boot 1 = false ∧ tR.rp.mode ≠ .cold ∧
      bit State.reset.rp.retire 16 = false ∧ bit Groundsheet.default.sel 0 = false ∧
      (let s := (State.reset.onPwr (fun p => { p with cause := 8#32 })).onRp (fun r => { r with record := some ⟨false, 0#32⟩ })
       s.running = true ∧ s.rp.mode = .cold ∧ s.wdn.retiring = 0#50 ∧ s.pwr.cause = 8#32 ∧
         s.rp.record = some ⟨false, 0#32⟩) ∧
      (let s := State.reset.onRp (fun r => { r with itgPend := some ⟨3, 0⟩ })
       s.running = true ∧ s.rp.mode = .cold ∧ s.rp.itgPend = some ⟨3, 0⟩ ∧ s.mem.ecc = []) := by
  dsimp only
  (repeat' apply And.intro) <;> decide +kernel

/-- CHARGE lies above Reserve and a cell is connected. -/
def tCell (f : Pwr → Pwr) : State :=
  { tR with
    pwr := f { tR.pwr with cell := true }
    per := { tR.per with hrv := { Hrv.reset with lchg := 21 } } }

theorem test_witness_SupplyEvents :
    tR.pwr.state ≠ .unpowered ∧ (tPwr fun p => { p with state := .unpowered }).pwr.state = .unpowered ∧
      tR.pwr.strike = none ∧ (tPwr fun p => { p with strike := some tStrike }).pwr.strike = some tStrike ∧
      (tPwr fun p => { p with strike := some tStrike }).pwr.state ≠ .unpowered ∧ tR.pwr.state ≠ .held ∧
      (tPwr fun p => { p with state := .held }).pwr.state = .held ∧
      ((tCell id).pwr.cell = true ∧ (tCell id).per.hrv.switchOpen = false) ∧ tR.pwr.cell = false ∧
      2048 ≤ 8 * tR.mm.dirtyLines.length ∧ tR.pwr.main = true ∧
      (tPwr fun p => { p with main := false }).pwr.main = false ∧
      ((tCell id).per.hrv.res < (tCell id).per.hrv.lchg ∧ (tCell id).pwr.main = true) ∧
      ¬(tR.per.hrv.res < tR.per.hrv.lchg) ∧ tR.pwr.state = .awake ∧ tR.wdn.mig = none ∧
      ((tPwr fun p => { p with state := .bivouac }).pwr.main = true ∧
        (tPwr fun p => { p with state := .bivouac }).pwr.state ≠ .awake) ∧
      (tPwr fun p => { p with main := false, strike := some { tStrike with kind := .drain } }).pwr.strike =
        some { tStrike with kind := .drain } ∧
      ((tPwr fun p => { p with main := false, state := .depleted }).pwr.state = .depleted ∧
        (tPwr fun p => { p with main := false, state := .depleted }).pwr.strike = none) ∧
      (tPwr fun p => { p with main := false }).pwr.state ≠ .bivouac ∧ bit tR.itg.stat 5 = false ∧
      (bit (tR.onItg fun g => { g with stat := 0x60#32 }).itg.stat 5 = true ∧
        bit (tR.onItg fun g => { g with stat := 0x60#32 }).itg.stat 6 = true ∧
        (tR.onItg fun g => { g with stat := 0x60#32 }).running = true) := by
  (repeat' apply And.intro) <;> decide +kernel

/-- Ridgepole blows a fuse, writes a key and the Porch has no cell. -/
def tFuses : State := (tR.onRp fun r => { r with rollback := 1, fusing := true, keyWrite := some 5, keys := [tKey 5 []] })

theorem test_witness_SupplyEvents_writes :
    (tFuses.rp.fusing = true ∧ tFuses.rp.ctr ≤ tFuses.rp.rollback) ∧ tFuses.rp.keyWrite = some 5 ∧
      tFuses.pwr.strike = none ∧ ¬(tFuses.pwr.cell = true ∧ tFuses.per.hrv.switchOpen = false) ∧
      tFuses.pwr.state ≠ .unpowered ∧ tR.rp.fusing = false ∧ tWaking.waking = true ∧
      (let s := tWaking.onPwr fun p => { p with main := false }
       s.pwr.main = false ∧ s.pwr.strike = none ∧ s.pwr.state ≠ .depleted ∧ s.pwr.state ≠ .bivouac ∧
         bit (s.onPwr fun p => { p with wakeEn := 0#32 }).pwr.wakeEn 10 = false) ∧
      (bit (tR.onItg fun g => { g with stat := 0x60#32 }).itg.stat 5 = true ∧ tR.pwr.state = .awake) := by
  (repeat' apply And.intro) <;> decide +kernel

/-- The clocks are as given. -/
def tOsc (f : Clk → Clk) : State := tR.onClk f

theorem test_witness_ClockAndCalendarEvents :
    tR.pwr.state ≠ .unpowered ∧ bit (tOsc fun k => { k with stat := 0x204#32 }).clk.stat 0 = false ∧
      bit (tOsc fun k => { k with stat := 0x205#32 }).clk.stat 0 = true ∧
      (tPwr fun p => { p with state := .unpowered }).pwr.state = .unpowered ∧ tR.running = true ∧
      (10789 ≤ 10789 ∧ 10811 ≤ 10811) ∧ (10800 : Nat) ≠ 10789 ∧ tR.clk.ramp = none ∧
      (tOsc fun k => { k with ramp := some 0 }).clk.ramp = some 0 ∧ (tOsc fun k => { k with ramp := some 0 }).pwr.vpt = 0 ∧
      (tOsc fun k => { k with ramp := some 3 }).clk.ramp = some 3 ∧ tR.clk.divReq = tR.clk.divNow ∧
      ((tOsc fun k => { k with stat := 0x104#32 }).clk.divReq ≠ (tOsc fun k => { k with stat := 0x104#32 }).clk.divNow ∧
        divPoint (tOsc fun k => { k with stat := 0x104#32 }).clk.divReq ≤ tR.pwr.vnow ∧ tR.pwr.vpt = tR.pwr.vnow) ∧
      tR.pwr.vnow < divPoint (tOsc fun k => { k with div := 0#32 }).clk.divReq ∧
      bit (tR.per.rtc.alarm 0).ctl 0 = false ∧
      bit ((tRtc { Rtc.reset with alm := Vector.replicate 2 ⟨0#32, 0#32, 1#32⟩ }).per.rtc.alarm 1).ctl 0 = true ∧
      bit tR.per.rtc.per (4 + (2 : Fin 3)) = false ∧ bit (tRtc { Rtc.reset with per := 0x70#32 }).per.rtc.per (4 + (2 : Fin 3)) = true ∧
      (tRtc { Rtc.reset with per := 0x70#32 }).running = true ∧ tR.per.rtc.amt = 0 ∧
      (tRtc { Rtc.reset with slew := 0x400001#32 }).per.rtc.amt ≠ 0 := by
  (repeat' apply And.intro) <;> decide +kernel

theorem test_witness_HarvestEvents :
    (tPwr fun p => { p with state := .unpowered }).pwr.state = .unpowered ∧ tR.running = true ∧
      tR.pwr.state ≠ .unpowered ∧ bit tR.per.hrv.stat 2 = false ∧
      (let s := tHrv { Hrv.reset with stat := 4#32, lchg := 20 } false
       s.running = true ∧ bit s.per.hrv.stat 2 = true ∧ s.per.hrv.level 0 ≤ 20 ∧ s.pwr.main = false) ∧
      Hrv.reset.sampling = false ∧ (tHrv { Hrv.reset with sampling := true } true).per.hrv.sampling = true ∧
      bit Hrv.reset.prot 7 = false ∧ bit (0x9E#32) 7 = true ∧ (-128 : Int) ≤ -128 ∧ (127 : Int) ≤ 127 ∧
      bit Hrv.reset.ctl 1 = false ∧ bit (tHrv { Hrv.reset with ctl := 6#32 } true).per.hrv.ctl 2 = true ∧
      (tHrv { Hrv.reset with ctl := 6#32 } true).pwr.main = true ∧ Hrv.reset.measA = false ∧
      (tHrv { Hrv.reset with measA := true, measB := true } true).per.hrv.measB = true ∧
      (tHrv Hrv.reset false).pwr.main = false ∧ (tHrv Hrv.reset false).pwr.strike = none ∧
      (tHrv Hrv.reset false).pwr.state = .awake ∧
      (tPwr fun p => { p with main := false, strike := some tStrike }).pwr.strike = some tStrike ∧
      (tPwr fun p => { p with main := false, state := .bivouac }).pwr.state ≠ .awake := by
  dsimp only
  (repeat' apply And.intro) <;> decide +kernel

theorem test_witness_ClockAndHarvest_clauses :
    tR.pwr.state = .awake ∧ bit (tOsc fun k => { k with stat := 0x205#32 }).clk.stat 0 = true ∧ tR.clk.alone = false ∧
      ((tOsc fun k => { k with ramp := some 2, alone := true }).clk.alone = true ∧
        (tOsc fun k => { k with ramp := some 2, alone := true }).clk.ramp = some 2) ∧
      bit tR.pwr.wakeEn 2 = false ∧ tWaking.waking = true ∧ tR.waking = false ∧
      (let h : Hrv := { Hrv.reset with ctl := 6#32, measA := true }
       bit (tHrv h true).per.hrv.ctl 1 = true ∧ (tHrv h true).pwr.main = true ∧ h.charger = 0 ∧ h.regA < 5 ∧
         ¬(h.regA < 0)) ∧
      (let s := (tHrv { Hrv.reset with ocOn := true } false).onPwr fun p =>
         { p with strike := some { tStrike with kind := .final } }
       s.per.hrv.ocOn = true ∧ s.pwr.strike = some { tStrike with kind := .final } ∧ s.pwr.main = false) := by
  (repeat' apply And.intro) <;> decide +kernel

/-- Timer 0 runs from PCLK, and its channel 0 compares. -/
def tRun : State := tR.onTim 0 fun t => { t with ctl := 0x41#32, ch := t.ch.set 0 ⟨1#32, 5#32, 0#32, 0#32, false⟩ }

/-- Counter 0 counts source 1. -/
def tCnt : State := tR.onCnt fun q => { q with c := q.c.set 0 { q.c[0] with cfg := 0x41#32 } }

theorem test_witness_TimerAndBallEvents :
    timRuns tR tR.per.tim[0] = false ∧ tRun.running = true ∧ timRuns tRun tRun.per.tim[0] = true ∧
      bits tRun.per.tim[0].ch[0].ctl 0 2 = 1 ∧ bits tRun.per.tim[0].ch[1].ctl 0 2 ≠ 1 ∧
      bit tR.per.cnt.c[0].cfg 6 = false ∧ tCnt.running = true ∧ tCnt.twin = false ∧ bit tCnt.per.cnt.c[0].cfg 6 = true ∧
      bit tCnt.per.cnt.c[0].cfg 7 = false ∧ bits tCnt.per.cnt.c[0].cfg 0 6 ≠ 0 ∧
      ballLevel (tR.onPin fun p => { p with lvl := setBit p.lvl 95 false }) 95 = bit tR.per.pin.inp 95 ∧
      ballLevel (tR.onPin fun p => { p with lvl := setBit p.lvl 5 true }) 5 ≠ bit tR.per.pin.inp 5 ∧
      bits (tR.per.pin.cfg 5) 10 2 = 0 ∧
      bits ((tR.onPin fun p => { p with ball := p.ball.set 5 0xC70#32 }).per.pin.cfg 5) 10 2 = 3 := by
  (repeat' apply And.intro) <;> decide +kernel

/-- Pin 3 wakes on a rise, after a debounce of `d` ticks. -/
def tPin (d : Nat) (on : Bool) (state : PowerState) : State :=
  (tR.onPin fun p => { p with lvl := setBit p.lvl 3 false, inp := setBit p.inp 3 false }).onPwr fun p =>
    { p with state := state, wakeEn := field 16 d, wakePin := if on then 0xFFFF#32 else 0#32 }

theorem test_witness_TimerAndBallEvents_wakes :
    let l := fun s : State => ballLevel (s.onPin fun p => { p with lvl := setBit p.lvl 3 true }) 3
    let b := tPin 0 true .bivouac
    (3 < 16 ∧ l b ≠ ballLevel b 3 ∧ b.pwr.state ≠ .unpowered ∧ bits b.pwr.wakeEn 16 4 = 0 ∧
        bit b.pwr.wakePin (if l b then 3 else 19) = true ∧ b.pwr.strike = none ∧ b.pwr.state = .bivouac ∧
        b.running = false) ∧
      bit (tPin 0 false .bivouac).pwr.wakePin 3 = false ∧ bits (tPin 15 true .bivouac).pwr.wakeEn 16 4 ≠ 0 ∧
      (l (tPin 0 true .awake) ≠ bit (tPin 0 true .awake).per.pin.inp 3 ∧ (tPin 0 true .awake).running = true) := by
  dsimp only
  (repeat' apply And.intro) <;> decide +kernel

/-! ## Serial, touch and radio events -/

/-- Serial line 0 receives and sends, and is as given. -/
def tSer (f : Ua → Ua) : State :=
  (tR.onUa 0 fun u => f { u with ctl := 0x17#32 }).onPin fun p => { p with ball := p.ball.set 49 5#32 }

theorem test_witness_SerialEvents :
    let hear := fun s : State => s.running = true ∧ bit s.per.ua[0].ctl 0 = true ∧ bit s.per.ua[0].ctl 1 = true ∧
      s.per.pin.func 49 = 5 ∧ s.per.pin.owner 49 < 4 ∧ ¬(bit s.per.ua[0].ctl 13 = true ∧ s.per.ua[0].deOn = true)
    let q := fun n : Nat => tSer fun u => { u with rxq := List.replicate n 0#12 }
    let sends := fun l : List (BitVec 10) => tSer fun u => { u with shift := some 0#10, txq := l }
    bit tR.per.ua[0].ctl 0 = false ∧ hear (q 15) ∧ ¬16 * 2 ^ bits (q 15).per.ua[0].qcfg 0 2 ≤ (q 15).per.ua[0].rxq.length ∧
      hear (q 16) ∧ 16 * 2 ^ bits (q 16).per.ua[0].qcfg 0 2 ≤ (q 16).per.ua[0].rxq.length ∧
      (q 0).per.ua[0].rxBusy = false ∧ hear (tSer fun u => { u with rxBusy := true }) ∧ (q 0).per.ua[0].idleArm = false ∧
      (tSer fun u => { u with idleArm := true }).per.ua[0].idleArm = true ∧ (q 0).per.ua[0].shift = none ∧
      (sends [1#10]).per.ua[0].shift ≠ none ∧ (sends [1#10]).per.ua[0].txq ≠ [] ∧
      bit (sends [1#10]).per.ua[0].ctl 2 = true ∧ bit (sends [1#10]).per.ua[0].ctl 10 = false ∧
      (sends []).per.ua[0].shift ≠ none ∧ (sends []).per.ua[0].txq = [] ∧ (q 0).per.ua[0].lagging = false ∧
      (tSer fun u => { u with lagging := true }).per.ua[0].lagging = true := by
  dsimp only
  (repeat' apply And.intro) <;> decide +kernel

theorem test_witness_SerialEvents_legacy :
    let s := tSer fun u => { u with ctl := 0x1F#32, rxBusy := true }
    s.running = true ∧ bit s.per.ua[0].ctl 3 = true ∧ s.per.ua[0].rxBusy = true ∧ s.per.pin.func 49 = 5 ∧
      s.per.pin.owner 49 < 4 ∧ bit s.per.ua[0].ctl 13 = false ∧ bits s.per.ua[0].ctl 6 3 = 0 ∧ bit s.per.ua[0].ctl 9 = false ∧
      bit (tSer id).per.ua[0].ctl 3 = false ∧ bits (tSer fun u => { u with ctl := 0x57#32 }).per.ua[0].ctl 6 3 ≠ 0 := by
  dsimp only
  (repeat' apply And.intro) <;> decide +kernel

/-- The touch block is enabled, and as given. -/
def tPad (f : Tch → Tch) : State := tR.onTch fun t => f { t with ctl := 0x21#32 }

/-- A scan with the electrodes of `l` left. -/
def tPass (l : List Nat) (waits : Bool) : Option Scan :=
  some ⟨l, ⟨0x21#32, 0#32, 0x10064#32, 0x10064#32, 0x10000#32, 0#32⟩, 0, waits, Tch.reset.el, 0#25⟩

theorem test_witness_TouchEvents :
    (tPad id).running = true ∧ State.reset.running = true ∧ (tPwr fun p => { p with state := .unpowered }).running = false ∧
      (tPwr fun p => { p with state := .unpowered }).pwr.state ≠ .bivouac ∧ bits tR.per.tch.ctl 0 2 ≠ 1 ∧
      bits (tPad id).per.tch.ctl 0 2 = 1 ∧ (tPad id).per.tch.scan = none ∧ (tPad id).per.tch.susp = false ∧
      bit (tPad id).per.tch.sync 0 = false ∧ (tPad fun t => { t with susp := true }).per.tch.susp = true ∧
      (bit (tPad fun t => { t with sync := 1#32 }).per.tch.sync 0 = true ∧
        (tPad fun t => { t with sync := 1#32 }).per.tch.free = false ∧
        (tPad fun t => { t with sync := 1#32 }).per.tch.scan = none) ∧
      ((tPad fun t => { t with sync := 1#32, scan := tPass [24] true }).per.tch.scan = tPass [24] true ∧
        (tPad fun t => { t with sync := 1#32, scan := tPass [24] true }).per.tch.free = false) ∧
      (tPad fun t => { t with scan := tPass [24] false }).per.tch.scan = tPass [(24 : Fin 25).val] false ∧
      (tPad fun t => { t with scan := tPass [] false }).per.tch.scan = tPass [] false ∧
      (tPad fun t => { t with scan := tPass [] false }).per.tch.due = false ∧ bits 0x10000#32 16 8 ≠ 0 ∧
      ([24] : List Nat).head? ≠ some (3 : Fin 25).val := by
  (repeat' apply And.intro) <;> decide +kernel

theorem test_witness_TouchEvents_asleep :
    let b := (tPad fun t => { t with biv := true }).onPwr fun p => { p with state := .bivouac }
    let e := (tPad id).onPwr fun p => { p with wakeEn := 0x10#32, strike := some ⟨.entry, 0#32, 0#32, false⟩ }
    (b.pwr.state = .bivouac ∧ b.per.tch.biv = true) ∧
      ((∃ k, e.pwr.strike = some k ∧ k.kind = .entry) ∧ bit e.pwr.wakeEn 4 = true) ∧ (tPad id).per.tch.due = false ∧
      (tPad fun t => { t with due := true }).per.tch.due = true ∧
      (∀ k : Fin 25, (tPad id).per.tch.el[k].rebase = true) ∧ bits 0x10000#32 16 8 * 32768 ≤ 32768 - 0 := by
  dsimp only
  refine ⟨?_, ⟨⟨_, rfl, rfl⟩, ?_⟩, ?_, ?_, ?_, ?_⟩ <;> decide +kernel

/-- The network engine runs, its slot timer counts, and both are as given. -/
def tEng (f : Net → Net) : State := tNet fun n => f { n with ctl := 0x11#32, timing := true }

/-- The radio is as given. -/
def tAir (f : Rf → Rf) (s : State) : State := s.onRf fun r => f { r with ctl := 1#32, freq := 0x2109A0#32, rate := 0x2104#32 }

/-- A frame of 24 bytes of payload that has its sequence number. -/
def tData : TxFrame := { tFrame with lseq := some 5, payload := List.replicate 24 0#8 }

theorem test_witness_RadioEvents :
    let sends := fun begun main : Bool => tAir (fun r => { r with txOn := true, begun := begun })
      ((tEng fun n => { n with stat := 3#32, await := some tData }).onPwr fun p => { p with main := main })
    let hears := tAir (fun r => { r with rxOn := true }) tR
    let up := fun s : State => s.running = true ∧ s.per.net.en = true ∧ s.tableObj.isSome = true
    tR.per.rf.txOn = false ∧ tR.per.rf.rxOn = false ∧ up (sends false true) ∧ (sends false true).per.rf.txOn = true ∧
      (sends false true).per.rf.begun = false ∧ (sends false true).per.net.await = some tData ∧
      up (sends true false) ∧ (sends true false).per.rf.txOn = true ∧ (sends true false).pwr.main = false ∧
      (sends true false).per.net.ackOn = false ∧ tData.bcast = false ∧ tData.typ ≠ typJoinReq ∧ tData.typ ≠ typJoinRsp ∧
      hears.running = true ∧ hears.per.rf.rxOn = true ∧ (4 : Nat) ≤ 15 ∧
      (tPwr fun p => { p with state := .unpowered }).pwr.state = .unpowered ∧ tR.pwr.state ≠ .unpowered := by
  dsimp only
  (repeat' apply And.intro) <;> decide +kernel

/-- A key of 16 zero bytes. -/
def tZero : List Byte := List.replicate 16 0#8

/-- A PHY frame of 9.6 kb/s without the code, whose bits are as they were sent. -/
def tPhy (body : List Byte) : PhyFrame :=
  { h0 := BitVec.ofNat 8 body.length, h1 := 4#8, h2 := crc8 [BitVec.ofNat 8 body.length, 4#8]
    field := phyField false body, soft := [], rssi := 0#8, fofs := 0#16, late := 0 }

theorem test_witness_RadioEvents_frames :
    let hears := tAir (fun r => { r with rxOn := true, locked := true, baud := 9600 }) (tEng id)
    let p := tPhy [0#8, 1#8]
    let sends := tAir (fun r => { r with txOn := true, begun := true }) (tEng fun n => { n with stat := 3#32, await := some tData })
    let away := sends.onPwr fun p => { p with main := false }
    hears.running = true ∧ hears.per.rf.rxOn = true ∧ hears.per.rf.locked = true ∧ hears.per.net.en = true ∧
      crc8 [p.h0, p.h1] = p.h2 ∧ p.h0 ≠ 0#8 ∧ p.h1.toNat < 16 ∧ p.h1.toNat % 8 ≤ 4 ∧
      symbolRate (p.h1.toNat % 8) = hears.per.rf.baud ∧ p.badCrc = false ∧
      ({ p with field := p.field.set 0 true }).badCrc = true ∧ crc8 [p.h0, 5#8] ≠ p.h2 ∧
      ((0#16).toInt.natAbs ≤ 250 * 2 ^ bits hears.per.rf.freq 20 2 ∧
        ((List.range 32).filter fun i => bit hears.per.rf.sync i != bit hears.per.rf.sync i).length ≤
          bits hears.per.rf.rate 12 2) ∧
      (away.per.rf.txOn = true ∧ away.per.rf.begun = true ∧ away.pwr.main = false ∧ 0 < bits away.per.rf.adm 0 12) ∧
      (sends.per.rf.rxOn = false ∧ txConfigOk sends.per.rf (bits sends.per.rf.rate 0 3) = true ∧
        txConfigOk { sends.per.rf with freq := 0#32 } (bits sends.per.rf.rate 0 3) = false) := by
  dsimp only
  (repeat' apply And.intro) <;> decide +kernel

/-! ## Network events -/

/-- A neighbour with number 7 that is heard in slot 20. -/
def tNbr : Nbr := ⟨0, 7, 20, 1, 3, true, 200, false, false, 0, 0, 0, 0⟩

/-- Entry 0 of the neighbour table is as given. -/
def tNear (b : Nbr) (s : State) : State :=
  s.onMem fun m => m.setBytes (s.tab + nbrOff 0) (bytesOfNat 32 b.num)

theorem test_witness_NetworkEvents_slots :
    let off := fun s : State => s.per.net.timing = true ∧ s.running = true ∧ s.exchanging = false ∧ s.per.net.en = false
    let on := fun s : State => s.per.net.timing = true ∧ s.running = true ∧ s.exchanging = false ∧ s.per.net.en = true ∧
      s.tableObj.isSome = true
    let idle := tNet fun n => { n with timing := true, map := (BitVec.allOnes 1152) }
    let sleeps := idle.onPwr fun p => { p with state := .bivouac }
    let listens := tNear { tNbr with isChild := true } (tAir id (tEng fun n => { n with stat := 3#32 }))
    let sends := (tAir id (tEng fun n => { n with stat := 3#32, own := 20, txq := [tData] })).onPwr fun p => { p with main := true }
    let low := tAir id (tEng fun n => { n with stat := 3#32, own := 20, txq := [tData] })
    let slot := tEng fun n => { n with stat := 3#32, inSlot := true, cand := some 7 }
    tR.per.net.timing = false ∧ off idle ∧ bit idle.per.net.map 1151 = true ∧ sleeps.pwr.state = .bivouac ∧
      sleeps.pwr.strike = none ∧ sleeps.per.net.timing = true ∧ bit sleeps.per.net.map 0 = true ∧
      on listens ∧ listens.per.net.cur < 20 ∧ alarmSlot 20 = false ∧ listens.linkSlot 20 = true ∧ listens.per.net.own ≠ 20 ∧
      listens.per.rf.txOn = false ∧ on sends ∧ sends.per.net.cur < 20 ∧ sends.per.net.slotted = true ∧
      sends.per.net.txq = [tData] ∧ tData.alarm = false ∧ tData.wait = 0 ∧ tData.lseq ≠ none ∧
      sends.fitsAt (6 * symbolRate sends.per.rf.txRate) tData = true ∧
      (sends.per.rf.offer sends.per.hrv sends.pwr.main sends.per.rf.txRate tData.len sends.per.rf.code false).2 = .sent ∧
      (low.per.rf.offer low.per.hrv false low.per.rf.txRate tData.len low.per.rf.code false).2 ≠ .sent ∧
      tR.per.net.inSlot = false ∧ tR.per.net.holdOff = false ∧ on slot ∧ slot.per.net.inSlot = true ∧
      slot.per.net.cand ≠ none := by
  dsimp only
  (repeat' apply And.intro) <;> decide +kernel

/-- A message that waits for the software. -/
def tMsg : Reasm := ⟨7, 3, 0, false, 0, 7, 0, [], 20, 0#32, 0#32, false⟩

theorem test_witness_NetworkEvents_timers :
    let waits := fun k : Nat => tEng fun n => { n with stat := 3#32, await := some { tData with attempts := k }, stopped := true }
    let joined := fun m : Nat => tEng fun n => { n with stat := 3#32, pmiss := m }
    let joining := tEng fun n => { n with stat := 2#32 }
    let aged := tNear { tNbr with isChild := true, age := 32 } (joined 0)
    let late := tEng fun n => { n with oldKey := true, survey := true, trans := [⟨3, 0⟩], reasm := [tMsg] }
    let ready := tEng fun n => { n with ready := [tMsg] }
    (waits 3).running = true ∧ (waits 3).per.net.en = true ∧ (waits 3).tableObj.isSome = true ∧ (waits 3).per.rf.txOn = false ∧
      (waits 3).per.net.await = some { tData with attempts := 3 } ∧ (waits 3).per.net.stopped = true ∧
      (waits 3).per.net.ackOn = false ∧ (3 < bits (waits 3).per.net.retry 0 4) ∧ bits (waits 4).per.net.retry 0 4 ≤ 4 ∧
      tData.own = true ∧ tR.per.net.await = none ∧ joining.running = true ∧ joining.per.net.state = netJoining ∧
      tR.per.net.state ≠ netJoining ∧ late.per.net.oldKey = true ∧ late.per.net.survey = true ∧
      (∃ x ∈ late.per.net.trans, x.tid = (3#16).toNat) ∧ tR.per.net.trans = [] ∧
      (∃ r ∈ late.per.net.reasm, r.orig = (7 : Fin 1024).val ∧ r.tid = (3#16).toNat) ∧ tR.per.net.reasm = [] ∧
      (∀ e, (aged.nbrOf 7) = some e → 32 ≤ e.age ∧ e.isChild = true) ∧ (aged.nbrOf 7).isSome = true ∧
      aged.running = true ∧ aged.per.net.en = true ∧ (joined 2).per.net.state = netJoined ∧ (joined 2).per.net.pmiss < 3 ∧
      3 ≤ (joined 3).per.net.pmiss ∧ (joined 3).bestNbr = none ∧ (tNear tNbr (joined 3)).bestNbr = some tNbr ∧
      ready.per.net.ready = [tMsg] ∧ ready.waymark = false ∧ ready.mem.ecc = [] ∧ ready.wdn.mig = none ∧
      (∃ e, ready.rxObj = some e ∧ e.bank < 48 ∧ ready.mem.num e.physical 4 = 0 ∧
        256 * e.offs + 1056 * 2 ^ min 4 (bits ready.per.net.rxcfg 0 3) ≤ bankBytes e.bank) ∧ tMsg.data.length ≤ 1024 := by
  dsimp only
  (repeat' apply And.intro) <;> decide +kernel

/-- A frame from node 7 to node `dst`, under the key of zeros. -/
def tHeard (typ dst fcnt : Nat) (plain : List Byte) : PhyFrame :=
  tPhy (sealFrame tZero (netNonce 0 7 fcnt typ false) typ (macHeader typ false false 7 3 1 dst false 1 fcnt) plain)

/-- The radio listens at 9.6 kb/s and has matched the sync word; the keys of slots 0, 2 and 9 are zeros. -/
def tListens (f : Net → Net) : State :=
  ((tEng f).onRf fun r => { r with ctl := 1#32, freq := 0x2109A0#32, rate := 0x2104#32, rxOn := true, locked := true, baud := 9600 }).onRp
    fun r => { r with keys := [tKey 0 tZero, tKey 2 tZero, tKey 9 tZero] }

/-- What the receiver asks of a frame, and what the engine asks of its table. -/
def tHears (s : State) (p : PhyFrame) : Bool :=
  s.running && s.per.rf.rxOn && s.per.rf.locked && s.per.net.en && !p.badHeader s.per.rf.baud && !p.badCrc &&
    s.mem.ecc.isEmpty && s.wdn.mig.isNone &&
    (s.tableObj.any fun e => decide (e.bank < 16) && decide (256 * e.offs + 0x2000 ≤ bankBytes e.bank))

theorem test_witness_NetworkEvents_load :
    let load := tNet fun n => { n with ctl := 0x11#32, load := true }
    let old := tNet fun n => { n with timing := true, unalarm := true, map := BitVec.allOnes 1152 }
    (load.running = true ∧ load.exchanging = false ∧ load.per.net.en = true ∧ load.mem.ecc = [] ∧ load.per.net.load = true) ∧
      ((tNet id).per.net.timing = false ∧ (tNet id).per.net.load = false) ∧
      (old.per.net.timing = true ∧ old.running = true ∧ old.exchanging = false ∧ old.per.net.en = false ∧
        old.per.net.load = false ∧ old.per.net.unalarm = true ∧ (8 : Fin 1152).val % 9 = 8) ∧
      (tEng id).per.net.fresh = false ∧ (tEng fun n => { n with fresh := true }).per.net.fresh = true ∧
      (tEng id).waking = false ∧ bit old.per.net.map 8 = true ∧
      (let s := tListens fun n => { n with more := false }
       s.running = true ∧ s.per.rf.rxOn = true ∧ s.per.rf.locked = true ∧
         (s.onRf fun r => { r with locked := false }).per.rf.locked = false ∧ s.exchanging = false ∧ s.per.net.more = false) ∧
      (tListens fun n => { n with more := true }).per.net.more = true := by
  dsimp only
  (repeat' apply And.intro) <;> decide +kernel

theorem test_witness_ReceptionEvents :
    let s := tListens fun n => { n with stat := 3#32 }
    let old := tNear { tNbr with lastFc := 5 } s
    let p := tHeard 1 0 5 []
    tR.per.rf.rxOn = false ∧ tHears s p = true ∧ (rxFrame p).typ = 1 ∧ s.exchanging = false ∧ s.per.net.state ≠ netSeek ∧
      (rxFrame p).dst = bits s.per.net.id 0 10 ∧ (rxFrame p).more = false ∧ s.per.net.seeking = false ∧
      s.openFrame (rxFrame p) = some [] ∧ s.replayed (rxFrame p) = false ∧ (s.nbrFor (rxFrame p)).isSome = true ∧
      old.replayed (rxFrame p) = true ∧ (s.onRp fun r => { r with keys := [] }).openFrame (rxFrame p) = none ∧ tHears s (tHeard 7 0 5 []) = true ∧ (rxFrame (tHeard 7 0 5 [])).typ = 7 := by
  dsimp only
  (repeat' apply And.intro) <;> decide +kernel

theorem test_witness_ReceptionEvents_others :
    let s := tListens fun n => { n with stat := 3#32 }
    let p := tHeard 0 1 5 []
    let q := { p with field := p.field.set 0 true }
    (rxFrame p).typ = 0 ∧ (rxFrame p).dst = 1 ∧ tHears s p = true ∧ (rxFrame p).bcast = false ∧
      bits s.per.net.id 0 10 ≠ 1 ∧ s.replayed (rxFrame p) = false ∧ (s.nbrFor (rxFrame p)).isSome = true ∧
      q.badCrc = true ∧ (tListens fun n => { n with stat := 1#32 }).per.net.state = netSeek ∧
      tHears (tListens fun n => { n with stat := 1#32 }) p = true ∧
      tHears s (tHeard 3 1 5 (List.replicate 8 0#8)) = true ∧ (rxFrame (tHeard 3 1 5 (List.replicate 8 0#8))).dst = 1 ∧
      (s.onNet fun n => { n with ackOn := true }).exchanging = true := by
  dsimp only
  (repeat' apply And.intro) <;> decide +kernel

theorem test_witness_ReceptionEvents_joins :
    let base := tListens fun n => { n with stat := 5#32, ctl := 0x15#32 }
    let req := tHeard 3 0 5 (base.per.net.joinReqMic tZero 7 5)
    let joins := tListens fun n => { n with stat := 2#32, cand := some 7 }
    let rsp := tHeard 4 0 5 (joins.per.net.joinRsp tZero tZero 0 0 20)
    let f := rxFrame rsp
    (tHears base req = true ∧ (rxFrame req).typ = 3 ∧ (rxFrame req).dst = bits base.per.net.id 0 10 ∧
        base.per.net.base = true ∧ base.per.net.state = netBase ∧ base.replayed (rxFrame req) = false ∧
        (base.nbrFor (rxFrame req)).isSome = true ∧ (rxFrame req).src = 7 ∧ base.rp.key 9 = some tZero ∧
        base.per.net.joinReqMic tZero 7 5 = (rxFrame req).payload.take 8) ∧
      (tHears joins rsp = true ∧ f.typ = 4 ∧ f.dst = bits joins.per.net.id 0 10 ∧ joins.per.net.state = netJoining ∧
        joins.per.net.cand = some f.src ∧ joins.rp.key 2 = some tZero ∧ joins.per.net.joinFc = 0 ∧ f.payload.length = 26 ∧
        ccmMic tZero (netNonce joins.per.net.netid 0 0 4 false) (f.payload.take 2)
          (ccmStream tZero (netNonce joins.per.net.netid 0 0 4 false) ((f.payload.drop 2).take 16)) =
            f.payload.drop 18 ∧
        joins.replayed f = false ∧ (joins.nbrFor f).isSome = true) := by
  dsimp only
  (repeat' apply And.intro) <;> decide +kernel

theorem test_witness_ReceptionEvents_ack :
    let s := tListens fun n => { n with stat := 3#32, stopped := true, await := some tData }
    let b := [0x02#8, 5#8, 0#8]
    let mic := ccmMic tZero (netNonce s.per.net.netid 0 0 1 true) b []
    let p := tPhy (b ++ mic)
    tHears s p = true ∧ s.per.rf.txOn = false ∧ s.per.net.await = some tData ∧ tData.typ = 1 ∧ tData.bcast = false ∧
      tData.lseq = some (numOf ((p.body.drop 1).take 2) % 4096) ∧ numOf (p.body.take 1) % 8 = 2 ∧ s.per.rf.air = [] ∧
      s.rp.key (s.per.net.keySlot false) = some tZero ∧ p.body.drop 3 = mic ∧
      (p.body.take 3) = b ∧ (tListens fun n => { n with stat := 3#32 }).per.net.await = none := by
  dsimp only
  (repeat' apply And.intro) <;> decide +kernel

/-! ## The Peg port and the machine -/

theorem test_witness_PegFrames :
    let peg := fun f : Peg → Peg => tPeg fun p => f { p with ready := true }
    let key := fun s : State => s.onRp fun r => { r with keys := [tKey 1026 []] }
    let good := fun (c x crc : BitVec 8) (v : Word) => crc8 ([c, x] ++ wireBytes v) = crc
    let chal := peg fun p => { p with sess := { p.sess with state := .chal, idx := 7 } }
    (tPwr fun p => { p with vio1 := false }).pwr.vio1 = false ∧ tR.pwr.vio1 = true ∧ tR.running = true ∧
      (peg id).running = true ∧ (peg id).pwr.vio1 = true ∧ (peg id).peg.ready = true ∧ (peg id).peg.writing = false ∧
      (peg fun p => { p with writing := true }).peg.writing = true ∧
      (peg fun p => { p with updOffs := 0x100000 }).peg.updOffs = 0x100000 ∧
      (peg fun p => { p with updOffs := 0xFFFFC, updBusy := true }).peg.updBusy = true ∧ (peg id).peg.updBusy = false ∧
      ¬good 2 0x20 (crc8 ([2, 0x20] ++ wireBytes 1#32) + 1) 1#32 ∧ (0x27#8).toNat = 0x21 + (6 : Fin 7) ∧
      (0xDF#8).toNat = 0xD8 + (7 : Fin 8) ∧ (peg id).peg.sess.state ≠ .opened ∧
      (peg fun p => { p with sess := { p.sess with state := .opened } }).peg.sess.state = .opened ∧
      ((peg id).pegStore .host 0xC9 7#32).1.pegWired = true ∧ (peg id).rp.key 1026 = none ∧
      (key (peg id)).rp.key 1026 ≠ none ∧ (key (peg id)).peg.sess.locked = false ∧ chal.peg.sess.state = .chal ∧
      (7#8).toNat = chal.peg.sess.idx ∧ (peg id).peg.sess.state ≠ .chal ∧
      (peg fun p => { p with sess := { p.sess with state := .check } }).peg.sess.state = .check ∧
      (1 ≤ (5#8).toNat ∧ (5#8).toNat ≤ 5) ∧ 5 < (6#8).toNat ∧
      (peg fun p => { p with updBusy := true, updOffs := 0xFFFFC }).mem.ecc = [] ∧
      (tPwr fun p => { p with state := .bivouac }).pwr.state = .bivouac ∧
      (tPwr fun p => { p with state := .bivouac }).pwr.strike = none ∧
      (tPwr fun p => { p with state := .bivouac }).pwr.vio1 = true := by
  dsimp only
  (repeat' apply And.intro) <;> decide +kernel

theorem test_witness_FrontCommandRuns : ({ tR with pending := [.nop 0] } : State).pending = .nop 0 :: [] := rfl

theorem test_witness_EmptyQueuePassesTime :
    State.reset.pending = [] ∧ tR.running = true ∧ tR.rp.mode ≠ .cold ∧
      (let s := tPwr fun p => { p with state := .bivouac }
       s.pending = [] ∧ s.running = false ∧ s.per.rtc.stepDue = false ∧ s.per.rtc.modeDue = false ∧ s.per.rtc.mode = false ∧
         bits s.per.rtc.trim 0 12 = 0 ∧ s.per.rtc.trimAcc < 2 ^ 23 ∧ bits s.per.rtc.slew 0 22 = 0) := by
  dsimp only
  (repeat' apply And.intro) <;> decide +kernel

theorem test_witness_ConsistencyKept :
    (tEng id).consistent ∧ (tEng id).per.net.en = true ∧ ∃ t, step { tEng id with pending := [.nop 0] } = .next t := by
  refine ⟨?_, by decide +kernel, _, rfl⟩
  unfold State.consistent
  decide +kernel

theorem test_witness_CanonicalMemoryKept :
    (tNear tNbr (tEng id)).mem.wf = true ∧ ∃ t, step { tNear tNbr (tEng id) with pending := [.nop 0] } = .next t :=
  ⟨by decide +kernel, _, rfl⟩

theorem test_witness_RisenRequestIsRecorded :
    let s := tR.onIrq 4 fun b => { b with en := BitVec.allOnes 128 }
    let t : State := match exec (.rtcAlarmMatch 0) (s.onRtc fun r =>
      { r with ie := 1#32, alm := Vector.replicate 2 ⟨0#32, 0#32, 1#32⟩ }) with
      | .next t => t
      | _ => s
    t.rp.mode ≠ .cold ∧ ∃ src : Fin 64, bit t.irq[4].en src = true ∧ bit (t.requests 4) src = true ∧
      bit (s.requests 4) src = false := by
  dsimp only
  decide +kernel

/-! ## Commands that are not well formed -/

theorem test_wf_refuses :
    (Instr.movs 0 .byte .bare 2).wf = false ∧ (Instr.movs 0 .byte .bare 1).wf = true ∧
      (Instr.fils 0 .word .rep (2 ^ 32)).wf = false ∧ (Instr.unknownService 0 15#8).wf = false ∧
      (Instr.unknownService 0 16#8).wf = true ∧ (Instr.wardenBadOp .ridgepole 1#4).wf = false ∧
      (Instr.wardenBadOp .ridgepole 7#4).wf = true ∧ (Instr.pegCmdBadOp .host 4#4).wf = false ∧
      (Instr.pegCmdBadOp .host 0#4).wf = true ∧ (Instr.pegBadCommand 5#8).wf = false ∧
      (Instr.pegBadCommand 6#8).wf = true ∧ (Instr.wakeSourceQualify 4 1 false).wf = false ∧
      (Instr.wakeSourceQualify 5 15 true).wf = true ∧ (Instr.eccWriteback 2#32).wf = false ∧
      (Instr.trailSubmit [] 0#32).wf = false ∧ (Instr.trailSubmit (List.replicate 32 0#8) 16#32).wf = false ∧
      (Instr.porchSupplyLoss 2073).wf = false ∧ (Instr.registerWrite .host 1#32 0#32).wf = false := by
  decide +kernel

theorem test_wf_refuses_frames :
    let p := tPhy [0#8, 1#8]
    let short := { p with field := p.field.drop 1 }
    p.wf = false ∧ ({ p with soft := List.replicate 6 0#8 }).wf = true ∧ short.wf = false ∧
      (Instr.beaconReceived short).wf = false ∧ (Instr.dataReceived short).wf = false ∧
      (Instr.attachReceived short).wf = false ∧ (Instr.detachReceived short).wf = false ∧
      (Instr.joinReqReceived short).wf = false ∧ (Instr.joinRspReceived short).wf = false ∧
      (Instr.ackReceived short).wf = false ∧ (Instr.cmps 0 .half .repe (2 ^ 32)).wf = false ∧
      (Instr.scns 0 .half .bare 0).wf = false := by
  dsimp only
  decide +kernel

/-! ## Worked examples of the manual -/

/-- The state a command leaves. -/
def tAfter (i : Instr) (s : State) : State := match exec i s with
  | .next t => t
  | _ => s

/-- The example of R44: V is set, and the digits carry. -/
theorem test_badd_example :
    let k := (tAfter (.badd 0 0 1) (tUp (tRegs 0xA5#32 0x17#32 0#32))).cores[0]
    k.w[0] = 0x122#32 ∧ flagV k.flg = true ∧ flagD k.flg = false := by
  decide +kernel

/-- The 16-digit totaliser: its BADD. -/
theorem test_totaliser_low :
    let k := (tAfter (.badd 0 0 1) (tUp (tRegs 0x99999998#32 5#32 0#32))).cores[0]
    k.w[0] = 3#32 ∧ flagD k.flg = true ∧ flagV k.flg = false ∧ flagZ k.flg = false := by
  decide +kernel

/-- The 16-digit totaliser: its BADC. -/
theorem test_totaliser_high :
    let k := (tAfter (.badc 0 0 1) (tUp { tRegs 0#32 0#32 0#32 with flg := 0x10#32 })).cores[0]
    k.w[0] = 1#32 ∧ flagD k.flg = false := by
  decide +kernel

/-- R62: the borrow of a subtraction sets C, and the source may be the destination's neighbour. -/
theorem test_sub_borrows :
    let k := (tAfter (.sub 0 1 0) (tUp (tRegs 1#32 0#32 0#32))).cores[0]
    k.w[1] = 0xFFFFFFFF#32 ∧ flagC k.flg = true ∧ flagN k.flg = true ∧ flagV k.flg = false ∧ k.pc = 0x60000002#32 := by
  decide +kernel

/-- R52: memory is little-endian. -/
theorem test_ldh_little_endian :
    let s := (tUp (tAt 0x60000010#32)).onMem fun m => m.setBytes (sramBase + 0x20010) [0x34#8, 0x12#8]
    (tAfter (.ldh 0 0 1) s).cores[0].w[0] = 0x1234#32 := by
  decide +kernel

/-- R70: MOVS onto the next byte copies the first into every one. -/
theorem test_movs_overlap :
    let k := { tCore with w := ((tCore.w.set 1 0x60000010#32).set 2 0x60000011#32).set 3 2#32 }
    let s := (tUp k).onMem fun m => m.setBytes (sramBase + 0x20010) [0xAB#8, 1#8, 2#8]
    let t := tAfter (.movs 0 .byte .rep 2) s
    t.mem.bytes (sramBase + 0x20010) 3 = [0xAB#8, 0xAB#8, 0xAB#8] ∧ t.cores[0].w[3] = 0#32 ∧
      t.cores[0].w[1] = 0x60000012#32 := by
  decide +kernel

/-- Words written out from the tables of R55 and R58: RR, I8, Z, RRI and BC. -/
theorem test_decode_words :
    decodeCode 0 1 0x0137#16 0#16 = some (.mov 0 3 7) ∧ decodeCode 0 1 0x1856#16 0#16 = some (.badd 0 5 6) ∧
      decodeCode 0 1 0x430A#16 0#16 = some (.movi 0 3 10) ∧
      decodeCode 0 1 0xA504#16 0#16 = some (.movs 0 .half .bare 1) ∧
      decodeCode 0 1 0xD112#16 0x8001#16 = some (.andi 0 1 2 0x8001#16) ∧
      decodeCode 0 1 0xD540#16 0x1234#16 = some (.movh 0 4 0x1234#16) ∧
      decodeCode 0 1 0xF01F#16 0xFFFF#16 = some (.bccL 0 .ne 0xFFFFF#20) := by
  decide +kernel

/-- Undefined encodings of R53: Wa not 0 in MOVH, and a string instruction with operation 4, size 0b11 or bit 0. -/
theorem test_decode_undefined :
    decodeCode 0 1 0xD541#16 0x1234#16 = none ∧ decodeCode 0 1 0xA540#16 0#16 = none ∧
      decodeCode 0 1 0xA50C#16 0#16 = none ∧ decodeCode 0 1 0xA501#16 0#16 = none := by
  decide +kernel

/-- AES-128: the example of FIPS 197. -/
theorem test_aes :
    aes (bigEndian 16 0x000102030405060708090a0b0c0d0e0f) (bigEndian 16 0x00112233445566778899aabbccddeeff) =
      bigEndian 16 0x69c4e0d86a7b0430d8cdb78070b4c55a := by
  decide +kernel

/-- CCM: packet vector 1 of RFC 3610. -/
theorem test_ccm :
    let key := bigEndian 16 0xc0c1c2c3c4c5c6c7c8c9cacbcccdcecf
    let nonce := bigEndian 13 0x00000003020100a0a1a2a3a4a5
    let text := bigEndian 23 0x08090a0b0c0d0e0f101112131415161718191a1b1c1d1e
    ccmStream key nonce text = bigEndian 23 0x588c979a61c663d2f066d0c2c0f989806d5f6b61dac384 ∧
      ccmMic key nonce (bigEndian 8 0x0001020304050607) text = bigEndian 8 0x17e8d12cfdf926e0 := by
  dsimp only
  decide +kernel

/-- SHA-256 of "abc". -/
theorem test_sha256 :
    sha256 [0x61#8, 0x62#8, 0x63#8] =
      bigEndian 32 0xba7816bf8f01cfea414140de5dae2223b00361a396177a9cb410ff61f20015ad := by
  decide +kernel

/-- HMAC-SHA-256: test case 2 of RFC 4231. -/
theorem test_hmac :
    hmac (bigEndian 4 0x4a656665) (bigEndian 28 0x7768617420646f2079612077616e7420666f72206e6f7468696e673f) =
      bigEndian 32 0x5bdcc146bf60754e6a042426089575c75a003f089d2739839dec58b964ec3843 := by
  decide +kernel

/-- Ed25519: test 1 of RFC 8032. -/
theorem test_ed25519 :
    ed25519 (bigEndian 32 0xd75a980182b10ab7d54bfed3c964073a0ee172f3daa62325af021a68f707511a) []
      (bigEndian 64 0xe5564300c360ac729086e2cc806e828a84877f1eb8e5d974d873e065224901555fb8821590a33bacc61e39701cf9b46bd25bf5f0595bbe24655141438e7a100b) =
        true := by
  decide +kernel

/-- The frame of R215: its header, and 640 bits of payload field in 764 symbols. -/
theorem test_phy_example :
    phyHeader 32 2 true = [0x20#8, 0x0A#8, 0x98#8] ∧ (phyField true (List.replicate 32 0#8)).length = 640 ∧
      (phySymbols 0x2DD49A6B#32 2 true (List.replicate 32 0#8)).length = 764 := by
  decide +kernel

/-- R214: the first coded bits of a 1 after zeros are those of g0 = 0o171 and g1 = 0o133. -/
theorem test_code_impulse :
    convolve Six.zero [true, false, false, false, false, false, false] =
      [true, true, true, false, true, true, true, true, false, false, false, true, true, true] := by
  decide +kernel

/-- A coded frame comes back, and a wrong bit on air lowers LQI alone. -/
theorem test_phy_returns :
    let body := [1#8, 2#8, 3#8]
    let p : PhyFrame := { h0 := 3#8, h1 := 0x0A#8, h2 := crc8 [3#8, 0x0A#8], field := phyField true body
                          soft := phyStream body, rssi := 0#8, fofs := 0#16, late := 0 }
    p.body = body ∧ p.badCrc = false ∧ p.badHeader 4800 = false ∧ p.badHeader 9600 = true ∧ p.lqi = 255 ∧
      ({ p with field := p.field.set 0 (!p.field.getD 0 false) }).body = body ∧
      ({ p with field := p.field.set 0 (!p.field.getD 0 false) }).lqi = 252 := by
  dsimp only
  decide +kernel

/-- The frame of R215: 764 symbols, and 2 uAh at the example's settings. -/
theorem test_radio_example :
    frameSymbols 2 32 true = 764 ∧ frameEnergy { Rf.reset with txpwr := 0x3618#32 } 2 32 true = 2 ∧
      frameDuty { Rf.reset with txpwr := 0x3618#32 } 2 32 true = 162 := by
  decide +kernel

/-- The costs of R248's example. -/
theorem test_cost_example :
    Net.reset.costOf { tNbr with hops := 1, lqi := 200, energy := 3 } = 11 ∧
      Net.reset.costOf { tNbr with hops := 1, lqi := 200, energy := 1 } = 43 ∧
      Net.reset.costOf { tNbr with hops := 2, lqi := 176, energy := 3 } = 16 := by
  decide +kernel

/-- The WRITE frame of R366's example, taken by the port. -/
theorem test_peg_write_example :
    crc8 ([0x02#8, 0xC0#8] ++ wireBytes 1#32) = 0x0A#8 ∧
      (tAfter (.pegWrite 0xC0#8 1#32 0x0A#8) (tPeg fun p => { p with ready := true })).peg.h2d[0] = 1#32 := by
  decide +kernel

/-- The example of the lookaside misses: the step to 0 sets CNT_OVF bit 8 and fires producer 186. -/
theorem test_cnt_overflow_example :
    let s := tR.onCnt fun q => { q with c := q.c.set 8 { q.c[8] with cfg := 0x4A#32, count := BitVec.allOnes 48 } }
    let t := tAfter (.cntOverflow 8) s
    t.per.cnt.ovf = 0x100#32 ∧ ⟨186, 0, []⟩ ∈ t.inflight := by
  decide +kernel

end Sys2Proof.Tests
end

/-! # Writes of peripheral registers

What a write of a register by a Canvas core or by Ridgepole makes of the state: the exception that stops it, the
record of a deferred write, or the register alone, next to what the beat of the access counts. -/

namespace Sys2Proof.Machine

open Sys2Proof

/-! ## Ranges of addresses -/

theorem inRange_eq_true {a lo n : Nat} (h : lo ≤ a) (k : a < lo + n) : inRange a lo n = true := by
  simp [inRange, h, k]

theorem inRange_eq_false {a lo n : Nat} (h : a < lo ∨ lo + n ≤ a) : inRange a lo n = false := by
  have k : ¬(lo ≤ a ∧ a < lo + n) := by omega
  simpa [inRange] using k

theorem inPeriph_periphAddr {o : Nat} (h : o < 0x100000) : inPeriph (0x40000000 + o) = true :=
  inRange_eq_true (by unfold periphBase; omega) (by unfold periphBase; omega)

/-! ## What a beat notes

A store to peripheral space counts its beat before it writes, so the write meets a state in which counts have
moved and events may be on their way. -/

/-- `t` is `s` but for counts of events, and for producers and sources that fired with them. -/
structure State.Noted (s t : State) : Prop where
  base : t.base = s.base
  setup : s.SameSetup t

namespace State.Noted

variable {s t u : State}

theorem refl (s : State) : s.Noted s := ⟨rfl, .refl s⟩

theorem trans (h : s.Noted t) (k : t.Noted u) : s.Noted u := ⟨k.base.trans h.base, h.setup.trans k.setup⟩

theorem itg (h : s.Noted t) : t.itg = s.itg := by
  have k := congrArg State.itg h.base
  exact k

theorem cores (h : s.Noted t) : t.cores = s.cores := by
  have k := congrArg State.cores h.base
  exact k

theorem waymark (h : s.Noted t) : t.waymark = s.waymark := by unfold State.waymark; rw [h.itg]

theorem twin (h : s.Noted t) : t.twin = s.twin := by unfold State.twin; rw [h.itg]

theorem writerOf (h : s.Noted t) (c : CoreId) : t.writerOf c = s.writerOf c := by
  unfold State.writerOf; rw [h.cores]

/-- The end of a command settles what was made before the beat was noted. -/
theorem settles (h : s.Noted t) (old : State) : Settles s (finish old t) := by
  have k := h.setup.trans (finish_setup t old)
  have field {α : Type} (f : State → α) := congrArg f h.base
  have hw : t.wdn = s.wdn := field State.wdn
  have hm : t.mm = s.mm := field State.mm
  have hr : t.rp = s.rp := field State.rp
  have hf : t.free = s.free := field State.free
  have hn : t.per.net = s.per.net := field fun u => u.per.net
  have hrf : t.per.rf = s.per.rf := field fun u => u.per.rf
  have ho : t.tableObj = s.tableObj := field State.tableObj
  refine ⟨State.settled_of_core0 ((finish_core0 old t).trans (core0_of_base h.base)) k, k.pend, k.inflight,
    fun e => ?_, fun e m => ?_, fun e => ?_⟩
  · rw [finish_wdn old t (by rw [hw]; exact e), hw]
  · have x := finish_store t old (by rw [hw]; exact e) (by rw [hr, hw]; exact m)
    rwa [h.itg, hr, hm, hf] at x
  · have x := finish_net old t (by rw [hn, ho]; exact e)
    rwa [hn, hrf] at x

end State.Noted

theorem State.countCore_noted (s : State) (c : CoreId) (src n : Nat) : s.Noted (s.countCore c src n) :=
  ⟨State.countCore_base .., State.countRange_setup ..⟩

theorem State.countSys_noted (s : State) (src n : Nat) : s.Noted (s.countSys src n) :=
  ⟨State.countSys_base .., State.countRange_setup ..⟩

theorem State.reach_periph (s : State) {o : Nat} (h : o < 0x100000) : s.reach (0x40000000 + o) = .io o := by
  have h1 : inObjWindow (0x40000000 + o) = false := inRange_eq_false (by unfold objBase; omega)
  have h2 : inEmber (0x40000000 + o) = false := inRange_eq_false (by unfold emberBase; omega)
  unfold State.reach
  simp [h1, h2, inPeriph_periphAddr h, periphBase]

theorem State.noteBeat_periph (s : State) (c : CoreId) (src : Nat) {o : Nat} (h : o < 0x100000) :
    s.Noted (s.noteBeat c src (0x40000000 + o)) := by
  have hr : (s.countCore c src 1).reach (0x40000000 + o) = .io o := State.reach_periph _ h
  have e : s.noteBeat c src (0x40000000 + o) = (s.countCore c src 1).countSys (4 + c) 1 := by
    unfold State.noteBeat
    simp [hr]
  rw [e]
  exact (State.countCore_noted ..).trans (State.countSys_noted ..)

/-! ## Updates that pay no heed to what is noted -/

/-- `g` makes of states that differ by what is noted states that differ by what is noted. -/
def KeepsNoted (g : State → State) : Prop := ∀ s t : State, s.Noted t → (g s).Noted (g t)

/-- An update of registers that no count and no firing moves. -/
theorem keepsNoted_of_apart {g : State → State} (base : ∀ s, (g s).base = g s.base)
    (irq : ∀ s, (g s).irq = s.irq) (cnt : ∀ s, (g s).per.cnt = s.per.cnt)
    (inflight : ∀ s, (g s).inflight = s.inflight) : KeepsNoted g := by
  intro s t ⟨hb, hs⟩
  refine ⟨by rw [base, base, hb], ⟨?_, ?_, ?_, ?_, ?_⟩⟩
  · rw [irq, irq]; exact hs.irq
  · rw [cnt, cnt]; exact hs.cfg
  · rw [cnt, cnt]; exact hs.ie
  · rw [irq, irq]; exact hs.pend
  · rw [inflight, inflight]; exact hs.inflight

theorem keepsNoted_id : KeepsNoted fun s => s := fun _ _ h => h

theorem keepsNoted_onPwr (f : Pwr → Pwr) : KeepsNoted fun s => s.onPwr f :=
  keepsNoted_of_apart (fun _ => rfl) (fun _ => rfl) (fun _ => rfl) fun _ => rfl

theorem keepsNoted_onClk (f : Clk → Clk) : KeepsNoted fun s => s.onClk f :=
  keepsNoted_of_apart (fun _ => rfl) (fun _ => rfl) (fun _ => rfl) fun _ => rfl

theorem keepsNoted_onWdnBank (b : Nat) (f : WdnBank → WdnBank) : KeepsNoted fun s => s.onWdnBank b f :=
  keepsNoted_of_apart (fun _ => rfl) (fun _ => rfl) (fun _ => rfl) fun _ => rfl

theorem keepsNoted_onMm (f : MemRegs → MemRegs) : KeepsNoted fun s => s.onMm f :=
  keepsNoted_of_apart (fun _ => rfl) (fun _ => rfl) (fun _ => rfl) fun _ => rfl

theorem keepsNoted_onItg (f : Itg → Itg) : KeepsNoted fun s => s.onItg f :=
  keepsNoted_of_apart (fun _ => rfl) (fun _ => rfl) (fun _ => rfl) fun _ => rfl

theorem keepsNoted_onHrv (f : Hrv → Hrv) : KeepsNoted fun s => s.onHrv f :=
  keepsNoted_of_apart (fun _ => rfl) (fun _ => rfl) (fun _ => rfl) fun _ => rfl

theorem keepsNoted_onTim (n : Nat) (f : Tim → Tim) : KeepsNoted fun s => s.onTim n f :=
  keepsNoted_of_apart (fun _ => rfl) (fun _ => rfl) (fun _ => rfl) fun _ => rfl

theorem keepsNoted_onRtc (f : Rtc → Rtc) : KeepsNoted fun s => s.onRtc f :=
  keepsNoted_of_apart (fun _ => rfl) (fun _ => rfl) (fun _ => rfl) fun _ => rfl

theorem keepsNoted_onUa (n : Nat) (f : Ua → Ua) : KeepsNoted fun s => s.onUa n f :=
  keepsNoted_of_apart (fun _ => rfl) (fun _ => rfl) (fun _ => rfl) fun _ => rfl

theorem keepsNoted_onTch (f : Tch → Tch) : KeepsNoted fun s => s.onTch f :=
  keepsNoted_of_apart (fun _ => rfl) (fun _ => rfl) (fun _ => rfl) fun _ => rfl

theorem keepsNoted_onRf (f : Rf → Rf) : KeepsNoted fun s => s.onRf f :=
  keepsNoted_of_apart (fun _ => rfl) (fun _ => rfl) (fun _ => rfl) fun _ => rfl

theorem keepsNoted_onNet (f : Net → Net) : KeepsNoted fun s => s.onNet f :=
  keepsNoted_of_apart (fun _ => rfl) (fun _ => rfl) (fun _ => rfl) fun _ => rfl

theorem keepsNoted_onPin (f : Pin → Pin) : KeepsNoted fun s => s.onPin f :=
  keepsNoted_of_apart (fun _ => rfl) (fun _ => rfl) (fun _ => rfl) fun _ => rfl

/-- An update of the counters' interrupt enables. -/
theorem keepsNoted_onCnt_ie (f : Vector Word 4 → Vector Word 4) :
    KeepsNoted fun s => s.onCnt fun q => { q with ie := f q.ie } :=
  fun _ _ ⟨hb, hs⟩ => ⟨hb, hs.irq, hs.cfg, congrArg f hs.ie, hs.pend, hs.inflight⟩

/-- An update of a counter that leaves its count and does not read it. -/
theorem keepsNoted_onCnt_counter (i : Fin 24) {f : Counter → Counter}
    (hf : ∀ k, (f k).setup = f k.setup) :
    KeepsNoted fun s => s.onCnt fun q => { q with c := q.c.set i (f q.c[i]) } := by
  intro s t ⟨hb, hs⟩
  have e : ∀ v : Vector Counter 24, (v.set i (f v[i])).map Counter.setup =
      (v.map Counter.setup).set i (f (v.map Counter.setup)[i]) := by
    intro v
    rw [Vector.map_set, hf]
    simp
  refine ⟨hb, hs.irq, ?_, hs.ie, hs.pend, hs.inflight⟩
  exact (e _).trans ((congrArg (fun w : Vector Counter 24 => w.set i (f w[i])) hs.cfg).trans (e _).symm)

/-! ## A register write of any agent -/

section Access

variable {s : State} {c : CoreId} {o : Nat} {v : Word}

theorem toNat_periphAddr (ho : o < 0x100000) : (BitVec.ofNat 32 (0x40000000 + o)).toNat = 0x40000000 + o := by
  rw [BitVec.toNat_ofNat]; omega

theorem periphAddr_sub (o : Nat) : 0x40000000 + o - periphBase = o := by unfold periphBase; omega

/-- A word written at a register's own offset keeps its lanes (R64). -/
theorem wordLanes (v : Word) : BitVec.ofNat 32 (v.toNat % 256 ^ 4 * 256 ^ 0) = v := by
  have := v.isLt
  apply BitVec.eq_of_toNat_eq
  rw [BitVec.toNat_ofNat]
  omega

theorem storeBytes_register (ho : o < 0x100000) :
    s.storeBytes c (0x40000000 + o) 4 v.toNat = s.ioStore c (0x40000000 + o) 4 v.toNat :=
  if_pos (inPeriph_periphAddr ho)

/-- A store of a word that R6 or R7 stops changes nothing. -/
theorem storeBytes_stopped {f : IoFault} (ho : o < 0x100000) (h4 : o % 4 = 0)
    (h : s.ioWriteFault c o v = some f) :
    s.storeBytes c (0x40000000 + o) 4 v.toNat = ⟨s, some (ioExn f), [], 0⟩ := by
  have ha : (0x40000000 + o) % 4 = 0 := by omega
  rw [storeBytes_register ho]
  unfold State.ioStore
  simp only [periphAddr_sub, ha, h4, wordLanes, Nat.sub_zero, h, ne_eq, not_true_eq_false, if_false]

/-- A store of a word that nothing stops notes its beat and writes the word at the register. -/
theorem storeBytes_reaches (ho : o < 0x100000) (h4 : o % 4 = 0) (h : s.ioWriteFault c o v = none) :
    s.storeBytes c (0x40000000 + o) 4 v.toNat =
      ⟨(s.noteBeat c 8 (0x40000000 + o)).busWrite (.core c) o v, none, [], 0⟩ := by
  have ha : (0x40000000 + o) % 4 = 0 := by omega
  rw [storeBytes_register ho]
  unfold State.ioStore
  simp only [periphAddr_sub, ha, h4, wordLanes, Nat.sub_zero, h, ne_eq, not_true_eq_false, if_false]

/-- A Canvas write that R6 or R7 stops takes the access exception. -/
theorem anyWrite_stopped {f : IoFault} (hi : s.issues c = true) (ho : o < 0x100000) (h4 : o % 4 = 0)
    (h : s.ioWriteFault c o v = some f) :
    s.anyWrite (.core c) (BitVec.ofNat 32 (0x40000000 + o)) v =
      s.takeException c (ioExn f) s.cores[c].pc [] := by
  unfold State.anyWrite
  simp only [toNat_periphAddr ho, storeBytes_stopped ho h4 h, hi, if_true]

/-- A Canvas write that nothing stops notes its beat and reaches the bus. -/
theorem anyWrite_core (hi : s.issues c = true) (ho : o < 0x100000) (h4 : o % 4 = 0)
    (h : s.ioWriteFault c o v = none) :
    s.anyWrite (.core c) (BitVec.ofNat 32 (0x40000000 + o)) v =
      (s.noteBeat c 8 (0x40000000 + o)).busWrite (.core c) o v := by
  unfold State.anyWrite
  simp only [toNat_periphAddr ho, storeBytes_reaches ho h4 h, hi, if_true, aftermath_nil]

theorem anyWrite_ridgepole (hr : s.running = true) (ho : o < 0x100000) (h4 : o % 4 = 0) :
    s.anyWrite .ridgepole (BitVec.ofNat 32 (0x40000000 + o)) v = s.busWrite .ridgepole o v := by
  have ha : (0x40000000 + o) % 4 = 0 := by omega
  unfold State.anyWrite State.ridgeWrite
  simp only [toNat_periphAddr ho, hr, inPeriph_periphAddr ho, ha, periphAddr_sub, if_true]

/-- A write to the bus that is not deferred. -/
def State.directWrite (s : State) (a : Agent) (o : Nat) (v : Word) : State :=
  if waymarkBlock o then s.periphWrite a o v else s.plainWrite a o v

theorem busWrite_core_direct (h : waymarkBlock o = true → s.waymark = false) :
    s.busWrite (.core c) o v = s.directWrite (.core c) o v := by
  unfold State.busWrite State.directWrite
  by_cases hb : waymarkBlock o = true
  · simp [hb, h hb]
  · simp [hb]

theorem busWrite_core_deferred (hb : waymarkBlock o = true) (hw : s.waymark = true) :
    s.busWrite (.core c) o v = s.deferWrite c o v := by
  unfold State.busWrite
  simp [hb, hw]

/-- A register write that takes effect at once: `g` is what it makes of a state in which the beat is noted. -/
theorem register_becomes {a : Agent} {g : State → State} (hw : s.writes a o v) (ho : o < 0x100000)
    (h4 : o % 4 = 0) (hg : KeepsNoted g) (hd : ∀ u, s.Noted u → u.directWrite a o v = g u) :
    s.becomes (.registerWrite a (BitVec.ofNat 32 (0x40000000 + o)) v) (g s) := by
  refine ⟨_, rfl, ?_⟩
  cases a with
  | core c =>
    obtain ⟨hi, hf, hm⟩ := hw
    have hn := s.noteBeat_periph c 8 ho
    rw [anyWrite_core hi ho h4 hf, busWrite_core_direct (by rw [hn.waymark]; exact hm), hd _ hn]
    exact (hg _ _ hn).settles s
  | ridgepole =>
    rw [anyWrite_ridgepole hw ho h4]
    have e : s.busWrite .ridgepole o v = s.directWrite .ridgepole o v := rfl
    rw [e, hd s (.refl s)]
    exact finish_settles ..
  | host => exact hw.elim

/-- A core's access that raises an exception enters the handler (R24). -/
theorem access_raises {i : Instr} {x : Exn} {detail : Word} (hi : s.issues c = true)
    (he : exec i s = .next (finish s (s.takeException c x s.cores[c].pc [])))
    (hs : s.handles c x.code) (hx : x.ecause = BitVec.ofNat 32 x.code ||| detail) :
    exceptionStep s i c x.code detail := by
  obtain ⟨hE, ha, hv⟩ := hs
  obtain ⟨f, hf, hk⟩ := takeException_ok (epc := s.cores[c].pc) hE ha hv
  obtain ⟨t, h1, h2, h3⟩ := plain_step he hf
  have hp : s.cores[c].drained.phase = .run := by
    simp only [State.issues, Bool.and_eq_true, decide_eq_true_eq] at hi
    obtain ⟨⟨⟨-, hrun⟩, -⟩, -⟩ := hi
    rw [Core.drained_phase, hrun]
  refine ⟨t, h1, ?_, h3⟩
  rw [h2, hk, hx, ← hp]
  rfl

/-- A row's Canvas write that R6 or R7 stops takes the access exception. -/
theorem rowWrite_stopped {f : IoFault} (k : Option Nat) (hi : s.issues c = true)
    (h : s.ioWriteFault c o v = some f) :
    s.rowWrite (.core c) o k v = s.takeException c (ioExn f) s.cores[c].pc [] := by
  unfold State.rowWrite
  simp only [hi, h, if_true]

theorem ioExn_code (f : IoFault) : (ioExn f).code = 3 := by cases f <;> rfl

theorem ioExn_ecause (f : IoFault) :
    (ioExn f).ecause = BitVec.ofNat 32 3 ||| (0x100#32 ||| if f = .owned then 0x400#32 else 0x800#32) := by
  cases f <;> decide

/-- A core's access that `ioWriteFault` stops (R6, R189). -/
theorem stopped_raises {i : Instr} {f : IoFault} (hi : s.issues c = true)
    (he : exec i s = .next (finish s (s.takeException c (ioExn f) s.cores[c].pc [])))
    (hs : s.handles c 3) :
    exceptionStep s i c 3 (0x100#32 ||| if f = .owned then 0x400#32 else 0x800#32) := by
  have hc := ioExn_code f
  have k := access_raises (detail := 0x100#32 ||| if f = .owned then 0x400#32 else 0x800#32) hi he
    (by rw [hc]; exact hs) (by rw [hc]; exact ioExn_ecause f)
  rwa [hc] at k

/-! ## Writes of the mirror that only Ridgepole makes -/

/-- A Canvas write of a word of the mirror that R379 does not let in is stopped. -/
theorem ioWriteFault_mirror {k : Nat} (hk : k < 0x100) (h : canvasMay k v = false) :
    s.ioWriteFault c (pegOff k) v = some .owned := by
  have hq : (pegOff k - ioPeg) / 4 = k := by unfold pegOff; omega
  have hp : inRange (pegOff k) ioPeg 0x400 = true :=
    inRange_eq_true (by unfold pegOff; omega) (by unfold pegOff; omega)
  have h0 : pegOff k ≠ 0x28 := by unfold pegOff ioPeg; omega
  have hn : ∀ lo n : Nat, lo + n ≤ ioPeg → inRange (pegOff k) lo n = false := fun lo n hl =>
    inRange_eq_false (.inr (by unfold pegOff; omega))
  have ho : s.ownedWrite c (pegOff k) v = true := by
    unfold State.ownedWrite
    rw [if_neg h0, hn ioEvt _ (by decide), hn ioWdn _ (by decide), hn ioMem _ (by decide),
      hn ioItg _ (by decide), hn ioPin _ (by decide), hn ioCnt _ (by decide), hn ioIrq _ (by decide),
      hp, hq, h]
    rfl
  unfold State.ioWriteFault
  rw [hn ioIrq _ (by decide), ho]
  rfl

theorem mirror_raises {i : Instr} {k : Nat} {p : Option Nat} (hi : s.issues c = true) (hs : s.handles c 3)
    (he : exec i s = .next (finish s (s.rowWrite (.core c) (pegOff k) p v))) (hk : k < 0x100)
    (h : canvasMay k v = false) : exceptionStep s i c 3 0x500#32 := by
  rw [rowWrite_stopped p hi (ioWriteFault_mirror hk h)] at he
  exact stopped_raises (f := .owned) hi he hs

/-! ## Writes kept for the boundary -/

/-- A write that is deferred, with what `deferWrite` makes of the ITG block (R158, R159). -/
theorem deferred_becomes {f : Itg → Itg} (hi : s.issues c = true) (ho : o < 0x100000) (h4 : o % 4 = 0)
    (h : s.ioWriteFault c o v = none) (hw : s.waymark = true) (hb : waymarkBlock o = true)
    (hd : ∀ u, s.Noted u → u.deferWrite c o v = u.onItg f) :
    s.becomes (.registerWrite (.core c) (BitVec.ofNat 32 (0x40000000 + o)) v) (s.onItg f) := by
  have hn := s.noteBeat_periph c 8 ho
  refine ⟨_, rfl, ?_⟩
  rw [anyWrite_core hi ho h4 h, busWrite_core_deferred hb (by rw [hn.waymark]; exact hw), hd _ hn]
  exact (keepsNoted_onItg f _ _ hn).settles s

/-- A writer with fewer than 64 deferred writes defers one more (R158). -/
theorem deferWrite_room {w : Writer} (hw : s.writerOf c = w)
    (h : (s.itg.defer.filter fun d => decide (d.writer = w)).length < 64) :
    s.deferWrite c o v = s.onItg fun g => { g with defer := g.defer ++ [⟨w, c, o, v⟩] } := by
  unfold State.deferWrite State.onItg
  simp only [hw, if_neg (Nat.not_le.2 h)]

/-- A writer's 65th deferred write marks it instead (R159). -/
theorem deferWrite_full {w : Writer} (hw : s.writerOf c = w)
    (h : 64 ≤ (s.itg.defer.filter fun d => decide (d.writer = w)).length) :
    s.deferWrite c o v = s.onItg fun g =>
      { g with full := if w ∈ g.full then g.full else g.full ++ [w] } := by
  unfold State.deferWrite State.onItg
  simp only [hw, if_pos h]

end Access

/-- Settles O32: a stopped write raises before it changes anything, and a deferred one reaches the ITG block
alone, by the number of writes that its writer has deferred. -/
theorem writesHeldBack : Obligations.WritesHeldBack := by
  unfold Obligations.WritesHeldBack
  intro s c o v i mine hi ho h4
  refine ⟨fun f hf hs => ?_, fun hf hw hb hm => ?_, fun hf hw hb hm => ?_, fun hs i hmem => ?_⟩
  · refine stopped_raises hi ?_ hs
    rw [← anyWrite_stopped hi ho h4 hf]
    rfl
  · exact deferred_becomes hi ho h4 hf hw hb fun u hu =>
      deferWrite_room (hu.writerOf c) (by rw [hu.itg]; exact hm)
  · exact deferred_becomes hi ho h4 hf hw hb fun u hu =>
      deferWrite_full (hu.writerOf c) (by rw [hu.itg]; exact hm)
  · simp only [List.mem_cons, List.not_mem_nil, or_false] at hmem
    rcases hmem with rfl | rfl | rfl | rfl | rfl | rfl
    · exact mirror_raises (k := 0xCB) hi hs rfl (by decide) rfl
    · exact mirror_raises (k := 0xC3) hi hs rfl (by decide) rfl
    · exact mirror_raises (k := 0xD0) hi hs rfl (by decide) rfl
    · exact mirror_raises (k := 0xD0) hi hs rfl (by decide) rfl
    · exact mirror_raises (k := 0xD1) hi hs rfl (by decide) rfl
    · exact mirror_raises (k := 0xD2) hi hs rfl (by decide) rfl

end Sys2Proof.Machine

/-! # Registers without a row of their own

Where a write lands, block by block, and the row that each block's registers share: a write that takes effect at
once makes of the state what the block's own write makes of the register. -/

namespace Sys2Proof.Machine

open Sys2Proof

/-! ## Where a write lands -/

theorem blockPlaces :
    ioHrv = 0x2000 ∧ ioIrq = 0x10000 ∧ ioEvt = 0x20000 ∧ ioTim = 0x30000 ∧ ioRtc = 0x40000 ∧ ioUa = 0x50000 ∧
      ioTch = 0x60000 ∧ ioRf = 0x70000 ∧ ioNet = 0x80000 ∧ ioWdn = 0x90000 ∧ ioMem = 0xA0000 ∧
      ioCnt = 0xB0000 ∧ ioItg = 0xC0000 ∧ ioPin = 0xD0000 ∧ ioPinOut = 0x100D0020 := by decide

section Routes

variable (u : State) (a : Agent) (v : Word) {o r : Nat}

/-- The blocks that Waymark defers (R157, R158). -/
theorem directWrite_waymark (h : waymarkBlock o = true) : u.directWrite a o v = u.periphWrite a o v := if_pos h

/-- The blocks that are never deferred. -/
theorem directWrite_plain (h : waymarkBlock o = false) : u.directWrite a o v = u.plainWrite a o v := by
  unfold State.directWrite; rw [h]; rfl

theorem waymarkBlock_low (h : o < 0x2000) : waymarkBlock o = false := by
  have places := blockPlaces
  simp (disch := omega) only [waymarkBlock, inRange_eq_false, Bool.or_false]

theorem directWrite_pwr (h : o < 0x1000) : u.directWrite a o v = u.pwrWrite o v := by
  rw [directWrite_plain u a v (waymarkBlock_low (by omega))]
  exact if_pos h

theorem directWrite_clk (h : r < 0x1000) : u.directWrite a (0x1000 + r) v = u.clkWrite r v := by
  rw [directWrite_plain u a v (waymarkBlock_low (by omega))]
  unfold State.plainWrite
  rw [if_neg (by omega), if_pos (by omega), Nat.add_sub_cancel_left]

theorem directWrite_wdn (h : r < 0x1000) :
    u.directWrite a (ioWdn + r) v = u.wdnWrite a r v := by
  have places := blockPlaces
  simp (disch := omega) [State.directWrite, waymarkBlock, State.plainWrite, inRange_eq_false,
    inRange_eq_true, if_neg]

theorem directWrite_mem (h : r < 0x1000) :
    u.directWrite a (ioMem + r) v = u.onMm fun q => q.write r v := by
  have places := blockPlaces
  simp (disch := omega) [State.directWrite, waymarkBlock, State.plainWrite, inRange_eq_false,
    inRange_eq_true, if_neg]

theorem directWrite_itg (h : r < 0x1000) :
    u.directWrite a (ioItg + r) v = u.itgWrite (ioBank a) r v := by
  have places := blockPlaces
  simp (disch := omega) [State.directWrite, waymarkBlock, State.plainWrite, inRange_eq_false,
    inRange_eq_true, if_neg]

theorem directWrite_hrv (h : r < 0x1000) :
    u.directWrite a (ioHrv + r) v = u.onHrv fun q => q.write u.pwr.main r v := by
  have e : inRange (ioHrv + r) ioHrv 0x1000 = true := inRange_eq_true (by omega) (by omega)
  rw [directWrite_waymark u a v (by simp only [waymarkBlock, e, Bool.true_or])]
  unfold State.periphWrite
  rw [if_pos e, Nat.add_sub_cancel_left]

theorem directWrite_evt (h : r < 0x1000) (h8 : r ≠ 8) :
    u.directWrite a (ioEvt + r) v = u.onEvt fun q => q.write a r v := by
  have places := blockPlaces
  simp (disch := omega) [State.directWrite, waymarkBlock, State.periphWrite, inRange_eq_false,
    inRange_eq_true, h8]

theorem directWrite_tim {n : Nat} (hn : n < 12) (h : r < 0x100) :
    u.directWrite a (ioTim + 0x100 * n + r) v = u.timWrite n r v := by
  have places := blockPlaces
  have hq : (ioTim + 0x100 * n + r - ioTim) / 256 = n := by omega
  have hm : (ioTim + 0x100 * n + r - ioTim) % 256 = r := by omega
  simp (disch := omega) only [State.directWrite, waymarkBlock, State.periphWrite, inRange_eq_false,
    inRange_eq_true, Bool.or_false, Bool.or_true, Bool.false_eq_true, if_false, if_true, hq, hm]

theorem directWrite_rtc (h : r < 0x1000) :
    u.directWrite a (ioRtc + r) v = u.onRtc fun q => q.write (ioBank a) r v := by
  have places := blockPlaces
  simp (disch := omega) [State.directWrite, waymarkBlock, State.periphWrite, inRange_eq_false,
    inRange_eq_true]

theorem directWrite_ua {n : Nat} (hn : n < 4) (h : r < 0x100) :
    u.directWrite a (ioUa + 0x100 * n + r) v = u.onUa n fun q => q.write r v := by
  have places := blockPlaces
  have hq : (ioUa + 0x100 * n + r - ioUa) / 256 = n := by omega
  have hm : (ioUa + 0x100 * n + r - ioUa) % 256 = r := by omega
  simp (disch := omega) only [State.directWrite, waymarkBlock, State.periphWrite, inRange_eq_false,
    inRange_eq_true, Bool.or_false, Bool.or_true, Bool.false_eq_true, if_false, if_true, hq, hm]

theorem directWrite_tch (h : r < 0x1000) :
    u.directWrite a (ioTch + r) v = u.onTch fun q => q.write u.per.pin r v := by
  have places := blockPlaces
  simp (disch := omega) [State.directWrite, waymarkBlock, State.periphWrite, inRange_eq_false,
    inRange_eq_true]

theorem directWrite_rf (h : r < 0x1000) :
    u.directWrite a (ioRf + r) v = u.onRf fun q => q.write r v := by
  have places := blockPlaces
  simp (disch := omega) [State.directWrite, waymarkBlock, State.periphWrite, inRange_eq_false,
    inRange_eq_true]

theorem directWrite_net (h : r < 0x1000) :
    u.directWrite a (ioNet + r) v = u.netWrite r v := by
  have places := blockPlaces
  simp (disch := omega) [State.directWrite, waymarkBlock, State.periphWrite, inRange_eq_false,
    inRange_eq_true]

theorem directWrite_cnt (h : r < 0x1000) :
    u.directWrite a (ioCnt + r) v = u.onCnt fun q => q.write u.twin (ioBank a) r v := by
  have places := blockPlaces
  simp (disch := omega) [State.directWrite, waymarkBlock, State.periphWrite, inRange_eq_false,
    inRange_eq_true]

theorem directWrite_pin (h : r < 0x1000) :
    u.directWrite a (ioPin + r) v = u.onPin fun q => q.write a r v := by
  have places := blockPlaces
  simp (disch := omega) [State.directWrite, waymarkBlock, State.periphWrite, inRange_eq_false,
    inRange_eq_true]

end Routes

/-! ## Two fields of one register -/

theorem getLsbD_setBits_of_le {n : Nat} (w : BitVec n) {lo len i : Nat} (x : Nat) (h : lo + len ≤ i) :
    (setBits w lo len x).getLsbD i = w.getLsbD i := by
  have hl : lo ≤ i := by omega
  have h1 : ((2 ^ len - 1) <<< lo).testBit i = false := by
    rw [Nat.testBit_shiftLeft, Nat.testBit_two_pow_sub_one, decide_eq_false (by omega : ¬i - lo < len)]
    simp
  have h2 : ((x % 2 ^ len) <<< lo).testBit i = false := by
    rw [Nat.testBit_shiftLeft, Nat.testBit_mod_two_pow, decide_eq_false (by omega : ¬i - lo < len)]
    simp
  by_cases hn : i < n
  · unfold setBits fieldMask
    rw [BitVec.getLsbD_or, BitVec.getLsbD_and, BitVec.getLsbD_not, BitVec.getLsbD_ofNat,
      BitVec.getLsbD_ofNat, h1, h2]
    simp [hn]
  · rw [BitVec.getLsbD_of_ge _ i (by omega), BitVec.getLsbD_of_ge _ i (by omega)]

/-- A field keeps its value where a field below it is written. -/
theorem bits_setBits_of_le {n : Nat} (w : BitVec n) {lo len lo' : Nat} (len' x : Nat) (h : lo + len ≤ lo') :
    bits (setBits w lo len x) lo' len' = bits w lo' len' := by
  apply Nat.eq_of_testBit_eq
  intro i
  have k := getLsbD_setBits_of_le w x (show lo + len ≤ lo' + i by omega)
  simp only [bits, Nat.testBit_mod_two_pow, Nat.testBit_shiftRight]
  exact congrArg (decide (i < len') && ·) k

/-- The two periods of a register are judged apart (R352). -/
theorem periods_eq (v : Word) :
    periods v =
      (let w := if bits v 0 16 = 0 then setBits v 0 16 1 else v
       if bits v 16 16 = 0 then setBits w 16 16 1 else w) := by
  unfold periods
  have e := bits_setBits_of_le v 16 1 (show 0 + 16 ≤ 16 by decide)
  by_cases h : bits v 0 16 = 0
  · simp only [h, if_true, e]
  · simp only [h, if_false]

/-! ## A register of a block

Each lemma turns what a block's own write makes of a register into what the command makes of the state. -/

section Rows

variable {s : State} {a : Agent} {v : Word} {r : Nat}

theorem pwrRegister {f : Pwr → Pwr} (hw : s.writes a r v) (hr : r < 0x1000) (h4 : r % 4 = 0)
    (hd : ∀ u, State.pwrWrite u r v = u.onPwr f) :
    s.becomes (.registerWrite a (BitVec.ofNat 32 (0x40000000 + r)) v) (s.onPwr f) :=
  register_becomes hw (by omega) h4 (keepsNoted_onPwr f) fun u _ => (directWrite_pwr u a v hr).trans (hd u)

theorem clkRegister {f : Clk → Clk} (hw : s.writes a (0x1000 + r) v) (hr : r < 0x1000) (h4 : r % 4 = 0)
    (hd : ∀ u, State.clkWrite u r v = u.onClk f) :
    s.becomes (.registerWrite a (BitVec.ofNat 32 (0x40000000 + (0x1000 + r))) v) (s.onClk f) :=
  register_becomes hw (by omega) (by omega) (keepsNoted_onClk f) fun u _ =>
    (directWrite_clk u a v hr).trans (hd u)

theorem hrvRegister {f : Hrv → Hrv} (hw : s.writes a (ioHrv + r) v) (hr : r < 0x1000) (h4 : r % 4 = 0)
    (hd : ∀ q m, Hrv.write q m r v = f q) :
    s.becomes (.registerWrite a (BitVec.ofNat 32 (0x40000000 + (ioHrv + r))) v) (s.onHrv f) := by
  have places := blockPlaces
  exact register_becomes hw (by omega) (by omega) (keepsNoted_onHrv f) fun u _ =>
    (directWrite_hrv u a v hr).trans (congrArg u.onHrv (funext fun q => hd q _))

theorem timRegister {n : Nat} {f : Tim → Tim} (hw : s.writes a (ioTim + 0x100 * n + r) v) (hn : n < 12)
    (hr : r < 0x100) (h4 : r % 4 = 0) (hd : ∀ u, State.timWrite u n r v = u.onTim n f) :
    s.becomes (.registerWrite a (BitVec.ofNat 32 (0x40000000 + (ioTim + 0x100 * n + r))) v)
      (s.onTim n f) := by
  have places := blockPlaces
  exact register_becomes hw (by omega) (by omega) (keepsNoted_onTim n f) fun u _ =>
    (directWrite_tim u a v hn hr).trans (hd u)

theorem rtcRegister {f : Rtc → Rtc} (hw : s.writes a (ioRtc + r) v) (hr : r < 0x1000) (h4 : r % 4 = 0)
    (hd : ∀ q b, Rtc.write q b r v = f q) :
    s.becomes (.registerWrite a (BitVec.ofNat 32 (0x40000000 + (ioRtc + r))) v) (s.onRtc f) := by
  have places := blockPlaces
  exact register_becomes hw (by omega) (by omega) (keepsNoted_onRtc f) fun u _ =>
    (directWrite_rtc u a v hr).trans (congrArg u.onRtc (funext fun q => hd q _))

theorem uaRegister {n : Nat} {f : Ua → Ua} (hw : s.writes a (ioUa + 0x100 * n + r) v) (hn : n < 4)
    (hr : r < 0x100) (h4 : r % 4 = 0) (hd : ∀ q, Ua.write q r v = f q) :
    s.becomes (.registerWrite a (BitVec.ofNat 32 (0x40000000 + (ioUa + 0x100 * n + r))) v)
      (s.onUa n f) := by
  have places := blockPlaces
  exact register_becomes hw (by omega) (by omega) (keepsNoted_onUa n f) fun u _ =>
    (directWrite_ua u a v hn hr).trans (congrArg (u.onUa n) (funext hd))

theorem tchRegister {f : Tch → Tch} (hw : s.writes a (ioTch + r) v) (hr : r < 0x1000) (h4 : r % 4 = 0)
    (hd : ∀ q p, Tch.write q p r v = f q) :
    s.becomes (.registerWrite a (BitVec.ofNat 32 (0x40000000 + (ioTch + r))) v) (s.onTch f) := by
  have places := blockPlaces
  exact register_becomes hw (by omega) (by omega) (keepsNoted_onTch f) fun u _ =>
    (directWrite_tch u a v hr).trans (congrArg u.onTch (funext fun q => hd q _))

theorem rfRegister {f : Rf → Rf} (hw : s.writes a (ioRf + r) v) (hr : r < 0x1000) (h4 : r % 4 = 0)
    (hd : ∀ q, Rf.write q r v = f q) :
    s.becomes (.registerWrite a (BitVec.ofNat 32 (0x40000000 + (ioRf + r))) v) (s.onRf f) := by
  have places := blockPlaces
  exact register_becomes hw (by omega) (by omega) (keepsNoted_onRf f) fun u _ =>
    (directWrite_rf u a v hr).trans (congrArg u.onRf (funext hd))

theorem netRegister {f : Net → Net} (hw : s.writes a (ioNet + r) v) (hr : r < 0x1000) (h4 : r % 4 = 0)
    (hd : ∀ u, State.netWrite u r v = u.onNet f) :
    s.becomes (.registerWrite a (BitVec.ofNat 32 (0x40000000 + (ioNet + r))) v) (s.onNet f) := by
  have places := blockPlaces
  exact register_becomes hw (by omega) (by omega) (keepsNoted_onNet f) fun u _ =>
    (directWrite_net u a v hr).trans (hd u)

theorem wdnRegister {f : WdnBank → WdnBank} (hw : s.writes a (ioWdn + r) v) (hr : r < 0x1000)
    (h4 : r % 4 = 0) (hd : ∀ u, State.wdnWrite u a r v = u.onWdnBank (ioBank a) f) :
    s.becomes (.registerWrite a (BitVec.ofNat 32 (0x40000000 + (ioWdn + r))) v)
      (s.onWdnBank (ioBank a) f) := by
  have places := blockPlaces
  exact register_becomes hw (by omega) (by omega) (keepsNoted_onWdnBank _ f) fun u _ =>
    (directWrite_wdn u a v hr).trans (hd u)

theorem memRegister {f : MemRegs → MemRegs} (hw : s.writes a (ioMem + r) v) (hr : r < 0x1000)
    (h4 : r % 4 = 0) (hd : ∀ q, MemRegs.write q r v = f q) :
    s.becomes (.registerWrite a (BitVec.ofNat 32 (0x40000000 + (ioMem + r))) v) (s.onMm f) := by
  have places := blockPlaces
  exact register_becomes hw (by omega) (by omega) (keepsNoted_onMm f) fun u _ =>
    (directWrite_mem u a v hr).trans (congrArg u.onMm (funext hd))

theorem itgRegister {f : Itg → Itg} (hw : s.writes a (ioItg + r) v) (hr : r < 0x1000) (h4 : r % 4 = 0)
    (hd : ∀ u b, State.itgWrite u b r v = u.onItg f) :
    s.becomes (.registerWrite a (BitVec.ofNat 32 (0x40000000 + (ioItg + r))) v) (s.onItg f) := by
  have places := blockPlaces
  exact register_becomes hw (by omega) (by omega) (keepsNoted_onItg f) fun u _ =>
    (directWrite_itg u a v hr).trans (hd u _)

theorem pinRegister {f : Pin → Pin} (hw : s.writes a (ioPin + r) v) (hr : r < 0x1000) (h4 : r % 4 = 0)
    (hd : ∀ q, Pin.write q a r v = f q) :
    s.becomes (.registerWrite a (BitVec.ofNat 32 (0x40000000 + (ioPin + r))) v) (s.onPin f) := by
  have places := blockPlaces
  exact register_becomes hw (by omega) (by omega) (keepsNoted_onPin f) fun u _ =>
    (directWrite_pin u a v hr).trans (congrArg u.onPin (funext hd))

/-- CNT_IE of the writer's own bank (R391). -/
theorem cntIeRegister (hw : s.writes a (ioCnt + 0x04) v) :
    s.becomes (.registerWrite a (BitVec.ofNat 32 (0x40000000 + (ioCnt + 0x04))) v)
      (s.onCnt fun q => { q with ie := vset q.ie (ioBank a) (v &&& 0xFFFFFF#32) }) := by
  have places := blockPlaces
  exact register_becomes hw (by omega) (by omega)
    (keepsNoted_onCnt_ie fun ie => vset ie (ioBank a) (v &&& 0xFFFFFF#32)) fun u _ =>
    directWrite_cnt u a v (by omega)

theorem vmod_fin {α : Type} {n : Nat} (w : Vector α n) (i : Fin n) (f : α → α) :
    vmod w i f = w.set i (f w[i]) := dif_pos i.isLt

/-- A write of CNTn_CFG of a counter that Twin-skin has not taken away (R385, R391). -/
theorem cntWrite_cfg (q : Cnt) {tw : Bool} (b : Nat) (v : Word) {i : Fin 24} (h : counterOff tw i = false) :
    q.write tw b (0x100 + 32 * i) v =
      { q with c := q.c.set i { q.c[i] with cfg := writeRW 0xFF#32 q.c[i].cfg v } } := by
  have hq : (0x100 + 32 * i.val - 0x100) / 32 = i := by omega
  have hm : (0x100 + 32 * i.val - 0x100) % 32 = 0 := by omega
  unfold Cnt.write
  rw [if_neg (by omega), if_neg (by omega), if_neg (by omega), if_pos (by omega)]
  simp only [hq, hm, h, Bool.false_eq_true, if_false, if_true, vmod_fin]

/-- CNTn_CFG of a counter that Twin-skin has not taken away (R385, R391). -/
theorem cntCfgRegister {i : Fin 24} (h : counterOff s.twin i = false)
    (hw : s.writes a (ioCnt + 0x100 + 32 * i) v) :
    s.becomes (.registerWrite a (BitVec.ofNat 32 (0x40000000 + (ioCnt + 0x100 + 32 * i))) v)
      (s.onCnt fun q =>
        { q with c := q.c.set i { q.c[i] with cfg := writeRW 0xFF#32 q.c[i].cfg v } }) := by
  have places := blockPlaces
  have hk : ∀ k : Counter, Counter.setup { k with cfg := writeRW 0xFF#32 k.cfg v } =
      { k.setup with cfg := writeRW 0xFF#32 k.setup.cfg v } := fun _ => rfl
  refine register_becomes hw (by omega) (by omega) (keepsNoted_onCnt_counter i hk) fun u hu => ?_
  rw [Nat.add_assoc, directWrite_cnt u a v (by omega), hu.twin]
  exact congrArg u.onCnt (funext fun q => cntWrite_cfg q (ioBank a) v h)

theorem counterOff_eq_false {tw : Bool} {i : Nat} (h : ¬(tw = true ∧ i < 16 ∧ i / 4 % 2 = 1)) :
    counterOff tw i = false := by
  apply Bool.eq_false_iff.2
  intro k
  unfold counterOff counterCore at k
  rw [Bool.and_eq_true, Bool.and_eq_true, decide_eq_true_eq, decide_eq_true_eq, and_assoc] at k
  exact h k

/-- The registers of channel `k` lie 16 bytes apart from offset 0x20 of a timer (R313). -/
theorem timWrite_channel (u : State) (n : Nat) {k : Nat} (hk : k < 4) (hr : r < 16) :
    u.timWrite n (0x20 + 0x10 * k + r) v = u.timChWrite n k r v := by
  have hq : (0x20 + 0x10 * k + r - 0x20) / 16 = k := by omega
  have hm : (0x20 + 0x10 * k + r) % 16 = r := by omega
  unfold State.timWrite
  rw [if_neg (by omega), if_neg (by omega), if_neg (by omega), if_neg (by omega), if_neg (by omega),
    if_neg (by omega), if_pos (by omega), hq, hm]

/-- A register of a timer's channel, but its CMP (R313). -/
theorem timChannelRegister {n : Nat} {k : Fin 4} {f : TimCh → TimCh}
    (hw : s.writes a (ioTim + 0x100 * n + 0x20 + 0x10 * k + r) v) (hn : n < 12) (hr : r < 16)
    (h4 : r % 4 = 0)
    (hd : ∀ u, State.timChWrite u n k r v = u.onTim n fun q => { q with ch := vmod q.ch k f }) :
    s.becomes
      (.registerWrite a (BitVec.ofNat 32 (0x40000000 + (ioTim + 0x100 * n + 0x20 + 0x10 * k + r))) v)
      (s.onTim n fun q => { q with ch := q.ch.set k (f q.ch[k]) }) := by
  have e : ioTim + 0x100 * n + 0x20 + 0x10 * k + r = ioTim + 0x100 * n + (0x20 + 0x10 * k + r) := by omega
  rw [e] at hw ⊢
  refine timRegister hw hn (by omega) (by omega) fun u => ?_
  rw [timWrite_channel u n k.isLt hr, hd]
  simp only [vmod_fin]

theorem tchWrite_per01 (q : Tch) (p : Pin) : q.write p 0x24 v = { q with per01 := periods v } := rfl

/-- A reserved offset of a block ignores the write (R3). -/
theorem reservedRegister (hw : s.writes a r v) (hr : r < 0x100000) (h4 : r % 4 = 0)
    (hd : ∀ u : State, u.directWrite a r v = u) :
    s.becomes (.registerWrite a (BitVec.ofNat 32 (0x40000000 + r)) v) s :=
  register_becomes hw hr h4 keepsNoted_id fun u _ => hd u

theorem directWrite_evt_reserved (u : State) : u.directWrite a (ioEvt + 0x04) v = u :=
  directWrite_evt u a v (by decide) (by decide)

theorem directWrite_wdn_migcnt (u : State) : u.directWrite a (ioWdn + 0x94) v = u := by
  rw [directWrite_wdn u a v (by decide)]
  cases a <;> rfl

theorem directWrite_ua0_level (u : State) : u.directWrite a (ioUa + 0x18) v = u := by
  refine (directWrite_ua u a v (n := 0) (by decide) (by decide)).trans ?_
  have e : (fun q : Ua => q.write 0x18 v) = fun q => q := funext fun _ => rfl
  have k : vmod u.per.ua 0 (fun q => q) = u.per.ua := by simp [vmod]
  rw [e]
  show ({ u with per := { u.per with ua := vmod u.per.ua 0 fun q => q } } : State) = u
  rw [k]

end Rows

/-- Settles O33: every register listed takes what its block's write stores, by the lemma of its block. -/
theorem registersWithoutRow : Obligations.RegistersWithoutRow := by
  unfold Obligations.RegistersWithoutRow
  intro s a v t k i i' put b per01 ch
  refine ⟨
    -- PWR and CLK
    fun h => pwrRegister h (by decide) rfl fun _ => rfl,
    fun h => pwrRegister h (by decide) rfl fun _ => rfl,
    fun h => pwrRegister h (by decide) rfl fun _ => rfl,
    fun h => pwrRegister h (by decide) rfl fun _ => rfl,
    fun h => pwrRegister h (by decide) rfl fun _ => rfl,
    fun h => clkRegister (r := 0) h (by decide) rfl fun _ => rfl,
    fun h => clkRegister (r := 4) h (by decide) rfl fun _ => rfl,
    -- HRV
    fun h => hrvRegister h (by decide) rfl fun _ _ => rfl,
    fun h => hrvRegister h (by decide) rfl fun _ _ => rfl,
    -- a timer, and channel `k` of it
    fun h => timRegister h t.isLt (by decide) rfl fun _ => rfl,
    fun h => timRegister h t.isLt (by decide) rfl fun _ => rfl,
    fun h => timRegister h t.isLt (by decide) rfl fun _ => rfl,
    fun h => timChannelRegister (r := 0) h t.isLt (by decide) rfl fun _ => rfl,
    fun h => timChannelRegister h t.isLt (by decide) rfl fun _ => rfl,
    fun h => timChannelRegister h t.isLt (by decide) rfl fun _ => rfl,
    -- RTC
    fun h => rtcRegister h (by decide) rfl fun _ _ => rfl,
    fun h => rtcRegister h (by decide) rfl fun _ _ => rfl,
    fun h => rtcRegister h (by decide) rfl fun _ _ => rfl,
    -- a serial line
    fun h => uaRegister h k.isLt (by decide) rfl fun _ => rfl,
    fun h => uaRegister h k.isLt (by decide) rfl fun _ => rfl,
    fun h => uaRegister h k.isLt (by decide) rfl fun _ => rfl,
    -- TCH
    fun h => tchRegister h (by decide) rfl fun _ _ => rfl,
    fun h => tchRegister h (by decide) rfl fun _ _ => rfl,
    fun h => tchRegister h (by decide) rfl fun q _ => by rw [tchWrite_per01, periods_eq],
    -- RF and NET
    fun h => rfRegister h (by decide) rfl fun _ => rfl,
    fun h => rfRegister h (by decide) rfl fun _ => rfl,
    fun h => rfRegister h (by decide) rfl fun _ => rfl,
    fun h => netRegister h (by decide) rfl fun _ => rfl,
    fun h => netRegister h (by decide) rfl fun _ => rfl,
    fun h => netRegister h (by decide) rfl fun _ => rfl,
    -- the writer's bank of WDN
    fun h => wdnRegister h (by decide) rfl fun _ => rfl,
    fun h => wdnRegister h (by decide) rfl fun _ => rfl,
    fun h => wdnRegister h (by decide) rfl fun _ => rfl,
    -- MEM and ITG
    fun h => memRegister (r := 0) h (by decide) rfl fun _ => rfl,
    fun h => memRegister h (by decide) rfl fun _ => rfl,
    fun h => itgRegister h (by decide) rfl fun _ _ => rfl,
    fun h => itgRegister h (by decide) rfl fun _ _ => rfl,
    -- CNT and PIN
    cntIeRegister,
    fun hi h => cntCfgRegister (counterOff_eq_false hi) h,
    fun h => pinRegister (r := 0) h (by decide) rfl fun _ => rfl,
    -- reserved offsets
    fun h => reservedRegister h (by decide) rfl directWrite_evt_reserved,
    fun h => reservedRegister h (by decide) rfl directWrite_ua0_level,
    fun h => reservedRegister h (by decide) rfl directWrite_wdn_migcnt,
    fun h => reservedRegister h (by decide) rfl fun u => directWrite_pwr u a v (by decide)⟩

end Sys2Proof.Machine

/-! # The station engine: resets, watchdogs, Strikes, wakes and supplies

What a reset, a record of the fault log and the words of a Strike make of the state, and the statements about the
events that lead to them. -/

namespace Sys2Proof.Machine

open Sys2Proof

/-! ## Fields of a word -/

theorem bit_setBits {n : Nat} (w : BitVec n) (lo len x i : Nat) :
    bit (setBits w lo len x) i =
      if lo ≤ i ∧ i < lo + len ∧ i < n then x.testBit (i - lo) else bit w i := by
  by_cases hn : i < n
  · simp only [bit, setBits, fieldMask, BitVec.getLsbD_or, BitVec.getLsbD_and, BitVec.getLsbD_not,
      BitVec.getLsbD_ofNat, Nat.testBit_shiftLeft, Nat.testBit_two_pow_sub_one, Nat.testBit_mod_two_pow, hn]
    by_cases hlo : lo ≤ i
    · by_cases hhi : i < lo + len
      · simp [hlo, hhi, show i - lo < len by omega]
      · simp [hhi, show ¬i - lo < len by omega]
    · simp [hlo]
  · simp only [hn, and_false, if_false]
    simp only [bit, BitVec.getLsbD_of_ge _ i (Nat.le_of_not_lt hn)]

theorem testBit_bits {n : Nat} (w : BitVec n) (lo len i : Nat) :
    (bits w lo len).testBit i = (decide (i < len) && bit w (lo + i)) := by
  simp only [bits, bit, Nat.testBit_mod_two_pow, Nat.testBit_shiftRight]
  rfl

/-- A field is determined by its bits. -/
theorem bits_congr {n : Nat} {v w : BitVec n} {lo len : Nat}
    (h : ∀ i < len, bit v (lo + i) = bit w (lo + i)) : bits v lo len = bits w lo len := by
  refine Nat.eq_of_testBit_eq fun i => ?_
  rw [testBit_bits, testBit_bits]
  by_cases hi : i < len
  · rw [h i hi]
  · simp [hi]

/-- A field reads as what was written to it. -/
theorem bits_setBits_same {n : Nat} (w : BitVec n) {lo len : Nat} (x : Nat) (h : lo + len ≤ n) :
    bits (setBits w lo len x) lo len = x % 2 ^ len := by
  refine Nat.eq_of_testBit_eq fun i => ?_
  rw [testBit_bits, Nat.testBit_mod_two_pow, bit_setBits]
  by_cases hi : i < len
  · rw [if_pos (by omega), Nat.add_sub_cancel_left]
  · simp [hi]

/-! ## Bytes as numbers -/

theorem numOf_bytesOfNat : ∀ k n : Nat, numOf (bytesOfNat k n) = n % 256 ^ k
  | 0, n => by simp [bytesOfNat, numOf, Nat.mod_one]
  | k + 1, n => by
    rw [bytesOfNat, numOf, numOf_bytesOfNat k, Nat.pow_succ', Nat.mod_mul]
    rfl

theorem numOf_bytesOf (w : Word) : numOf (bytesOf w) = w.toNat := by
  simp only [bytesOf, numOf, BitVec.extractLsb'_toNat, Nat.shiftRight_eq_div_pow]
  have := w.isLt
  omega

/-- Bytes that stand in memory one after another are read back in any part. -/
theorem Memory.bytes_slice {m : Memory} {a : Nat} {l : List Byte} (h : ∀ i (hi : i < l.length), m.byte (a + i) = l[i])
    (lo n : Nat) (hn : lo + n ≤ l.length) : m.bytes (a + lo) n = (l.drop lo).take n := by
  rw [bytes_eq_map]
  refine List.ext_getElem (by simp; omega) fun i h1 h2 => ?_
  simp only [List.length_map, List.length_range] at h1
  simp only [List.getElem_map, List.getElem_range, List.getElem_take, List.getElem_drop, Nat.add_assoc]
  exact h (lo + i) (by omega)

/-! ## Memory after a reset -/

/-- A reset keeps MRAM. -/
theorem State.deviceReset_byte (s : State) (causes wake : Word) {x : Nat} (h : inMram x = true) :
    (s.deviceReset causes wake).mem.byte x = s.mem.byte x := by
  refine (readCell_filter (fun a => inMram a || inRom a) x s.mem.cells).trans ?_
  rw [h]
  rfl

section Reset

variable (s : State) (causes wake : Word)

@[simp] theorem State.deviceReset_mode : (s.deviceReset causes wake).rp.mode = .cold := rfl
@[simp] theorem State.deviceReset_pwr : (s.deviceReset causes wake).pwr = s.pwr.afterReset causes wake := rfl
@[simp] theorem State.deviceReset_total :
    (s.deviceReset causes wake).itg.total = headerTotal (s.deviceReset causes wake).mem := rfl
@[simp] theorem State.deviceReset_ecc :
    (s.deviceReset causes wake).mem.ecc = s.mem.ecc.filter fun e => inMram e.1 := rfl

end Reset

theorem inMram_iff (x : Nat) : inMram x = true ↔ mramBase ≤ x ∧ x < mramBase + 0x800000 := by
  simp [inMram, inRange]

/-! ## Writes of whole words

They change memory and the wear of MRAM banks alone. -/

/-- `t` is `s` but for memory and wear counts. -/
def State.Burned (s t : State) : Prop := ∃ m v, t = { s with mem := m, mm := { s.mm with wear := v } }

namespace State.Burned

variable {s t u : State}

theorem refl (s : State) : s.Burned s := ⟨s.mem, s.mm.wear, rfl⟩

theorem trans (h : s.Burned t) (k : t.Burned u) : s.Burned u := by
  obtain ⟨m, v, rfl⟩ := h
  obtain ⟨m', v', rfl⟩ := k
  exact ⟨m', v', rfl⟩

/-- A part of the state that memory and wear counts are no part of. -/
theorem same (h : s.Burned t) {α : Type} (f : State → α)
    (hf : ∀ m v, f { s with mem := m, mm := { s.mm with wear := v } } = f s) : f t = f s := by
  obtain ⟨m, v, rfl⟩ := h
  exact hf m v

end State.Burned

section Whole

variable (s : State) (a : Nat) (bs : List Byte)

theorem State.writeWhole_burned : s.Burned (s.writeWhole a bs) := by
  unfold State.writeWhole
  dsimp only
  split
  · split
    · exact ⟨_, _, rfl⟩
    · exact ⟨_, s.mm.wear, rfl⟩
  · exact ⟨_, s.mm.wear, rfl⟩

/-- The bytes written are in their places, and every other byte is as it was. -/
theorem State.writeWhole_byte (x : Nat) : (s.writeWhole a bs).mem.byte x =
    if a ≤ x ∧ x < a + bs.length then bs.getD (x - a) 0#8 else s.mem.byte x := by
  rw [← byte_setBytes]
  unfold State.writeWhole
  dsimp only
  split
  · split <;> rfl
  · rfl

theorem State.writeWhole_ecc (h : s.mem.ecc = []) : (s.writeWhole a bs).mem.ecc = [] := by
  unfold State.writeWhole
  dsimp only
  split
  · split <;> simp [State.onMem, State.onMm, h]
  · simp [State.onMem, h]

end Whole

/-! ## A record of the fault log (R149, R150) -/

section Record

variable (s : State) (f : FaultInfo) (action : Nat)

/-- The place of the next entry of the fault log. -/
def State.logSlot (s : State) : Nat := logBase + 64 * (s.itg.total.toNat % 64)

theorem faultEntry_length : (faultEntry s f action).length = 64 := by
  simp [faultEntry, faultBody, bytesOf, bytesOfNat_length]

/-- The record of a fault changes memory, wear and the ITG block alone. -/
theorem State.recordFault_burned : ∃ t g, s.Burned t ∧ s.recordFault f action = { t with itg := g } := by
  refine ⟨_, _, (s.writeWhole_burned _ _).trans (State.writeWhole_burned _ _ _), rfl⟩

@[simp] theorem State.recordFault_pwr : (s.recordFault f action).pwr = s.pwr := by
  obtain ⟨t, g, h, e⟩ := s.recordFault_burned f action
  rw [e]
  exact h.same State.pwr fun _ _ => rfl

@[simp] theorem State.recordFault_cores : (s.recordFault f action).cores = s.cores := by
  obtain ⟨t, g, h, e⟩ := s.recordFault_burned f action
  rw [e]
  exact h.same State.cores fun _ _ => rfl

@[simp] theorem State.recordFault_rp : (s.recordFault f action).rp = s.rp := by
  obtain ⟨t, g, h, e⟩ := s.recordFault_burned f action
  rw [e]
  exact h.same State.rp fun _ _ => rfl

@[simp] theorem State.recordFault_total : (s.recordFault f action).itg.total = s.itg.total + 1#32 := rfl

/-- The two halves of the header of the fault log. -/
def headerBytes (t : Word) : List Byte := bytesOf t ++ bytesOf (~~~t)

theorem State.recordFault_byte (x : Nat) : (s.recordFault f action).mem.byte x =
    if logHeader ≤ x ∧ x < logHeader + 8 then (headerBytes (s.itg.total + 1#32)).getD (x - logHeader) 0#8
    else if s.logSlot ≤ x ∧ x < s.logSlot + 64 then (faultEntry s f action).getD (x - s.logSlot) 0#8
    else s.mem.byte x := by
  rw [State.recordFault, State.onItg_mem, State.writeWhole_byte, State.writeWhole_byte, faultEntry_length]
  rfl

theorem logSlot_bounds : mramBase + 0x1000 ≤ s.logSlot ∧ s.logSlot + 64 ≤ logHeader := by
  have := Nat.mod_lt s.itg.total.toNat (show 0 < 64 by decide)
  unfold State.logSlot logHeader logBase
  omega

theorem State.recordFault_entry {i : Nat} (hi : i < 64) :
    (s.recordFault f action).mem.byte (s.logSlot + i) = (faultEntry s f action).getD i 0#8 := by
  have := logSlot_bounds s
  rw [State.recordFault_byte, if_neg (by omega), if_pos (by omega), Nat.add_sub_cancel_left]

theorem State.recordFault_class :
    (s.recordFault f action).mem.byte (s.logSlot + 4) = BitVec.ofNat 8 f.cls :=
  s.recordFault_entry f action (by decide)

theorem State.recordFault_unit :
    (s.recordFault f action).mem.byte (s.logSlot + 5) = BitVec.ofNat 8 f.unit :=
  s.recordFault_entry f action (by decide)

/-- TOTAL is read from a header whose halves agree (R149). -/
theorem headerTotal_of_header {m : Memory} {t : Word}
    (h : ∀ i < 8, m.byte (logHeader + i) = (headerBytes t).getD i 0#8) : headerTotal m = t := by
  have k : ∀ i (hi : i < (headerBytes t).length), m.byte (logHeader + i) = (headerBytes t)[i] := fun i hi => by
    rw [h i hi, List.getD_eq_getElem _ _ hi]
  have lo : m.word logHeader = t := by
    have e := Memory.bytes_slice k 0 4 (show 4 ≤ 8 by decide)
    rw [Nat.add_zero] at e
    rw [Memory.word, Memory.num, e, show ((headerBytes t).drop 0).take 4 = bytesOf t from rfl, numOf_bytesOf,
      BitVec.ofNat_toNat, BitVec.setWidth_eq]
  have hi : m.word (logHeader + 4) = ~~~t := by
    rw [Memory.word, Memory.num, Memory.bytes_slice k 4 4 (show 8 ≤ 8 by decide),
      show ((headerBytes t).drop 4).take 4 = bytesOf (~~~t) from rfl, numOf_bytesOf, BitVec.ofNat_toNat,
      BitVec.setWidth_eq]
  simp only [headerTotal, lo, hi, if_true]

/-- A reset shows the TOTAL of the record that stands in MRAM. -/
theorem headerTotal_of_recordFault {m : Memory}
    (h : ∀ x, inMram x = true → m.byte x = (s.recordFault f action).mem.byte x) :
    headerTotal m = s.itg.total + 1#32 := by
  refine headerTotal_of_header fun i hi => ?_
  have hm : inMram (logHeader + i) = true := by
    rw [inMram_iff]
    unfold logHeader
    omega
  rw [h _ hm, State.recordFault_byte, if_pos (by omega), Nat.add_sub_cancel_left]

theorem inMram_logSlot {i : Nat} (hi : i < 64) : inMram (s.logSlot + i) = true := by
  have := logSlot_bounds s
  rw [inMram_iff]
  unfold logHeader mramBase at *
  omega

end Record

/-! ## Watchdogs (R178, R179) -/

section Watchdog

variable (s : State) (f : FaultInfo) (action : Nat)

theorem resetDue_of_none {s : State} (cause : Word) (h : s.pwr.strike = none) :
    s.resetDue cause = s.deviceReset cause 0#32 := by
  rw [State.resetDue, h]

theorem resetDue_of_some {s : State} (cause : Word) {k : Strike} (h : s.pwr.strike = some k) :
    s.resetDue cause = s.onPwr fun p => { p with strike := some (k.due cause) } := by
  rw [State.resetDue, h]

/-- The record of a fault stands in MRAM through the reset that it leads to. -/
theorem recordFault_deviceReset (u : State) (causes wake : Word) (h : u.mem = (s.recordFault f action).mem) :
    let t := u.deviceReset causes wake
    t.mem.byte (s.logSlot + 4) = BitVec.ofNat 8 f.cls ∧ t.mem.byte (s.logSlot + 5) = BitVec.ofNat 8 f.unit ∧
      t.itg.total = s.itg.total + 1#32 := by
  have keeps : ∀ x, inMram x = true →
      (u.deviceReset causes wake).mem.byte x = (s.recordFault f action).mem.byte x := fun x hx => by
    rw [State.deviceReset_byte _ _ _ hx, h]
  dsimp only
  refine ⟨?_, ?_, ?_⟩
  · rw [keeps _ (inMram_logSlot s (by decide)), State.recordFault_class]
  · rw [keeps _ (inMram_logSlot s (by decide)), State.recordFault_unit]
  · rw [State.deviceReset_total, headerTotal_of_recordFault s f action keeps]

/-- A record, and the reset that it leads to at once or at the end of the Strike that runs (R16). -/
theorem resetDue_recordFault (cause : Word) :
    let t := (s.recordFault f action).resetDue cause
    t.mem.byte (s.logSlot + 4) = BitVec.ofNat 8 f.cls ∧ t.mem.byte (s.logSlot + 5) = BitVec.ofNat 8 f.unit ∧
      t.itg.total = s.itg.total + 1#32 ∧
      (s.pwr.strike = none → t.rp.mode = .cold ∧ t.pwr.cause = cause) ∧
      (∀ k, s.pwr.strike = some k → t.rp.mode = s.rp.mode ∧ t.cores = s.cores ∧
        t.pwr = { s.pwr with strike := some (k.due cause) }) := by
  dsimp only
  cases hk : s.pwr.strike with
  | none =>
    rw [resetDue_of_none cause (by rw [State.recordFault_pwr, hk])]
    obtain ⟨hcls, hunit, htotal⟩ := recordFault_deviceReset s f action _ cause 0#32 rfl
    refine ⟨hcls, hunit, htotal, fun _ => ⟨State.deviceReset_mode .., ?_⟩, fun _ e => nomatch e⟩
    rw [State.deviceReset_pwr, Pwr.afterReset]
  | some k =>
    rw [resetDue_of_some cause (by rw [State.recordFault_pwr, hk])]
    refine ⟨s.recordFault_class f action, s.recordFault_unit f action, s.recordFault_total f action,
      (fun e => nomatch e), fun j e => ?_⟩
    cases e
    simp

end Watchdog

theorem any_halted_eq_false (s : State) :
    s.cores.toList.any (·.halted) = false ↔ ∀ c : CoreId, s.cores[c].halted = false := by
  rw [List.any_eq_false]
  constructor
  · intro h c
    simpa using h s.cores[c] (by simp)
  · intro h k hk
    obtain ⟨i, hi, rfl⟩ := List.getElem_of_mem hk
    simpa using h ⟨i, by simpa using hi⟩

/-- Settles O39: a watchdog's expiry is its record and then the reset that is due; the warning is one firing. That
CANVAS_WATCHDOG_EXPIRE acts only at a count of 0 is the model's choice (assumption 59). -/
theorem watchdogEvents : Obligations.WatchdogEvents := by
  unfold Obligations.WatchdogEvents
  intro s slot canvas resets
  have expires : ∀ (i : Instr) (unit : Nat),
      exec i s = .next (finish s (((s.useFree 1).recordFault
        { cls := 0x10, unit := unit, pc0 := Config.freeWord s.free } 0).resetDue 0x20#32)) → resets i unit := by
    intro i unit hi
    obtain ⟨hcls, hunit, htotal, hnone, hsome⟩ := resetDue_recordFault (s.useFree 1)
      { cls := 0x10, unit := unit, pc0 := Config.freeWord s.free } 0 0x20#32
    refine ⟨_, hi, ?_⟩
    simp only [finish_mem, finish_itg_total, finish_rp_mode, finish_pwr, finish_cores]
    exact ⟨hcls, hunit, htotal, hnone, hsome⟩
  have hcanvas : (s.domainOn && decide (s.rp.mode = .up) && decide (s.rp.wdog ≠ 0) && decide (s.rp.wdogLeft = 0) &&
      !s.cores.toList.any (·.halted)) = true ↔ canvas := by
    simp only [Bool.and_eq_true, Bool.not_eq_true', decide_eq_true_eq, any_halted_eq_false, State.domainOn, and_assoc,
      canvas]
  refine ⟨fun h => State.becomes_of ?_, fun h => expires _ _ ?_, fun h => State.becomes_of ?_,
    fun h => expires _ _ ?_, fun h => ?_⟩
  · show Host.Outcome.next (finish s s.canvasWatchdog) = _
    rw [State.canvasWatchdog, if_neg (mt hcanvas.1 h)]
  · show Host.Outcome.next (finish s s.canvasWatchdog) = _
    rw [State.canvasWatchdog, if_pos (hcanvas.2 h)]
  · show Host.Outcome.next (finish s s.ridgeWatchdog) = _
    rw [State.ridgeWatchdog, if_neg (by simpa [State.domainOn] using h)]
  · show Host.Outcome.next (finish s s.ridgeWatchdog) = _
    rw [State.ridgeWatchdog, if_pos (by simpa [State.domainOn] using h)]
  · have noted : State.Noted { s with inflight := ⟨190, 0, []⟩ :: s.inflight } (s.fire 190) := by
      have k := s.fire_setup 190
      refine ⟨rfl, rfl, rfl, rfl, fun _ _ e => e, fun p hp => ?_⟩
      rcases List.mem_cons.1 hp with rfl | hp
      · exact ⟨⟨190, 0, []⟩, List.mem_append_right _ (List.mem_singleton.2 rfl), .refl _⟩
      · exact k.inflight p hp
    refine ⟨_, ?_, noted.settles s⟩
    show Host.Outcome.next (finish s (s.awake fun s => s.fire 190)) = _
    rw [State.awake, if_pos h]

/-! ## Reset values -/

/-- Settles O56: each register of the reset state is the constant of its table, and each bank of registers is one
value repeated. -/
theorem resetState : Obligations.ResetState := by
  unfold Obligations.ResetState
  intro s
  have banks : ∀ {α : Type} {n : Nat} (x : α) (i : Fin n), (Vector.replicate n x)[i] = x := by simp
  have cause : bit Pwr.reset.cause 0 = true := by decide
  have point : bits Pwr.reset.opp 4 2 = 0 := by decide
  have divider : bits Clk.reset.stat 8 2 = 2 := by decide
  refine ⟨rfl, rfl, fun c => ?_, fun b => ?_, fun n => banks _ n, fun i => ?_, fun i => ?_, rfl, rfl, cause, rfl,
    point, divider, rfl, fun n => ?_, fun n => ?_, rfl, rfl, rfl, rfl, rfl, rfl, fun b => banks _ b, rfl, rfl, rfl⟩
  · rw [show s.cores[c] = Core.reset from banks _ c]
    exact ⟨rfl, rfl⟩
  · rw [show s.irq[b] = IrqBank.reset from banks _ b]
    exact ⟨rfl, rfl, rfl, rfl⟩
  · rw [show s.wdn.obj[i] = ObjEntry.empty from banks _ i]
    rfl
  · rw [show s.wdn.tsk[i] = TaskEntry.empty from banks _ i]
    rfl
  · rw [show s.per.tim[n] = Tim.reset from banks _ n]
    exact ⟨rfl, rfl⟩
  · rw [show s.per.ua[n] = Ua.reset from banks _ n]
    exact ⟨rfl, rfl, rfl⟩

end Sys2Proof.Machine

/-! # Strikes and wakes -/

namespace Sys2Proof.Machine

open Sys2Proof

/-! ## The words of a Strike (R97) -/

/-- The word puts a byte at `x`. -/
def wordCovers (w : Nat × List Byte × Bool) (x : Nat) : Prop := w.1 ≤ x ∧ x < w.1 + w.2.1.length

section Words

variable (s : State) (w : Nat × List Byte × Bool) (l : List (Nat × List Byte × Bool))

theorem State.strikeWord_burned : s.Burned (s.strikeWord w) := by
  have h := s.writeWhole_burned w.1 w.2.1
  unfold State.strikeWord
  dsimp only
  split
  · exact h.trans ⟨_, (s.writeWhole w.1 w.2.1).mm.wear, rfl⟩
  · exact h

theorem State.strikeWord_byte_of_covers {x : Nat} (h : wordCovers w x) :
    (s.strikeWord w).mem.byte x = w.2.1.getD (x - w.1) 0#8 := by
  have e := (s.writeWhole_byte w.1 w.2.1 x).trans (if_pos h)
  unfold State.strikeWord
  dsimp only
  split <;> exact e

theorem State.strikeWord_byte_apart {x : Nat} (h : ¬wordCovers w x) :
    (s.strikeWord w).mem.byte x = s.mem.byte x := by
  have e := (s.writeWhole_byte w.1 w.2.1 x).trans (if_neg h)
  unfold State.strikeWord
  dsimp only
  split <;> exact e

/-- A word without an uncorrectable error brings none into memory. -/
theorem State.strikeWord_ecc (h : s.mem.ecc = []) (hw : w.2.2 = false) : (s.strikeWord w).mem.ecc = [] := by
  unfold State.strikeWord
  simp only [hw, Bool.false_eq_true, if_false]
  exact s.writeWhole_ecc _ _ h

theorem strikeWords_burned :
    ∀ (l : List (Nat × List Byte × Bool)) (s : State), s.Burned (l.foldl State.strikeWord s)
  | [], s => .refl s
  | w :: l, s => (s.strikeWord_burned w).trans (strikeWords_burned l (s.strikeWord w))

theorem strikeWords_ecc : ∀ (l : List (Nat × List Byte × Bool)) (s : State), s.mem.ecc = [] →
    (∀ w ∈ l, w.2.2 = false) → (l.foldl State.strikeWord s).mem.ecc = []
  | [], _, h, _ => h
  | w :: l, s, h, hl =>
    strikeWords_ecc l _ (s.strikeWord_ecc w h (hl w List.mem_cons_self)) fun v hv => hl v (List.mem_cons_of_mem _ hv)

/-- Where every word that covers a place puts the same byte, that byte stands there in the end. -/
theorem strikeWords_byte {x : Nat} {v : Byte} : ∀ (l : List (Nat × List Byte × Bool)) (s : State),
    (∀ w ∈ l, wordCovers w x → w.2.1.getD (x - w.1) 0#8 = v) → (s.mem.byte x = v ∨ ∃ w ∈ l, wordCovers w x) →
    (l.foldl State.strikeWord s).mem.byte x = v
  | [], _, _, h => h.elim id fun ⟨_, hw, _⟩ => nomatch hw
  | w :: l, s, hv, h => by
    refine strikeWords_byte l (s.strikeWord w) (fun u hu => hv u (List.mem_cons_of_mem _ hu)) ?_
    by_cases hw : wordCovers w x
    · exact .inl ((s.strikeWord_byte_of_covers w hw).trans (hv w List.mem_cons_self hw))
    · rw [s.strikeWord_byte_apart w hw]
      refine h.imp_right fun ⟨u, hu, hc⟩ => ⟨u, ?_, hc⟩
      rcases List.mem_cons.1 hu with rfl | hu
      · exact absurd hc hw
      · exact hu

/-- A place that no word covers keeps its byte. -/
theorem strikeWords_byte_apart {x : Nat} (l : List (Nat × List Byte × Bool)) (s : State)
    (h : ∀ w ∈ l, ¬wordCovers w x) : (l.foldl State.strikeWord s).mem.byte x = s.mem.byte x :=
  strikeWords_byte l s (fun w hw hc => absurd hc (h w hw)) (.inl rfl)

end Words

/-! ## The images of the dirty lines -/

section Lines

variable (s : State)

theorem freeImage_bounds (r : MemRegs) {l : Nat} (hl : l < 256) :
    mramBase + 0x8000 ≤ r.freeImage l ∧ r.freeImage l + 64 ≤ mramBase + 0x10000 := by
  unfold MemRegs.freeImage
  split <;> omega

/-- The free images of two lines lie apart. -/
theorem freeImage_inj (r : MemRegs) {l l' j j' : Nat} (hl : l < 256) (hl' : l' < 256) (hj : j < 64) (hj' : j' < 64)
    (h : r.freeImage l + j = r.freeImage l' + j') : l = l' ∧ j = j' := by
  unfold MemRegs.freeImage at h
  split at h <;> split at h <;> omega

theorem mem_dirtyLines (r : MemRegs) (l : Nat) : l ∈ r.dirtyLines ↔ l < 256 ∧ bit r.dirty l = true := by
  simp [MemRegs.dirtyLines, indices]

theorem mem_strikeLines {w : Nat × List Byte × Bool} (h : w ∈ s.strikeLines) :
    ∃ l k, (l < 256 ∧ bit s.mm.dirty l = true) ∧ k < 8 ∧ w.1 = s.mm.freeImage l + 8 * k ∧
      w.2.1 = s.mem.bytes (emberBase + 64 * l + 8 * k) 8 := by
  obtain ⟨l, hl, hw⟩ := List.mem_flatMap.1 h
  obtain ⟨k, hk, rfl⟩ := List.mem_map.1 hw
  exact ⟨l, k, (mem_dirtyLines _ _).1 hl, List.mem_range.1 hk, rfl, rfl⟩

/-- A word of step 2 puts a byte of a dirty line into its place in the line's free image. -/
theorem strikeLines_covers {w : Nat × List Byte × Bool} {x : Nat} (h : w ∈ s.strikeLines) (hx : wordCovers w x) :
    ∃ l j, l < 256 ∧ bit s.mm.dirty l = true ∧ j < 64 ∧ x = s.mm.freeImage l + j ∧
      w.2.1.getD (x - w.1) 0#8 = s.mem.byte (emberBase + 64 * l + j) := by
  obtain ⟨l, k, ⟨hl, hd⟩, hk, ha, hb⟩ := mem_strikeLines s h
  obtain ⟨h1, h2⟩ := hx
  rw [hb, Memory.bytes_length] at h2
  refine ⟨l, x - s.mm.freeImage l, hl, hd, by omega, by omega, ?_⟩
  have hi : x - w.1 < ((List.range 8).map fun j => s.mem.byte (emberBase + 64 * l + 8 * k + j)).length := by
    simp; omega
  rw [hb, bytes_eq_map, List.getD_eq_getElem _ _ hi]
  simp only [List.getElem_map, List.getElem_range]
  congr 1
  omega

theorem strikeLines_covered {l j : Nat} (hl : l < 256) (hd : bit s.mm.dirty l = true) (hj : j < 64) :
    ∃ w ∈ s.strikeLines, wordCovers w (s.mm.freeImage l + j) := by
  refine ⟨_, List.mem_flatMap.2 ⟨l, (mem_dirtyLines _ _).2 ⟨hl, hd⟩,
    List.mem_map.2 ⟨j / 8, List.mem_range.2 (by omega), rfl⟩⟩, ?_⟩
  simp only [wordCovers, Memory.bytes_length]
  omega

theorem strikeLines_length : s.strikeLines.length = 8 * s.mm.dirtyLines.length := by
  simp [State.strikeLines, List.length_flatMap, Nat.mul_comm]

/-- Without an error in memory no word of step 2 has one. -/
theorem strikeLines_correct (h : s.mem.ecc = []) : ∀ w ∈ s.strikeLines, w.2.2 = false := by
  intro w hw
  obtain ⟨l, -, hw⟩ := List.mem_flatMap.1 hw
  obtain ⟨k, -, rfl⟩ := List.mem_map.1 hw
  simp [Memory.eccOf, h]

end Lines

/-! ## The commit record (R99) -/

section CommitRecord

variable (r : MemRegs)

theorem recordBody_length : r.recordBody.length = 188 := by
  simp [MemRegs.recordBody, bytesOf, bytesOfNat_length, List.length_flatMap]

theorem record_length : r.record.length = 192 := by
  simp [MemRegs.record, bytesOf, recordBody_length]

theorem recordBase_bounds (b : Bool) :
    mramBase + 0x10000 ≤ recordBase b ∧ recordBase b + 256 ≤ mramBase + 0x10200 := by
  cases b <;> exact ⟨by decide, by decide⟩

/-- The two slots of the commit record lie apart. -/
theorem recordBase_apart (b : Bool) {i j : Nat} (hi : i < 256) (hj : j < 256) :
    recordBase (!b) + i ≠ recordBase b + j := by
  cases b <;> simp only [recordBase, Bool.not_true, Bool.not_false, if_true, Bool.false_eq_true, if_false] <;> omega

/-- The record of `r` stands in a slot of memory. -/
def Memory.holdsRecord (m : Memory) (b : Bool) (r : MemRegs) : Prop :=
  ∀ i (hi : i < r.record.length), m.byte (recordBase b + i) = r.record[i]

variable {m : Memory} {b : Bool} {r}

theorem Memory.holdsRecord.bytes (h : m.holdsRecord b r) (lo n : Nat) (hn : lo + n ≤ 192) :
    m.bytes (recordBase b + lo) n = (r.record.drop lo).take n :=
  Memory.bytes_slice h lo n (by rw [record_length]; exact hn)

theorem Memory.holdsRecord.ok (h : m.holdsRecord b r) (he : m.ecc = []) : recordOk m b = true := by
  have body : m.bytes (recordBase b) 188 = r.recordBody := by
    have k := h.bytes 0 188 (by decide)
    rw [Nat.add_zero, List.drop_zero] at k
    rw [k, MemRegs.record, List.take_left' (recordBody_length r)]
  have check : m.word (recordBase b + 188) = crc32 r.recordBody := by
    rw [Memory.word, Memory.num, h.bytes 188 4 (by decide), MemRegs.record,
      List.drop_left' (recordBody_length r), List.take_of_length_le (Nat.le_refl 4), numOf_bytesOf,
      BitVec.ofNat_toNat, BitVec.setWidth_eq]
  simp [recordOk, recordErrors, body, check, he]

theorem Memory.holdsRecord.seq (h : m.holdsRecord b r) : recordSeq m b = r.seq + 1#32 := by
  have k := h.bytes 0 4 (by decide)
  rw [Nat.add_zero] at k
  rw [recordSeq, Memory.word, Memory.num, k, show (r.record.drop 0).take 4 = bytesOf (r.seq + 1#32) from rfl,
    numOf_bytesOf, BitVec.ofNat_toNat, BitVec.setWidth_eq]

theorem Memory.holdsRecord.scrub (h : m.holdsRecord b r) : m.num (recordBase b + 4) 4 = r.scrub % 2 ^ 20 := by
  rw [Memory.num, h.bytes 4 4 (by decide), show (r.record.drop 4).take 4 = bytesOfNat 4 (r.scrub % 2 ^ 20) from rfl,
    numOf_bytesOfNat]
  omega

theorem Memory.holdsRecord.map (h : m.holdsRecord b r) : m.num (recordBase b + 8) 32 = r.nextMap.toNat := by
  rw [Memory.num, h.bytes 8 32 (by decide), show (r.record.drop 8).take 32 = bytesOfNat 32 r.nextMap.toNat from rfl,
    numOf_bytesOfNat]
  exact Nat.mod_eq_of_lt r.nextMap.isLt

end CommitRecord

section RecordWords

variable (s : State)

/-- A word of step 3 puts a byte of the record into its place in the slot that is not in force. -/
theorem strikeRecord_covers {w : Nat × List Byte × Bool} {x : Nat} (h : w ∈ s.strikeRecord) (hx : wordCovers w x) :
    ∃ i, i < 192 ∧ x = recordBase s.mm.nextSlot + i ∧ w.2.1.getD (x - w.1) 0#8 = s.mm.record.getD i 0#8 := by
  obtain ⟨k, hk, rfl⟩ := List.mem_map.1 h
  rw [List.mem_range] at hk
  obtain ⟨h1, h2⟩ := hx
  dsimp only at h1 h2 ⊢
  rw [List.length_take, List.length_drop, record_length] at h2
  refine ⟨x - recordBase s.mm.nextSlot, by omega, by omega, ?_⟩
  have e : x - recordBase s.mm.nextSlot = 8 * k + (x - (recordBase s.mm.nextSlot + 8 * k)) := by omega
  rw [e, List.getD_eq_getElem?_getD, List.getElem?_take_of_lt (by omega), List.getElem?_drop,
    List.getD_eq_getElem?_getD]

theorem strikeRecord_covered {i : Nat} (hi : i < 192) :
    ∃ w ∈ s.strikeRecord, wordCovers w (recordBase s.mm.nextSlot + i) := by
  refine ⟨_, List.mem_map.2 ⟨i / 8, List.mem_range.2 (by omega), rfl⟩, ?_⟩
  simp only [wordCovers, List.length_take, List.length_drop, record_length]
  omega

theorem strikeRecord_correct : ∀ w ∈ s.strikeRecord, w.2.2 = false := by
  intro w hw
  obtain ⟨k, -, rfl⟩ := List.mem_map.1 hw
  rfl

end RecordWords

/-! ## What a Strike writes -/

section StrikeWrite

variable (s : State) (n : Nat)

/-- The state after the lines of a Strike, when its record is taken (R97, R99). -/
def State.linesWritten (s : State) (n : Nat) : State := (s.strikeLines.take n).foldl State.strikeWord s

theorem strikeWrite_eq : s.strikeWrite n =
    ((s.linesWritten n).strikeRecord.take (n - s.strikeLines.length)).foldl State.strikeWord (s.linesWritten n) := rfl

theorem linesWritten_burned : s.Burned (s.linesWritten n) := strikeWords_burned _ _

theorem strikeWrite_burned : s.Burned (s.strikeWrite n) := (linesWritten_burned s n).trans (strikeWords_burned _ _)

@[simp] theorem strikeWrite_pwr : (s.strikeWrite n).pwr = s.pwr :=
  (strikeWrite_burned s n).same State.pwr fun _ _ => rfl

@[simp] theorem strikeWrite_per : (s.strikeWrite n).per = s.per :=
  (strikeWrite_burned s n).same State.per fun _ _ => rfl

@[simp] theorem strikeWrite_rp : (s.strikeWrite n).rp = s.rp := (strikeWrite_burned s n).same State.rp fun _ _ => rfl

@[simp] theorem strikeWrite_free : (s.strikeWrite n).free = s.free :=
  (strikeWrite_burned s n).same State.free fun _ _ => rfl

@[simp] theorem linesWritten_nextSlot : (s.linesWritten n).mm.nextSlot = s.mm.nextSlot :=
  (linesWritten_burned s n).same (fun t => t.mm.nextSlot) fun _ _ => rfl

theorem linesWritten_byte_apart {x : Nat}
    (h : ∀ l < 256, bit s.mm.dirty l = true → ∀ j < 64, x ≠ s.mm.freeImage l + j) :
    (s.linesWritten n).mem.byte x = s.mem.byte x := by
  refine strikeWords_byte_apart _ _ fun w hw hc => ?_
  obtain ⟨l, j, hl, hd, hj, hx, -⟩ := strikeLines_covers s (List.mem_of_mem_take hw) hc
  exact h l hl hd j hj hx

/-- A Strike, complete or cut short, leaves every byte outside the free images of the dirty lines and the slot
that is not in force. -/
theorem strikeWrite_byte_apart {x : Nat}
    (hl : ∀ l < 256, bit s.mm.dirty l = true → ∀ j < 64, x ≠ s.mm.freeImage l + j)
    (hr : ∀ i < 192, x ≠ recordBase s.mm.nextSlot + i) : (s.strikeWrite n).mem.byte x = s.mem.byte x := by
  rw [strikeWrite_eq, strikeWords_byte_apart, linesWritten_byte_apart s n hl]
  intro w hw hc
  obtain ⟨i, hi, hx, -⟩ := strikeRecord_covers _ (List.mem_of_mem_take hw) hc
  rw [linesWritten_nextSlot] at hx
  exact hr i hi hx

/-- A Strike that is cut short in its lines writes no word of the record. -/
theorem strikeWrite_lines_byte_apart {x : Nat} (hn : n ≤ 8 * s.mm.dirtyLines.length)
    (hl : ∀ l < 256, bit s.mm.dirty l = true → ∀ j < 64, x ≠ s.mm.freeImage l + j) :
    (s.strikeWrite n).mem.byte x = s.mem.byte x := by
  rw [strikeWrite_eq, show n - s.strikeLines.length = 0 by rw [strikeLines_length]; omega]
  exact linesWritten_byte_apart s n hl

/-- The record that is in force is as it was. -/
theorem strikeWrite_record_in_force {j : Nat} (hj : j < 256) :
    (s.strikeWrite n).mem.byte (recordBase (!s.mm.nextSlot) + j) = s.mem.byte (recordBase (!s.mm.nextSlot) + j) := by
  have := recordBase_bounds (!s.mm.nextSlot)
  refine strikeWrite_byte_apart s n (fun l hl _ i hi => ?_) fun i hi => recordBase_apart _ hj (by omega)
  have := freeImage_bounds s.mm hl
  omega

theorem strikeLength_eq : s.strikeLength = s.strikeLines.length + 24 := by
  rw [State.strikeLength, strikeLines_length]

/-- A whole Strike puts every dirty line into its free image. -/
theorem strikeWrite_whole_line {l j : Nat} (hl : l < 256) (hd : bit s.mm.dirty l = true) (hj : j < 64) :
    (s.strikeWrite s.strikeLength).mem.byte (s.mm.freeImage l + j) = s.mem.byte (emberBase + 64 * l + j) := by
  have bounds := freeImage_bounds s.mm hl
  have lines : (s.linesWritten s.strikeLength).mem.byte (s.mm.freeImage l + j) =
      s.mem.byte (emberBase + 64 * l + j) := by
    rw [State.linesWritten, List.take_of_length_le (by rw [strikeLength_eq]; omega)]
    refine strikeWords_byte _ _ (fun w hw hc => ?_) (.inr (strikeLines_covered s hl hd hj))
    obtain ⟨l', j', hl', -, hj', hx, hv⟩ := strikeLines_covers s hw hc
    obtain ⟨rfl, rfl⟩ := freeImage_inj s.mm hl hl' hj hj' hx
    exact hv
  rw [strikeWrite_eq, strikeWords_byte_apart, lines]
  intro w hw hc
  obtain ⟨i, hi, hx, -⟩ := strikeRecord_covers _ (List.mem_of_mem_take hw) hc
  have := recordBase_bounds (s.linesWritten s.strikeLength).mm.nextSlot
  omega

/-- A whole Strike puts the record into the slot that is not in force. -/
theorem strikeWrite_whole_record : ∃ v : Vector Nat 16,
    (s.strikeWrite s.strikeLength).mem.holdsRecord s.mm.nextSlot { s.mm with wear := v } := by
  obtain ⟨m, v, e⟩ := linesWritten_burned s s.strikeLength
  have hm : (s.linesWritten s.strikeLength).mm = { s.mm with wear := v } := by rw [e]
  refine ⟨v, fun i hi => ?_⟩
  have hi' : i < 192 := by rwa [record_length] at hi
  rw [strikeWrite_eq, show s.strikeLength - s.strikeLines.length = 24 by rw [strikeLength_eq]; omega,
    List.take_of_length_le (by simp [State.strikeRecord])]
  refine strikeWords_byte _ _ (fun w hw hc => ?_) (.inr ?_)
  · obtain ⟨j, hj, hx, hv⟩ := strikeRecord_covers _ hw hc
    rw [linesWritten_nextSlot] at hx
    obtain rfl : i = j := by omega
    rw [hv, hm, List.getD_eq_getElem _ _ hi]
  · have k := strikeRecord_covered (s.linesWritten s.strikeLength) hi'
    rwa [linesWritten_nextSlot] at k

/-- A Strike whose lines hold no error leaves memory without one. -/
theorem strikeWrite_ecc (h : s.mem.ecc = []) : (s.strikeWrite n).mem.ecc = [] := by
  refine strikeWords_ecc _ _ (strikeWords_ecc _ _ h fun w hw => ?_) fun w hw => ?_
  · exact strikeLines_correct s h w (List.mem_of_mem_take hw)
  · exact strikeRecord_correct _ w (List.mem_of_mem_take hw)

end StrikeWrite

/-! ## The end of a Strike (R16, R97, R289, R293) -/

/-- `t` holds the MRAM of `s`, and no error where `s` holds none. -/
structure State.SameMram (s t : State) : Prop where
  byte : ∀ x, inMram x = true → t.mem.byte x = s.mem.byte x
  ecc : s.mem.ecc = [] → t.mem.ecc = []

theorem State.SameMram.of_mem {s t : State} (h : t.mem = s.mem) : s.SameMram t :=
  ⟨fun _ _ => by rw [h], fun e => by rw [h, e]⟩

theorem State.SameMram.reset {s t : State} (causes wake : Word) (h : t.mem = s.mem) :
    s.SameMram (t.deviceReset causes wake) :=
  ⟨fun x hx => by rw [State.deviceReset_byte _ _ _ hx, h], fun e => by rw [State.deviceReset_ecc, h, e]; rfl⟩

theorem State.SameMram.of_eq_mem {s t u : State} (h : s.SameMram t) (k : u.mem = t.mem) : s.SameMram u :=
  ⟨fun x hx => by rw [k, h.byte x hx], fun e => by rw [k, h.ecc e]⟩

theorem anyBit_iff {n : Nat} (w : BitVec n) : anyBit w = true ↔ w ≠ 0#n := by simp [anyBit]

section Ends

variable (s : State) (k : Strike)

@[simp] theorem cutWrites_cellUp : s.cutWrites.cellUp = s.cellUp := rfl

theorem enterDepleted_of_cell (h : s.cellUp = true) : s.enterDepleted =
    ((s.cutWrites.onHrv fun h => h.flag 24).onPwr fun p => { p with state := .depleted, strike := none }).onTch
      fun t => { t.abandon with biv := false } := by
  rw [State.enterDepleted, cutWrites_cellUp, if_pos h]

theorem enterDepleted_of_no_cell (h : s.cellUp = false) : s.enterDepleted =
    s.cutWrites.onPwr fun p => { p with state := .unpowered, strike := none } := by
  rw [State.enterDepleted, cutWrites_cellUp, if_neg (by simp [h])]

theorem enterDepleted_mem : s.enterDepleted.mem = s.mem := by
  cases h : s.cellUp with
  | true => rw [enterDepleted_of_cell s h]; rfl
  | false => rw [enterDepleted_of_no_cell s h]; rfl

theorem enterDepleted_pwr : s.enterDepleted.pwr =
    { s.pwr with state := if s.cellUp = true then .depleted else .unpowered, strike := none } := by
  cases h : s.cellUp with
  | true => rw [enterDepleted_of_cell s h]; rfl
  | false => rw [enterDepleted_of_no_cell s h]; rfl

theorem strikeEnd_of_reset (h : k.causes ≠ 0#32) (hh : s.pwr.state ≠ .held) : s.strikeEnd k =
    (s.deviceReset k.causes 0#32).onHrv fun h => if k.kind = .drain then h.flag 24 else h := by
  rw [State.strikeEnd, if_pos ((anyBit_iff _).2 h), if_neg hh]

theorem strikeEnd_of_held (h : k.causes ≠ 0#32) (hh : s.pwr.state = .held) : s.strikeEnd k =
    (s.deviceReset k.causes 0#32).onPwr fun p => { p with state := .held } := by
  rw [State.strikeEnd, if_pos ((anyBit_iff _).2 h), if_pos hh]

theorem strikeEnd_of_entry (h : k.causes = 0#32) (hk : k.kind = .entry) (hm : k.mainLost = false) :
    s.strikeEnd k = s.enterBivouac k.wake := by
  rw [State.strikeEnd, if_neg (by simp [anyBit, h]), hk]
  simp [hm]

/-- Without a reset that is due, a Strike after which the device does not sleep leaves the Porch on the cell or
without a supply. -/
theorem strikeEnd_of_loss (h : k.causes = 0#32) (hk : k.kind ≠ .entry ∨ k.mainLost = true) :
    ∃ t : State, s.strikeEnd k = t.enterDepleted ∧ t.mem = s.mem ∧ t.cellUp = s.cellUp := by
  rw [State.strikeEnd, if_neg (by simp [anyBit, h])]
  cases e : k.kind with
  | entry =>
    have hm : k.mainLost = true := hk.resolve_left fun n => n e
    exact ⟨(s.onPin Pin.hold_).onPwr fun p => { p with bivcnt := p.bivcnt + 1#32 }, by simp [hm], rfl, rfl⟩
  | final => exact ⟨s.onPin Pin.hold_, rfl, rfl, rfl⟩
  | drain => exact ⟨s.onPin Pin.hold_, rfl, rfl, rfl⟩
  | commanded => exact ⟨s.onPin Pin.hold_, rfl, rfl, rfl⟩

/-- The state in Bivouac, before a wake latched in the Strike acts. -/
def State.asleepNow (s : State) : State :=
  ((s.onPin Pin.hold_).onPwr fun p => { p with state := .bivouac, strike := none, bivcnt := p.bivcnt + 1#32 }).onTch
    fun t => { t with biv := bit s.pwr.wakeEn 4 }

theorem enterBivouac_of_no_wake : s.enterBivouac 0#32 = s.asleepNow := rfl

theorem enterBivouac_of_wake {w : Word} (h : w ≠ 0#32) : s.enterBivouac w = s.asleepNow.deviceReset 8#32 w := by
  rw [State.enterBivouac, if_neg h]
  rfl

/-- What follows a Strike keeps MRAM, and the Strike is over. -/
theorem strikeEnd_over : s.SameMram (s.strikeEnd k) ∧ (s.strikeEnd k).pwr.strike = none := by
  by_cases hc : k.causes = 0#32
  · by_cases hk : k.kind ≠ .entry ∨ k.mainLost = true
    · obtain ⟨t, e, hm, -⟩ := strikeEnd_of_loss s k hc hk
      rw [e, enterDepleted_pwr]
      exact ⟨.of_mem ((enterDepleted_mem t).trans hm), rfl⟩
    · simp only [not_or, not_not, Bool.not_eq_true] at hk
      rw [strikeEnd_of_entry s k hc hk.1 hk.2]
      by_cases hw : k.wake = 0#32
      · rw [hw, enterBivouac_of_no_wake]
        exact ⟨.of_mem rfl, rfl⟩
      · rw [enterBivouac_of_wake s hw]
        exact ⟨.reset _ _ rfl, rfl⟩
  · by_cases hh : s.pwr.state = .held
    · rw [strikeEnd_of_held s k hc hh]
      exact ⟨(State.SameMram.reset k.causes 0#32 (t := s) rfl).of_eq_mem rfl, rfl⟩
    · rw [strikeEnd_of_reset s k hc hh]
      exact ⟨(State.SameMram.reset k.causes 0#32 (t := s) rfl).of_eq_mem rfl, rfl⟩

/-- A Strike whose memory holds no error ends with all its words written. -/
theorem strikeComplete_of_correct {s : State} {k : Strike} (hk : s.pwr.strike = some k) (he : s.mem.ecc = []) :
    s.strikeComplete = (s.strikeWrite s.strikeLength).strikeEnd k := by
  have reads : s.strikeReads = ⟨s, []⟩ := by rw [State.strikeReads, he]; rfl
  simp only [State.strikeComplete, hk, reads, List.isEmpty_nil, Bool.not_true, Bool.and_false, Bool.false_eq_true,
    if_false, State.reactUnc]

end Ends

/-! ## The idle timer (R288, R289) -/

theorem abandon_of_none {s : State} (h : s.wdn.mig = none) : s.abandon = s := by rw [State.abandon, h]

/-- The idle timer expires exactly where every condition of R288 holds. -/
theorem idleDue_condition (s : State) :
    (s.running && decide (s.pwr.ticks ≠ 0#16) && s.mayCount &&
      (s.waymark.not || decide (s.rp.mode = .stopped) || s.allHalted)) = true ↔
    s.running = true ∧ s.pwr.ticks ≠ 0#16 ∧ s.mayCount = true ∧
      (s.waymark = false ∨ s.rp.mode = .stopped ∨ s.allHalted = true) := by
  simp only [Bool.and_eq_true, Bool.or_eq_true, Bool.not_eq_true', decide_eq_true_eq, and_assoc, or_assoc]

theorem mig_of_mayCount {s : State} (h : s.mayCount = true) : s.wdn.mig = none := by
  simp only [State.mayCount, Bool.and_eq_true, Option.isNone_iff_eq_none] at h
  exact h.2

/-! ## Wakes (R290-R292) -/

section WakeWord

variable (w : Word) {k pin : Nat} (late : Bool)

/-- The field of the wake pin after source `k` has qualified. -/
def wakePins (w : Word) (k pin : Nat) : Nat :=
  if k = 5 then (if bit w 5 then min pin (bits w 16 4) else pin) else bits w 16 4

theorem wakeWord_eq : wakeWord w k pin late =
    if w = 0#32 then setBit (setBits (setBits (setBit w k true) 16 4 (wakePins w k pin)) 24 4 k) 31 late
    else setBits (setBit w k true) 16 4 (wakePins w k pin) := by
  simp only [wakeWord, wakePins, decide_eq_true_eq]

theorem bit_wakeWord_source (hk : k < 11) {j : Nat} (hj : j < 11) :
    bit (wakeWord w k pin late) j = (bit w j || decide (j = k)) := by
  have marked : bit (setBits (setBit w k true) 16 4 (wakePins w k pin)) j = (bit w j || decide (j = k)) := by
    rw [bit_setBits, if_neg (by omega), bit_setBit]
    by_cases e : j = k
    · simp [e, show k < 32 by omega]
    · simp [e, Ne.symm e]
  rw [wakeWord_eq]
  split
  · rw [bit_setBit, if_neg (by omega), bit_setBits, if_neg (by omega), marked]
  · exact marked

theorem wakeWord_of_first (hk : k < 11) :
    bits (wakeWord 0#32 k pin late) 24 4 = k ∧ bit (wakeWord 0#32 k pin late) 31 = late := by
  rw [wakeWord_eq, if_pos rfl]
  constructor
  · rw [bits_congr (w := setBits (setBits (setBit 0#32 k true) 16 4 (wakePins 0#32 k pin)) 24 4 k)
      fun i hi => by rw [bit_setBit, if_neg (by omega)], bits_setBits_same _ _ (by decide)]
    exact Nat.mod_eq_of_lt (by omega)
  · rw [bit_setBit, if_pos (by decide)]

theorem wakeWord_of_later (hw : w ≠ 0#32) (hk : k < 11) : bits (wakeWord w k pin late) 24 8 = bits w 24 8 := by
  rw [wakeWord_eq, if_neg hw]
  refine bits_congr fun i hi => ?_
  rw [bit_setBits, if_neg (by omega), bit_setBit, if_neg (by omega)]

theorem wakeWord_pin (hpin : pin < 16) :
    bits (wakeWord w 5 pin late) 16 4 = if bit w 5 then min pin (bits w 16 4) else pin := by
  have lt : (if bit w 5 = true then min pin (bits w 16 4) else pin) < 2 ^ 4 := by split <;> omega
  have field : bits (setBits (setBit w 5 true) 16 4 (wakePins w 5 pin)) 16 4 =
      if bit w 5 = true then min pin (bits w 16 4) else pin := by
    rw [bits_setBits_same _ _ (by decide), wakePins, if_pos rfl, Nat.mod_eq_of_lt lt]
  rw [wakeWord_eq]
  split
  · rw [← field]
    refine bits_congr fun i hi => ?_
    rw [bit_setBit, if_neg (by omega), bit_setBits, if_neg (by omega)]
  · exact field

end WakeWord

section Wake

variable {s : State} {k pin : Nat} {rise : Bool}

theorem wake_of_disabled (h : s.wakeEnabled k pin rise = false) : s.wake k pin rise = s := by
  simp [State.wake, h]

theorem wake_in_strike (h : s.wakeEnabled k pin rise = true) {x : Strike} (hx : s.pwr.strike = some x) :
    s.wake k pin rise = if x.kind = .entry then
      s.onPwr fun p => { p with strike := some { x with wake := wakeWord x.wake k pin true } } else s := by
  simp [State.wake, h, hx]

theorem wake_in_bivouac (h : s.wakeEnabled k pin rise = true) (hs : s.pwr.strike = none)
    (hb : s.pwr.state = .bivouac) : s.wake k pin rise = s.deviceReset 8#32 (wakeWord 0#32 k pin false) := by
  simp [State.wake, h, hs, hb]

theorem wake_while_waking (h : s.wakeEnabled k pin rise = true) (hs : s.pwr.strike = none)
    (hb : s.pwr.state ≠ .bivouac) (hw : s.waking = true) :
    s.wake k pin rise = s.onPwr fun p => { p with wakeSrc := wakeWord p.wakeSrc k pin false } := by
  simp [State.wake, h, hs, hb, hw]

/-- Where nothing sleeps, enters Bivouac or wakes from it, a source has no effect. -/
theorem wake_of_awake (hs : s.pwr.strike = none) (hb : s.pwr.state ≠ .bivouac)
    (hw : s.wakeEnabled k pin rise = false ∨ s.waking = false) : s.wake k pin rise = s := by
  cases h : s.wakeEnabled k pin rise with
  | false => exact wake_of_disabled h
  | true =>
    have hw : s.waking = false := hw.resolve_left (by simp [h])
    simp [State.wake, h, hs, hb, hw]

theorem waking_iff (s : State) :
    s.waking = true ↔ s.running = true ∧ s.rp.mode = .cold ∧ s.pwr.cause = 8#32 := by
  simp only [State.waking, Bool.and_eq_true, decide_eq_true_eq, and_assoc]

theorem running_iff (s : State) : s.running = true ↔ s.pwr.state = .awake ∧ s.pwr.strike = none := by
  simp only [State.running, Bool.and_eq_true, decide_eq_true_eq, Option.isNone_iff_eq_none]

theorem wakeEnabled_iff (s : State) (k : Fin 11) (pin : Nat) (rise : Bool) :
    s.wakeEnabled k pin rise = true ↔
      (if k = 3 then s.per.net.timing = true
       else if k = 5 then bit s.pwr.wakePin (if rise then pin else 16 + pin) = true
       else if k = 6 then True else bit s.pwr.wakeEn k = true) := by
  have h3 : k = 3 ↔ k.val = 3 := Fin.ext_iff
  have h5 : k = 5 ↔ k.val = 5 := Fin.ext_iff
  have h6 : k = 6 ↔ k.val = 6 := Fin.ext_iff
  simp only [State.wakeEnabled, h3, h5, h6]
  split
  · rfl
  · split
    · rfl
    · split
      · simp
      · rfl

end Wake

/-- The end of the Strike, as R97, R99, R16 and R289 state it. -/
theorem strikeComplete_spec {s : State} {k : Strike} (hk : s.pwr.strike = some k) (he : s.mem.ecc = []) :
    let t := s.strikeComplete
    (∀ l < 256, bit s.mm.dirty l = true → ∀ j < 64,
      t.mem.byte (s.mm.freeImage l + j) = s.mem.byte (emberBase + 64 * l + j)) ∧
    (∃ v : Vector Nat 16, t.mem.holdsRecord s.mm.nextSlot { s.mm with wear := v }) ∧ t.mem.ecc = [] ∧
    (∀ j < 256, t.mem.byte (recordBase (!s.mm.nextSlot) + j) = s.mem.byte (recordBase (!s.mm.nextSlot) + j)) ∧
    t.pwr.strike = none := by
  dsimp only
  rw [strikeComplete_of_correct hk he]
  obtain ⟨⟨hbyte, hecc⟩, hover⟩ := strikeEnd_over (s.strikeWrite s.strikeLength) k
  refine ⟨fun l hl hd j hj => ?_, ?_, hecc (strikeWrite_ecc s _ he), fun j hj => ?_, hover⟩
  · have bounds := freeImage_bounds s.mm hl
    rw [hbyte _ ((inMram_iff _).2 ⟨by omega, by omega⟩), strikeWrite_whole_line s hl hd hj]
  · obtain ⟨v, hv⟩ := strikeWrite_whole_record s
    refine ⟨v, fun i hi => ?_⟩
    have hi' : i < 192 := by rwa [record_length] at hi
    have bounds := recordBase_bounds s.mm.nextSlot
    rw [hbyte _ ((inMram_iff _).2 ⟨by omega, by omega⟩), hv i hi]
  · have bounds := recordBase_bounds (!s.mm.nextSlot)
    rw [hbyte _ ((inMram_iff _).2 ⟨by omega, by omega⟩), strikeWrite_record_in_force s _ hj]

/-- Where the end of a Strike leads: to the resets that are due, to Bivouac, or to the Porch alone. -/
theorem strikeComplete_leads {s : State} {k : Strike} (hk : s.pwr.strike = some k) (he : s.mem.ecc = []) :
    let t := s.strikeComplete
    (k.causes ≠ 0#32 → t.rp.mode = .cold ∧ t.pwr.cause = k.causes ∧ t.cores = Vector.replicate 4 Core.reset ∧
      t.pwr.state = if s.pwr.state = .held then .held else .awake) ∧
    (k.causes = 0#32 → k.kind = .entry → k.mainLost = false →
      t.pwr.bivcnt = s.pwr.bivcnt + 1#32 ∧
      (k.wake = 0#32 → t.pwr.state = .bivouac ∧ t.per.pin.latch = s.per.pin.out.setWidth 16) ∧
      (k.wake ≠ 0#32 → t.rp.mode = .cold ∧ t.pwr.state = .awake ∧ t.pwr.cause = 8#32 ∧ t.pwr.wakeSrc = k.wake)) ∧
    (k.causes = 0#32 → k.kind ≠ .entry ∨ k.mainLost = true →
      t.pwr.state = if s.cellUp then .depleted else .unpowered) := by
  dsimp only
  rw [strikeComplete_of_correct hk he]
  have hp : (s.strikeWrite s.strikeLength).pwr = s.pwr := strikeWrite_pwr s _
  have hper : (s.strikeWrite s.strikeLength).per = s.per := strikeWrite_per s _
  generalize s.strikeWrite s.strikeLength = u at hp hper
  refine ⟨fun hc => ?_, fun hc hentry hm => ?_, fun hc hl => ?_⟩
  · by_cases hh : s.pwr.state = .held
    · rw [strikeEnd_of_held u k hc (by rw [hp, hh]), if_pos hh]
      exact ⟨rfl, rfl, rfl, rfl⟩
    · rw [strikeEnd_of_reset u k hc (by rw [hp]; exact hh), if_neg hh]
      exact ⟨rfl, rfl, rfl, rfl⟩
  · rw [strikeEnd_of_entry u k hc hentry hm, ← hp, ← hper]
    by_cases hw : k.wake = 0#32
    · rw [hw, enterBivouac_of_no_wake]
      exact ⟨rfl, fun _ => ⟨rfl, rfl⟩, fun n => absurd rfl n⟩
    · rw [enterBivouac_of_wake u hw]
      exact ⟨rfl, fun n => absurd n hw, fun _ => ⟨rfl, rfl, rfl, rfl⟩⟩
  · obtain ⟨t, e, -, hcell⟩ := strikeEnd_of_loss u k hc hl
    rw [e, enterDepleted_pwr, hcell, State.cellUp, hp, hper]
    rfl

/-- At its expiry the idle timer shows TICKS and an entry Strike runs; nothing migrates then (R289). -/
theorem idleDue_of_idle (s : State) (h : s.running = true ∧ s.pwr.ticks ≠ 0#16 ∧ s.mayCount = true ∧
      (s.waymark = false ∨ s.rp.mode = .stopped ∨ s.allHalted = true)) :
    s.idleDue = (s.onPwr fun p =>
      { p with count := p.ticks, strike := some ⟨.entry, 0#32, 0#32, false⟩ }).onWdn fun w => { w with queue := [] } := by
  obtain ⟨-, -, hcount, -⟩ := id h
  rw [State.idleDue, if_pos ((idleDue_condition s).2 h), State.idleExpire, State.strikeBegin,
    abandon_of_none (s := s.onPwr fun p => { p with count := p.ticks }) (mig_of_mayCount hcount)]
  rfl

/-- Settles O42: the idle timer's expiry, the words of a whole Strike and what they lead to, and each place where a wake
source can qualify. That COUNT shows TICKS at the expiry and that the latches take PIN_OUT for all sixteen balls are
readings of the model (assumptions 13 and 101). -/
theorem strikeAndWakeEvents : Obligations.StrikeAndWakeEvents := by
  unfold Obligations.StrikeAndWakeEvents
  refine ⟨fun s => ?_, fun s k pin rise => ?_⟩
  · intro m base idle
    refine ⟨fun h => State.becomes_of ?_, fun h => State.becomes_of ?_, fun h => State.becomes_of ?_,
      fun k hk he => ⟨_, rfl, ?_⟩⟩
    · show Host.Outcome.next (finish s s.idleDue) = _
      rw [State.idleDue, if_neg (mt (idleDue_condition s).1 h)]
    · show Host.Outcome.next (finish s s.idleDue) = _
      rw [idleDue_of_idle s h]
    · show Host.Outcome.next (finish s s.strikeComplete) = _
      rw [State.strikeComplete, h]
    · obtain ⟨hlines, ⟨v, hrec⟩, hecc, hforce, hover⟩ := strikeComplete_spec hk he
      obtain ⟨hreset, hsleep, hloss⟩ := strikeComplete_leads hk he
      simp only [finish_mem, finish_pwr, finish_rp_mode, finish_cores, finish_per_pin]
      exact ⟨hlines, hrec.ok hecc, hrec.seq, hrec.scrub, hrec.map, hforce, hover, hreset, hsleep, hloss⟩
  · intro i src waking on
    have hon : s.wakeEnabled k pin rise = true ↔ on := wakeEnabled_iff s k pin rise
    have runs : ∀ {u : State}, s.wake k pin rise = u → s.becomes i u := fun e =>
      State.becomes_of (congrArg (fun u => Host.Outcome.next (finish s u)) e)
    refine ⟨fun h => runs (wake_of_disabled (by simpa using mt hon.1 h)),
      fun hs hb hw => runs (wake_of_awake hs hb (.inr (by simpa using mt (waking_iff s).1 hw))),
      fun h hw => ?_, fun h x hx hkind => runs ?_, fun h x hx hkind => ?_, fun h hs hb => ⟨_, rfl, ?_⟩⟩
    · obtain ⟨hawake, hs⟩ := (running_iff s).1 hw.1
      refine ⟨wakeWord src k pin false, runs ?_, fun j hj => bit_wakeWord_source _ _ k.isLt hj,
        fun hsrc => wakeWord_of_later _ _ hsrc k.isLt, ?_⟩
      · exact wake_while_waking (hon.2 h) hs (by rw [hawake]; decide) ((waking_iff s).2 hw)
      · rintro rfl
        exact wakeWord_pin _ _ pin.isLt
    · rw [wake_in_strike (hon.2 h) hx, if_neg hkind]
    · refine ⟨wakeWord x.wake k pin true, runs ?_, fun j hj => bit_wakeWord_source _ _ k.isLt hj, fun e => ?_,
        fun e => wakeWord_of_later _ _ e k.isLt, ?_⟩
      · rw [wake_in_strike (hon.2 h) hx, if_pos hkind]
      · rw [e]
        exact wakeWord_of_first _ k.isLt
      · rintro rfl
        exact wakeWord_pin _ _ pin.isLt
    · obtain ⟨hfirst, hlate⟩ := wakeWord_of_first (k := k) (pin := pin) false k.isLt
      rw [wake_in_bivouac (hon.2 h) hs hb]
      simp only [finish_mem, finish_pwr, finish_rp_mode, finish_cores]
      refine ⟨rfl, rfl, rfl, fun j hj => ?_, hfirst, hlate, rfl, rfl, rfl, finish_wdn _ _ rfl,
        fun x hx => State.deviceReset_byte _ _ _ hx⟩
      exact (bit_wakeWord_source 0#32 false k.isLt hj).trans (by simp [bit])

end Sys2Proof.Machine

/-! # Supplies -/

namespace Sys2Proof.Machine

open Sys2Proof

/-! ## Writes that a loss of power cuts short (R170, R171) -/

section Cut

variable (r : Ridgepole) (n : Nat)

@[simp] theorem cutFuses_keyWrite : (r.cutFuses n).keyWrite = r.keyWrite := by
  unfold Ridgepole.cutFuses
  split <;> rfl

theorem cutFuses_ctr_of_idle (h : r.fusing = false) : (r.cutFuses n).ctr = r.ctr := by
  simp [Ridgepole.cutFuses, h]

/-- A service that is cut short has blown some of its fuses. -/
theorem cutFuses_ctr_bounds (hf : r.fusing = true) (h : r.ctr ≤ r.rollback) :
    r.ctr ≤ (r.cutFuses n).ctr ∧ (r.cutFuses n).ctr ≤ r.rollback := by
  have lt : Config.freeNat n % (r.rollback - r.ctr + 1) < r.rollback - r.ctr + 1 := Nat.mod_lt _ (Nat.succ_pos _)
  simp only [Ridgepole.cutFuses, hf, if_true]
  omega

/-- A slot whose write is cut short holds no key. -/
theorem key_cutKey {slot : Nat} (hw : r.keyWrite = some slot) (hcut : Config.freeBool n = true) :
    (r.cutKey n).key slot = none := by
  rw [Ridgepole.key, Option.map_eq_none_iff, List.find?_eq_none]
  intro k hk
  obtain ⟨q, -, rfl⟩ := List.mem_map.1 hk
  by_cases e : q.slot = slot
  · simp [hw, hcut, e, KeySlot.whole]
  · simp [hw, e, Ne.symm e]

end Cut

/-! ## The collapse of the hold-up (R98, R294) -/

section SupplyLoss

variable {s : State} (n : Nat)

theorem cellUp_iff (s : State) : s.cellUp = true ↔ s.pwr.cell = true ∧ s.per.hrv.switchOpen = false := by
  simp only [State.cellUp, Bool.and_eq_true, Bool.not_eq_true']

/-- The Porch loses its supply with its memory as `u` holds it. -/
def State.unsupplied (u : State) : State :=
  u.cutWrites.onPwr fun p => { p with main := false, state := .unpowered, strike := none }

theorem supplyLoss_of_cell (h : s.cellUp = true) : s.supplyLoss n = s := by rw [State.supplyLoss, if_pos h]

theorem supplyLoss_of_none (h : ¬s.cellUp = true) (hs : s.pwr.strike = none) : s.supplyLoss n = s.unsupplied := by
  rw [State.supplyLoss, if_neg h, hs]
  rfl

theorem supplyLoss_of_strike (h : ¬s.cellUp = true) {k : Strike} (hs : s.pwr.strike = some k) :
    s.supplyLoss n = (s.strikeWrite (min n s.strikeLength)).unsupplied := by
  rw [State.supplyLoss, if_neg h, hs]
  rfl

/-- What the collapse leaves of memory is what a part of a Strike leaves, or all. -/
theorem supplyLoss_cases (h : ¬s.cellUp = true) : ∃ u : State, s.supplyLoss n = u.unsupplied ∧ u.pwr = s.pwr ∧
    u.rp = s.rp ∧ u.free = s.free ∧ (s.pwr.strike = none → u.mem = s.mem) ∧
    (u.mem = s.mem ∨ u.mem = (s.strikeWrite (min n s.strikeLength)).mem) := by
  cases hs : s.pwr.strike with
  | none => exact ⟨s, supplyLoss_of_none n h hs, rfl, rfl, rfl, fun _ => rfl, .inl rfl⟩
  | some k =>
    exact ⟨_, supplyLoss_of_strike n h hs, strikeWrite_pwr .., strikeWrite_rp .., strikeWrite_free ..,
      (fun e => nomatch e), .inr rfl⟩

theorem unsupplied_key {u : State} {slot : Nat} (hw : u.rp.keyWrite = some slot)
    (hcut : Config.freeBool u.free = true) : u.unsupplied.rp.key slot = none :=
  key_cutKey (u.rp.cutFuses u.free) u.free (by rw [cutFuses_keyWrite, hw]) hcut

/-- The image of a line that is in force is the free image of no line. -/
theorem imageAddr_ne_freeImage (s : State) {l l' j j' : Nat} (hl : l < 256) (hl' : l' < 256) (hj : j < 64)
    (hj' : j' < 64) : imageAddr s (emberBase + 64 * l + j) ≠ s.mm.freeImage l' + j' := by
  have place : (emberBase + 64 * l + j - emberBase) / 64 = l := by omega
  unfold imageAddr MemRegs.freeImage
  dsimp only
  rw [place]
  by_cases e : l = l'
  · subst e
    split <;> omega
  · split <;> split <;> omega

end SupplyLoss

/-! ## The loss of VMAIN (R16, R293, R327) -/

section Loss

variable (s : State)

theorem carriesOn_iff : s.carriesOn = true ↔ s.per.hrv.res < s.per.hrv.lchg ∧ s.per.hrv.switchOpen = false := by
  simp only [State.carriesOn, Bool.and_eq_true, decide_eq_true_eq, Bool.not_eq_true']

/-- VMAIN is gone and the supplies stand as in `q`: the fuses are blown no further, and the calendar clock has switched
over to a cell that is there. -/
def State.offMain (s : State) (q : Pwr) : State :=
  (((s.useFree 1).onRp fun r => r.cutFuses s.free).onPwr fun _ => q).onRtc fun _ =>
    if s.cellUp then s.per.rtc.switchOver else s.per.rtc

/-- VMAIN is gone, and nothing else of the supplies has changed. -/
def State.away (s : State) : State := s.offMain { s.pwr with main := false }

theorem switchOver_eq_away :
    (let u := (s.onPwr fun p => { p with main := false }).judgeFuses
     if u.cellUp then u.onRtc Rtc.switchOver else u) = s.away := by
  have cell : (s.onPwr fun p => { p with main := false }).judgeFuses.cellUp = s.cellUp := rfl
  simp only [cell, State.away, State.offMain]
  cases s.cellUp <;> rfl

variable {s} (hm : s.pwr.main = true) (hp : s.pwr.state ≠ .unpowered)

include hm hp

theorem vmainLost_eq : s.vmainLost =
    if s.carriesOn then s.away.onPwr fun p => { p with cell := true }
    else match s.pwr.strike with
      | some k => s.away.onPwr fun p => { p with strike := some k.loseMain }
      | none => if s.pwr.state = .awake then s.away.reserveFalls.strikeBegin .final 0#32 else s.away.enterDepleted := by
  unfold State.vmainLost
  rw [if_neg (by simp [hm, hp])]
  dsimp only
  rw [switchOver_eq_away]
  rfl

theorem vmainLost_of_enough (h : s.carriesOn = true) :
    s.vmainLost = s.offMain { s.pwr with main := false, cell := true } := by
  rw [vmainLost_eq hm hp, if_pos h]
  rfl

theorem vmainLost_in_strike (h : ¬s.carriesOn = true) {k : Strike} (hs : s.pwr.strike = some k) :
    s.vmainLost = s.offMain { s.pwr with main := false, strike := some k.loseMain } := by
  rw [vmainLost_eq hm hp, if_neg h, hs]
  rfl

theorem vmainLost_of_awake (h : ¬s.carriesOn = true) (hs : s.pwr.strike = none) (ha : s.pwr.state = .awake) :
    s.vmainLost = s.away.reserveFalls.strikeBegin .final 0#32 := by
  rw [vmainLost_eq hm hp, if_neg h, hs]
  exact if_pos ha

theorem vmainLost_of_asleep (h : ¬s.carriesOn = true) (hs : s.pwr.strike = none) (ha : s.pwr.state ≠ .awake) :
    s.vmainLost = s.away.enterDepleted := by
  rw [vmainLost_eq hm hp, if_neg h, hs]
  exact if_neg ha

end Loss

/-! ## The final Strike begins (R10, R124, R280) -/

section FinalStrike

variable (s : State)

theorem powerOffEmpty_same : ∃ m r, s.powerOffEmpty = { s with mem := m, mm := r } := by
  unfold State.powerOffEmpty
  dsimp only
  split
  · exact ⟨s.mem, s.mm, rfl⟩
  · exact ⟨_, _, rfl⟩

/-- An abandoned migration changes the Warden, the lookasides and the bank that it had powered. -/
theorem abandon_same : ∃ w l m r, s.abandon = { s with wdn := w, look := l, mem := m, mm := r } ∧ w.mig = none := by
  unfold State.abandon
  split
  · next h => exact ⟨s.wdn, s.look, s.mem, s.mm, rfl, h⟩
  · next x h =>
    obtain ⟨m, r, e⟩ := powerOffEmpty_same ((s.flushLook (s.migObject x)).onWdn fun w =>
      { w with mig := none, stat := setBit w.stat 2 true })
    rw [e]
    exact ⟨_, _, _, _, rfl, rfl⟩

theorem reserveFalls_same : ∃ h l, s.reserveFalls = { s with per := { s.per with hrv := h }, inflight := l } := by
  unfold State.reserveFalls
  split
  · exact ⟨_, _, rfl⟩
  · exact ⟨s.per.hrv, s.inflight, rfl⟩

/-- What the final Strike leaves of a state at its beginning. -/
theorem strikeBegin_final :
    let t := s.strikeBegin .final 0#32
    t.pwr.strike = some ⟨.final, 0#32, 0#32, false⟩ ∧ t.pwr.main = s.pwr.main ∧ t.wdn.mig = none ∧
      t.wdn.queue = [] ∧ t.cores = s.cores ∧ t.per.rf = s.per.rf.paOff ∧ (s.wdn.mig = none → t.mem = s.mem) := by
  obtain ⟨w, l, m, r, e, hw⟩ := abandon_same s
  have mem : s.wdn.mig = none → m = s.mem := fun h => by
    rw [abandon_of_none h] at e
    exact (congrArg State.mem e).symm
  unfold State.strikeBegin
  rw [e]
  exact ⟨rfl, rfl, hw, rfl, rfl, rfl, mem⟩

end FinalStrike

/-! ## The transmitter at the end of a command (R258) -/

section Transmitter

variable (old s : State)

theorem settleRetiring_per : s.settleRetiring.per = s.per := by
  unfold State.settleRetiring
  split
  · rfl
  · exact List.foldlRecOn (motive := fun t : State => t.per = s.per) _ _ rfl fun _ h _ _ => h

/-- The transmitter and its amplifier are off (R258). -/
def Rf.Silent (r : Rf) : Prop := r.txOn = false ∧ r.paEn = false ∧ r.trSw = false

theorem paOff_silent (r : Rf) : r.paOff.Silent := ⟨rfl, rfl, rfl⟩

/-- Where the table object is gone, the engine stops and takes the amplifier off. -/
theorem netGuard_silent (h : s.per.rf.Silent) : s.netGuard.per.rf.Silent := by
  unfold State.netGuard
  split
  · exact paOff_silent _
  · exact h

/-- The end of a command brings no transmitter on. -/
theorem finish_silent (h : s.per.rf.Silent) : (finish old s).per.rf.Silent := by
  have stuck : (old.stuckNew (s.dropPortA old)).per = s.per := by
    unfold State.stuckNew
    split
    · rfl
    · split <;> rfl
  have copied : ∀ t : State, t.copyRetired.per = t.per := fun t => by
    unfold State.copyRetired
    split <;> rfl
  have kept : (finish old s).per.rf = (old.housekeep (s.dropPortA old)).per.rf := by
    unfold finish
    dsimp only
    split
    · rfl
    · rw [State.fireAll_per_rf, State.fireProducers_per_rf]
  rw [kept]
  exact netGuard_silent _ (by rw [copied, settleRetiring_per, stuck]; exact h)

end Transmitter

/-! ## The return of VMAIN (R16, R325) -/

section Return

variable {s : State}

theorem vmainBack_of_main (h : s.pwr.main = true ∨ s.pwr.state = .unpowered) : s.vmainBack = s := by
  rw [State.vmainBack, if_pos (by simpa using h)]

variable (hm : s.pwr.main = false) (hp : s.pwr.state ≠ .unpowered)

include hm hp

theorem vmainBack_in_strike {k : Strike} (hs : s.pwr.strike = some k)
    (h : k.kind = .final ∨ k.kind = .drain ∨ k.mainLost = true) :
    s.vmainBack = s.onPwr fun p => { p with main := true, strike := some k.regainMain } := by
  rw [State.vmainBack, if_neg (by simp [hm, hp])]
  simp only [State.onPwr_pwr, hs, if_pos h]
  rfl

theorem vmainBack_of_depleted (hs : s.pwr.strike = none) (h : s.pwr.state = .depleted) :
    s.vmainBack = (s.onPwr fun p => { p with main := true }).deviceReset 4#32 0#32 := by
  rw [State.vmainBack, if_neg (by simp [hm, hp])]
  simp only [State.onPwr_pwr, hs, if_pos h]

theorem vmainBack_of_awake (hs : s.pwr.strike = none) (h : s.pwr.state ≠ .depleted) :
    s.vmainBack = (s.onPwr fun p => { p with main := true }).wake 10 0 false := by
  rw [State.vmainBack, if_neg (by simp [hm, hp])]
  simp only [State.onPwr_pwr, hs, if_neg h]

end Return

theorem regainMain_causes (k : Strike) : k.regainMain =
    { k with causes := if k.causes &&& 0x22#32 = 0#32 then k.causes ||| 4#32 else k.causes, mainLost := false } := by
  unfold Strike.regainMain dueMask
  by_cases h : k.causes &&& 0x22#32 = 0#32 <;> simp [anyBit, h]

/-! ## A fault that resets the device (R139, R145, R394) -/

/-- The safe-state sequence leaves its record, and the reset that shows bit 4. -/
theorem safeState_spec (s : State) (f : FaultInfo) :
    let t := s.safeState f
    t.rp.mode = .cold ∧ bit t.pwr.cause 4 = true ∧ t.mem.byte (s.logSlot + 4) = BitVec.ofNat 8 f.cls ∧
      t.mem.byte (s.logSlot + 5) = BitVec.ofNat 8 f.unit ∧ t.itg.total = s.itg.total + 1#32 := by
  have cause : ∀ b : Bool, bit (0x10#32 ||| if b then 8#32 else 0#32) 4 = true := by decide
  unfold State.safeState
  dsimp only
  refine ⟨State.deviceReset_mode .., ?_, recordFault_deviceReset s f (faultAction s f) _ _ 0#32 ?_⟩
  · rw [State.deviceReset_pwr]
    exact cause _
  · rw [State.onPwr_mem, State.onRp_mem]

/-- Class SUPPLY calls for the safe state in every configuration (R151). -/
theorem react_supply (s : State) (unit : Nat) (detail : DWord) :
    s.react { cls := 9, unit := unit, detail := detail } = s.safeState { cls := 9, unit := unit, detail := detail } := by
  have dead : deadClass s.twin 9 = false := by cases s.twin <;> rfl
  have safe : safeClass s.twin 9 = true := by cases s.twin <;> rfl
  simp [State.react, dead, safe]

/-! ## The supply events -/

theorem becomes_of_eq {s u v : State} {i : Instr} (h : exec i s = .next (finish s v)) (e : v = u) : s.becomes i u :=
  State.becomes_of (by rw [h, e])

section PowerOn

variable {s : State} (cell lost : Bool)

theorem powerOn_of_powered (h : s.pwr.state ≠ .unpowered) : s.powerOn cell lost = s := by rw [State.powerOn, if_neg h]

theorem powerOnCause_eq (b c : Bool) :
    1#32 ||| flagAt 8 (b || c) = 1#32 ||| if b = true ∨ c = true then 0x100#32 else 0#32 := by
  revert b c
  decide

theorem bit_powerOnCause (b : Bool) : bit (1#32 ||| flagAt 8 b) 0 = true := by
  revert b
  decide

/-- The first reset of a Porch that had no supply. -/
theorem powerOn_spec (h : s.pwr.state = .unpowered) :
    let t := s.powerOn cell lost
    t.rp.mode = .cold ∧ t.pwr.state = .awake ∧
      t.pwr.cause = (1#32 ||| if lost = true ∨ s.pwr.rtcLost = true then 0x100#32 else 0#32) ∧
      t.pwr.main = (!cell) ∧ t.pwr.cell = (cell || s.pwr.cell) ∧ t.pwr.bivcnt = 0#32 ∧
      t.cores = Vector.replicate 4 Core.reset ∧ (∀ x, inMram x = true → t.mem.byte x = s.mem.byte x) := by
  dsimp only
  rw [State.powerOn, if_pos h]
  exact ⟨rfl, rfl, powerOnCause_eq .., rfl, rfl, if_pos (bit_powerOnCause _), rfl,
    fun x hx => State.deviceReset_byte s (1#32 ||| flagAt 8 (lost || s.pwr.rtcLost)) 0#32 hx⟩

end PowerOn

section Nrst

variable {s : State}

theorem nrstLow_of_unpowered (h : s.pwr.state = .unpowered) : s.nrstLow = s := by rw [State.nrstLow, if_pos h]

theorem nrstLow_of_none (h : s.pwr.state ≠ .unpowered) (hs : s.pwr.strike = none) : s.nrstLow =
    (s.deviceReset (if s.waking then 0xA#32 else 2#32) 0#32).onPwr fun p => { p with state := .held } := by
  rw [State.nrstLow, if_neg h, hs]

theorem nrstLow_in_strike (h : s.pwr.state ≠ .unpowered) {k : Strike} (hs : s.pwr.strike = some k) :
    s.nrstLow = s.onPwr fun p => { p with strike := some (k.due 2#32), state := .held } := by
  rw [State.nrstLow, if_neg h, hs]

end Nrst

/-- The collapse of the hold-up, as R98, R170, R171 and R294 state it. -/
theorem supplyLoss_spec {s : State} (words : Nat) (h : ¬s.cellUp = true) :
    let t := s.supplyLoss words
    t.pwr = { s.pwr with main := false, state := .unpowered, strike := none } ∧
      (s.pwr.strike = none → t.mem = s.mem) ∧
      (s.rp.fusing = true ∧ s.rp.ctr ≤ s.rp.rollback → s.rp.ctr ≤ t.rp.ctr ∧ t.rp.ctr ≤ s.rp.rollback) ∧
      (s.rp.fusing = false → t.rp.ctr = s.rp.ctr) ∧
      (∀ n, s.rp.keyWrite = some n → Config.freeBool s.free = true → t.rp.key n = none) ∧
      (words ≤ 8 * s.mm.dirtyLines.length →
        ∀ j < 512, t.mem.byte (mramBase + 0x10000 + j) = s.mem.byte (mramBase + 0x10000 + j)) ∧
      (∀ j < 256, t.mem.byte (recordBase (!s.mm.nextSlot) + j) = s.mem.byte (recordBase (!s.mm.nextSlot) + j)) ∧
      (∀ l < 256, ∀ j < 64, t.mem.byte (imageAddr s (emberBase + 64 * l + j)) =
        s.mem.byte (imageAddr s (emberBase + 64 * l + j))) := by
  obtain ⟨u, e, hpwr, hrp, hfree, hnone, hmem⟩ := supplyLoss_cases words h
  have kept : ∀ x, (s.strikeWrite (min words s.strikeLength)).mem.byte x = s.mem.byte x →
      u.mem.byte x = s.mem.byte x := fun x hx => by
    rcases hmem with hm | hm
    · rw [hm]
    · rw [hm, hx]
  have ctr : u.unsupplied.rp.ctr = (s.rp.cutFuses s.free).ctr := by rw [← hrp, ← hfree]; rfl
  dsimp only
  rw [e, ctr]
  refine ⟨by rw [← hpwr]; rfl, hnone, fun hf => ?_, cutFuses_ctr_of_idle _ _, fun n hw hcut => ?_, fun hn j hj => ?_,
    fun j hj => kept _ (strikeWrite_record_in_force s _ hj), fun l hl j hj => kept _ ?_⟩
  · obtain ⟨hfusing, hle⟩ := hf
    exact cutFuses_ctr_bounds _ _ hfusing hle
  · exact unsupplied_key (by rw [hrp, hw]) (by rw [hfree, hcut])
  · refine kept _ (strikeWrite_lines_byte_apart s _ (by omega) fun l hl _ i hi => ?_)
    have := freeImage_bounds s.mm hl
    omega
  · refine strikeWrite_byte_apart s _ (fun l' hl' _ j' hj' => imageAddr_ne_freeImage s hl hl' hj hj') fun i hi => ?_
    have bounds := recordBase_bounds s.mm.nextSlot
    unfold imageAddr
    dsimp only
    split <;> omega

/-- At the loss of VMAIN while awake at or below Reserve the final Strike begins (R16, R293). -/
theorem vmainLost_awake_spec {s : State} (hm : s.pwr.main = true) (ha : s.pwr.state = .awake)
    (h : ¬s.carriesOn = true) (hs : s.pwr.strike = none) :
    let t := s.vmainLost
    t.pwr.strike = some ⟨.final, 0#32, 0#32, false⟩ ∧ t.pwr.main = false ∧ t.wdn.mig = none ∧
      t.wdn.queue = [] ∧ t.cores = s.cores ∧ t.per.rf.Silent ∧ (s.wdn.mig = none → t.mem = s.mem) := by
  dsimp only
  rw [vmainLost_of_awake hm (by rw [ha]; decide) h hs ha]
  obtain ⟨v, l, e⟩ := reserveFalls_same s.away
  rw [e]
  obtain ⟨hstrike, hmain, hmig, hqueue, hcores, hrf, hmem⟩ :=
    strikeBegin_final { s.away with per := { s.away.per with hrv := v }, inflight := l }
  exact ⟨hstrike, hmain, hmig, hqueue, hcores, by rw [hrf]; exact paOff_silent _, hmem⟩

section BankSupply

variable {s : State} (b2 up : Bool)

theorem bankSupply_condition :
    (!up && bit s.itg.stat (if b2 then 6 else 5) && (s.setBank b2 up).domainOn) = true ↔
      up = false ∧ bit s.itg.stat (if b2 then 6 else 5) = true ∧ s.pwr.state = .awake := by
  have domain : (s.setBank b2 up).domainOn = s.domainOn := by cases b2 <;> rfl
  rw [domain]
  simp only [State.domainOn, Bool.and_eq_true, Bool.not_eq_true', decide_eq_true_eq, and_assoc]

theorem bankSupply_of_unwatched
    (h : ¬(up = false ∧ bit s.itg.stat (if b2 then 6 else 5) = true ∧ s.pwr.state = .awake)) :
    s.bankSupply b2 up = s.setBank b2 up := by
  unfold State.bankSupply
  dsimp only
  exact if_neg (mt (bankSupply_condition b2 up).1 h)

/-- The loss of a watched bank is a fault of class SUPPLY. -/
theorem bankSupply_of_watched (h : up = false ∧ bit s.itg.stat (if b2 then 6 else 5) = true ∧ s.pwr.state = .awake) :
    ∃ d : DWord, s.bankSupply b2 up =
      ((s.setBank b2 up).useFree 1).safeState { cls := 9, unit := if b2 then 2 else 1, detail := d } := by
  unfold State.bankSupply
  dsimp only
  rw [if_pos ((bankSupply_condition b2 up).2 h), react_supply]
  exact ⟨_, rfl⟩

end BankSupply

/-- Settles O44: each supply event by the state of the Porch and the Strike that it meets. That the loss of VMAIN or of
the Porch ends the blowing of fuses part way, and that a slot of the key store is lost while it is written, are readings
of the model (assumptions 56 and 23). -/
theorem supplyEvents : Obligations.SupplyEvents := by
  unfold Obligations.SupplyEvents
  intro s cell lost b2 up words p off enough seen watched cellUp rtc cut lose fusing away served
  have henough : s.carriesOn = true ↔ enough := carriesOn_iff s
  have hcell : s.cellUp = true ↔ cellUp := cellUp_iff s
  refine ⟨fun h => becomes_of_eq rfl (powerOn_of_powered cell lost h), fun h => ⟨_, rfl, ?_⟩,
    fun h => becomes_of_eq rfl (nrstLow_of_unpowered h), fun h hs => ⟨_, rfl, ?_⟩,
    fun h k hs => becomes_of_eq rfl (nrstLow_in_strike h hs), fun h => becomes_of_eq rfl (if_neg h),
    fun h => becomes_of_eq rfl (if_pos h), fun h => becomes_of_eq rfl (supplyLoss_of_cell words (hcell.2 h)),
    fun h => ⟨_, rfl, ?_⟩, fun h => becomes_of_eq rfl (if_pos (by simpa using h)),
    fun hm hp h => becomes_of_eq rfl (vmainLost_of_enough hm hp (henough.2 h)),
    fun hm hp h k hs => becomes_of_eq rfl (vmainLost_in_strike hm hp (mt henough.1 h) hs),
    fun hm ha h hs => ⟨_, rfl, ?_⟩, fun hm hp ha h hs => ⟨_, rfl, ?_⟩,
    fun h => becomes_of_eq rfl (vmainBack_of_main h), fun hm k hp hs hk => becomes_of_eq rfl ?_,
    fun hm hs hd => ⟨_, rfl, ?_⟩, fun hm hp hs hd hb hw => becomes_of_eq rfl ?_, becomes_of_eq rfl rfl,
    fun h => becomes_of_eq rfl (bankSupply_of_unwatched b2 up h), fun h => ⟨_, rfl, ?_⟩⟩
  · simp only [finish_mem, finish_pwr, finish_rp_mode, finish_cores]
    exact powerOn_spec cell lost h
  · simp only [finish_pwr, finish_rp_mode, finish_cores, nrstLow_of_none h hs]
    exact ⟨rfl, rfl, rfl, rfl⟩
  · obtain ⟨hpwr, hmem, hfusing, hidle, hkey, hlines, hforce, himage⟩ := supplyLoss_spec words (mt hcell.1 h)
    simp only [finish_mem, finish_pwr, finish_rp_ctr]
    refine ⟨hpwr, hmem, hfusing, hidle, fun n _ hw hcut => ?_, hlines, hforce, himage⟩
    rw [← hkey n hw hcut]
    simp only [Ridgepole.key, finish_rp_keys]
  · obtain ⟨hstrike, hmain, hmig, hqueue, hcores, hrf, hmem⟩ := vmainLost_awake_spec hm ha (mt henough.1 h) hs
    obtain ⟨htx, hpa, hsw⟩ := finish_silent s _ hrf
    simp only [finish_mem, finish_pwr, finish_cores, finish_wdn_mig, finish_wdn_queue]
    exact ⟨hstrike, hmain, hmig, hqueue, hcores, htx, hpa, hsw, hmem⟩
  · simp only [finish_mem, finish_pwr, vmainLost_of_asleep hm hp (mt henough.1 h) hs ha, enterDepleted_mem,
      enterDepleted_pwr]
    exact ⟨rfl, rfl⟩
  · rw [vmainBack_in_strike hm hp hs hk, regainMain_causes]
  · simp only [finish_pwr, finish_rp_mode, vmainBack_of_depleted hm (by rw [hd]; decide) hs hd]
    exact ⟨rfl, rfl, rfl, rfl⟩
  · exact (vmainBack_of_awake hm hp hs hd).trans (wake_of_awake hs hb hw.symm)
  · obtain ⟨d, e⟩ := bankSupply_of_watched b2 up h
    obtain ⟨hmode, hcause, hcls, hunit, htotal⟩ := safeState_spec ((s.setBank b2 up).useFree 1)
      { cls := 9, unit := if b2 then 2 else 1, detail := d }
    simp only [finish_mem, finish_pwr, finish_rp_mode, finish_itg_total, e]
    refine ⟨hmode, hcause, htotal, hcls, hunit.trans ?_⟩
    cases b2 <;> rfl

end Sys2Proof.Machine

/-! # Multiply, divide and the atomic accesses -/

namespace Sys2Proof.Machine

open Sys2Proof

/-! ## Multiply and divide (R39, R41) -/

/-- A core's general registers are seen. -/
theorem Core.r_of_seen {k k' : Core} (h : k.seen = k'.seen) (i : Reg) : k.r i = k'.r i := by
  have e := congrArg (fun k : Core => k.r i) h
  exact e

theorem State.nextPc_one (s : State) (c : CoreId) : s.nextPc c 1 = s.cores[c].pc + 2#32 := rfl
theorem State.countCore_nextPc (s : State) (c e : CoreId) (src n m : Nat) :
    (s.countCore c src n).nextPc e m = s.nextPc e m := by
  unfold State.nextPc; rw [State.countCore_cores]

/-- A core after the issue of a multiply with product `v` (R39). -/
def Core.multiplying (k : Core) (v : DWord) : Core :=
  { k with mul := some ⟨k.issue + 3, v.extractLsb' 32 32, v.extractLsb' 0 32⟩ }

/-- A core after the issue of a divide with outcome `q` (R39, R41). -/
def Core.dividing (k : Core) (q : Quot) : Core :=
  { k with div := some ⟨k.issue + 18, q.qt, q.rm⟩, flg := setBit k.flg 3 q.v }

/-- The halves of a product make it up. -/
theorem product_halves (v : DWord) : (v.extractLsb' 32 32 ++ v.extractLsb' 0 32 : BitVec 64) = v := by
  simp [BitVec.extractLsb'_append_extractLsb'_eq_extractLsb' (x := v) (show 32 = 0 + 32 from rfl)]

/-- Counting two events and then rewriting a core, but for the counters. -/
theorem countTwice_onCore_base (u : State) (c : CoreId) (a m b n : Nat) (f : Core → Core) :
    (((u.countCore c a m).countCore c b n).onCore c f).base = (u.onCore c f).base :=
  State.onCore_base_congr ((State.countCore_base ..).trans (State.countCore_base ..)) c f

/-- A multiply is issued. -/
theorem multiply_completes {s : State} {c : CoreId} {i : Instr} {p : Core → DWord} (h : s.ready c 1)
    (hi : exec i s = .next (finish s (s.multiply c p))) (hp : ∀ k k' : Core, k.seen = k'.seen → p k = p k') :
    registerStep s i c (s.cores[c].multiplying (p s.cores[c])) (s.nextPc c 1) 1 := by
  refine instr_completes (f := fun k => k.multiplying (p s.cores[c])) h hi (fun _ => rfl) fun u hu => ?_
  rw [← hp _ _ hu.seen, ← hu.nextPc]
  exact ⟨rfl, rfl, countTwice_onCore_base .., by simp only [State.countCore_nextPc], rfl⟩

/-- A divide is issued. -/
theorem divide_completes {s : State} {c : CoreId} {i : Instr} {p : Core → Quot} (h : s.ready c 1)
    (hi : exec i s = .next (finish s (s.divide c p))) (hp : ∀ k k' : Core, k.seen = k'.seen → p k = p k') :
    registerStep s i c (s.cores[c].dividing (p s.cores[c])) (s.nextPc c 1) 1 := by
  refine instr_completes (f := fun k => k.dividing (p s.cores[c])) h hi (fun _ => rfl) fun u hu => ?_
  rw [← hp _ _ hu.seen, ← hu.nextPc]
  exact ⟨rfl, rfl, countTwice_onCore_base .., by simp only [State.countCore_nextPc], rfl⟩

theorem divideU_of_ne {x y : Word} (h : y ≠ 0#32) : divideU x y = ⟨x / y, x % y, false⟩ := by
  rw [divideU, if_neg h, ← BitVec.udiv_def, ← BitVec.umod_def]

theorem divideS_of_ne {x y : Word} (h : y ≠ 0#32) (ho : ¬(x = 0x80000000#32 ∧ y = 0xFFFFFFFF#32)) :
    divideS x y = ⟨x.sdiv y, x.srem y, false⟩ := by
  have hq : BitVec.ofInt 32 (x.toInt.tdiv y.toInt) = x.sdiv y := by
    apply BitVec.eq_of_toInt_eq
    rw [BitVec.toInt_ofInt, BitVec.toInt_sdiv]
  rw [divideS, if_neg h, if_neg ho, hq, ← BitVec.toInt_srem, BitVec.ofInt_toInt]

/-! ### The result -/

/-- What the passing of issue cycles leaves of a core. -/
theorem Core.tick_frame (k : Core) (n : Nat) :
    (k.tick n).w = k.w ∧ (k.tick n).flg = k.flg ∧ (k.tick n).pc = k.pc ∧ (k.tick n).issue = k.issue + n := by
  unfold Core.tick Core.settleDiv Core.settleMul
  dsimp only
  repeat' split
  all_goals simp

/-- A multiply whose result comes due writes PH and PL (R39). -/
theorem Core.tick_mul {k : Core} {f : MulFlight} {n : Nat} (h : k.mul = some f) (hd : f.due ≤ k.issue + n) :
    (k.tick n).ph = f.ph ∧ (k.tick n).pl = f.pl ∧ (k.tick n).mul = none := by
  unfold Core.tick Core.settleDiv Core.settleMul
  simp only [h, hd, if_true]
  split <;> [split; skip] <;> simp

/-- A divide whose result comes due writes QT and RM (R39). -/
theorem Core.tick_div {k : Core} {f : DivFlight} {n : Nat} (h : k.div = some f) (hd : f.due ≤ k.issue + n) :
    (k.tick n).qt = f.qt ∧ (k.tick n).rm = f.rm ∧ (k.tick n).div = none := by
  have e : ({ k with issue := k.issue + n } : Core).settleMul.div = some f := by
    unfold Core.settleMul; split <;> [split; skip] <;> exact h
  have e' : ({ k with issue := k.issue + n } : Core).settleMul.issue = k.issue + n := by
    unfold Core.settleMul; split <;> [split; skip] <;> rfl
  unfold Core.tick Core.settleDiv
  simp [e, e', hd]

/-- The wait for a result: its core ticks, and nothing else that a program sees changes. -/
theorem awaitResult_ok {s : State} {c : CoreId} {i : Instr} {wait : Core → Nat} (h : s.issues c = true)
    (hi : exec i s = .next (finish s (s.awaitResult c wait))) :
    ∃ t, exec i s = .next t ∧
      t.cores[c] = (s.cores[c].tick (wait s.cores[c])).clock (wait s.cores[c]) ∧
      (∀ e, e ≠ c → t.cores[e] = s.cores[e]) ∧ t.mem = s.mem ∧ SameBlocks s t := by
  rw [State.awaitResult, if_pos h] at hi
  have hb := State.spend_base s c (wait s.cores[c])
  have hc := congrArg State.cores hb
  have hm := congrArg State.mem hb
  have hc' : (s.spend c (wait s.cores[c])).cores =
    (s.onCore c fun k => (k.tick (wait s.cores[c])).clock (wait s.cores[c])).cores := hc
  have hs := SameBlocks.of_base hb.symm
  refine ⟨_, hi, ?_, fun e he => ?_, ?_, SameBlocks.trans ?_ (SameBlocks.finish ..)⟩
  · rw [finish_cores, hc', onCore_same]
  · rw [finish_cores, hc', onCore_other _ he]
  · rw [finish_mem]; exact hm
  · exact ⟨hs.pwr, hs.clk, hs.peg, hs.pin, hs.tim, hs.ua, hs.tch, hs.evt, hs.rtc, hs.hrv, hs.snap, hs.pending⟩

/-- Settles O3: the issue by the kind of the instruction, with the quotients of R41 case by case, and the results
by what the issue clock brings due. -/
theorem multiplyAndDivide : Obligations.MultiplyAndDivide := by
  refine ⟨?_, ?_⟩
  · intro s c d a k x y step product quotient h
    have mul : ∀ (i : Instr) (p : Core → DWord) (n : Int), exec i s = .next (finish s (s.multiply c p)) →
        (∀ k k' : Core, k.seen = k'.seen → p k = p k') → p k = BitVec.ofInt 64 n →
        ∃ k', product n k' ∧ step i k' := fun i p n hi hp hn =>
      ⟨k.multiplying (p k), ⟨rfl, _, rfl, rfl, (product_halves _).trans hn⟩, multiply_completes h hi hp⟩
    have div : ∀ (i : Instr) (p : Core → Quot) (q : Quot), exec i s = .next (finish s (s.divide c p)) →
        (∀ k k' : Core, k.seen = k'.seen → p k = p k') → p k = q → step i (quotient q.qt q.rm q.v) :=
      fun i p q hi hp hq => by
        subst hq
        exact divide_completes h hi hp
    have reads : ∀ {α : Type} (f : Word → Word → α) (k k' : Core), k.seen = k'.seen →
        f (k.r d) (k.r a) = f (k'.r d) (k'.r a) := fun f k k' e => by
      simp only [Core.r_of_seen e]
    have divu := fun q (hq : divideU x y = q) => div (.divu c d a) _ q rfl (reads divideU) hq
    have divs := fun q (hq : divideS x y = q) => div (.divs c d a) _ q rfl (reads divideS) hq
    refine ⟨mul _ _ _ rfl (reads productU) ?_, mul _ _ _ rfl (reads productS) rfl,
      fun h0 => ⟨divu ⟨_, _, _⟩ (if_pos h0), divs ⟨_, _, _⟩ (if_pos h0)⟩,
      fun h0 => divu ⟨_, _, _⟩ (divideU_of_ne h0), fun hx hy => divs ⟨_, _, _⟩ ?_,
      fun h0 ho => divs ⟨_, _, _⟩ (divideS_of_ne h0 ho)⟩
    · show BitVec.ofNat 64 (x.toNat * y.toNat) = _
      rw [← Int.natCast_mul, BitVec.ofInt_natCast]
    · rw [hx, hy]
      rfl
  · intro s c h k
    refine ⟨fun f hf => ?_, fun f hf => ?_⟩
    · obtain ⟨t, he, hc, hrest⟩ := awaitResult_ok (i := .multiplyResult c) h rfl
      have hn : k.mulWait = f.due - k.issue := by simp only [Core.mulWait, hf]
      obtain ⟨hph, hpl, hmul⟩ := Core.tick_mul (n := k.mulWait) hf (by omega)
      obtain ⟨hw, hflg, hpc, hissue⟩ := Core.tick_frame k k.mulWait
      refine ⟨t, he, ?_⟩
      rw [hc]
      exact ⟨hph, hpl, hmul, hissue.trans (by omega), hw, hflg, hpc, hrest⟩
    · obtain ⟨t, he, hc, hrest⟩ := awaitResult_ok (i := .divideResult c) h rfl
      have hn : k.divWait = f.due - k.issue := by simp only [Core.divWait, hf]
      obtain ⟨hqt, hrm, hdiv⟩ := Core.tick_div (n := k.divWait) hf (by omega)
      obtain ⟨hw, hflg, hpc, hissue⟩ := Core.tick_frame k k.divWait
      refine ⟨t, he, ?_⟩
      rw [hc]
      exact ⟨hqt, hrm, hdiv, hissue.trans (by omega), hw, hflg, hpc, hrest⟩


/-- Settles O7: both are atomic accesses of the word at Wa, with the new word that each makes of the old one. -/
theorem atomicAccess : Obligations.AtomicAccess := by
  intro s c d a b k ad old h4 hr hw
  refine ⟨fun h => ?_, fun h => ?_⟩
  · have e := atomics_complete (i := .xchg c d a) (f := fun k _ => k.r d) h rfl
      (fun _ _ e => by rw [Core.r_of_seen e]) h4 hr hw
    exact e
  · have e := atomics_complete (i := .addm c d a b) (f := fun k old => old + k.r b) h rfl
      (fun _ _ e => by rw [Core.r_of_seen e]) h4 hr hw
    exact e

end Sys2Proof.Machine

/-! # Packed BCD -/

namespace Sys2Proof.Machine

open Sys2Proof

/-! ## Packed BCD (R44-R46) -/

/-- The digit loop of R44, where `C` gives the carry into each digit: its digits, and the last carry. -/
theorem bcdLoop_digits {f : Nat → Nat → Nat → Nat × Nat} {a b : Word} {C : Nat → Nat}
    (hC : ∀ j, C (j + 1) = (f (nibble a j) (nibble b j) (C j)).2)
    (hd : ∀ j, (f (nibble a j) (nibble b j) (C j)).1 < 16) :
    ∀ k i, (bcdLoop f a b k i (C i)).2 = C (i + k) ∧
      ∀ j < k, (bcdLoop f a b k i (C i)).1 / 16 ^ j % 16 = (f (nibble a (i + j)) (nibble b (i + j)) (C (i + j))).1
  | 0, i => ⟨rfl, fun j hj => absurd hj (Nat.not_lt_zero j)⟩
  | k + 1, i => by
    obtain ⟨hlast, hdigits⟩ := bcdLoop_digits hC hd k (i + 1)
    rw [hC] at hlast hdigits
    have hi := hd i
    refine ⟨hlast.trans (by rw [Nat.add_assoc, Nat.add_comm 1]), fun j hj => ?_⟩
    rw [bcdLoop]
    dsimp only
    cases j with
    | zero => rw [Nat.pow_zero, Nat.div_one, Nat.add_mul_mod_self_left, Nat.mod_eq_of_lt hi, Nat.add_zero]
    | succ j =>
      rw [Nat.pow_succ', ← Nat.div_div_eq_div_mul, Nat.add_mul_div_left _ _ (by decide), Nat.div_eq_of_lt hi,
        Nat.zero_add, hdigits j (by omega), Nat.add_right_comm i 1 j]
      rfl

theorem nibble_ofNat (n : Nat) {i : Nat} (h : i < 8) : nibble (BitVec.ofNat 32 n) i = n / 16 ^ i % 16 := by
  unfold nibble bits
  rw [BitVec.toNat_ofNat, Nat.shiftRight_eq_div_pow]
  interval_cases i <;> omega

theorem nibble_lt (w : Word) (i : Nat) : nibble w i < 16 := Nat.mod_lt _ (by decide)

theorem badNibble_iff (w : Word) : badNibble w = true ↔ ∃ i : Fin 8, 9 < nibble w i := by
  simp only [badNibble, List.any_eq_true, List.mem_range, decide_eq_true_eq]
  exact ⟨fun ⟨i, hi, h⟩ => ⟨⟨i, hi⟩, h⟩, fun ⟨i, h⟩ => ⟨i, i.isLt, h⟩⟩

theorem badNibble_eq (w : Word) : badNibble w = decide (∃ i : Fin 8, 9 < nibble w i) := by
  rw [Bool.eq_iff_iff, badNibble_iff, decide_eq_true_eq]

theorem sum_range_eight (g : Nat → Nat) :
    ((List.range 8).map g).sum = g 0 + g 1 + g 2 + g 3 + g 4 + g 5 + g 6 + g 7 := by
  simp [List.range_succ, Nat.add_assoc]

theorem bcdToBin_eq (w : Word) : bcdToBin w = nibble w 0 + nibble w 1 * 10 + nibble w 2 * 100 + nibble w 3 * 1000 +
    nibble w 4 * 10000 + nibble w 5 * 100000 + nibble w 6 * 1000000 + nibble w 7 * 10000000 := by
  rw [bcdToBin, sum_range_eight]
  norm_num

theorem badNibble_or (x y : Word) :
    (badNibble x || badNibble y) = decide (∃ i : Fin 8, 9 < nibble x i ∨ 9 < nibble y i) := by
  rw [Bool.eq_iff_iff, Bool.or_eq_true, badNibble_iff, badNibble_iff, decide_eq_true_eq, exists_or]

theorem decimalCarry_succ (a b : Word) (cin : Bool) (j : Nat) :
    decimalCarry a b cin (j + 1) = (addDigit (nibble a j) (nibble b j) (decimalCarry a b cin j)).2 := by
  rw [decimalCarry, addDigit]
  split <;> rfl

theorem decimalBorrow_succ (a b : Word) (bin : Bool) (j : Nat) :
    decimalBorrow a b bin (j + 1) = (subDigit (nibble a j) (nibble b j) (decimalBorrow a b bin j)).2 := by
  rw [decimalBorrow, subDigit]
  split <;> rfl

theorem decimalBorrow_le (a b : Word) (bin : Bool) : ∀ j, decimalBorrow a b bin j ≤ 1
  | 0 => Bool.toNat_le bin
  | j + 1 => by rw [decimalBorrow]; split <;> omega

theorem addDigit_eq (a b c : Nat) :
    (addDigit a b c).1 = if 10 ≤ a + b + c then (a + b + c - 10) % 16 else a + b + c := by
  rw [addDigit]; split <;> rfl

theorem subDigit_eq (a b c : Nat) :
    (subDigit a b c).1 = if a < b + c then (a + 10 + 16 - b - c) % 16 else a - b - c := by
  rw [subDigit]; split <;> rfl

theorem bcdAdd_v (a b : Word) (cin : Bool) :
    (bcdAdd a b cin).v = decide (∃ i : Fin 8, 9 < nibble a i ∨ 9 < nibble b i) := by
  rw [bcdAdd, badNibble_or]

theorem bcdSub_v (a b : Word) (bin : Bool) :
    (bcdSub a b bin).v = decide (∃ i : Fin 8, 9 < nibble a i ∨ 9 < nibble b i) := by
  rw [bcdSub, badNibble_or]

theorem bcdAdjust_r (a : Word) : (bcdAdjust a).r = (bcdAdd a 0#32 false).r := by rw [bcdAdjust]

theorem bcdAdjust_d (a : Word) : (bcdAdjust a).d = (bcdAdd a 0#32 false).d := by rw [bcdAdjust]

/-- The decimal sum of R44 and its last carry. -/
theorem bcdAdd_spec (a b : Word) (cin : Bool) :
    IsDecimalSum a b cin (bcdAdd a b cin).r ∧ (bcdAdd a b cin).d = decide (decimalCarry a b cin 8 = 1) := by
  obtain ⟨hlast, hdigits⟩ := bcdLoop_digits (decimalCarry_succ a b cin)
    (fun j => by rw [addDigit_eq]; split <;> omega) 8 0
  rw [decimalCarry, Nat.zero_add] at hlast
  simp only [decimalCarry.eq_1, Nat.zero_add, addDigit_eq] at hdigits
  refine ⟨fun i hi => ?_, ?_⟩
  · rw [bcdAdd, nibble_ofNat _ hi, hdigits i hi]
  · rw [bcdAdd, hlast]

/-- The decimal difference of R44 and its last borrow. -/
theorem bcdSub_spec (a b : Word) (bin : Bool) :
    IsDecimalDifference a b bin (bcdSub a b bin).r ∧
      (bcdSub a b bin).d = decide (decimalBorrow a b bin 8 = 1) := by
  obtain ⟨hlast, hdigits⟩ := bcdLoop_digits (decimalBorrow_succ a b bin)
    (fun j => by have := nibble_lt a j; rw [subDigit_eq]; split <;> omega) 8 0
  rw [decimalBorrow, Nat.zero_add] at hlast
  simp only [decimalBorrow.eq_1, Nat.zero_add, subDigit_eq] at hdigits
  refine ⟨fun i hi => ?_, ?_⟩
  · have := nibble_lt b i
    have := decimalBorrow_le a b bin i
    rw [bcdSub, nibble_ofNat _ hi, hdigits i hi]
    dsimp only
    split <;> split <;> omega
  · rw [bcdSub, hlast]

/-- Digits weighted by powers of 16 spell a number below the next power, and each stands in its place. -/
theorem hexSum_digits {d : Nat → Nat} (hd : ∀ i, d i < 16) : ∀ k,
    ((List.range k).map fun i => d i * 16 ^ i).sum < 16 ^ k ∧
      ∀ i < k, ((List.range k).map fun i => d i * 16 ^ i).sum / 16 ^ i % 16 = d i
  | 0 => ⟨by simp, fun i hi => absurd hi (Nat.not_lt_zero i)⟩
  | k + 1 => by
    obtain ⟨hlt, hdigits⟩ := hexSum_digits hd k
    have hk := hd k
    rw [List.range_succ, List.map_append, List.sum_append, List.map_singleton, List.sum_singleton]
    have hle : d k * 16 ^ k ≤ 15 * 16 ^ k := Nat.mul_le_mul_right _ (by omega)
    refine ⟨by rw [Nat.pow_succ]; omega, fun i hi => ?_⟩
    rcases Nat.lt_succ_iff_lt_or_eq.1 hi with h | rfl
    · obtain ⟨m, rfl⟩ : ∃ m, k = i + 1 + m := ⟨k - (i + 1), by omega⟩
      have e : d (i + 1 + m) * 16 ^ (i + 1 + m) = 16 ^ i * (16 * (d (i + 1 + m) * 16 ^ m)) := by ring
      rw [e, Nat.add_mul_div_left _ _ (by positivity), Nat.add_mul_mod_self_left, hdigits i h]
    · rw [Nat.add_mul_div_right _ _ (by positivity), Nat.div_eq_of_lt hlt, Nat.zero_add, Nat.mod_eq_of_lt hk]

theorem binToBcd_nibble (n : Nat) {i : Nat} (h : i < 8) :
    nibble (BitVec.ofNat 32 (binToBcd n)) i = n / 10 ^ i % 10 := by
  obtain ⟨-, hdigits⟩ := hexSum_digits (d := fun i => n / 10 ^ i % 10)
    (fun i => (Nat.mod_lt _ (by decide)).trans (by decide)) 8
  rw [nibble_ofNat _ h, binToBcd, hdigits i h]

/-- A decimal instruction counts its event and rewrites its core. -/
theorem decimal_completes {s : State} {c : CoreId} {i : Instr} {cycles : Nat} {f : Core → Core} (h : s.ready c 1)
    (hi : exec i s = .next (finish s (s.decimal c cycles f))) (hf : ∀ k : Core, (f k).seen = f k.seen) :
    registerStep s i c (f s.cores[c]) (s.nextPc c 1) cycles :=
  instr_completes h hi hf fun _ hu =>
    ⟨rfl, rfl, (State.countCore_base ..).trans (State.countCore_base ..), hu.nextPc 1, rfl⟩

/-- Settles O4: the digit loop of R44 gives the digits and carries that the statement defines, and the conversions
are sums over the nibbles. -/
theorem decimalInstructions : Obligations.DecimalInstructions := by
  refine ⟨?_, ?_⟩
  · intro s c d a k x y df bad step add sub h
    have hx : k.r d = x := rfl
    have hy : k.r a = y := rfl
    have puts : ∀ (i : Instr) (g : Core → Dec) (r : Dec),
        exec i s = .next (finish s (s.decimal c 1 fun k => k.putDec d (g k))) → (∀ k : Core, g k.seen = g k) →
        g k = r → step i r.r r.v r.d := fun i g r hi hg hr => by
      subst hr
      exact decimal_completes h hi fun k => by rw [hg]; rfl
    have adds : ∀ (i : Instr) (y : Word) (cin v : Bool) (r : Dec), r.r = (bcdAdd x y cin).r →
        r.d = (bcdAdd x y cin).d → r.v = v → step i r.r r.v r.d → add i x y cin v :=
      fun i y cin v r hr hd hv e => by
        obtain ⟨hsum, hcarry⟩ := bcdAdd_spec x y cin
        rw [hd, hcarry, hr, hv] at e
        exact ⟨_, hsum, e⟩
    have subs : ∀ (i : Instr) (bin : Bool), step i (bcdSub x y bin).r (bcdSub x y bin).v (bcdSub x y bin).d →
        sub i bin := fun i bin e => by
      obtain ⟨hdiff, hborrow⟩ := bcdSub_spec x y bin
      rw [hborrow, bcdSub_v] at e
      exact ⟨_, hdiff, e⟩
    refine ⟨?_, ?_, ?_, ?_, ?_⟩
    · exact adds _ _ _ _ _ rfl rfl (bcdAdd_v x y _) (puts (.badd c d a) (fun k => bcdAdd (k.r d) (k.r a) false) _ rfl
        (fun _ => rfl) (by rw [hx, hy]))
    · exact adds _ _ _ _ _ rfl rfl (bcdAdd_v x y _) (puts (.badc c d a)
        (fun k => bcdAdd (k.r d) (k.r a) (flagD k.flg)) (bcdAdd x y df) rfl (fun _ => rfl) (by rw [hx, hy]; rfl))
    · exact subs _ _ (puts (.bsub c d a) (fun k => bcdSub (k.r d) (k.r a) false) _ rfl (fun _ => rfl) (by rw [hx, hy]))
    · exact subs _ _ (puts (.bsbc c d a) (fun k => bcdSub (k.r d) (k.r a) (flagD k.flg)) (bcdSub x y df) rfl
        (fun _ => rfl) (by rw [hx, hy]; rfl))
    · exact adds _ _ _ _ _ (bcdAdjust_r x) (bcdAdjust_d x) rfl (puts (.dadj c d) (fun k => bcdAdjust (k.r d)) _ rfl
        (fun _ => rfl) (by rw [hx]))
  · intro s c d a k y flags step h
    have hy : k.r a = y := rfl
    have puts : ∀ (i : Instr) (cycles : Nat) (g : Core → Word) (b : Core → Bool) (r : Word) (v : Bool),
        exec i s = .next (finish s (s.decimal c cycles fun k => k.putConv d (g k) (b k))) →
        (∀ k : Core, g k.seen = g k) → (∀ k : Core, b k.seen = b k) → g k = r → b k = v → step i r v cycles :=
      fun i cycles g b r v hi hg hb hr hv => by
        subst hr hv
        exact decimal_completes h hi fun k => by rw [hg, hb]; rfl
    refine ⟨⟨_, fun i hi => binToBcd_nibble y.toNat hi, ?_⟩, ?_⟩
    · exact puts (.cvbd c d a) 4 (fun k => BitVec.ofNat 32 (binToBcd (k.r a).toNat))
        (fun k => decide (99999999 < (k.r a).toNat)) _ _ rfl (fun _ => rfl) (fun _ => rfl) (by rw [hy]) (by rw [hy])
    · exact puts (.cvdb c d a) 2 (fun k => BitVec.ofNat 32 (bcdToBin (k.r a))) (fun k => badNibble (k.r a)) _ _ rfl
        (fun _ => rfl) (fun _ => rfl) (by rw [hy, bcdToBin_eq]) (by rw [hy, badNibble_eq])

end Sys2Proof.Machine

/-! # Special registers, WAIT, POST and TEND -/

namespace Sys2Proof.Machine

open Sys2Proof

/-! ## What the fetch leaves of the core and the blocks -/

theorem vget_getElem {α : Type} {n : Nat} (v : Vector α n) {i : Nat} (h : i < n) (d : α) : vget v i d = v[i] :=
  dif_pos h

theorem vmod_getElem {α : Type} {n : Nat} (v : Vector α n) {i : Nat} (h : i < n) (f : α → α) :
    vmod v i f = v.set i (f v[i]) := dif_pos h

/-- The fetch leaves the core but for its sample counter and an open prefix. -/
theorem Fetched.core {s u : State} {c : CoreId} (h : Fetched s c u) :
    u.cores[c] = { s.cores[c] with repOpen := false, sample := u.cores[c].sample } := by
  have k := plain_core h.plain c
  rw [onCore_same] at k
  have e : u.cores[c] = { u.cores[c].still with sample := u.cores[c].sample } := rfl
  rw [e, k]
  rfl

theorem Fetched.itg {s u : State} {c : CoreId} (h : Fetched s c u) : u.itg = s.itg := by
  have k := congrArg State.itg h.plain
  exact k

theorem Fetched.tsk {s u : State} {c : CoreId} (h : Fetched s c u) : u.wdn.tsk = s.wdn.tsk := by
  have k := congrArg (fun u : State => u.wdn.tsk) h.plain
  exact k

theorem Fetched.waymark {s u : State} {c : CoreId} (h : Fetched s c u) : u.waymark = s.waymark := by
  unfold State.waymark; rw [h.itg]

theorem Fetched.tskAt {s u : State} {c : CoreId} (h : Fetched s c u) (i : Nat) : u.tskAt i = s.tskAt i := by
  unfold State.tskAt; rw [h.tsk]

theorem Fetched.inThread {s u : State} {c : CoreId} (h : Fetched s c u) : u.inThread c = s.inThread c := by
  unfold State.inThread; rw [h.core]

theorem Fetched.writerOf {s u : State} {c : CoreId} (h : Fetched s c u) : u.writerOf c = s.writerOf c := by
  unfold State.writerOf; rw [h.core]

theorem Fetched.mathWait {s u : State} {c : CoreId} (h : Fetched s c u) :
    u.cores[c].mathWait = s.cores[c].mathWait := by rw [h.core]; rfl

/-- Updates of a core that agree on it make one state. -/
theorem onCore_congr {s : State} {c : CoreId} {f g : Core → Core} (h : f s.cores[c] = g s.cores[c]) :
    s.onCore c f = s.onCore c g := by
  unfold State.onCore; rw [h]

theorem onCore_id (s : State) (c : CoreId) : s.onCore c id = s := by
  unfold State.onCore
  simp

/-! ## Instructions that change the engines

An instruction may write the task table, the list of readiness or the queue of migrations next to its core. -/

/-- Out of `u`, the core `c` is rewritten by `f`, and memory and the blocks stay. -/
structure CoreRewritten (u : State) (c : CoreId) (f : Core → Core) (w : State) : Prop where
  cores : w.cores = (u.onCore c f).cores
  mem : w.mem = u.mem
  mm : w.mm = u.mm
  blocks : SameBlocks u w

/-- An instruction completes whose body rewrites its core by `f`; `P` is what else the body makes. -/
theorem instr_rewrites {s : State} {c : CoreId} {n cycles : Nat} {f : Core → Core} {i : Instr} {pc : Word}
    {body : State → Out} {P : State → State → Prop} (h : s.ready c n)
    (hi : exec i s = .next (finish s (s.instr c n body))) (hf : ∀ k : Core, (f k).seen = f k.seen)
    (hb : ∀ u, Fetched s c u → ∃ w, body u = ⟨w, none, [], pc, cycles⟩ ∧ CoreRewritten u c f w ∧ P u w) :
    ∃ t, exec i s = .next t ∧ t.cores[c].seen = (f s.cores[c]).after pc cycles ∧
      (∀ e : CoreId, e ≠ c → t.cores[e] = s.cores[e]) ∧ (∀ a, t.seenByte a = s.seenByte a) ∧ SameBlocks s t ∧
      ∃ u w, Fetched s c u ∧ P u w ∧ t.wdn.tsk = w.wdn.tsk ∧ t.itg.ready = w.itg.ready := by
  obtain ⟨u, hu, hr⟩ := instr_ready h body
  obtain ⟨w, hw, hk, hp⟩ := hb u hu
  rw [hw] at hr
  have hr' : s.instr c n body = w.complete c pc cycles := hr
  have hbase := State.complete_base w c pc cycles
  have htsk := congrArg (fun u : State => u.wdn.tsk) hbase
  have hready := congrArg (fun u : State => u.itg.ready) hbase
  refine ⟨_, hi, ?_, fun e he => ?_, fun a => ?_, ?_, u, w, hu, hp, ?_, ?_⟩
  · rw [finish_cores, hr', State.complete_core, hk.cores, onCore_same]
    unfold Core.after
    rw [Core.tick_seen, Core.tick_seen]
    have e : ∀ k : Core, ({ k with pc := pc } : Core).seen = { k.seen with pc := pc } := fun _ => rfl
    rw [e, e, hf, hf, hu.seen]
  · rw [finish_cores, hr', State.complete_other _ he, hk.cores, onCore_other _ he, hu.other he]
  · rw [finish_seenByte, hr']
    refine (seenByte_congr (t := u) ?_ ?_ ?_ a).trans (hu.byte a)
    · rw [State.complete_mem, hk.mem]
    · rw [State.complete_mm, hk.mm]
    · rw [State.complete_mm, hk.mm]
  · rw [hr']
    exact ((hu.blocks.trans hk.blocks).trans (SameBlocks.complete ..)).trans (SameBlocks.finish ..)
  · rw [finish_wdn_tsk, hr']; exact htsk
  · rw [finish_itg_ready, hr']; exact hready

/-! ## Special registers (R18, R19, R71) -/

theorem Fetched.special {s u : State} {c : CoreId} (h : Fetched s c u) (n : SReg) : u.special c n = s.special c n := by
  unfold State.special coreWord State.waymark State.twin
  rw [h.core, h.itg]

theorem coreWord_eq (s : State) (c : CoreId) :
    coreWord s c = BitVec.ofNat 32 (c.val + 4 * s.twin.toNat + 8 * s.waymark.toNat) := by
  have e : ∀ (c : CoreId) (t w : Bool),
      field 0 c.val ||| flagAt 2 t ||| flagAt 3 w = BitVec.ofNat 32 (c.val + 4 * t.toNat + 8 * w.toNat) := by decide
  exact e c _ _

/-- MFS of another register than CYC_LO. -/
theorem mfs_completes {s : State} {c : CoreId} (h : s.ready c 1) (d : Reg) {n : SReg} (hn : n ≠ 11) :
    registerStep s (.mfs c d n) c (s.cores[c].wrote d (s.special c n)) (s.nextPc c 1) 1 := by
  refine instr_completes (i := .mfs c d n) (f := fun k => k.wrote d (s.special c n)) h rfl (fun _ => rfl) fun u hu => ?_
  rw [← hu.special, ← hu.nextPc]
  refine ⟨rfl, rfl, ?_, rfl, rfl⟩
  show (u.onCore c fun k => (k.readSpecial n).setR d (u.special c n)).base = _
  unfold Core.readSpecial
  simp only [if_neg hn]
  rfl

/-- MFS of CYC_LO copies the high half into the shadow (R19). -/
theorem mfs_cycLo_completes {s : State} {c : CoreId} (h : s.ready c 1) (d : Reg) :
    registerStep s (.mfs c d 11) c
      ({ s.cores[c] with cycShadow := s.cores[c].cyc.extractLsb' 32 32 }.wrote d (s.special c 11)) (s.nextPc c 1) 1 := by
  refine instr_completes
    (i := .mfs c d 11) (f := fun k => { k with cycShadow := s.cores[c].cyc.extractLsb' 32 32 }.wrote d (s.special c 11))
    h rfl (fun _ => rfl) fun u hu => ?_
  have hc : u.cores[c].cyc = s.cores[c].cyc := by rw [hu.core]
  rw [← hu.special, ← hu.nextPc, ← hc]
  have e : (u.onCore c fun k => (k.readSpecial 11).setR d (u.special c 11)) =
      u.onCore c fun k => { k with cycShadow := u.cores[c].cyc.extractLsb' 32 32 }.wrote d (u.special c 11) :=
    onCore_congr rfl
  exact ⟨rfl, rfl, congrArg State.base e, rfl, rfl⟩

theorem Core.writeSpecial_seen (k : Core) (n : SReg) (v : Word) : (k.writeSpecial n v).seen = k.seen.writeSpecial n v := by
  unfold Core.writeSpecial; split <;> rfl

/-- MTS of a register that can be written. -/
theorem mts_completes {s : State} {c : CoreId} (h : s.ready c 1) (a : Reg) {n : SReg} (hn : n.val < 8) :
    registerStep s (.mts c n a) c (s.cores[c].writeSpecial n (s.cores[c].r a)) (s.nextPc c 1) 1 := by
  refine instr_completes (f := fun k => k.writeSpecial n (s.cores[c].r a)) h rfl
    (fun k => Core.writeSpecial_seen k n _) fun u hu => ?_
  rw [← Core.r_of_seen hu.seen, ← hu.nextPc, if_neg (Nat.not_le.2 hn)]
  exact ⟨rfl, rfl, countTwice_onCore_base .., rfl, rfl⟩

/-! ## WAIT and FRAME (R36, R51) -/

theorem Fetched.interruptAt {s u : State} {c : CoreId} (h : Fetched s c u) : u.interruptAt c = s.interruptAt c := by
  unfold State.interruptAt; rw [h.waymark, h.irq]

theorem interruptAt_eq (s : State) (c : CoreId) :
    s.interruptAt c = (!bit s.itg.cfg 1 && s.irq[c].acceptable.isSome) := by
  unfold State.interruptAt
  rw [vget_getElem _ (by omega)]
  rfl

theorem discardQueue_rewritten (u : State) (c : CoreId) (f : Core → Core) :
    CoreRewritten u c f (u.onCore c f).discardQueue := by
  unfold State.discardQueue
  split <;> exact ⟨rfl, rfl, rfl, by constructor <;> rfl⟩

/-- An instruction that halts its core takes the issue cycles until nothing is in flight. -/
theorem haltIn_completes {s : State} {c : CoreId} {i : Instr} {p : Phase} {body : State → Out} (h : s.ready c 1)
    (hi : exec i s = .next (finish s (s.instr c 1 body))) (hb : ∀ u, Fetched s c u → body u = u.haltIn c p) :
    registerStep s i c { s.cores[c] with phase := p } (s.nextPc c 1) (max 1 s.cores[c].mathWait) := by
  obtain ⟨t, he, hc, ho, hm, hs, -⟩ := instr_rewrites (f := fun k => { k with phase := p })
    (P := fun _ _ => True) h hi (fun _ => rfl) fun u hu => by
      refine ⟨_, ?_, discardQueue_rewritten u c _, trivial⟩
      rw [hb u hu, State.haltIn, hu.nextPc, hu.mathWait]
  exact ⟨t, he, hc, ho, hm, hs⟩

/-- Settles O12: each special register by the lemma of MFS or MTS, and WAIT by whether it halts. -/
theorem specialRegistersAndWait : Obligations.SpecialRegistersAndWait := by
  refine ⟨?_, ?_⟩
  · intro s c d a n k x read write way h
    have rd : ∀ n v, n ≠ 11 → s.special c n = v → read n v := fun n v hn hv => by
      have e := mfs_completes h d hn
      rw [hv] at e
      exact e
    have wr : ∀ n : SReg, n.val < 8 → write n (k.writeSpecial n x) := fun n hn => mts_completes h a hn
    refine ⟨rd _ _ (by decide) rfl, rd _ _ (by decide) rfl, rd _ _ (by decide) rfl, rd _ _ (by decide) rfl,
      rd _ _ (by decide) rfl, rd _ _ (by decide) rfl, rd _ _ (by decide) rfl, rd _ _ (by decide) rfl,
      rd _ _ (by decide) rfl, rd _ _ (by decide) (coreWord_eq s c), rd _ _ (by decide) rfl, mfs_cycLo_completes h d,
      rd _ _ (by decide) rfl, fun hn => rd n _ (fun e => ?_) ?_, wr 0 (by decide), wr 1 (by decide), wr 2 (by decide),
      wr 3 (by decide), wr 4 (by decide), wr 5 (by decide), wr 6 (by decide), wr 7 (by decide)⟩
    · rw [e] at hn
      exact absurd hn (by decide)
    · obtain h | h | h : n.val = 13 ∨ n.val = 14 ∨ n.val = 15 := by omega
      all_goals simp [State.special, h]
  · intro s c k halt way h
    have thread : bit k.task 31 = true → s.inThread c = true := id
    have waits := fun (ht : bit k.task 31 = true) (b : Bool) (hb : s.interruptAt c = b) (u : State)
        (hu : Fetched s c u) => show ((!u.inThread c) = false ∧ u.interruptAt c = b) from
      ⟨by rw [hu.inThread, thread ht]; rfl, by rw [hu.interruptAt, hb]⟩
    have nop := regs_completes (i := .nop c) (f := fun k => k) (fun _ => rfl) h rfl
    have sync := regs_completes (i := .sync c) (f := fun k => k) (fun _ => rfl) h rfl
    refine ⟨nop, sync, fun ht => ⟨fun hw => ?_, fun hw ha => ?_, fun hw => ?_⟩⟩
    · refine haltIn_completes (i := .wait c) h rfl fun u hu => ?_
      obtain ⟨h1, h2⟩ := waits ht false (by
        rw [interruptAt_eq]
        rcases hw with hw | hw
        · rw [show bit s.itg.cfg 1 = true from hw]; rfl
        · rw [hw, Option.isSome_none, Bool.and_false]) u hu
      simp [h1, h2]
    · refine instr_completes (f := id) (i := .wait c) h rfl (fun _ => rfl) fun u hu => ?_
      obtain ⟨h1, h2⟩ := waits ht true (by
        rw [interruptAt_eq, ha, Bool.eq_false_iff.2 hw]
        rfl) u hu
      simp only [h1, h2, if_true, Bool.false_eq_true, if_false, onCore_id]
      exact ⟨trivial, trivial, trivial, hu.nextPc 1, trivial⟩
    · refine haltIn_completes (i := .frame c) h rfl fun u hu => ?_
      obtain ⟨h1, -⟩ := waits ht _ rfl u hu
      have h2 : u.waymark = true := hu.waymark.trans hw
      simp [h1, h2]

/-! ## POST and TEND (R34, R35) -/

/-- An update of a core, out of a state whose engines alone have changed. -/
theorem CoreRewritten.of_onCore {u v : State} {c : CoreId} {f : Core → Core} (hc : v.cores = u.cores) (hm : v.mem = u.mem)
    (hr : v.mm = u.mm) (hs : SameBlocks u v) : CoreRewritten u c f (v.onCore c f) :=
  ⟨by rw [State.onCore_cores, State.onCore_cores, hc], hm, hr,
    hs.pwr, hs.clk, hs.peg, hs.pin, hs.tim, hs.ua, hs.tch, hs.evt, hs.rtc, hs.hrv, hs.snap, hs.pending⟩

/-- Counting events leaves what is rewritten. -/
theorem CoreRewritten.countCore {u w : State} {c : CoreId} {f : Core → Core} (h : CoreRewritten u c f w) (e : CoreId)
    (src n : Nat) : CoreRewritten u c f (w.countCore e src n) :=
  ⟨by rw [State.countCore_cores, h.cores], by rw [State.countCore_mem, h.mem], by rw [State.countCore_mm, h.mm],
    h.blocks.trans (SameBlocks.of_base (State.countCore_base ..).symm)⟩

/-- The readiness of a task is merged into its entry, or collected under Waymark (R33, R156). -/
theorem makeReady_of_used {u : State} {i : Nat} (r : Readiness) (o : ReadyOrder) (hf : (u.tskAt i).state ≠ .free) :
    u.makeReady i r o =
      if u.waymark then u.onItg fun g => { g with ready := g.ready ++ [⟨o, i, r⟩] } else u.onTsk i fun t => t.merge r :=
  if_neg hf

theorem makeReady_rewritten {u : State} {i : Nat} (r : Readiness) (o : ReadyOrder) (hf : (u.tskAt i).state ≠ .free)
    (c : CoreId) (f : Core → Core) : CoreRewritten u c f ((u.makeReady i r o).onCore c f) := by
  rw [makeReady_of_used r o hf]
  split <;> exact .of_onCore rfl rfl rfl (by constructor <;> rfl)

theorem Fetched.postZ {s u : State} {c : CoreId} (h : Fetched s c u) (i : Nat) : u.postZ c i = s.postZ c i := by
  unfold State.postZ
  rw [h.waymark, h.itg, h.writerOf, h.tskAt]

/-- A POST to a task that exists (R35). -/
theorem post_completes {s : State} {c : CoreId} (h : s.ready c 1) (d a : Reg) {i : Nat}
    (hd : bits (s.cores[c].r d) 0 6 = i) (hf : (s.tskAt i).state ≠ .free) :
    let r : Readiness := ⟨4, s.cores[c].r a⟩
    ∃ t, exec (.post c d a) s = .next t ∧
      t.cores[c].seen = { s.cores[c] with flg := setBit s.cores[c].flg 0 (s.postZ c i) }.after (s.nextPc c 1) 1 ∧
      (t.wdn.tsk = if s.waymark then s.wdn.tsk else vmod s.wdn.tsk i fun t => t.merge r) ∧
      (t.itg.ready = if s.waymark then s.itg.ready ++ [⟨.post (s.writerOf c), i, r⟩] else s.itg.ready) ∧
      (∀ e : CoreId, e ≠ c → t.cores[e] = s.cores[e]) ∧ (∀ a, t.seenByte a = s.seenByte a) ∧ SameBlocks s t := by
  intro r
  obtain ⟨t, he, hc, ho, hm, hs, u, w, -, ⟨htsk, hready⟩, e1, e2⟩ := instr_rewrites (i := .post c d a)
    (f := fun k => { k with flg := setBit k.flg 0 (s.postZ c i) }) (pc := s.nextPc c 1) (cycles := 1)
    (P := fun _ w => (w.wdn.tsk = if s.waymark then s.wdn.tsk else vmod s.wdn.tsk i fun t => t.merge r) ∧
      w.itg.ready = if s.waymark then s.itg.ready ++ [⟨.post (s.writerOf c), i, r⟩] else s.itg.ready)
    h rfl (fun _ => rfl) fun u hu => by
      have hr : ∀ x, u.cores[c].r x = s.cores[c].r x := Core.r_of_seen hu.seen
      have hf' : (u.tskAt i).state ≠ .free := by rwa [hu.tskAt]
      refine ⟨((u.makeReady i r (.post (s.writerOf c))).onCore c fun k =>
          { k with flg := setBit k.flg 0 (s.postZ c i) }).countCore c 27 1, ?_,
        (makeReady_rewritten r _ hf' c _).countCore c 27 1, ?_⟩
      · dsimp only
        rw [hr d, hr a, hd, if_neg hf', hu.postZ, hu.writerOf, hu.nextPc]
        rfl
      · rw [makeReady_of_used r _ hf', State.countCore_wdn, State.countCore_itg, hu.waymark]
        cases s.waymark
        · simp [hu.tsk, hu.itg]
        · simp [hu.tsk, hu.itg]
  exact ⟨t, he, hc, e1.trans htsk, e2.trans hready, ho, hm, hs⟩

/-- A merged readiness by the state of the entry (R33). -/
theorem merge_cases (e : TaskEntry) (r : Readiness) :
    (e.state = .idle → e.merge r = { e with state := .ready, readiness := r, released := false }) ∧
      (e.state = .running → e.merge r = { e with state := .runningPending, readiness := r, released := false }) ∧
      (e.state = .ready ∨ e.state = .runningPending → e.merge r = e) := by
  unfold TaskEntry.merge
  refine ⟨fun h => ?_, fun h => ?_, fun h => ?_⟩
  · rw [h]
  · rw [h]
  · rcases h with h | h <;> rw [h]

/-- Z of a POST under Waymark (R35). -/
theorem postZ_waymark {s : State} (hw : s.waymark = true) (c : CoreId) (i : Nat) :
    s.postZ c i = decide (∀ r ∈ s.itg.ready, ¬(r.task = i ∧ r.order = .post (s.writerOf c))) := by
  rw [State.postZ, if_pos hw, Bool.eq_iff_iff]
  simp

theorem postZ_merged {s : State} (hw : s.waymark = false) (c : CoreId) {i : Nat} :
    ((s.tskAt i).state = .idle ∨ (s.tskAt i).state = .running → s.postZ c i = true) ∧
      ((s.tskAt i).state = .ready ∨ (s.tskAt i).state = .runningPending → s.postZ c i = false) := by
  rw [State.postZ, if_neg (by rw [hw]; decide)]
  refine ⟨fun h => ?_, fun h => ?_⟩
  · rcases h with h | h <;> rw [h]
  · rcases h with h | h <;> rw [h]

theorem Core.endTask_seen (k : Core) : k.endTask.seen = k.seen.endTask := by
  obtain ⟨⟩ := k
  rename Option ThreadCtx => x
  cases x <;> rfl

/-- The thread kept aside resumes (R34). -/
theorem Core.endTask_of_shadow {k : Core} {x : ThreadCtx} (h : k.shadow = some x) :
    k.endTask = { k.clearMath with
      task := 0x80000000#32, repOpen := false, w := x.w, pc := x.pc, flg := x.flg, epc := x.epc, eflg := x.eflg
      ecause := x.ecause, shadow := none } := by
  simp only [Core.endTask, Core.clearMath, h]

/-- A core without a multiply or divide in flight ticks by its clock alone. -/
theorem Core.tick_idle {k : Core} (hm : k.mul = none) (hd : k.div = none) (n : Nat) :
    k.tick n = { k with issue := k.issue + n } := by
  simp [Core.tick, Core.settleMul, Core.settleDiv, hm, hd]

/-- TEND of the task of a core whose thread is kept in `x` (R34). -/
theorem tend_completes {s : State} {c : CoreId} {x : ThreadCtx} (h : s.ready c 1) (ht : s.inThread c = false)
    (hp : s.irq[c].running = 0) (hx : s.cores[c].shadow = some x) :
    ∃ t, exec (.tend c) s = .next t ∧ t.cores[c].seen = s.cores[c].endTask.after x.pc 6 ∧
      t.wdn.tsk = vmod s.wdn.tsk (bits s.cores[c].task 0 6) TaskEntry.finish ∧
      (∀ e : CoreId, e ≠ c → t.cores[e] = s.cores[e]) ∧ (∀ a, t.seenByte a = s.seenByte a) ∧ SameBlocks s t := by
  obtain ⟨t, he, hc, ho, hm, hs, u, w, -, htsk, e1, -⟩ := instr_rewrites (i := .tend c) (f := Core.endTask) (pc := x.pc)
    (cycles := 6) (P := fun _ w => w.wdn.tsk = vmod s.wdn.tsk (bits s.cores[c].task 0 6) TaskEntry.finish)
    h rfl Core.endTask_seen fun u hu => by
      have htask : u.cores[c].task = s.cores[c].task := by rw [hu.core]
      have hshadow : u.cores[c].shadow = some x := by rw [hu.core]; exact hx
      let v := (u.countCancel c true true).countCore c 26 1
      have hv : v.cores = u.cores := by simp [v, State.countCancel]
      have hbase : v.base = u.base := (State.countCore_base ..).trans ((State.countCore_base ..).trans
        (State.countCore_base ..))
      have hrun : (vget u.irq c IrqBank.reset).running = 0 := by
        rw [hu.irq, vget_getElem _ (by omega)]
        exact hp
      have hpc : (v.endTask c).cores[c].pc = x.pc := by
        rw [State.endTask, onCore_same, State.onTsk_cores, hv, Core.endTask_of_shadow hshadow]
      refine ⟨v.endTask c, ?_, ?_, ?_⟩
      · dsimp only
        rw [hu.inThread, ht, hrun, ← hpc]
        rfl
      · have blocks := SameBlocks.of_base hbase.symm
        exact .of_onCore hv (by simp [v, State.countCancel]) (by simp [v, State.countCancel])
          ⟨blocks.pwr, blocks.clk, blocks.peg, blocks.pin, blocks.tim, blocks.ua, blocks.tch, blocks.evt, blocks.rtc,
            blocks.hrv, blocks.snap, blocks.pending⟩
      · show vmod v.wdn.tsk (bits v.cores[c].task 0 6) TaskEntry.finish = _
        rw [hv, htask, show v.wdn = u.wdn by simp [v, State.countCancel], hu.tsk]
  exact ⟨t, he, hc, e1.trans htsk, ho, hm, hs⟩

/-- Settles O14: POST by Waymark and by the state of the entry that the readiness is merged into, TEND by the state of
the entry that ends. That TEND counts six issue cycles is a reading of the model (assumption 27). -/
theorem taskInstructions : Obligations.TaskInstructions := by
  refine ⟨?_, ?_⟩
  · intro s c d a k i e new me post h
    have hi : i < 64 := Nat.mod_lt _ (by decide)
    have he : s.tskAt i = e := vget_getElem _ hi _
    have merged : ∀ (e' : TaskEntry) (z : Bool), s.waymark = false → e.state ≠ .free →
        e.merge ⟨4, k.w[a]⟩ = e' → s.postZ c i = z → post e' s.itg.ready z := fun e' z hw hf hm hz => by
      obtain ⟨t, h1, h2, h3, h4, h5⟩ := post_completes h d a (i := i) rfl (by rwa [he])
      rw [hw, if_neg Bool.false_ne_true] at h3 h4
      rw [hz] at h2
      have h3' : t.wdn.tsk = s.wdn.tsk.set i (e.merge ⟨4, k.w[a]⟩) := h3.trans (vmod_getElem _ hi _)
      exact ⟨t, h1, h2, hm ▸ h3', h4, h5⟩
    refine ⟨fun hw => ?_, fun hw hf => ?_⟩
    · obtain ⟨idle, running, kept⟩ := merge_cases e ⟨4, k.w[a]⟩
      obtain ⟨set, clear⟩ := postZ_merged (s := s) hw c (i := i)
      rw [he] at set clear
      exact ⟨fun hs => merged _ _ hw (by rw [hs]; decide) (idle hs) (set (.inl hs)),
        fun hs => merged _ _ hw (by rw [hs]; decide) (running hs) (set (.inr hs)),
        fun hs => merged _ _ hw (by rcases hs with hs | hs <;> rw [hs] <;> decide) (kept hs) (clear hs)⟩
    · obtain ⟨t, h1, h2, h3, h4, h5⟩ := post_completes h d a (i := i) rfl (by rwa [he])
      have hw' : s.waymark = true := hw
      rw [hw'] at h3 h4
      rw [postZ_waymark hw] at h2
      exact ⟨t, h1, h2, h3.trans (Vector.set_getElem_self hi).symm, h4, h5⟩
  · intro s c x k i e h ht hp hx
    have hi : i < 64 := Nat.mod_lt _ (by decide)
    have hrun : s.irq[c].running = 0 := by
      unfold IrqBank.running
      split
      · rfl
      · next e l hl =>
        rw [hl] at hp
        simpa using hp
    obtain ⟨t, h1, h2, h3, h4⟩ := tend_completes h ht hrun hx
    have h3' : t.wdn.tsk = s.wdn.tsk.set i e.finish := h3.trans (vmod_getElem _ hi _)
    refine ⟨t, h1, h2.trans ?_, fun hs => ?_, fun hs => ?_, h4⟩
    · rw [Core.after, Core.endTask_of_shadow hx, Core.tick_idle rfl rfl]
      rfl
    · rw [h3', TaskEntry.finish, hs]
    · rw [h3', TaskEntry.finish, hs]

end Sys2Proof.Machine

/-! # String instructions -/

namespace Sys2Proof.Machine

open Sys2Proof

/-! ## String instructions without a prefix (R42) -/

theorem Stored.of_mem {s t u : State} {a n v : Nat} (h : Stored s t a n v) (e : u.mem = t.mem) : Stored s u a n v := by
  have b : ∀ x, u.mem.byte x = t.mem.byte x := fun x => by rw [e]
  exact ⟨fun j hj k1 k2 => (b _).trans (h.bytes j hj k1 k2),
    fun j hj q k1 k2 k3 k4 => (b _).trans (h.mirror j hj q k1 k2 k3 k4),
    fun x k1 k2 k3 => (b _).trans (h.image x k1 k2 k3), fun x k1 k2 => (b _).trans (h.rest x k1 k2)⟩

/-- The updates of a core that see all of it but its sample counter. -/
def StillUpdate (f : Core → Core) : Prop := ∀ k k' : Core, k.still = k'.still → (f k).still = (f k').still

/-- What the element of a string instruction without a prefix leaves is its core moved on, and one more event counted. -/
theorem bare_answers {s : State} {c : CoreId} {i : Instr} {op : StringOp} {n : Nat} {f : Core → Core}
    {P : State → State → Prop} (h : s.ready c 1) (hi : exec i s = .next (finish s (s.stringBare c op n)))
    (hf : ∀ k : Core, (f k).seen = f k.seen) (hs : StillUpdate f)
    (he : ∀ u, Fetched s c u → ∃ t v, u.element c op n = ⟨t.onCore c f, none, [], v⟩ ∧ StoreKept u t c ∧ P u t) :
    ∃ t, exec i s = .next t ∧ t.cores[c].seen = (f s.cores[c]).after (s.nextPc c 1) (elementCycles op) ∧
      (∀ e : CoreId, e ≠ c → t.cores[e] = s.cores[e]) ∧ SameBlocks s t ∧
      ∃ u w, Fetched s c u ∧ P u w ∧ t.mem = w.mem ∧ t.mm.restored = w.mm.restored ∧ t.mm.map = w.mm.map := by
  obtain ⟨t, h1, h2, h3, h4, u, w, hu, ⟨x, hp, hm, hmm⟩, k1, k2, k3⟩ := instr_answers
    (P := fun u w => ∃ x, P u x ∧ w.mem = x.mem ∧ w.mm = x.mm) (pc := s.nextPc c 1) (cycles := elementCycles op) h hi hf
    fun u hu => by
      obtain ⟨t, v, ht, hk, hp⟩ := he u hu
      refine ⟨(t.onCore c f).countCore c 11 1, ?_,
        (hk.onCore f hs).trans (.of_plain (State.countCore_plain ..)), t, hp, ?_, ?_⟩
      · dsimp only
        rw [ht, hu.nextPc]
        rfl
      · rw [State.countCore_mem, State.onCore_mem]
      · rw [State.countCore_mm, State.onCore_mm]
  exact ⟨t, h1, h2, h3, h4, u, x, hu, hp, k1.trans hm, k2.trans (by rw [hmm]), k3.trans (by rw [hmm])⟩

/-- A string instruction without a prefix that stores an element. -/
theorem bare_stores {s : State} {c : CoreId} {i : Instr} {op : StringOp} {n a v : Nat} {f : Core → Core}
    (h : s.ready c 1) (hi : exec i s = .next (finish s (s.stringBare c op n))) (hf : ∀ k : Core, (f k).seen = f k.seen)
    (hs : StillUpdate f) (he : ∀ u, Fetched s c u →
      ∃ (t : State) (d : Nat), u.element c op n = ⟨t.onCore c f, none, [], d⟩ ∧ StoreKept u t c ∧ Stored u t a n v) :
    storeStep s i c (f s.cores[c]) (s.nextPc c 1) (elementCycles op) a n v := by
  obtain ⟨t, h1, h2, h3, h4, u, w, hu, hw, hm, -⟩ := bare_answers (P := fun u t => Stored u t a n v) h hi hf hs he
  exact ⟨t, h1, h2, h3, (hu.stored hw).of_mem hm, h4⟩

/-- A string instruction without a prefix that stores nothing. -/
theorem bare_reads {s : State} {c : CoreId} {i : Instr} {op : StringOp} {n : Nat} {f : Core → Core}
    (h : s.ready c 1) (hi : exec i s = .next (finish s (s.stringBare c op n))) (hf : ∀ k : Core, (f k).seen = f k.seen)
    (hs : StillUpdate f) (he : ∀ u, Fetched s c u →
      ∃ (t : State) (d : Nat), u.element c op n = ⟨t.onCore c f, none, [], d⟩ ∧ t.plain c = u.plain c) :
    registerStep s i c (f s.cores[c]) (s.nextPc c 1) (elementCycles op) := by
  obtain ⟨t, h1, h2, h3, h4, u, w, hu, hw, hm, hr, hk⟩ := bare_answers (P := fun u t => t.plain c = u.plain c) h hi hf hs
    fun u hu => by
      obtain ⟨t, d, ht, hp⟩ := he u hu
      exact ⟨t, d, ht, .of_plain hp, hp⟩
  refine ⟨t, h1, h2, h3, fun x => ?_, h4⟩
  exact (seenByte_congr (by rw [hm]) hr hk x).trans ((plain_seenByte hw x).trans (hu.byte x))

section Element

variable {u : State} {c : CoreId} {n : Nat}

/-- MOVS loads the element at W1 and stores it at W2. -/
theorem element_movs (hn : 0 < n) (h8 : n ≤ 8) (hr : u.accessible c true false (u.cores[c].r 1).toNat n)
    (hw : u.storable c (u.cores[c].r 2).toNat n) :
    ∃ (t : State) (d : Nat), u.element c .movs n = ⟨t.onCore c fun k => (k.stepSrc n).stepDst n, none, [], d⟩ ∧ StoreKept u t c ∧
      Stored u t (u.cores[c].r 2).toNat n (u.valueAt (u.cores[c].r 1).toNat n) := by
  obtain ⟨g1, g2, g3, g4⟩ := load_ok hn h8 hr
  obtain ⟨t, ht, hst, hk⟩ := storeBytes_ok (v := u.valueAt (u.cores[c].r 1).toNat n) hn h8 ((storable_congr g3 _ _).2 hw)
  refine ⟨t, 0, ?_, (StoreKept.of_plain g3).trans hk, Stored.congr g3 hst⟩
  simp only [State.element, Got.andThen, Got.done, g1, g2, g4, ht, if_true, List.append_nil]

/-- FILS stores the low bytes of W4 at W2. -/
theorem element_fils (hn : 0 < n) (h8 : n ≤ 8) (hw : u.storable c (u.cores[c].r 2).toNat n) :
    ∃ (t : State) (d : Nat), u.element c .fils n = ⟨t.onCore c fun k => k.stepDst n, none, [], d⟩ ∧ StoreKept u t c ∧
      Stored u t (u.cores[c].r 2).toNat n (u.cores[c].pattern n) := by
  obtain ⟨t, ht, hst, hk⟩ := storeBytes_ok (v := u.cores[c].pattern n) hn h8 hw
  refine ⟨t, 0, ?_, hk, hst⟩
  simp only [State.element, Got.done, ht, if_true]

/-- CMPS compares the elements at W1 and W2. -/
theorem element_cmps (hn : 0 < n) (h8 : n ≤ 8) (hr : u.accessible c true false (u.cores[c].r 1).toNat n)
    (hr' : u.accessible c true false (u.cores[c].r 2).toNat n) :
    ∃ (t : State) (d : Nat), u.element c .cmps n = ⟨t.onCore c fun k =>
      ((k.compare n (u.valueAt (u.cores[c].r 1).toNat n) (u.valueAt (u.cores[c].r 2).toNat n)).stepSrc n).stepDst n,
        none, [], d⟩ ∧ t.plain c = u.plain c := by
  obtain ⟨g1, g2, g3, g4⟩ := load_ok hn h8 hr
  obtain ⟨k1, k2, k3, k4⟩ := load_ok hn h8 ((accessible_congr g3 c _ _ _ _).2 hr')
  rw [value_congr g3] at k4
  refine ⟨_, u.valueAt (u.cores[c].r 2).toNat n, ?_, k3.trans g3⟩
  simp only [State.element, Got.andThen, Got.done, g1, g2, g4, k1, k2, k4, if_true, List.append_nil]

/-- SCNS compares the element at W1 with the low bytes of W4. -/
theorem element_scns (hn : 0 < n) (h8 : n ≤ 8) (hr : u.accessible c true false (u.cores[c].r 1).toNat n) :
    ∃ (t : State) (d : Nat), u.element c .scns n = ⟨t.onCore c fun k =>
      (k.compare n (u.valueAt (u.cores[c].r 1).toNat n) (u.cores[c].pattern n)).stepSrc n, none, [], d⟩ ∧
        t.plain c = u.plain c := by
  obtain ⟨g1, g2, g3, g4⟩ := load_ok hn h8 hr
  refine ⟨_, u.valueAt (u.cores[c].r 1).toNat n, ?_, g3⟩
  have hp : (u.load c (u.cores[c].r 1).toNat n).s.cores[c].pattern n = u.cores[c].pattern n := by
    rw [Core.pattern, Core.r_of_seen (Core.seen_of_still (plain_core g3 c))]
    rfl
  simp only [State.element, Got.done, g1, g2, g4, if_true]
  refine congrArg (fun v : State => (⟨v, none, [], _⟩ : Got)) (onCore_congr ?_)
  rw [hp]

end Element

/-! ### The registers and flags of an element -/

theorem Core.stepDst_stepSrc (k : Core) (n : Nat) :
    (k.stepSrc n).stepDst n = (k.wrote 1 (k.r 1 + BitVec.ofNat 32 n)).wrote 2 (k.r 2 + BitVec.ofNat 32 n) := by
  have e : (k.stepSrc n).r 2 = k.r 2 := Vector.getElem_set_ne (by decide) (by decide) (by decide)
  rw [Core.stepDst, e]
  rfl

theorem numOf_lt : ∀ l : List Byte, numOf l < 256 ^ l.length
  | [] => by decide
  | b :: l => by
    have := numOf_lt l
    have := b.isLt
    rw [numOf, List.length_cons, Nat.pow_succ]
    omega

theorem valueAt_lt (s : State) (a n : Nat) : s.valueAt a n < 256 ^ n := by
  have h := numOf_lt ((List.range n).map fun j => s.seenByte (s.physical (a + j)))
  rwa [List.length_map, List.length_range] at h

/-- The top bit of a number of `n` bytes. -/
theorem testBit_top {n x : Nat} (hn : 0 < n) (hx : x < 256 ^ n) : x.testBit (8 * n - 1) = decide (256 ^ n / 2 ≤ x) := by
  have e : 256 ^ n = 2 * 2 ^ (8 * n - 1) := by
    rw [← Nat.pow_succ', Nat.succ_eq_add_one, Nat.sub_add_cancel (by omega), Nat.pow_mul]
  rw [e] at hx ⊢
  rw [Nat.testBit_eq_decide_div_mod_eq, Nat.mul_div_cancel_left _ (by decide), decide_eq_decide]
  have hp : 0 < 2 ^ (8 * n - 1) := by positivity
  by_cases h : 2 ^ (8 * n - 1) ≤ x
  · rw [Nat.div_eq_of_lt_le (k := 1) (by omega) (by omega)]
    simp [h]
  · rw [Nat.div_eq_of_lt (by omega)]
    simp [h]

/-- The flags of a compare of two elements (R42). -/
theorem compareFlags_eq (f : Word) {n a b : Nat} (hn : 0 < n) (ha : a < 256 ^ n) (hb : b < 256 ^ n) :
    compareFlags f n a b =
      let r := (a + 256 ^ n - b) % 256 ^ n
      let half := 256 ^ n / 2
      setBit (setBit (setBit (setBit f 0 (decide (r = 0))) 1 (decide (half ≤ r))) 2 (decide (a < b))) 3
        (decide ((half ≤ a ↔ b < half) ∧ (half ≤ r ↔ a < half))) := by
  have hr : (a + 256 ^ n - b) % 256 ^ n < 256 ^ n := Nat.mod_lt _ (by positivity)
  have e : 2 ^ (8 * n) = 256 ^ n := by rw [Nat.pow_mul]
  unfold compareFlags
  simp only [e, testBit_top hn ha, testBit_top hn hb, testBit_top hn hr]
  congr 1
  rw [Bool.eq_iff_iff]
  simp only [Bool.and_eq_true, bne_iff_ne, ne_eq, decide_eq_decide, decide_eq_true_eq]
  omega

theorem elemBytes_bounds (size : ElemSize) : 0 < elemBytes size ∧ elemBytes size ≤ 8 := by cases size <;> decide

/-! ## Prefixed string instructions whose count is zero (R42) -/

/-- A command that ends an instruction of a core that the fetch has left, with its registers as they were. -/
theorem Fetched.completes {s w : State} {c : CoreId} {i : Instr} {pc : Word} {cycles : Nat} (h : Fetched s c w)
    (hi : exec i s = .next (finish s (w.complete c pc cycles))) : registerStep s i c s.cores[c] pc cycles := by
  refine ⟨_, hi, ?_, fun e he => ?_, fun a => ?_, ?_⟩
  · rw [finish_cores, State.complete_core]
    unfold Core.after
    rw [Core.tick_seen, Core.tick_seen]
    have e : ∀ k : Core, ({ k with pc := pc } : Core).seen = { k.seen with pc := pc } := fun _ => rfl
    rw [e, e, h.seen]
  · rw [finish_cores, State.complete_other _ he, h.other he]
  · rw [finish_seenByte]
    refine (seenByte_congr (t := w) ?_ ?_ ?_ a).trans (h.byte a)
    · rw [State.complete_mem]
    · rw [State.complete_mm]
    · rw [State.complete_mm]
  · exact (h.blocks.trans (SameBlocks.complete ..)).trans (SameBlocks.finish ..)

theorem elements_of_zero {u : State} {c : CoreId} (h : u.cores[c].r 3 = 0#32) (op : StringOp) (n : Nat) (pre : RepPrefix) :
    ∀ m, u.elements c op n pre m = ⟨u, none, [], 0, true⟩
  | 0 => by rw [State.elements, h]; rfl
  | m + 1 => by rw [State.elements, if_pos h]

/-- A prefixed string instruction with W3 = 0 goes on at the instruction after it. -/
theorem prefixed_ends {s : State} {c : CoreId} {i : Instr} {op : StringOp} {n m : Nat} {pre : RepPrefix}
    (h : s.opens c 2) (h3 : s.cores[c].w[(3 : Reg)] = 0#32) (hl : prefixLegal op pre = true)
    (hi : exec i s = .next (finish s (s.stringPrefixed c op n pre m))) :
    registerStep s i c s.cores[c] (s.cores[c].pc + 4#32) 1 := by
  obtain ⟨⟨hissue, hfetch⟩, hopen⟩ := h
  obtain ⟨f1, f2, f3, f4⟩ := fetches_ok 2 s c s.cores[c].pc.toNat hfetch
  let f := s.fetches c s.cores[c].pc.toNat 2
  have hcore : f.s.cores[c].seen = s.cores[c].seen := Core.seen_of_still (plain_core f3 c)
  have hpc : f.s.cores[c].pc = s.cores[c].pc := by
    have k := congrArg Core.pc hcore
    exact k
  have hr3 : f.s.cores[c].r 3 = 0#32 := (Core.r_of_seen hcore 3).trans h3
  let w := (f.s.countCore c 11 0).onCore c fun k => { k with repOpen := false }
  have hw : Fetched s c w := by
    refine ⟨onCore_plain_congr ((State.countCore_plain ..).trans f3) _ fun k k' e => ?_, ?_⟩
    · have e' := congrArg (fun k : Core => ({ k with repOpen := false } : Core)) e
      exact e'
    · show (f.s.countCore c 11 0).irq = s.irq
      rw [State.countCore_irq]
      exact f4
  have hgo : f.s.stringGo c op n pre m 1 = w.complete c (s.cores[c].pc + 4#32) 1 := by
    unfold State.stringGo
    rw [elements_of_zero hr3, hpc]
    rfl
  refine hw.completes (hi.trans ?_)
  rw [State.stringPrefixed, if_pos hissue, hopen, ← hgo]
  simp only [Bool.false_and, Bool.false_eq_true, if_false, hl, if_true]
  rw [f1]
  rfl

/-- Settles O15: without a prefix, one element of each kind and the flags that its compare sets; with one, the loop
ends before it begins. -/
theorem stringInstructions : Obligations.StringInstructions := by
  refine ⟨?_, ?_⟩
  · intro s c size m k n src dst x y p w1 w2 flags readable h
    obtain ⟨hn, h8⟩ : 0 < n ∧ n ≤ 8 := by cases size <;> decide
    have hsize : elemBytes size = n := by cases size <;> rfl
    have hp : p < 256 ^ n := Nat.mod_lt _ (by positivity)
    have hflags : ∀ a b, a < 256 ^ n → b < 256 ^ n → compareFlags k.flg n a b = flags a b := fun a b ha hb =>
      compareFlags_eq k.flg hn ha hb
    have runs : ∀ (i : Instr) (op : StringOp), exec i s = .next (finish s (s.stringBare c op (elemBytes size))) →
        exec i s = .next (finish s (s.stringBare c op n)) := fun i op hi => by rwa [hsize] at hi
    have hr : ∀ u, Fetched s c u → ∀ i, u.cores[c].r i = k.r i := fun u hu => Core.r_of_seen hu.seen
    refine ⟨fun hread hstore => ?_, fun hstore => ?_, fun hread hread' => ?_, fun hread => ?_⟩
    · have e := bare_stores (f := fun k => (k.stepSrc n).stepDst n) (a := dst.toNat) (v := x) h
        (runs (.movs c size .bare m) .movs rfl) (fun _ => rfl)
        (fun k k' e => by
          have e' := congrArg (fun k : Core => (k.stepSrc n).stepDst n) e
          exact e')
        fun u hu => by
          have e := element_movs (u := u) (c := c) hn h8 (by rw [hr u hu]; exact (hu.accessible ..).2 hread)
            (by rw [hr u hu]; exact (hu.storable ..).2 hstore)
          rw [hr u hu, hr u hu, hu.value] at e
          exact e
      rw [Core.stepDst_stepSrc] at e
      exact e
    · exact bare_stores (f := fun k => k.stepDst n) (a := dst.toNat) (v := p) h
        (runs (.fils c size .bare m) .fils rfl) (fun _ => rfl)
        (fun k k' e => by
          have e' := congrArg (fun k : Core => k.stepDst n) e
          exact e')
        fun u hu => by
          have e := element_fils (u := u) (c := c) hn h8 (by rw [hr u hu]; exact (hu.storable ..).2 hstore)
          rw [Core.pattern, hr u hu, hr u hu] at e
          exact e
    · have e := bare_reads (f := fun k => ((k.compare n x y).stepSrc n).stepDst n) h
        (runs (.cmps c size .bare m) .cmps rfl) (fun _ => rfl)
        (fun k k' e => by
          have e' := congrArg (fun k : Core => ((k.compare n x y).stepSrc n).stepDst n) e
          exact e')
        fun u hu => by
          have e := element_cmps (u := u) (c := c) hn h8 (by rw [hr u hu]; exact (hu.accessible ..).2 hread)
            (by rw [hr u hu]; exact (hu.accessible ..).2 hread')
          rw [hr u hu, hr u hu, hu.value, hu.value] at e
          exact e
      rw [Core.stepDst_stepSrc, Core.compare, hflags _ _ (valueAt_lt ..) (valueAt_lt ..)] at e
      exact e
    · have e := bare_reads (f := fun k => (k.compare n x p).stepSrc n) h
        (runs (.scns c size .bare m) .scns rfl) (fun _ => rfl)
        (fun k k' e => by
          have e' := congrArg (fun k : Core => (k.compare n x p).stepSrc n) e
          exact e')
        fun u hu => by
          have e := element_scns (u := u) (c := c) hn h8 (by rw [hr u hu]; exact (hu.accessible ..).2 hread)
          rw [Core.pattern, hr u hu, hr u hu, hu.value] at e
          exact e
      rw [Core.compare, hflags _ _ (valueAt_lt ..) hp] at e
      exact e
  · intro s c size m k ends h h3
    exact ⟨prefixed_ends h h3 rfl rfl, prefixed_ends h h3 rfl rfl, prefixed_ends h h3 rfl rfl, prefixed_ends h h3 rfl rfl,
      prefixed_ends h h3 rfl rfl, prefixed_ends h h3 rfl rfl, prefixed_ends h h3 rfl rfl, prefixed_ends h h3 rfl rfl⟩

end Sys2Proof.Machine

/-! # Exceptions -/

namespace Sys2Proof.Machine

open Sys2Proof

/-! ## Exceptions that a body raises (R22, R24) -/

section Faults

variable {u : State} {c : CoreId} {a n v : Nat}

theorem inPeriph_of_obj (h : inObjWindow a = true) : inPeriph a = false := by
  have hb : objBase ≤ a ∧ a < objBase + 0x10000000 := by simpa [inObjWindow, inRange] using h
  exact inRange_eq_false (by unfold objBase periphBase at *; omega)

theorem reach_noobj (h : inObjWindow a = true) (hn : u.wdn.index a = none) : u.reach a = .noobj := by
  rw [State.reach, if_pos h, hn]

theorem beatFault_noobj (h : u.reach a = .noobj) (rd wr : Bool) :
    u.beatFault c rd wr a = some { code := 3, wr := wr, noobj := true } := by
  rw [State.beatFault, h]

theorem logOutside_inside (h : u.reach a ≠ .outside) : u.logOutside c a = u := if_neg h

/-- A load in the object window but in no object (R22). -/
theorem load_noobj (h : inObjWindow a = true) (hn : u.wdn.index a = none) :
    u.load c a n = ⟨u, some { code := 3, noobj := true }, [], 0⟩ := by
  have hr := reach_noobj h hn
  have hl : u.logOutside c a = u := logOutside_inside (by rw [hr]; decide)
  simp [State.load, State.loadBeat, inPeriph_of_obj h, beatFault_noobj hr, hl, exnMemory]

/-- A store in the object window but in no object (R22). -/
theorem storeBytes_noobj (h : inObjWindow a = true) (hn : u.wdn.index a = none) :
    u.storeBytes c a n v = ⟨u, some { code := 3, wr := true, noobj := true }, [], 0⟩ := by
  have hr := reach_noobj h hn
  have hl : u.logOutside c a = u := logOutside_inside (by rw [hr]; decide)
  simp [State.storeBytes, State.storeOne, inPeriph_of_obj h, beatFault_noobj hr, hl]

theorem load_periph_unaligned (h : inPeriph a = true) (ha : a % n ≠ 0) :
    u.load c a n = ⟨u, some (exnAlign false), [], 0⟩ := by
  rw [State.load, if_pos h, State.ioLoad, if_pos ha]

theorem storeBytes_periph_unaligned (h : inPeriph a = true) (ha : a % n ≠ 0) :
    u.storeBytes c a n v = ⟨u, some (exnAlign true), [], 0⟩ := by
  rw [State.storeBytes, if_pos h, State.ioStore, if_pos ha]

/-- An atomic access of an unaligned word in memory (R47). -/
theorem atomic_unaligned (f : Word → Word) (hp : inPeriph a = false) (hb : u.beatFault c true true a = none)
    (ha : a % 4 ≠ 0) : u.atomic c a f = ⟨u, some (exnAlign true), [], 0⟩ := by
  have hm : u.atomicPlace a = true ∧ u.reach a ≠ .outside := by
    rcases inMemory_of_ok hp hb with ⟨i, p, h⟩ | ⟨p, h⟩ <;> simp [State.atomicPlace, h]
  rw [State.atomic, State.atomicFault, if_pos hm.1, if_pos ha]
  simp only [logOutside_inside hm.2]

theorem into_raises {g : Got} {x : Exn} (f : Nat → Core → Core) (p : Word) (m : Nat) (h : g = ⟨u, some x, [], 0⟩) :
    ∃ pc j, g.into c f p m = ⟨u, some x, [], pc, j⟩ := ⟨p, m, by rw [h]; rfl⟩

end Faults

/-- The prefix of a string instruction that it does not apply to is an illegal instruction (R22, R69). -/
theorem string_illegal {s : State} {c : CoreId} {op : StringOp} {pre : RepPrefix} (n m : Nat) (h : s.opens c 2)
    (hl : prefixLegal op pre = false) : s.stringPrefixed c op n pre m = s.instr c 2 illegal := by
  obtain ⟨⟨hissue, hfetch⟩, hopen⟩ := h
  obtain ⟨f1, f2, f3, -⟩ := fetches_ok 2 s c s.cores[c].pc.toNat hfetch
  have hclosed : (s.fetches c s.cores[c].pc.toNat 2).s.cores[c].repOpen = false := by
    have k := congrArg Core.repOpen (plain_core f3 c)
    exact k.trans hopen
  have hid : ((s.fetches c s.cores[c].pc.toNat 2).s.onCore c fun k => { k with repOpen := false }) =
      (s.fetches c s.cores[c].pc.toNat 2).s := by
    refine (onCore_congr (g := id) ?_).trans (onCore_id ..)
    rw [id, ← hclosed]
  rw [State.stringPrefixed, if_pos hissue, State.instr, if_pos hissue]
  simp only [hl, Bool.and_false, Bool.false_eq_true, if_false, f1, f2, hid]
  rfl

theorem string_raises {s : State} {c : CoreId} {i : Instr} {op : StringOp} {pre : RepPrefix} {n m : Nat}
    (h : s.opens c 2) (hl : prefixLegal op pre = false)
    (hi : exec i s = .next (finish s (s.stringPrefixed c op n pre m))) (hs : s.handles c 1) :
    exceptionStep s i c 1 0#32 := by
  rw [string_illegal n m h hl] at hi
  exact raises_complete (x := exnIllegal) h.1 hi (fun _ _ => ⟨rfl, rfl, rfl⟩) rfl (by decide) hs

/-- A double fault stops its core, and its record is all that the station engine makes of it (R25). -/
theorem doubleFault_stops {s : State} {c : CoreId} {n : Nat} {i : Instr} {body : State → Out} {x : Exn}
    (h : s.ready c n) (hi : exec i s = .next (finish s (s.instr c n body)))
    (hb : ∀ u, Fetched s c u → ∃ pc m, body u = ⟨u, some x, [], pc, m⟩) (hE : bit s.cores[c].flg 8 = true)
    (ht : s.twin = false) :
    ∃ t, exec i s = .next t ∧ (∃ b k, t.cores[c] = { s.cores[c].stop with repOpen := b, sample := k }) ∧
      ∀ e : CoreId, e ≠ c → t.cores[e] = s.cores[e] := by
  obtain ⟨u, hu, hr⟩ := instr_ready h body
  obtain ⟨pc, m, hbu⟩ := hb u hu
  have hflg : flagE u.cores[c].flg = true := by rw [hu.flg]; exact hE
  have htwin : (u.onCore c Core.stop).twin = false := by
    unfold State.twin at *
    rw [State.onCore_itg, hu.itg]
    exact ht
  have hstop : s.instr c n body = (u.onCore c Core.stop).recordFault (doubleFault c s.cores[c].pc) 0 := by
    rw [hr, hbu]
    simp only [State.takeException, hflg, if_true, State.aftermath, State.reactUnc, List.isEmpty_nil, Bool.true_or,
      Bool.and_self, State.react, doubleFault, htwin]
    rfl
  refine ⟨_, hi, ⟨false, u.cores[c].sample, ?_⟩, fun e he => ?_⟩
  · rw [finish_cores, hstop, State.recordFault_cores, onCore_same]
    conv_lhs => rw [hu.core]
    rfl
  · rw [finish_cores, hstop, State.recordFault_cores, onCore_other _ he, hu.other he]

/-- Settles O9: each exception by what its instruction's body raises, and the double fault by what it stops. -/
theorem exceptionEntry : Obligations.ExceptionEntry := by
  refine ⟨?_, ?_, ?_⟩
  · intro s c d a b n size m k ad io task none raise h
    have raises : ∀ (i : Instr) (x : Exn) (detail : Word) (body : State → Out),
        exec i s = .next (finish s (s.instr c 1 body)) →
        (∀ u, Fetched s c u → ∃ pc j, body u = ⟨u, some x, [], pc, j⟩) →
        x.ecause = BitVec.ofNat 32 x.code ||| detail → raise i x.code detail := fun i x detail body hi hb hx hs =>
      raises_complete h hi (fun u hu => by
        obtain ⟨pc, j, e⟩ := hb u hu
        rw [e]
        exact ⟨rfl, rfl, rfl⟩) rfl hx hs
    have hr : ∀ u, Fetched s c u → ∀ i, u.cores[c].r i = k.w[i] := fun u hu => Core.r_of_seen hu.seen
    have hthread : ∀ u, Fetched s c u → task → u.inThread c = false := fun u hu ht => hu.inThread.trans ht
    have hindex : none → ∀ u, Fetched s c u → u.wdn.index ad = .none := fun hn u hu => by
      rw [plain_index hu.plain]
      exact List.findIdx?_eq_none_iff.2 hn.2
    refine ⟨fun hn => ?_, fun ht => ⟨?_, ?_⟩, fun hw => ?_, fun ht => ?_, fun ho => ⟨string_raises ho rfl rfl,
        string_raises ho rfl rfl, string_raises ho rfl rfl, string_raises ho rfl rfl⟩, fun hf => ?_,
      fun hn => ⟨?_, ?_⟩, fun hio ha => ⟨?_, ?_⟩, fun hodd => ⟨?_, ?_⟩, fun hacc ha => ?_⟩
    · exact raises (.mts c n a) exnIllegal 0#32 _ rfl (fun u hu => ⟨_, _, if_pos hn⟩) (by decide)
    · exact raises (.wait c) exnIllegal 0#32 _ rfl (fun u hu => ⟨_, _, if_pos (by rw [hthread u hu ht]; rfl)⟩) (by decide)
    · exact raises (.frame c) exnIllegal 0#32 _ rfl (fun u hu => ⟨_, _, if_pos (by rw [hthread u hu ht]; rfl)⟩) (by decide)
    · exact raises (.frame c) exnIllegal 0#32 _ rfl (fun u hu => ⟨_, _, if_pos (by
        rw [hu.waymark, show s.waymark = false from hw, Bool.not_false, Bool.or_true])⟩) (by decide)
    · refine raises (.tend c) exnIllegal 0#32 _ rfl (fun u hu => ⟨_, _, if_pos ?_⟩) (by decide)
      rcases ht with ht | ht
      · rw [hu.inThread, show s.inThread c = true from Bool.eq_true_of_not_eq_false ht, Bool.true_or]
      · rw [hu.irq, vget_getElem _ (by omega)]
        have : 0 < (s.irq[c]).running := by
          unfold IrqBank.running
          split <;> simp_all
        simp only [Bool.or_eq_true, decide_eq_true_eq]
        exact .inr this
    · refine raises (.post c d a) (exnAccess false) 0#32 _ rfl (fun u hu => ⟨_, _, if_pos ?_⟩) (by decide)
      rw [hr u hu, hu.tskAt]
      exact (congrArg TaskEntry.state (vget_getElem _ (Nat.mod_lt _ (by decide)) _)).trans hf
    · refine raises (.ldw c d a) { code := 3, noobj := true } 0x200#32 _ rfl (fun u hu => into_raises _ _ _ ?_) (by decide)
      beta_reduce
      rw [hr u hu]
      exact load_noobj hn.1 (hindex hn u hu)
    · refine raises (.stw c d a) { code := 3, wr := true, noobj := true } 0x300#32 _ rfl (fun u hu => into_raises _ _ _ ?_) (by decide)
      beta_reduce
      rw [hr u hu]
      exact storeBytes_noobj hn.1 (hindex hn u hu)
    · refine raises (.ldw c d a) (exnAlign false) 0#32 _ rfl (fun u hu => into_raises _ _ _ ?_) (by decide)
      beta_reduce
      rw [hr u hu]
      exact load_periph_unaligned hio ha
    · refine raises (.stw c d a) (exnAlign true) 0x100#32 _ rfl (fun u hu => into_raises _ _ _ ?_) (by decide)
      beta_reduce
      rw [hr u hu]
      exact storeBytes_periph_unaligned hio ha
    · exact raises (.jr c a) exnOdd 0x1000#32 _ rfl (fun u hu => ⟨_, _, if_pos (by rw [hr u hu]; exact hodd)⟩) (by decide)
    · exact raises (.jlr c a) exnOdd 0x1000#32 _ rfl (fun u hu => ⟨_, _, if_pos (by rw [hr u hu]; exact hodd)⟩) (by decide)
    · refine raises (.xchg c d a) (exnAlign true) 0x100#32 _ rfl (fun u hu => into_raises _ _ _ ?_) (by decide)
      obtain ⟨hp, hb, -⟩ := (hu.accessible ..).2 hacc 0 (by decide)
      rw [hr u hu]
      exact atomic_unaligned _ hp hb ha
  · intro s c hc h hs
    refine raises_complete (i := .undefinedEncoding c) (x := exnIllegal) (body := illegal) h ?_ (fun u hu => ⟨rfl, rfl, rfl⟩) rfl (by decide) hs
    show Host.Outcome.next _ = _
    rw [hc, Option.isNone_none, Bool.true_or, if_pos rfl]
  · intro s c hc h hE ht
    obtain ⟨t, he, ⟨b, k, hk⟩, ho⟩ := doubleFault_stops (i := .undefinedEncoding c) (x := exnIllegal) (body := illegal) h (by
      show Host.Outcome.next _ = _
      rw [hc, Option.isNone_none, Bool.true_or, if_pos rfl]) (fun u hu => ⟨_, _, rfl⟩) hE ht
    refine ⟨t, he, ?_⟩
    rw [hk]
    exact ⟨rfl, rfl, rfl, rfl, rfl, rfl, rfl, rfl, rfl, ho⟩

end Sys2Proof.Machine

/-! # Interrupt entry -/

namespace Sys2Proof.Machine

open Sys2Proof

/-! ## Accesses to memory leave the interrupt controllers -/

section Controllers

variable (s : State) (c : CoreId) (m a n w : Nat)

@[simp] theorem State.recordFault_irq (f : FaultInfo) (action : Nat) : (s.recordFault f action).irq = s.irq := by
  obtain ⟨t, g, h, e⟩ := s.recordFault_burned f action
  rw [e]
  exact h.same State.irq fun _ _ => rfl

theorem State.powerOffEmpty_irq : s.powerOffEmpty.irq = s.irq := by
  unfold State.powerOffEmpty
  dsimp only
  split <;> rfl

theorem foldl_irq {α : Type} {f : State → α → State} (h : ∀ s x, (f s x).irq = s.irq) (l : List α) (s : State) :
    (l.foldl f s).irq = s.irq := by
  induction l generalizing s with
  | nil => rfl
  | cons x l ih => exact (ih _).trans (h s x)

theorem State.requestRetire_irq : (s.requestRetire a w).irq = s.irq := by
  unfold State.requestRetire
  dsimp only
  split
  · rfl
  · split
    · rw [State.powerOffEmpty_irq]
      split
      · rfl
      · exact foldl_irq (f := fun s (m : Migration) => s.flushLook m.obj) (fun _ _ => rfl) _ _
    · exact State.recordFault_irq ..

theorem State.countCorrection_irq : (s.countCorrection w m).irq = s.irq := by
  unfold State.countCorrection
  dsimp only
  split
  · rw [State.requestRetire_irq, State.countSys_irq]
    rfl
  · exact State.countSys_irq ..

theorem State.uncorrected_irq (k : EccKind) : (s.uncorrected w m k).irq = s.irq := State.requestRetire_irq ..

theorem State.readWord_irq : (s.readWord m w).s.irq = s.irq := by
  unfold State.readWord
  split
  · rfl
  · split
    · exact State.uncorrected_irq ..
    · exact State.countCorrection_irq ..

theorem State.readWords_irq (l : List Nat) (s : State) : (s.readWords m l).s.irq = s.irq := by
  induction l generalizing s with
  | nil => rfl
  | cons x l ih => exact (ih _).trans (State.readWord_irq ..)

theorem State.readBeat_irq : (s.readBeat m a n).1.s.irq = s.irq := State.readWords_irq ..

theorem State.mergeWord_irq : (s.mergeWord m a n w).irq = s.irq := by
  unfold State.mergeWord
  dsimp only
  split
  · rfl
  · split
    · rfl
    · split
      · exact State.uncorrected_irq ..
      · exact State.countCorrection_irq ..

theorem State.countWear_irq : (s.countWear w).irq = s.irq := by
  obtain ⟨v, e⟩ := countWear_same s w
  rw [e]

theorem State.writeBeat_irq (bs : List Byte) : (s.writeBeat m a bs).irq = s.irq := by
  rw [State.writeBeat, State.onMem_irq]
  refine foldl_irq (fun s w => ?_) _ _
  rw [State.countWear_irq, State.mergeWord_irq]

theorem State.pull_irq : (s.pull a).s.irq = s.irq := by
  unfold State.pull
  split
  · rfl
  · dsimp only
    rw [State.onMm_irq, State.pullWords, State.onMem_irq]
    exact State.readWords_irq ..

theorem State.storeBeat_irq (bs : List Byte) : (s.storeBeat m a bs).s.irq = s.irq := by
  unfold State.storeBeat
  split
  · exact (State.writeBeat_irq ..).trans (State.pull_irq ..)
  · exact State.writeBeat_irq ..

theorem State.store_irq (bs : List Byte) : (s.store m a bs).s.irq = s.irq := by
  unfold State.store
  dsimp only
  split
  · exact State.storeBeat_irq ..
  · split
    · exact (State.writeBeat_irq ..).trans (State.storeBeat_irq ..)
    · exact State.storeBeat_irq ..

theorem State.noteCollision_irq : (s.noteCollision a n).irq = s.irq := by
  unfold State.noteCollision
  split <;> rfl

theorem State.logOutside_irq : (s.logOutside c a).irq = s.irq := by
  unfold State.logOutside
  split
  · exact State.recordFault_irq ..
  · rfl

theorem State.dropLines_irq : (s.dropLines a n).irq = s.irq := by
  unfold State.dropLines
  split
  · unfold State.invalidateCode
    split <;> rfl
  · rfl

theorem State.loadBeat_irq : (s.loadBeat c a n).s.irq = s.irq := by
  unfold State.loadBeat
  split
  · exact State.logOutside_irq ..
  · exact (State.noteCollision_irq ..).trans ((State.readBeat_irq ..).trans (State.noteBeat_irq ..))

theorem State.storeOne_irq (bs : List Byte) : (s.storeOne c a bs).s.irq = s.irq := by
  unfold State.storeOne
  split
  · exact State.logOutside_irq ..
  · exact (State.noteCollision_irq ..).trans ((State.store_irq ..).trans
      ((State.countCore_irq ..).trans ((State.noteBeat_irq ..).trans (State.dropLines_irq ..))))

variable {a}

theorem State.load_irq (h : inPeriph a = false) : (s.load c a n).s.irq = s.irq := by
  unfold State.load
  rw [h]
  simp only [Bool.false_eq_true, if_false]
  split
  · exact State.loadBeat_irq ..
  · exact (State.loadBeat_irq ..).trans ((State.countCore_irq ..).trans (State.loadBeat_irq ..))

theorem State.storeBytes_irq (v : Nat) (h : inPeriph a = false) : (s.storeBytes c a n v).s.irq = s.irq := by
  unfold State.storeBytes
  rw [h]
  simp only [Bool.false_eq_true, if_false]
  split
  · exact State.storeOne_irq ..
  · exact (State.storeOne_irq ..).trans ((State.countCore_irq ..).trans (State.storeOne_irq ..))

end Controllers

/-! ## One beat, and the beats beside it -/

section Beats

variable {s u : State} {c : CoreId} {a b n p : Nat} {bs : List Byte}

/-- A store of one beat. -/
theorem storeBytes_beat (v : Nat) (hn : 0 < n) (h8 : a % 8 + n ≤ 8) (h : s.storable c a n) :
    ∃ s1 u, s1.plain c = s.plain c ∧ s.storeBytes c a n v = ⟨u, none, [], 0⟩ ∧ BeatBytes s1 u a (bytesOfNat n v) := by
  have hl := bytesOfNat_length n v
  have hk : firstBeat a n = n := by unfold firstBeat; omega
  obtain ⟨s1, u, hs1, hu, hb⟩ := storeOne_ok (a := a) (bs := bytesOfNat n v) (by omega) (by omega) (by rw [hl]; exact h)
  refine ⟨s1, u, hs1, ?_, hb⟩
  unfold State.storeBytes
  rw [show inPeriph a = false from (h.1 0 hn).1, hk]
  simp only [List.take_of_length_le hl.le, hu]
  simp

/-- After a beat a place is read where it was, or its line has come from its image. -/
theorem readPlace_after (h : BeatBytes s u a bs) (p : Nat) : readPlace u p = readPlace s p ∨
    inEmber p = true ∧ bit s.mm.restored (lineOf p) = false ∧ bit u.mm.restored (lineOf p) = true := by
  unfold readPlace
  rw [h.same.imageAddr, show (p - emberBase) / 64 = lineOf p from rfl]
  have keep := h.same.restored (lineOf p)
  cases inEmber p <;> cases hs : bit s.mm.restored (lineOf p) <;> cases hu : bit u.mm.restored (lineOf p) <;> simp_all

theorem clean_after (h : BeatBytes s u a bs) (hc : s.clean p 1) : u.clean p 1 := by
  simp only [State.clean, eccWords, Nat.add_sub_cancel, if_true, List.mem_singleton, forall_eq] at hc ⊢
  rcases readPlace_after h p with e | ⟨he, hs, hu⟩
  · rw [e]
    exact h.same.ecc _ hc
  · have hp : readPlace u p = p := by
      unfold readPlace
      rw [show (p - emberBase) / 64 = lineOf p from rfl, he, hu]
      rfl
    obtain ⟨i, hi, hei, hli⟩ := (h.lines _ hu).resolve_left (by simp [hs])
    rw [hp]
    refine h.ecc _ ((pulled_iff ..).2 ⟨i, hi, hei, by rw [← hli]; exact hs, ?_⟩)
    rw [← hli]
    exact eccWords_line (n := 1) he (by omega) (by omega) (by simp [eccWords])

theorem pulled_after (h : BeatBytes s u a bs) {x : Nat} (hx : u.pulled b n x) : s.pulled b n x := by
  rw [pulled_iff] at hx ⊢
  obtain ⟨j, hj, he, hl, hi⟩ := hx
  rw [h.same.physical] at he hl hi
  refine ⟨j, hj, he, ?_, hi⟩
  by_contra hr
  rw [h.same.restored _ (by simpa using hr)] at hl
  exact Bool.noConfusion hl

/-- What may be stored may be stored after a beat. -/
theorem storable_beside (h : BeatBytes s u a bs) (hs : s.storable c b n) : u.storable c b n := by
  obtain ⟨hacc, hmig, hecc⟩ := hs
  have hp := h.same.physical
  refine ⟨fun j hj => ?_, fun m hm => hmig m (by rw [← h.same.fields.1]; exact hm), fun j hj => ⟨fun q hq => ?_,
    fun x hx => ?_⟩⟩
  · obtain ⟨k1, k2, k3, k4⟩ := hacc j hj
    refine ⟨k1, by rw [h.same.beatFault]; exact k2, by rw [hp]; exact clean_after h k3, ?_⟩
    unfold State.apart
    rw [hp, h.same.fields.2.2.2]
    exact k4
  · rw [hp, h.same.mirrorOf hmig] at hq
    exact h.same.ecc _ ((hecc j hj).1 q hq)
  · rw [h.same.imageAddr]
    exact h.same.ecc _ ((hecc j hj).2 x (pulled_after h hx))

theorem storable_part {k : Nat} (h : s.storable c a n) (hk : k + b ≤ n) : s.storable c (a + k) b := by
  obtain ⟨hacc, hmig, hecc⟩ := h
  refine ⟨fun j hj => ?_, hmig, fun j hj => ?_⟩
  · rw [Nat.add_assoc]
    exact hacc (k + j) (by omega)
  · rw [Nat.add_assoc]
    refine ⟨(hecc (k + j) (by omega)).1, fun x hx => (hecc (k + j) (by omega)).2 x ?_⟩
    obtain ⟨i, hi, e⟩ := hx
    rw [Nat.add_assoc] at e
    exact ⟨k + i, by omega, e⟩

/-- Two words pushed below a stack pointer, the upper one first. -/
theorem pushes_ok {x y : Nat} (h4 : a % 4 = 0) (h : s.storable c a 8) :
    ∃ u t, s.storeBytes c (a + 4) 4 x = ⟨u, none, [], 0⟩ ∧ u.storeBytes c a 4 y = ⟨t, none, [], 0⟩ ∧
      Stored s u (a + 4) 4 x ∧ Stored u t a 4 y ∧ StoreKept s u c ∧ StoreKept s t c ∧ u.mm.map = s.mm.map := by
  obtain ⟨s1, u, hs1, hu, hb⟩ := storeBytes_beat x (by omega) (by omega) (storable_part (k := 4) (b := 4) h (by omega))
  have hlow : u.storable c a 4 :=
    storable_beside hb ((storable_congr hs1 a 4).2 (storable_part (k := 0) (b := 4) h (by omega)))
  obtain ⟨t, ht, hst, hkept⟩ := storeBytes_ok (v := y) (by omega) (by omega) hlow
  have hk := StoreKept.of hs1 hb.same
  refine ⟨u, t, hu, ht, Stored.of_beat hs1 hb, hst, hk, hk.trans hkept, hb.same.map.trans ?_⟩
  have e := congrArg (fun z : State => z.mm.map) hs1
  exact e

end Beats

/-! ## The entry of an interrupt (R27, R185) -/

theorem IrqBank.acceptable_lt {q : IrqBank} {src : Nat} (h : q.acceptable = some src) : src < 128 := by
  have offer : ∀ (l : List Nat) (x : Option Nat), (∀ y, x = some y → y < 128) → (∀ y ∈ l, y < 128) →
      ∀ y, l.foldl q.better x = some y → y < 128 := by
    intro l
    induction l with
    | nil => exact fun x hx _ => hx
    | cons z l ih =>
      intro x hx hl
      refine ih _ (fun y hy => ?_) fun y hy => hl y (List.mem_cons_of_mem _ hy)
      have hz := hl z List.mem_cons_self
      unfold IrqBank.better at hy
      split at hy
      · split at hy
        · exact Option.some.inj hy ▸ hz
        · split at hy
          · exact Option.some.inj hy ▸ hz
          · exact hx y hy
      · exact hx y hy
  unfold IrqBank.acceptable at h
  split at h
  · cases h
  · next y hy =>
    split at h
    · exact Option.some.inj h ▸ offer _ _ (by simp) (fun _ => List.mem_range.1) y hy
    · cases h

/-- What a core reaches in memory lies in the lower half of the addresses. -/
theorem accessed_lt {s : State} {c : CoreId} {rd wr : Bool} {a : Nat} (hp : inPeriph a = false)
    (h : s.beatFault c rd wr a = none) : a < 2 ^ 31 := by
  have window : inObjWindow a = true ∨ inEmber a = true := by
    by_contra hw
    rw [not_or, Bool.not_eq_true, Bool.not_eq_true] at hw
    have out : s.reach a = .outside := by simp [State.reach, hw, hp]
    rcases inMemory_of_ok hp h with ⟨i, p, e⟩ | ⟨p, e⟩ <;> exact Place.noConfusion (out.symm.trans e)
  simp only [inObjWindow, inEmber, inRange, Bool.and_eq_true, decide_eq_true_eq] at window
  unfold objBase emberBase at window
  omega

/-- What the entry of an interrupt makes of a core once nothing is in flight. -/
def Core.accepted (k : Core) (sp v : Word) : Core :=
  { k with w := k.w.set 15 sp, pc := v, phase := .run, repOpen := false }

/-- A core waits until nothing is in flight. -/
def Core.waited (n : Nat) (k : Core) : Core := (k.tick n).clock n

theorem Core.tick_task (k : Core) (n : Nat) : (k.tick n).task = k.task := by
  unfold Core.tick Core.settleDiv Core.settleMul
  dsimp only
  repeat' split
  all_goals rfl

theorem mem_of_base {s t : State} (h : s.base = t.base) : s.mem = t.mem := by
  have e := congrArg State.mem h
  exact e

theorem SameBlocks.off_core {s t : State} {c : CoreId} {f : Core → Core} (h : SameBlocks (s.onCore c f) t) : SameBlocks s t :=
  ⟨h.pwr, h.clk, h.peg, h.pin, h.tim, h.ua, h.tch, h.evt, h.rtc, h.hrv, h.snap, h.pending⟩

theorem SameBlocks.symm {s t : State} (h : SameBlocks s t) : SameBlocks t s :=
  ⟨h.pwr.symm, h.clk.symm, h.peg.symm, h.pin.symm, h.tim.symm, h.ua.symm, h.tch.symm, h.evt.symm, h.rtc.symm, h.hrv.symm,
    h.snap.symm, h.pending.symm⟩

section Entry

variable {s : State} {c : CoreId} {a : Nat}

theorem storeFault_of_storable {n : Nat} (v : Nat) (hn : 0 < n) (h8 : a % 8 + n ≤ 8) (h : s.storable c a n) :
    s.storeFault c a n v = none := by
  have hk : firstBeat a n = n := by unfold firstBeat; omega
  obtain ⟨hp, hb, -⟩ := h.1 0 hn
  rw [Nat.add_zero] at hp hb
  rw [State.storeFault, if_neg (by rw [hp]; exact Bool.false_ne_true), hb, hk]
  exact if_pos rfl

variable (h4 : (s.cores[c].w[(15 : Reg)] - 8#32).toNat % 4 = 0)
  (h : s.storable c (s.cores[c].w[(15 : Reg)] - 8#32).toNat 8)

include h in
/-- The upper of the two words pushed stands four bytes above the lower. -/
theorem upper_push : (s.cores[c].w[(15 : Reg)] - 8#32 + 4#32).toNat = (s.cores[c].w[(15 : Reg)] - 8#32).toNat + 4 := by
  obtain ⟨hp, hb, -⟩ := h.1 0 (by omega)
  have := accessed_lt hp hb
  bv_omega

include h4 h

theorem pushFault_none : s.pushFault c = none := by
  have hup := upper_push h
  have hw : (s.cores[c].w[15]).toNat % 4 = 0 := by
    have e : (s.cores[c].w[15] - 8#32).toNat % 4 = 0 := h4
    bv_omega
  have hhi : s.cores[c].w[15] - 4#32 = s.cores[c].w[(15 : Reg)] - 8#32 + 4#32 := by
    show s.cores[c].w[(15 : Reg)] - 4#32 = _
    bv_omega
  unfold State.pushFault
  simp only [hw, ne_eq, not_true, if_false]
  rw [hhi, hup, storeFault_of_storable _ (by omega) (by omega) (storable_part (k := 4) (b := 4) h (by omega))]
  exact congrArg (Option.map _) (storeFault_of_storable _ (by omega) (by omega)
    (storable_part (k := 0) (b := 4) h (by omega)))

/-- The entry of an interrupt whose pushes are no fault. -/
theorem enterHandler_ok (src : Nat) (v : Word) :
    let k := s.cores[c]
    let sp := k.w[(15 : Reg)] - 8#32
    ∃ u, u.mm.map = s.mm.map ∧ StoreKept s u c ∧ Stored s u (sp + 4#32).toNat 4 k.pc.toNat ∧
      Stored u (s.enterHandler c src v) sp.toNat 4 k.flg.toNat ∧
      StoreKept (s.onCore c fun k => (k.accepted sp v).clock 10) (s.enterHandler c src v) c ∧
      (s.enterHandler c src v).irq = vmod s.irq c fun q => q.accept src := by
  intro k sp
  obtain ⟨u, t, hu, ht, hsu, hst, hku, hkt, hmap⟩ := pushes_ok (x := k.pc.toNat) (y := k.flg.toNat) h4 h
  have hperiph : ∀ j < 8, inPeriph (sp.toNat + j) = false := fun j hj => (h.1 j hj).1
  have hirq : t.irq = s.irq := by
    have e1 := s.storeBytes_irq c 4 k.pc.toNat (hperiph 4 (by omega))
    have e2 := u.storeBytes_irq c 4 k.flg.toNat (hperiph 0 (by omega))
    rw [hu] at e1
    rw [show sp.toNat + 0 = sp.toNat from rfl, ht] at e2
    exact e2.trans e1
  have entry : s.enterHandler c src v =
      (((t.onIrq c fun q => q.accept src).onCore c fun k => k.accepted sp v).delay c 10).countCore c 24 1 := by
    have hu' : s.storeBytes c (sp + 4#32).toNat 4 k.pc.toNat = ⟨u, none, [], 0⟩ := by rw [upper_push h]; exact hu
    unfold State.enterHandler
    dsimp only
    rw [show s.cores[c].w[15] - 8#32 = sp from rfl, hu']
    dsimp only
    rw [ht]
    rfl
  have base : (s.enterHandler c src v).base = (t.onCore c fun k => (k.accepted sp v).clock 10).base := by
    rw [entry, State.countCore_base, State.delay_base, onCore_onCore]
    rfl
  refine ⟨u, hmap, hku, by rw [upper_push h]; exact hsu, hst.of_mem ((mem_of_base base).trans rfl), ?_, ?_⟩
  · refine (hkt.onCore _ fun k k' e => ?_).trans (StoreKept.of_plain (plain_of_base base c))
    have e' := congrArg (fun k : Core => (k.accepted sp v).clock 10) e
    exact e'
  · rw [entry, State.countCore_irq]
    show (State.countCore _ _ _ _).irq = _
    rw [State.countCore_irq]
    exact congrArg (fun q => vmod q c fun q => q.accept src) hirq

end Entry

/-- What a core shows after the entry of an interrupt. -/
theorem Core.accepted_seen {k k' : Core} (h : k'.still = (k.waited k.mathWait).still) (sp v : Word) :
    ((k'.accepted sp v).clock 10).seen =
      { k.drained with w := k.w.set 15 sp, pc := v, phase := .run }.seen := by
  have hw : k.drained.w = k.w := by
    unfold Core.drained
    dsimp only
    split <;> split <;> rfl
  have e : ∀ k : Core, ((k.accepted sp v).clock 10).seen = { k.seen with w := k.seen.w.set 15 sp, pc := v, phase := .run } :=
    fun _ => rfl
  rw [e, Core.seen_of_still h, Core.waited, Core.drained_seen, ← hw]
  rfl

/-- The end of a command keeps the priority stack and the active sources of each controller. -/
theorem finish_stack (old s : State) (c : CoreId) :
    ((finish old s).irq[c]).stack = (s.irq[c]).stack ∧ ((finish old s).irq[c]).act = (s.irq[c]).act := by
  have e := congrArg (fun v : Vector IrqBank 5 => v[c]) (finish_setup s old).irq
  simp only [Vector.getElem_map, Fin.getElem_fin] at e
  have e1 := congrArg IrqBank.stack e
  have e2 := congrArg IrqBank.act e
  exact ⟨e1, e2⟩

/-- The state in which a core enters the handler of an interrupt: nothing is in flight, and the vector is read. -/
structure VectorRead (s : State) (c : CoreId) (u : State) : Prop where
  plain : u.plain c = (s.onCore c (Core.waited s.cores[c].mathWait)).plain c
  irq : u.irq = s.irq

namespace VectorRead

variable {s u : State} {c : CoreId} (h : VectorRead s c u)

include h

theorem still : u.cores[c].still = (s.cores[c].waited s.cores[c].mathWait).still := by
  rw [plain_core h.plain c, onCore_same]

theorem frame : u.cores[c].w = s.cores[c].w ∧ u.cores[c].pc = s.cores[c].pc ∧ u.cores[c].flg = s.cores[c].flg := by
  obtain ⟨hw, hf, hp, -⟩ := Core.tick_frame s.cores[c] s.cores[c].mathWait
  have e1 := congrArg Core.w h.still
  have e2 := congrArg Core.pc h.still
  have e3 := congrArg Core.flg h.still
  exact ⟨e1.trans hw, e2.trans hp, e3.trans hf⟩

theorem storable {a n : Nat} (hs : s.storable c a n) : u.storable c a n :=
  (storable_congr h.plain a n).2 ((storable_onCore (Core.tick_task ..) a n).2 hs)

/-- A push in that state is one in the state before. -/
theorem stored {a n x : Nat} {t : State} (hs : Stored u t a n x) : Stored s t a n x := by
  have e := hs.congr h.plain
  exact ⟨e.bytes, e.mirror, e.image, e.rest⟩

/-- So is one after a first push. -/
theorem stored_next {a n x : Nat} {t w : State} (hk : StoreKept u t c) (hs : Stored t w a n x) :
    Stored { s with mem := t.mem, mm := t.mm } w a n x := by
  have e := replaced (m := t.mem) (r := t.mm) (Eq.trans hk h.plain)
  have e := hs.congr e
  exact ⟨e.bytes, e.mirror, e.image, e.rest⟩

end VectorRead

theorem Stored.of_pwr {s t : State} {p : Pwr} {a n v : Nat} (h : Stored { s with pwr := p } t a n v) : Stored s t a n v :=
  ⟨h.bytes, h.mirror, h.image, h.rest⟩

/-- The wait for what is in flight and the read of an even vector. -/
theorem acceptInterrupt_enters {s s0 : State} {c : CoreId} {src : Nat} (h0 : (if s.cores[c].phase = .wait then s.clearIdle else s) = s0)
    (hvec : s0.accessible c true false (0x60000200 + 4 * src) 4) (heven : s0.valueAt (0x60000200 + 4 * src) 4 % 2 = 0)
    (h4 : (s0.cores[c].w[(15 : Reg)] - 8#32).toNat % 4 = 0)
    (hsto : s0.storable c (s0.cores[c].w[(15 : Reg)] - 8#32).toNat 8) :
    ∃ u, VectorRead s0 c u ∧ s.acceptInterrupt c src =
      u.enterHandler c src (BitVec.ofNat 32 (s0.valueAt (0x60000200 + 4 * src) 4)) := by
  have p1 : (s0.drainMath c).plain c = (s0.onCore c (Core.waited s0.cores[c].mathWait)).plain c :=
    State.drainMath_plain s0 c
  have acc : (s0.drainMath c).accessible c true false (0x60000200 + 4 * src) 4 :=
    (accessible_congr p1 ..).2 ((accessible_onCore (Core.tick_task ..) ..).2 hvec)
  obtain ⟨g1, g2, g3, g4⟩ := load_ok (s := s0.drainMath c) (n := 4) (by omega) (by omega) acc
  have hu : VectorRead s0 c ((s0.drainMath c).load c (0x60000200 + 4 * src) 4).s := by
    refine ⟨g3.trans p1, ?_⟩
    have e := (s0.drainMath c).load_irq c 4 (acc 0 (by omega)).1
    rw [Nat.add_zero] at e
    rw [e, State.drainMath, State.spend, State.countCore_irq, State.countCore_irq]
    rfl
  refine ⟨_, hu, ?_⟩
  obtain ⟨hw, -, -⟩ := hu.frame
  have value : ((s0.drainMath c).load c (0x60000200 + 4 * src) 4).v = s0.valueAt (0x60000200 + 4 * src) 4 := by
    rw [g4, value_congr p1]
    rfl
  have push := pushFault_none (s := ((s0.drainMath c).load c (0x60000200 + 4 * src) 4).s) (c := c) (by rw [hw]; exact h4)
    (by rw [hw]; exact hu.storable hsto)
  unfold State.acceptInterrupt
  simp only [h0, g1, value, push, heven, Nat.zero_ne_one, if_false]

/-- Settles O10: the wait for what is in flight, the read of the vector and the two pushes change what they note alone,
so that the core enters its handler (the vector read first: assumption 85). -/
theorem interruptEntry : Obligations.InterruptEntry := by
  intro s c src k sp v hint hacc h4 hvec heven hsto
  obtain ⟨p0, e0⟩ : ∃ p, (if s.cores[c].phase = .wait then s.clearIdle else s) = { s with pwr := p } := by
    split
    · exact ⟨_, rfl⟩
    · exact ⟨s.pwr, rfl⟩
  obtain ⟨u, hu, hgo⟩ := acceptInterrupt_enters (src := src) e0 hvec heven h4 hsto
  obtain ⟨hw, hpc, hflg⟩ := hu.frame
  obtain ⟨x, hmap, hkx, hfirst, hsecond, hkept, hirq⟩ := enterHandler_ok (s := u) (c := c) (by rw [hw]; exact h4)
    (by rw [hw]; exact hu.storable hsto) src (BitVec.ofNat 32 v)
  rw [hw] at hfirst hsecond hkept
  rw [hpc] at hfirst
  rw [hflg] at hsecond
  let w := u.enterHandler c src (BitVec.ofNat 32 v)
  have hexec : exec (.interruptAccept c) s = .next (finish s w) := by
    show Host.Outcome.next (finish s _) = _
    rw [if_pos hint, vget_getElem _ (by omega)]
    simp only [Fin.getElem_fin] at hacc
    simp only [hacc, hgo]
    rfl
  have accepted : w.irq[c] = (s.irq[c]).accept src := by
    have e : w.irq = vmod s.irq c fun q => q.accept src := hirq.trans (by rw [hu.irq])
    rw [e, vmod_getElem (i := c) _ (by omega)]
    exact Vector.getElem_set_self _
  refine ⟨finish s w, hexec, ?_, ⟨x.mem, x.mm, ?_, ?_, ?_⟩, fun e he => ?_, ?_, ?_, ?_⟩
  · have seen := hkept.core
    rw [onCore_same] at seen
    rw [finish_cores, seen]
    exact Core.accepted_seen hu.still ..
  · have e := congrArg (fun z : State => z.mm.map) hu.plain
    exact hmap.trans e
  · exact Stored.of_pwr (p := p0) ((hu.stored hfirst).of_mem rfl)
  · exact Stored.of_pwr (p := p0) ((hu.stored_next hkx hsecond).of_mem (finish_mem ..))
  · rw [finish_cores, hkept.other he, onCore_other _ he]
    have e := plain_other hu.plain he
    rw [onCore_other _ he] at e
    exact e
  · have before := (SameBlocks.of_plain hu.plain).symm.off_core
    rw [← e0] at before
    exact (before.trans (SameBlocks.of_kept hkept).off_core).trans (SameBlocks.finish ..)
  · rw [(finish_stack ..).1, accepted]
    rfl
  · rw [(finish_stack ..).2, accepted, IrqBank.accept, bit_setBit, if_pos ⟨rfl, IrqBank.acceptable_lt hacc⟩]

end Sys2Proof.Machine

/-! # Services of Ridgepole -/

namespace Sys2Proof.Machine

open Sys2Proof

/-! ## A TRAP that Ridgepole takes at once (R37, R173) -/

/-- The state without what an access of core `c` notes and without the core itself. -/
def State.aside (s : State) (c : CoreId) : State := { s.plain c with cores := s.cores.set c Core.reset }

/-- Ridgepole's record of the service that it gives. -/
def Ridgepole.asks (c : CoreId) (n : Nat) (r : Ridgepole) : Ridgepole := { r with serving := some (c, n), served := c }

/-- Core `c` once its TRAP is taken. -/
def Core.trapped (k : Core) (r : Option TrapAnswer) : Core :=
  { k.after (k.pc + 2#32) 1 with phase := .trap, asked := none, trap := r }

/-- The state in which service `n` runs for core `c`: `t` is `s` but for the core, which stalls, and what the fetch of
the TRAP and its count note. -/
structure Taken (s : State) (c : CoreId) (n : Nat) (t : State) : Prop where
  aside : t.aside c = (s.onRp (Ridgepole.asks c n)).aside c
  core : t.cores[c].seen = (s.cores[c].trapped none).seen

section Aside

variable {s t : State} {c : CoreId}

theorem aside_of_plain (h : s.plain c = t.plain c) : s.aside c = t.aside c := by
  have e : ∀ u : State, u.aside c = { u.plain c with cores := (u.plain c).cores.set c Core.reset } := fun u => by
    simp [State.aside, State.plain]
  rw [e, e, h]

theorem aside_of_base (h : s.base = t.base) : s.aside c = t.aside c := aside_of_plain (plain_of_base h c)

theorem aside_onCore (s : State) (f : Core → Core) : (s.onCore c f).aside c = s.aside c := by
  have e : ∀ u : State, u.aside c = { u.plain c with cores := u.cores.set c Core.reset } := fun _ => rfl
  rw [e, e]
  simp [State.plain, State.onCore, State.base]

theorem aside_onRp (h : s.aside c = t.aside c) (f : Ridgepole → Ridgepole) : (s.onRp f).aside c = (t.onRp f).aside c := by
  have e := congrArg (fun u : State => u.onRp f) h
  exact e

theorem shown_of_aside (h : s.aside c = t.aside c) : s.shown c = t.shown c := by
  have e : ∀ u : State, u.shown c = (u.aside c).shown c := fun u => by
    simp [State.shown, State.aside, State.plain, State.base, ObjEntry.cold]
  rw [e, e t, h]

theorem shown_finish (old s : State) (c : CoreId) : (finish old s).shown c = s.shown c := by
  have e := congrArg (fun u : State => u.shown c) (finish_settles s old).settled
  exact e

theorem aside_other (h : s.aside c = t.aside c) {e : CoreId} (he : e ≠ c) : s.cores[e] = t.cores[e] := by
  have k := congrArg (fun u : State => u.cores[e]) h
  have f : ∀ u : State, (u.aside c).cores[e] = u.cores[e] := fun u =>
    Vector.getElem_set_ne (by omega) (by omega) fun k => he (Fin.ext k.symm)
  rw [f, f] at k
  exact k

theorem canvasUp_of_aside (h : s.aside c = t.aside c) : s.canvasUp = t.canvasUp := by
  have e := congrArg State.canvasUp h
  exact e

end Aside

/-- The round-robin order of the cores that wait for Ridgepole reaches each core. -/
theorem mem_askOrder (d c : CoreId) : c ∈ (List.range 4).map fun i => (Fin.ofNat 4 (d.val + 1 + i) : CoreId) := by
  revert c d
  decide

theorem findSome_single {l : List CoreId} {f : CoreId → Option (CoreId × Nat)} {c : CoreId} {x : CoreId × Nat} (hc : c ∈ l)
    (hx : f c = some x) (ho : ∀ e, e ≠ c → f e = none) : l.findSome? f = some x := by
  induction l with
  | nil => cases hc
  | cons d l ih =>
    rw [List.findSome?_cons]
    by_cases hd : d = c
    · rw [hd, hx]
    · rw [ho d hd]
      exact ih ((List.mem_cons.1 hc).resolve_left (Ne.symm hd))

theorem Core.after_of_still {k k' : Core} (h : k.still = k'.still) (pc : Word) (n : Nat) : k.after pc n = k'.after pc n := by
  unfold Core.after
  rw [Core.tick_seen, Core.tick_seen]
  have e := congrArg (fun k : Core => ({ k.seen with pc := pc } : Core).tick n) h
  exact e

/-- The only core that waits for Ridgepole is served next. -/
theorem takeNext_single {s : State} {c : CoreId} {n : Nat} (hs : s.rp.serving = none) (hc : s.cores[c].asked = some n)
    (ho : ∀ e, e ≠ c → s.cores[e].asked = none) : s.takeNext = s.takeService c n := by
  have hn : s.nextAsking = some (c, n) :=
    findSome_single (mem_askOrder _ c) (by rw [hc]; rfl) fun e he => by rw [ho e he]; rfl
  rw [State.takeNext, hs, hn]
  rfl

/-- A TRAP of a core that is ready is taken at once when no other waits: the service runs, and its answer waits for the
core unless the service stops Canvas. -/
theorem trapOp_taken {s : State} {c : CoreId} {n : Nat} (h : s.ready c 1) (hm : s.mayAsk) :
    ∃ t, Taken s c n t ∧ s.trapOp c n =
      if (t.service c n).s.canvasUp && decide (n ≠ 15) then
        (t.service c n).s.onCore c fun k => { k with trap := some (t.service c n).r }
      else (t.service c n).s := by
  obtain ⟨hserving, hasked⟩ := hm
  obtain ⟨f1, f2, f3, -⟩ := fetches_ok 1 s c s.cores[c].pc.toNat h.2
  let f := (s.fetches c s.cores[c].pc.toNat 1).s
  let x := ((((f.complete c (s.cores[c].pc + 2#32) 1).onCore c fun k =>
    { k with phase := .trap, asked := some n, trap := none, repOpen := false }).countCore c 28 1).countSys 35 1).fireSource 4 c
  have hop : s.trapOp c n = x.takeNext := by
    rw [State.trapOp, if_pos h.1]
    dsimp only
    rw [f1]
  have hx : x.base = (f.completed c (s.cores[c].pc + 2#32) 1 |>.onCore c fun k =>
      { k with phase := .trap, asked := some n, trap := none, repOpen := false }).base :=
    (State.fireSource_base ..).trans ((State.countSys_base ..).trans ((State.countCore_base ..).trans
      (State.onCore_base_congr (State.complete_base ..) c _)))
  have hside : x.aside c = s.aside c := by
    rw [aside_of_base hx, aside_onCore, State.completed, aside_onCore, aside_onCore, aside_onCore]
    exact aside_of_plain f3
  have hcore : x.cores[c].seen =
      { s.cores[c].after (s.cores[c].pc + 2#32) 1 with phase := .trap, asked := some n, trap := none }.seen := by
    have e := Core.after_of_still (plain_core f3 c) (s.cores[c].pc + 2#32) 1
    have e' : x.cores[c] = { (f.complete c (s.cores[c].pc + 2#32) 1).cores[c] with
        phase := .trap, asked := some n, trap := none, repOpen := false } := by
      unfold x
      rw [State.fireSource_cores, State.countSys_cores, State.countCore_cores, onCore_same]
    rw [e', ← e, ← State.complete_core]
    rfl
  have hc : x.cores[c].asked = some n := by
    have e := congrArg Core.asked hcore
    exact e
  have hrp : x.rp = s.rp := by
    have e := congrArg State.rp hside
    exact e
  refine ⟨(x.onCore c fun k => { k with asked := none }).onRp (Ridgepole.asks c n), ⟨?_, ?_⟩, ?_⟩
  · exact aside_onRp ((aside_onCore ..).trans hside) _
  · rw [State.onRp_cores, onCore_same]
    have e := congrArg (fun k : Core => { k with asked := none }) hcore
    exact e
  · rw [hop, takeNext_single (hrp ▸ hserving) hc fun e he => by rw [aside_other hside he]; exact hasked e]
    rfl

namespace Taken

variable {s t : State} {c : CoreId} {n : Nat} (h : Taken s c n t)

include h

theorem rp : t.rp = s.rp.asks c n := by
  have e := congrArg State.rp h.aside
  exact e

theorem mem : t.mem = s.mem := by
  have e := congrArg State.mem h.aside
  exact e

theorem pwr : t.pwr = s.pwr := by
  have e := congrArg State.pwr h.aside
  exact e

theorem w (i : Reg) : t.cores[c].w[i] = s.cores[c].w[i] := by
  have e := congrArg Core.w h.core
  have e' : t.cores[c].w = s.cores[c].w := e.trans (Core.tick_frame ..).1
  rw [e']

theorem canvasUp : t.canvasUp = s.canvasUp := by
  have e := canvasUp_of_aside h.aside
  exact e

end Taken

/-- Service `n` makes `u` of the state and answers `r`. -/
theorem trap_serves {s u : State} {c : CoreId} {n : Nat} {i : Instr} {r : TrapAnswer} (h : s.ready c 1) (hm : s.mayAsk)
    (hi : exec i s = .next (finish s (s.trapOp c n))) (hn : n ≠ 15) (hmode : u.canvasUp = s.canvasUp)
    (hs : ∀ t, Taken s c n t → ∃ v, t.service c n = ⟨v, r⟩ ∧ v.cores = t.cores ∧
      v.aside c = (u.onRp (Ridgepole.asks c n)).aside c) : servedStep s i c n u r := by
  obtain ⟨t, ht, hop⟩ := trapOp_taken (n := n) h hm
  obtain ⟨v, hv, hcores, haside⟩ := hs t ht
  have up : s.canvasUp = true := by
    have h0 := h.1
    simp only [State.issues, Bool.and_eq_true] at h0
    exact h0.1.1.1
  have hup : v.canvasUp = true := by
    rw [canvasUp_of_aside haside]
    exact hmode.trans up
  rw [hv] at hop
  simp only [hup, hn, ne_eq, not_false_eq_true, decide_true, Bool.and_self, if_true] at hop
  refine ⟨_, hi, ?_, ?_⟩
  · rw [finish_cores, hop, onCore_same, hcores]
    have e := congrArg (fun k : Core => { k with trap := some r }) ht.core
    exact e
  · rw [shown_finish, hop]
    exact shown_of_aside ((aside_onCore ..).trans haside)

section Services

variable {s : State} {c : CoreId} {n : Nat} {i : Instr} {r : TrapAnswer} (h : s.ready c 1) (hm : s.mayAsk)
  (hi : exec i s = .next (finish s (s.trapOp c n))) (hn : n ≠ 15)

include h hm hi hn

/-- A service that answers and changes nothing. -/
theorem trap_answers (hs : ∀ t, Taken s c n t → t.service c n = ⟨t, r⟩) : servedStep s i c n s r :=
  trap_serves h hm hi hn rfl fun t ht => ⟨t, hs t ht, rfl, ht.aside⟩

/-- A service that changes Ridgepole's own state. -/
theorem trap_updates {f : Ridgepole → Ridgepole} (hf : ∀ r : Ridgepole, f (r.asks c n) = (f r).asks c n)
    (hmode : ∀ r, (f r).mode = r.mode) (hs : ∀ t, Taken s c n t → t.service c n = ⟨t.onRp f, r⟩) :
    servedStep s i c n (s.onRp f) r := by
  refine trap_serves h hm hi hn ?_ fun t ht => ⟨t.onRp f, hs t ht, rfl, ?_⟩
  · unfold State.canvasUp State.running
    rw [State.onRp_rp, hmode]
    rfl
  · refine (aside_onRp ht.aside f).trans ?_
    show ({ s with rp := f (s.rp.asks c n) } : State).aside c = _
    rw [hf]
    rfl

end Services

/-! ## The services of Ridgepole's own state (R173) -/

section OwnState

variable {s t : State} {c : CoreId} {x : Word}

/-- The operand of a service. -/
theorem Taken.w1 {n : Nat} (h : Taken s c n t) : t.cores[c].w[1] = s.cores[c].w[(1 : Reg)] := h.w 1

theorem Taken.info (h : Taken s c 0 t) : t.service c 0 = ⟨t, ⟨0#32, Config.romRev.setWidth 32,
    flagAt 0 (decide (s.rp.running = some true)) ||| flagAt 1 (bit s.rp.gs.boot 1) ||| field 2 (bits s.rp.gs.boot 2 2) |||
      field 8 s.rp.rollback ||| field 16 s.rp.ctr, s.rp.version⟩⟩ := by
  show t.svcInfo = _
  rw [State.svcInfo, h.rp]
  rfl

theorem svcStay_ok (hw : x.toNat < 2) :
    t.svcStay c x = ⟨t.onRp fun r => { r with stay := setBit r.stay c (decide (x = 1#32)) }, ⟨0#32, 0#32, 0#32, 0#32⟩⟩ := by
  have hbit : bit x 0 = decide (x = 1#32) := by
    have : x = 0#32 ∨ x = 1#32 := by bv_omega
    rcases this with rfl | rfl <;> rfl
  rw [State.svcStay, if_neg (by omega), hbit]
  rfl

theorem svcStay_bad (hw : 2 ≤ x.toNat) : t.svcStay c x = t.fails 2 := if_pos hw

theorem svcKeyCheck_bad (hw : 1028 ≤ x.toNat) : t.svcKeyCheck x = t.fails 2 := if_pos hw

theorem Taken.key {n : Nat} (h : Taken s c n t) (k : Nat) : t.rp.key k = s.rp.key k := by
  rw [h.rp]
  rfl

theorem svcKeyCheck_none (hw : x.toNat < 1028) (hk : t.rp.key x.toNat = none) : t.svcKeyCheck x = t.fails 6 := by
  rw [State.svcKeyCheck, if_neg (by omega), hk]
  rfl

theorem svcKeyCheck_some {k : List Byte} (hw : x.toNat < 1028) (hk : t.rp.key x.toNat = some k) :
    t.svcKeyCheck x = t.serves (checkValue x.toNat k) 0#32 0#32 := by
  rw [State.svcKeyCheck, if_neg (by omega), hk]

theorem svcWdogSet_ok (h1 : 1 ≤ x.toNat) (h2 : x.toNat ≤ 6553) (h3 : t.rp.wdog = 0 ∨ x.toNat ≤ t.rp.wdog) :
    t.svcWdogSet x = ⟨t.onRp fun r => { r with wdog := x.toNat, wdogLeft := x.toNat * 221184 },
      ⟨0#32, 0#32, 0#32, 0#32⟩⟩ := by
  rw [State.svcWdogSet, if_neg (by omega), if_neg (by omega)]
  rfl

theorem svcWdogSet_bad (hw : x = 0#32 ∨ 6553 < x.toNat) : t.svcWdogSet x = t.fails 2 :=
  if_pos (hw.imp_left fun h => h ▸ rfl)

theorem svcWdogSet_longer (h1 : x.toNat ≤ 6553) (h2 : t.rp.wdog ≠ 0) (h3 : t.rp.wdog < x.toNat) :
    t.svcWdogSet x = t.fails 3 := by
  rw [State.svcWdogSet, if_neg (by omega), if_pos ⟨h2, h3⟩]
  rfl

theorem service_unknown {n : Nat} (hn : 16 ≤ n) : t.service c n = t.fails 1 := by
  obtain ⟨m, rfl⟩ := Nat.exists_eq_add_of_le hn
  rw [Nat.add_comm]
  rfl

end OwnState

/-! ## The services of the image (R166-R173) -/

section Images

variable {s t : State} {c : CoreId} {n : Nat} {x : Word}

theorem aside_writeWhole (u : State) (a : Nat) (bs : List Byte) : (u.writeWhole a bs).aside c = (u.aside c).writeWhole a bs := by
  unfold State.writeWhole
  dsimp only
  split
  · split <;> rfl
  · rfl

theorem onRp_writeWhole (u : State) (a : Nat) (bs : List Byte) (f : Ridgepole → Ridgepole) :
    (u.onRp f).writeWhole a bs = (u.writeWhole a bs).onRp f := by
  unfold State.writeWhole
  dsimp only
  split
  · split <;> rfl
  · rfl

theorem aside_writeGs (u : State) (g : Groundsheet) : (u.writeGs g).aside c = (u.aside c).writeGs g := by
  unfold State.writeGs
  dsimp only
  rw [show ∀ (v : State) f, (v.onRp f).aside c = (v.aside c).onRp f from fun _ _ => rfl, aside_writeWhole]
  rfl

theorem onRp_asks_writeGs (u : State) (g : Groundsheet) :
    (u.onRp (Ridgepole.asks c n)).writeGs g = (u.writeGs g).onRp (Ridgepole.asks c n) := by
  unfold State.writeGs
  dsimp only
  rw [onRp_writeWhole]
  rfl

/-- A Groundsheet write for a TRAP is one for Ridgepole (R167). -/
theorem Taken.writeGs (h : Taken s c n t) (g : Groundsheet) :
    (t.writeGs g).aside c = ((s.writeGs g).onRp (Ridgepole.asks c n)).aside c := by
  rw [aside_writeGs, h.aside, ← aside_writeGs, onRp_asks_writeGs]

theorem Taken.useFree (h : Taken s c n t) (k : Nat) : Taken s c n (t.useFree k) := ⟨h.aside, h.core⟩

theorem writeGs_cores (u : State) (g : Groundsheet) : (u.writeGs g).cores = u.cores :=
  (u.writeWhole_burned _ _).same State.cores fun _ _ => rfl

theorem writeGs_canvasUp (u : State) (g : Groundsheet) : (u.writeGs g).canvasUp = u.canvasUp :=
  (u.writeWhole_burned _ _).same State.canvasUp fun _ _ => rfl

/-- A service that writes the Groundsheet. -/
theorem trap_writes {i : Instr} {r : TrapAnswer} {g : Groundsheet} (h : s.ready c 1) (hm : s.mayAsk)
    (hi : exec i s = .next (finish s (s.trapOp c n))) (hn : n ≠ 15)
    (hs : ∀ t, Taken s c n t → t.service c n = ⟨t.writeGs g, r⟩ ∨ t.service c n = ⟨(t.useFree 1).writeGs g, r⟩) :
    servedStep s i c n (s.writeGs g) r :=
  trap_serves h hm hi hn (writeGs_canvasUp ..) fun t ht => by
    rcases hs t ht with hk | hk
    · exact ⟨_, hk, writeGs_cores .., ht.writeGs g⟩
    · exact ⟨_, hk, writeGs_cores .., (ht.useFree 1).writeGs g⟩

/-- A service that reads an image and changes nothing. -/
theorem trap_reads {i : Instr} {r : TrapAnswer} (h : s.ready c 1) (hm : s.mayAsk)
    (hi : exec i s = .next (finish s (s.trapOp c n))) (hn : n ≠ 15)
    (hs : ∀ t, Taken s c n t → t.service c n = ⟨t.useFree 1, r⟩) : servedStep s i c n s r :=
  trap_serves h hm hi hn rfl fun t ht => ⟨_, hs t ht, rfl, (ht.useFree 1).aside⟩

/-- Ridgepole verifies an image in memory without errors (R168). -/
theorem Taken.verify (h : Taken s c n t) (he : s.mem.ecc = []) (p : Bool) :
    t.verify p = (t.useFree 1, imageOk s.mem p s.rp.ctr) := by
  have bad : ∀ a k, (t.useFree 1).badWords a k = [] := fun a k => by
    have e : (t.useFree 1).mem.ecc = [] := (congrArg Memory.ecc h.mem).trans he
    rw [State.badWords, e]
    rfl
  rw [State.verify, h.mem, h.rp]
  simp only [State.ridgeRead, State.readRange, bad, State.readWords, State.reactUnc]
  rfl

theorem Taken.gsRoom (h : Taken s c n t) : t.gsRoom = s.gsRoom := by
  unfold State.gsRoom
  rw [h.rp]
  rfl

theorem gsRoom_iff : s.gsRoom = true ↔ s.rp.gs.gen.toNat < 0xFFFFFFFE := decide_eq_true_iff

theorem Taken.gs (h : Taken s c n t) : t.rp.gs = s.rp.gs := by
  rw [h.rp]
  rfl

theorem Taken.trial (h : Taken s c n t) : t.rp.gs.trial = bit s.rp.gs.boot 1 := by
  rw [h.gs]
  rfl

/-- IMG_CONFIRM ends a trial (R173). -/
theorem Taken.svcConfirm (h : Taken s c n t) : t.svcConfirm =
    if bit s.rp.gs.boot 1 = false then t.serves 0#32 0#32 0#32
    else if s.gsRoom = false then t.fails 6
    else (t.writeGs { s.rp.gs with boot := setBit s.rp.gs.boot 1 false }).serves 0#32 0#32 0#32 := by
  unfold State.svcConfirm
  simp only [h.gsRoom, h.gs, Bool.not_eq_true']
  rfl

/-- IMG_SWITCH to an image that runs or to none (R173). -/
theorem Taken.imgSwitch_bad (h : Taken s c n t) {k : Nat} (hb : 1 < k ∨ s.rp.running = some (decide (k = 1))) :
    t.imgSwitch k = (t, 2) := by
  have e : t.rp.running = s.rp.running := by
    rw [h.rp]
    rfl
  exact if_pos (by rw [e]; exact hb)

/-- IMG_SWITCH to the other image verifies it and starts its trial (R173). -/
theorem Taken.imgSwitch (h : Taken s c n t) {k : Nat} (hk : k ≤ 1) (hr : s.rp.running ≠ some (decide (k = 1)))
    (he : s.mem.ecc = []) : t.imgSwitch k =
      if imageOk s.mem (decide (k = 1)) s.rp.ctr = false then (t.useFree 1, errInvalid)
      else if s.gsRoom = false then (t.useFree 1, errNores)
      else ((t.useFree 1).writeGs { s.rp.gs with
        boot := setBits (setBit (setBit s.rp.gs.boot 0 (decide (k = 1))) 1 true) 2 2 3 }, 0) := by
  have e : t.rp.running = s.rp.running := by
    rw [h.rp]
    rfl
  unfold State.imgSwitch
  dsimp only
  rw [if_neg (by rw [e]; exact not_or.2 ⟨by omega, hr⟩), h.verify he]
  simp only [(h.useFree 1).gsRoom, h.gs, State.useFree_rp, ne_eq, not_true, decide_false, Bool.or_false,
    Bool.not_eq_true']

/-- ROLLBACK_COMMIT (R170, R173). -/
theorem Taken.svcRollback (h : Taken s c n t) : t.svcRollback =
    if bit s.rp.gs.boot 1 = true then t.fails 3
    else if s.rp.rollback ≤ s.rp.ctr then t.serves (BitVec.ofNat 32 s.rp.ctr) 0#32 0#32
    else if s.pwr.main = true ∧ s.pwr.fuseSupply = true then
      (t.onRp fun r => { r with fusing := true }).serves (BitVec.ofNat 32 s.rp.rollback) 0#32 0#32
    else ⟨t, ⟨status 7, BitVec.ofNat 32 s.rp.ctr, 0#32, 0#32⟩⟩ := by
  unfold State.svcRollback
  dsimp only
  rw [h.trial, h.rp, h.pwr]
  simp only [Bool.and_eq_true]
  rfl

end Images

/-- Settles O16: each service by what it answers in the state in which Ridgepole takes the TRAP (assumption 23), and the
Groundsheet writes by what they make of the memory that a TRAP leaves (assumption 48). -/
theorem servicesOfRidgepole : Obligations.ServicesOfRidgepole := by
  refine ⟨?_, ?_⟩
  · intro s c n w1 r ok err h hm
    have stay : ∀ t : State, t.service c 9 = t.svcStay c t.cores[c].w[1] := fun _ => rfl
    have check : ∀ t : State, t.service c 11 = t.svcKeyCheck t.cores[c].w[1] := fun _ => rfl
    have wdog : ∀ t : State, t.service c 13 = t.svcWdogSet t.cores[c].w[1] := fun _ => rfl
    have period : ∀ t, Taken s c 13 t → t.rp.wdog = r.wdog := fun t ht => by rw [ht.rp]; rfl
    refine ⟨?_, fun hw => ?_, fun hw => ?_, fun hw => ?_, fun hw hk => ?_, fun k hw hk => ?_, fun h1 h2 h3 => ?_,
      fun hw => ?_, fun h1 h2 h3 => ?_, ?_, fun hn => ?_⟩
    · exact trap_answers h hm (i := .info c) rfl (by decide) fun t ht => ht.info
    · exact trap_updates h hm (i := .stay c) rfl (by decide) (fun _ => rfl) (fun _ => rfl) fun t ht => by
        rw [stay, ht.w1]
        exact svcStay_ok hw
    · exact trap_answers h hm (i := .stay c) rfl (by decide) fun t ht => by
        rw [stay, ht.w1]
        exact svcStay_bad hw
    · exact trap_answers h hm (i := .keyCheck c) rfl (by decide) fun t ht => by
        rw [check, ht.w1]
        exact svcKeyCheck_bad hw
    · exact trap_answers h hm (i := .keyCheck c) rfl (by decide) fun t ht => by
        rw [check, ht.w1]
        exact svcKeyCheck_none hw ((ht.key _).trans hk)
    · exact trap_answers h hm (i := .keyCheck c) rfl (by decide) fun t ht => by
        rw [check, ht.w1]
        exact svcKeyCheck_some hw ((ht.key _).trans hk)
    · exact trap_updates h hm (i := .wdogSet c) rfl (by decide) (fun _ => rfl) (fun _ => rfl) fun t ht => by
        rw [wdog, ht.w1]
        exact svcWdogSet_ok h1 h2 (by rw [period t ht]; exact h3)
    · exact trap_answers h hm (i := .wdogSet c) rfl (by decide) fun t ht => by
        rw [wdog, ht.w1]
        exact svcWdogSet_bad hw
    · exact trap_answers h hm (i := .wdogSet c) rfl (by decide) fun t ht => by
        rw [wdog, ht.w1]
        exact svcWdogSet_longer h1 (by rw [period t ht]; exact h2) (by rw [period t ht]; exact h3)
    · exact trap_updates h hm (i := .wdogKick c) rfl (by decide) (fun _ => rfl) (fun _ => rfl) fun t ht => rfl
    · refine trap_answers h hm (i := .unknownService c n) ?_ (by omega) fun t ht => service_unknown hn
      show Host.Outcome.next (finish s (if n.toNat < 16 then s else _)) = _
      rw [if_neg (by omega)]
  · intro s c w1 p r g trial room ok err h hm
    have one : p = decide (w1.toNat = 1) := by
      unfold p
      congr 1
      bv_omega
    have full : s.gsRoom = false ↔ ¬room := by rw [← Bool.not_eq_true, gsRoom_iff]
    have switch : ∀ t : State, t.service c 2 = ⟨(t.imgSwitch t.cores[c].w[1].toNat).1,
        ⟨status (t.imgSwitch t.cores[c].w[1].toNat).2, 0#32, 0#32, 0#32⟩⟩ := fun _ => rfl
    refine ⟨fun ht => ?_, fun ht hr => ?_, fun ht hr => ?_, fun hb => ?_, fun h1 hrun hecc => ?_, fun ht => ?_,
      fun ht hctr => ?_, fun ht hctr hmain hfuse => ?_, fun ht hctr hsup => ?_⟩
    · exact trap_answers h hm (i := .imgConfirm c) rfl (by decide) fun t h' =>
        h'.svcConfirm.trans (if_pos (Bool.eq_false_of_not_eq_true ht))
    · exact trap_writes h hm (i := .imgConfirm c) rfl (by decide) fun t h' => .inl
        (h'.svcConfirm.trans ((if_neg (by rw [ht]; decide)).trans (if_neg (by rw [full]; exact not_not.2 hr))))
    · exact trap_answers h hm (i := .imgConfirm c) rfl (by decide) fun t h' =>
        h'.svcConfirm.trans ((if_neg (by rw [ht]; decide)).trans (if_pos (full.2 hr)))
    · exact trap_answers h hm (i := .imgSwitch c) rfl (by decide) fun t h' => by
        rw [switch, h'.w1, h'.imgSwitch_bad (one ▸ hb)]
        rfl
    · rw [one] at hrun
      split
      · next hbad =>
        exact trap_reads h hm (i := .imgSwitch c) rfl (by decide) fun t h' => by
          rw [switch, h'.w1, h'.imgSwitch h1 hrun hecc, if_pos (one ▸ hbad)]
          rfl
      · next hok =>
        split
        · next hr =>
          exact trap_reads h hm (i := .imgSwitch c) rfl (by decide) fun t h' => by
            rw [switch, h'.w1, h'.imgSwitch h1 hrun hecc, if_neg (one ▸ hok), if_pos (full.2 hr)]
            rfl
        · next hr =>
          exact trap_writes h hm (i := .imgSwitch c) rfl (by decide) fun t h' => .inr (by
            rw [switch, h'.w1, h'.imgSwitch h1 hrun hecc, if_neg (one ▸ hok), if_neg fun hf => hr (full.1 hf), one]
            dsimp only
            rw [show status 0 = 0#32 by decide])
    · exact trap_answers h hm (i := .rollbackCommit c) rfl (by decide) fun t h' => h'.svcRollback.trans (if_pos ht)
    · exact trap_answers h hm (i := .rollbackCommit c) rfl (by decide) fun t h' =>
        h'.svcRollback.trans ((if_neg ht).trans (if_pos hctr))
    · exact trap_updates h hm (i := .rollbackCommit c) rfl (by decide) (fun _ => rfl) (fun _ => rfl) fun t h' =>
        h'.svcRollback.trans ((if_neg ht).trans ((if_neg hctr.not_ge).trans (if_pos ⟨hmain, hfuse⟩)))
    · exact trap_answers h hm (i := .rollbackCommit c) rfl (by decide) fun t h' =>
        h'.svcRollback.trans ((if_neg ht).trans ((if_neg hctr.not_ge).trans (if_neg hsup)))

end Sys2Proof.Machine

/-! # DVFS, RESET and answers -/

namespace Sys2Proof.Machine

open Sys2Proof

/-! ## Requests of an operating point (R177, R286) -/

/-- `t` is `s` but for the power and clock blocks, which keep Canvas as it runs, and show the voltage `v` and the divider
`d` as requested. -/
structure Requested (s t : State) (v : Nat) (d : Word) : Prop where
  eq : t = { s with pwr := t.pwr, clk := t.clk }
  running : t.running = s.running
  vpt : t.pwr.vpt = v
  div : t.clk.div = d

namespace Requested

variable {s t u : State} {v w : Nat} {d e : Word}

theorem refl (s : State) : Requested s s s.pwr.vpt s.clk.div := ⟨rfl, rfl, rfl, rfl⟩

theorem trans (h : Requested s t v d) (k : Requested t u w e) : Requested s u w e :=
  ⟨k.eq.trans (by rw [h.eq]), k.running.trans h.running, k.vpt, k.div⟩

end Requested

theorem vpt_setBit (w : Word) {i : Nat} (hi : 2 ≤ i) (b : Bool) : bits (setBit w i b) 0 2 = bits w 0 2 :=
  bits_congr fun j hj => by rw [bit_setBit, if_neg (by omega)]

section Points

variable (s : State)

theorem startRamp_requested : Requested s s.startRamp s.pwr.vpt s.clk.div := by
  unfold State.startRamp
  split
  · exact .refl s
  · split
    · exact ⟨rfl, rfl, vpt_setBit _ (by omega) _, rfl⟩
    · exact ⟨rfl, rfl, rfl, rfl⟩

theorem holdDiv_requested : Requested s s.holdDiv s.pwr.vpt s.clk.div := by
  unfold State.holdDiv
  split
  · exact ⟨rfl, rfl, rfl, rfl⟩
  · exact .refl s

/-- What a request leaves pending changes neither request (R286). -/
theorem judgeOpp_requested : Requested s s.judgeOpp s.pwr.vpt s.clk.div := by
  have ramp := startRamp_requested s
  have hold := ramp.trans (holdDiv_requested s.startRamp)
  rw [ramp.vpt, ramp.div] at hold
  unfold State.judgeOpp
  dsimp only
  split
  · exact hold.trans ⟨rfl, rfl, hold.vpt, hold.div⟩
  · exact hold

theorem setVpt_requested (v : Word) : Requested s (s.setVpt v) (min 2 (bits v 0 2)) s.clk.div := by
  let t := s.onPwr fun p => { p with opp := setBits p.opp 0 2 (min 2 (bits v 0 2)) }
  have vpt : t.pwr.vpt = min 2 (bits v 0 2) := by
    show bits (setBits _ 0 2 _) 0 2 = _
    rw [bits_setBits_same _ _ (by omega)]
    omega
  have judged := judgeOpp_requested t
  rw [vpt] at judged
  exact (⟨rfl, rfl, vpt, rfl⟩ : Requested s t _ s.clk.div).trans judged

theorem setDiv_requested {v : Word} (h : divPoint (bits v 0 2) ≤ s.pwr.vpt) :
    Requested s (s.setDiv v) s.pwr.vpt (field 0 (bits v 0 2)) := by
  rw [State.setDiv, if_neg (by omega)]
  let t := s.onClk fun k => { k with div := field 0 (bits v 0 2), alone := true }
  exact (⟨rfl, rfl, rfl, rfl⟩ : Requested s t s.pwr.vpt (field 0 (bits v 0 2))).trans (judgeOpp_requested t)

/-- DVFS requests the voltage and the top divider of a point (R177). -/
theorem requestPoint_requested {p : Nat} (hp : p < 3) :
    Requested s (s.requestPoint p) p (BitVec.ofNat 32 (2 - p)) := by
  have point : ∀ p < 3, min 2 (bits (BitVec.ofNat 32 p) 0 2) = p ∧ divPoint (bits (BitVec.ofNat 32 (topDiv p)) 0 2) = p ∧
      field 0 (bits (BitVec.ofNat 32 (topDiv p)) 0 2) = BitVec.ofNat 32 (2 - p) := by decide
  obtain ⟨hv, hd, hf⟩ := point p hp
  have off : ∀ {t : State}, Requested s t p (BitVec.ofNat 32 (2 - p)) →
      Requested s (t.onClk fun k => { k with alone := false }) p (BitVec.ofNat 32 (2 - p)) := fun {t} h =>
    h.trans ⟨rfl, rfl, h.vpt, h.div⟩
  unfold State.requestPoint
  dsimp only
  split
  · have up := setVpt_requested s (BitVec.ofNat 32 p)
    rw [hv] at up
    have down := setDiv_requested (s.setVpt (BitVec.ofNat 32 p)) (v := BitVec.ofNat 32 (topDiv p)) (by rw [hd, up.vpt])
    rw [hf, up.vpt] at down
    exact off (up.trans down)
  · next hlow =>
    have down := setDiv_requested s (v := BitVec.ofNat 32 (topDiv p)) (by rw [hd]; omega)
    rw [hf] at down
    have up := setVpt_requested (s.setDiv (BitVec.ofNat 32 (topDiv p))) (BitVec.ofNat 32 p)
    rw [hv, down.div] at up
    exact off (down.trans up)

end Points

/-! ## RESET (R173) -/

/-- RESET begins a Strike (R10, R173). -/
theorem commandReset_begins {s : State} (h : s.running = true) (cause : Word) :
    let t := s.commandReset cause
    t.cores = s.cores ∧ (s.wdn.mig = none → t.mem = s.mem) ∧ t.wdn.mig = none ∧ t.wdn.queue = [] ∧
      t.pwr.strike = some ⟨.commanded, cause, 0#32, false⟩ := by
  have hs : s.pwr.strike = none := by
    simp only [State.running, Bool.and_eq_true, Option.isNone_iff_eq_none] at h
    exact h.2
  obtain ⟨w, l, m, r, e, hw⟩ := abandon_same s
  have mem : s.wdn.mig = none → m = s.mem := fun h => by
    rw [abandon_of_none h] at e
    exact (congrArg State.mem e).symm
  rw [State.commandReset, hs]
  dsimp only
  unfold State.strikeBegin
  rw [e]
  exact ⟨rfl, mem, hw, rfl, rfl⟩

/-! ## The delivery of an answer (R37) -/

section Answers

variable {s : State} {c : CoreId} {n : Nat} {r r' : TrapAnswer} {f : Ridgepole → Ridgepole}

theorem takeNext_of_none (h : ∀ e : CoreId, s.cores[e].asked = none) : s.takeNext = s := by
  have hn : s.nextAsking = none := by
    rw [State.nextAsking, List.findSome?_eq_none_iff]
    exact fun e _ => by rw [h e]; rfl
  rw [State.takeNext, hn]
  split <;> rfl

/-- Ridgepole ends the service that it gives and answers. -/
theorem trapReturn_answers (hup : s.canvasUp = true) (hp : s.cores[c].phase = .trap) (ht : s.cores[c].trap = some r)
    (hs : s.rp.serving = some (c, n)) (ha : ∀ e : CoreId, s.cores[e].asked = none) (hm : s.mayAnswer n r = true)
    (he : s.endService n r = ⟨s.onRp f, r'⟩) (hf : (f s.rp).serving = s.rp.serving) :
    s.becomes (.trapReturn c) (((s.onRp f).onCore c fun k =>
      { k with
        w := (((k.w.set 0 r'.w0).set 1 r'.w1).set 2 r'.w2).set 3 r'.w3
        phase := .run
        trap := none }).onRp fun k => { k with serving := none }) := by
  let u := (s.onRp f).onCore c fun k => k.answer r'
  have drop : u.dropService c = u.onRp fun k => { k with serving := none } := by
    have e : u.rp.serving = some (c, n) := hf.trans hs
    have any : (u.rp.serving.any fun x => decide (x.1 = c)) = true := by
      rw [e]
      exact decide_eq_true rfl
    unfold State.dropService State.onRp
    simp only [any, if_true]
  have next : (u.dropService c).takeNext = u.dropService c := by
    refine takeNext_of_none fun e => ?_
    show (u.cores[e]).asked = none
    by_cases h : e = c
    · rw [h, onCore_same]
      exact ha c
    · rw [onCore_other _ h]
      exact ha e
  refine becomes_of_eq (v := s.trapAnswer c) rfl ?_
  rw [State.trapAnswer, if_pos hup]
  simp only [takeNext_of_none ha, hs, ht, hp, hm, he, and_self, if_true]
  exact next.trans drop

end Answers

/-- Settles O18: DVFS by the requests that it makes, RESET by the beginning of its Strike (the answer of a TRAP made when it
is taken: assumption 23), and the delivery by the end of each service (assumption 56). -/
theorem resetServicesAndAnswers : Obligations.ResetServicesAndAnswers := by
  refine ⟨?_, ?_⟩
  · intro s c p stalls h hm
    have up : s.canvasUp = true := by
      have h0 := h.1
      simp only [State.issues, Bool.and_eq_true] at h0
      exact h0.1.1.1
    have dvfs : ∀ t : State, t.service c 8 = t.svcDvfs t.cores[c].w[1] := fun _ => rfl
    have pmax : ∀ t, Taken s c 8 t → t.rp.gs.pmax = bits s.rp.gs.misc 8 2 := fun t ht => by rw [ht.gs]; rfl
    refine ⟨fun hp => ?_, fun hp hx => ?_, fun hp hx => ?_, ?_⟩
    · exact trap_answers h hm (i := .dvfs c) rfl (by decide) fun t ht => by
        rw [dvfs, ht.w1]
        exact if_pos hp
    · exact trap_answers h hm (i := .dvfs c) rfl (by decide) fun t ht => by
        rw [dvfs, ht.w1, State.svcDvfs, if_neg hp.not_ge, pmax t ht]
        exact if_pos hx
    · obtain ⟨t, ht, hop⟩ := trapOp_taken (n := 8) h hm
      have asked := requestPoint_requested t hp
      have hserve : t.service c 8 = ⟨t.requestPoint p, ⟨0#32, BitVec.ofNat 32 p, 0#32, 0#32⟩⟩ := by
        rw [dvfs, ht.w1, State.svcDvfs, if_neg hp.not_ge, pmax t ht, if_neg hx.not_gt,
          show BitVec.ofNat 32 p = s.cores[c].w[(1 : Reg)] by simp [p]]
        rfl
      have cores : (t.requestPoint p).cores = t.cores := by rw [asked.eq]
      have mem : (t.requestPoint p).mem = s.mem := by
        rw [asked.eq]
        exact ht.mem
      have runs : (t.requestPoint p).canvasUp = true := by
        rw [State.canvasUp, asked.running, show (t.requestPoint p).rp = t.rp by rw [asked.eq]]
        exact ht.canvasUp.trans up
      simp only [hserve, runs, ne_eq, Nat.reduceEqDiff, not_false_eq_true, decide_true, Bool.and_self, if_true] at hop
      refine ⟨finish s _, rfl, ⟨?_, fun e he => ?_⟩, ?_, ?_, ?_⟩
      · rw [finish_cores, hop, onCore_same, cores]
        have e := congrArg (fun k : Core => { k with trap := some ⟨0#32, BitVec.ofNat 32 p, 0#32, 0#32⟩ }) ht.core
        exact e
      · rw [finish_cores, hop, onCore_other _ he, cores]
        exact aside_other ht.aside he
      · rw [finish_mem, hop]
        exact mem
      · rw [finish_pwr, hop]
        exact asked.vpt
      · rw [finish_clk, hop]
        exact asked.div
    · obtain ⟨t, ht, hop⟩ := trapOp_taken (n := 15) h hm
      have runs : t.running = true := by
        have e := ht.canvasUp.trans up
        rw [State.canvasUp, Bool.and_eq_true] at e
        exact e.1
      have mig : t.wdn.mig = s.wdn.mig := by
        have e := congrArg (fun u : State => u.wdn.mig) ht.aside
        exact e
      obtain ⟨cores, mem, hmig, hqueue, hstrike⟩ := commandReset_begins runs 0x40#32
      have hserve : (t.service c 15).s = t.commandReset 0x40#32 := rfl
      simp only [hserve, ne_eq, not_true, decide_false, Bool.and_false, Bool.false_eq_true, if_false] at hop
      refine ⟨finish s _, rfl, ⟨?_, fun e he => ?_⟩, fun hn => ?_, ?_, ?_, ?_⟩
      · rw [finish_cores, hop, cores]
        exact ht.core
      · rw [finish_cores, hop, cores]
        exact aside_other ht.aside he
      · rw [finish_mem, hop, mem (mig.trans hn)]
        exact ht.mem
      · rw [finish_wdn_mig, hop, hmig]
      · rw [finish_wdn_queue, hop, hqueue]
      · rw [finish_pwr, hop, hstrike]
  · intro s c n r answers hup hp ht hs ha
    refine ⟨fun h3 h8 h10 => ?_, fun hn hf => ?_, fun hn hf hw hc => ?_, fun hn hw hb => ?_, fun hn => ?_⟩
    · exact trapReturn_answers (f := id) hup hp ht hs ha (by simp [State.mayAnswer, h8]) (by
        rw [State.endService, if_neg h3, if_neg fun h => h8 h.1, if_neg h10]
        rfl) rfl
    · subst hn
      exact trapReturn_answers (f := fun k => { k with ctr := max k.ctr k.rollback, fusing := false }) hup hp ht hs ha rfl (by
        rw [State.endService, if_pos rfl, State.endRollback, if_pos hf]) rfl
    · subst hn
      exact trapReturn_answers (f := id) hup hp ht hs ha rfl (by
        rw [State.endService, if_pos rfl, State.endRollback, if_neg (by rw [hf]; decide), if_pos ⟨hw, hc⟩]
        rfl) rfl
    · subst hn
      exact trapReturn_answers (f := id) hup hp ht hs ha (by simp [State.mayAnswer, hb]) (by
        rw [State.endService, if_neg (by decide), if_pos ⟨rfl, hw⟩]
        rfl) rfl
    · subst hn
      exact trapReturn_answers (f := fun k => { k with keyWrite := none }) hup hp ht hs ha rfl (by
        rw [State.endService, if_neg (by decide), if_neg fun h => absurd h.1 (by decide), if_pos rfl]) rfl

end Sys2Proof.Machine

/-! # Channels and dispatch -/

namespace Sys2Proof.Machine

open Sys2Proof

/-! ## The firing of a channel (R195-R198) -/

/-- What the firing of a channel and its consumers leave: the cores, memory, the set-up of the channels and of the
interrupt controllers, what has fired and what is pending. -/
structure Delivers (s t : State) : Prop where
  cores : t.cores = s.cores
  mem : t.mem = s.mem
  ch : t.per.evt.ch = s.per.evt.ch
  fired : ∀ k, bit s.per.evt.fired k = true → bit t.per.evt.fired k = true
  setup : t.irq.map IrqBank.setup = s.irq.map IrqBank.setup
  pend : ∀ b i, bit (vget s.irq b IrqBank.reset).pend i = true → bit (vget t.irq b IrqBank.reset).pend i = true

namespace Delivers

variable {s t u : State}

theorem of_same (hc : t.cores = s.cores) (hm : t.mem = s.mem) (he : t.per.evt.ch = s.per.evt.ch)
    (hf : t.per.evt.fired = s.per.evt.fired) (hi : t.irq = s.irq) : Delivers s t :=
  ⟨hc, hm, he, fun _ h => by rw [hf]; exact h, by rw [hi], fun _ _ h => by rw [hi]; exact h⟩

theorem refl (s : State) : Delivers s s := of_same rfl rfl rfl rfl rfl

theorem trans (h : Delivers s t) (k : Delivers t u) : Delivers s u :=
  ⟨k.cores.trans h.cores, k.mem.trans h.mem, k.ch.trans h.ch, fun i hi => k.fired i (h.fired i hi), k.setup.trans h.setup,
    fun b i hi => k.pend b i (h.pend b i hi)⟩

theorem foldl {α : Type} {f : State → α → State} (h : ∀ s a, Delivers s (f s a)) (l : List α) (s : State) :
    Delivers s (l.foldl f s) := by
  induction l generalizing s with
  | nil => exact refl s
  | cons a l ih => exact (h s a).trans (ih _)

theorem fireSource (s : State) (b src : Nat) : Delivers s (s.fireSource b src) :=
  ⟨State.fireSource_cores .., State.fireSource_mem .., by rw [State.fireSource_per_evt], fun _ h => by
    rw [State.fireSource_per_evt]; exact h, (State.fireSource_setup s b src).irq, (State.fireSource_setup s b src).pend⟩

theorem countSys (s : State) (a n : Nat) : Delivers s (s.countSys a n) :=
  of_same (State.countSys_cores ..) (State.countSys_mem ..) (by rw [State.countSys_per_evt])
    (by rw [State.countSys_per_evt]) (State.countSys_irq ..)

theorem makeReady (s : State) (i : Nat) (r : Readiness) (o : ReadyOrder) : Delivers s (s.makeReady i r o) := by
  unfold State.makeReady
  split
  · exact of_same rfl rfl rfl rfl rfl
  · split <;> exact of_same rfl rfl rfl rfl rfl

theorem ite {p : Prop} [Decidable p] (h : Delivers s t) (k : Delivers s u) : Delivers s (if p then t else u) := by
  split
  · exact h
  · exact k

theorem timCapture (s : State) (n k : Nat) : Delivers s (s.timCapture n k) := by
  unfold State.timCapture State.timRelease
  dsimp only
  have capture : ∀ f : Tim → Tim, Delivers s ((s.onTim n f).fire (96 + 4 * n + k)) := fun f => of_same rfl rfl rfl rfl rfl
  exact (capture _).trans (ite (makeReady ..) (refl _))

theorem pinAction (s : State) (n : Nat) : Delivers s (s.pinAction n) := by
  unfold State.pinAction
  dsimp only
  split
  · exact refl s
  · split <;> exact of_same rfl rfl rfl rfl rfl

theorem consume (s : State) (n prod : Nat) (t : Word) (k : Nat) : Delivers s (s.consume n prod t k) :=
  ite (ite (timCapture ..) (refl s)) <| ite (of_same rfl rfl rfl rfl rfl) <| ite (of_same rfl rfl rfl rfl rfl) <| ite (makeReady ..) <|
    ite (pinAction ..) <| ite (of_same rfl rfl rfl rfl rfl) <| ite (of_same rfl rfl rfl rfl rfl) <| ite (of_same rfl rfl rfl rfl rfl) <|
      ite (of_same rfl rfl rfl rfl rfl) <| ite (of_same rfl rfl rfl rfl rfl) <| ite (of_same rfl rfl rfl rfl rfl) (of_same rfl rfl rfl rfl rfl)

theorem offerConsumer (n prod : Nat) (t : Word) (s : State) (k : Nat) : Delivers s (s.offerConsumer n prod t k) := by
  have busy : Delivers s (s.onEvt fun e => { e with covr := setBit e.covr k true }) := of_same rfl rfl rfl rfl rfl
  exact ite (refl s) (ite (busy.trans (countSys ..)) (consume ..))

/-- The enables and the active bits of a controller stay. -/
theorem bank (h : Delivers s t) (b : Nat) : (vget t.irq b IrqBank.reset).en = (vget s.irq b IrqBank.reset).en ∧
    (vget t.irq b IrqBank.reset).act = (vget s.irq b IrqBank.reset).act := by
  have e := congrArg (fun v => vget v b IrqBank.reset.setup) h.setup
  simp only [vget_map] at e
  have e1 := congrArg IrqBank.en e
  have e2 := congrArg IrqBank.act e
  exact ⟨e1, e2⟩

end Delivers

/-- An enabled source that is not active is pending once it fires (R184). -/
theorem fireSource_pend (s : State) {b src : Nat} (hb : b < 5) (hs : src < 128) (h56 : src ≠ 56)
    (he : bit (vget s.irq b IrqBank.reset).en src = true) (ha : bit (vget s.irq b IrqBank.reset).act src = false) :
    bit (vget (s.fireSource b src).irq b IrqBank.reset).pend src = true := by
  cases hp : bit (vget s.irq b IrqBank.reset).pend src with
  | true => exact (Delivers.fireSource s b src).pend b src hp
  | false =>
    have irq : (s.fireSource b src).irq = vmod s.irq b fun k => k.fire src := by
      unfold State.fireSource
      dsimp only
      split
      · exact State.countSys_irq ..
      · rfl
    rw [irq, vget_vmod, if_pos ⟨rfl, hb⟩, IrqBank.fire, if_neg h56, if_pos he, hp, ha]
    simp [bit_setBit, hs]

/-- What channel `n` does before its consumers take the event: its fired flag and the count. -/
def State.markFired (s : State) (n : Nat) : State := (s.onEvt fun e => { e with fired := setBit e.fired n true }).countSys 19 1

/-- The source of a channel whose owner is `o`. -/
def State.fireOwner (s : State) (o n : Nat) : State :=
  if o < 4 then s.fireSource o (64 + n) else if o = 4 ∧ 62 ≤ n then s.fireSource 4 n else s

theorem fireChannel_rest (s : State) (prod n : Nat) :
    Delivers ((s.markFired n).fireOwner (s.per.evt.owner n) n) (State.fireChannel prod s n) := by
  refine .trans (t := if ((s.markFired n).fireOwner (s.per.evt.owner n) n).waymark && decide (s.per.evt.owner n < 4) &&
      !s.per.evt.trusted n then ((s.markFired n).fireOwner (s.per.evt.owner n) n).onItg fun g =>
        { g with coll := g.coll ++ [⟨s.per.evt.time, prod, n⟩] } else (s.markFired n).fireOwner (s.per.evt.owner n) n) ?_ ?_
  · exact .ite (.of_same rfl rfl rfl rfl rfl) (.refl _)
  · exact Delivers.foldl (f := State.offerConsumer n prod s.per.evt.time) (fun s k => .offerConsumer n prod _ s k) _ _

theorem markFired_delivers (s : State) (n : Nat) : Delivers s (s.markFired n) := by
  refine .trans (t := s.onEvt fun e => { e with fired := setBit e.fired n true }) ?_ (.countSys ..)
  refine ⟨rfl, rfl, rfl, fun k hk => ?_, rfl, fun _ _ h => h⟩
  show bit (setBit s.per.evt.fired n true) k = true
  rw [bit_setBit]
  split
  · rfl
  · exact hk

theorem markFired_fired (s : State) {n : Nat} (hn : n < 64) : bit (s.markFired n).per.evt.fired n = true := by
  rw [State.markFired, State.countSys_per_evt]
  show bit (setBit s.per.evt.fired n true) n = true
  rw [bit_setBit, if_pos ⟨rfl, hn⟩]

theorem fireOwner_delivers (s : State) (o n : Nat) : Delivers s (s.fireOwner o n) :=
  .ite (.fireSource ..) (.ite (.fireSource ..) (.refl s))

theorem fireChannel_delivers (s : State) (prod n : Nat) : Delivers s (State.fireChannel prod s n) :=
  ((markFired_delivers s n).trans (fireOwner_delivers ..)).trans (fireChannel_rest s prod n)

/-- A channel that fires has fired, and its source is pending on its owner's controller (R195). -/
theorem fireChannel_fires (s : State) (prod : Nat) {n : Nat} (hn : n < 64) :
    bit (State.fireChannel prod s n).per.evt.fired n = true ∧
      ∀ o < 4, s.per.evt.owner n = o → bit (vget s.irq o IrqBank.reset).en (64 + n) = true →
        bit (vget s.irq o IrqBank.reset).act (64 + n) = false →
        bit (vget (State.fireChannel prod s n).irq o IrqBank.reset).pend (64 + n) = true := by
  have rest := fireChannel_rest s prod n
  refine ⟨rest.fired n ((fireOwner_delivers ..).fired n (markFired_fired s hn)), fun o ho hown he ha => rest.pend o _ ?_⟩
  obtain ⟨en, act⟩ := (markFired_delivers s n).bank o
  rw [hown, State.fireOwner, if_pos ho]
  exact fireSource_pend _ (by omega) (by omega) (by omega) (by rw [en]; exact he) (by rw [act]; exact ha)

/-- Of several channels that fire, each has fired at the end, and its source is pending. -/
theorem fireChannels_fire (prod : Nat) {n : Nat} (l : List Nat) (hl : n ∈ l) (s : State) :
    ∃ u, Delivers s u ∧ Delivers (State.fireChannel prod u n) (l.foldl (State.fireChannel prod) s) := by
  induction l generalizing s with
  | nil => cases hl
  | cons k l ih =>
    rcases List.mem_cons.1 hl with rfl | hl
    · exact ⟨s, .refl s, Delivers.foldl (fun s n => fireChannel_delivers s prod n) l _⟩
    · obtain ⟨u, hu, hr⟩ := ih hl (State.fireChannel prod s k)
      exact ⟨u, (fireChannel_delivers s prod k).trans hu, hr⟩

/-- The event that leaves the resynchronisers for a channel that selects its producer (R195, R197). -/
theorem eventFor_producer {s : State} {n p : Nat} (hs : ∀ f ∈ s.inflight, f.ev ≠ 1000 + n) (he : s.per.evt.enabled n = true)
    (hp : s.per.evt.prod n = p) (hc : ∃ f ∈ s.inflight, f.ev = p) : ∃ f ∈ s.inflight, f.ev = p ∧ s.eventFor n = some f := by
  have none : (s.inflight.find? fun f => decide (f.ev = 1000 + n)) = none :=
    List.find?_eq_none.2 fun f hf => by simp [hs f hf]
  obtain ⟨g, hg⟩ : ∃ g, (s.inflight.find? fun f => s.per.evt.enabled n && decide (f.ev = s.per.evt.prod n)) = some g := by
    obtain ⟨f, hf, hev⟩ := hc
    exact Option.isSome_iff_exists.1 (List.find?_isSome.2 ⟨f, hf, by simp [he, hp, hev]⟩)
  refine ⟨g, List.mem_of_find?_eq_some hg, ?_, ?_⟩
  · have := List.find?_some hg
    simpa [he, hp] using this
  · rw [State.eventFor, none, hg]
    rfl

theorem eventFor_none {s : State} {n : Nat} (hs : ∀ f ∈ s.inflight, f.ev ≠ 1000 + n)
    (h : s.per.evt.enabled n = false ∨ ∀ f ∈ s.inflight, f.ev ≠ s.per.evt.prod n) : s.eventFor n = none := by
  have h1 : (s.inflight.find? fun f => decide (f.ev = 1000 + n)) = none :=
    List.find?_eq_none.2 fun f hf => by simp [hs f hf]
  have h2 : (s.inflight.find? fun f => s.per.evt.enabled n && decide (f.ev = s.per.evt.prod n)) = none :=
    List.find?_eq_none.2 fun f hf => by
      rcases h with h | h
      · simp [h]
      · simp [h f hf]
  rw [State.eventFor, h1, h2]
  rfl

/-! ## The decision of the Warden (R129) -/

theorem findSome_reverse_range {α : Type} {f : Nat → Option α} {n q : Nat} {x : α} (hq : q < n) (hx : f q = some x)
    (hn : ∀ p, q < p → p < n → f p = none) : (List.range n).reverse.findSome? f = some x := by
  induction n with
  | zero => omega
  | succ n ih =>
    rw [List.range_succ, List.reverse_append, List.reverse_singleton, List.singleton_append, List.findSome?_cons]
    by_cases h : q = n
    · rw [← h, hx]
    · rw [hn n (by omega) (by omega)]
      exact ih (by omega) fun p hp hpn => hn p hp (by omega)

/-- The task of highest priority, and of lowest number among those, is considered first (R129). -/
theorem readyTasks_head {s : State} {i : Nat} (hi : i < 64) (hw : s.waymark = false) (hr : (s.tskAt i).state = .ready)
    (hp : (s.tskAt i).prio < 8) (hb : ∀ j < 64, j ≠ i → (s.tskAt j).state = .ready →
      (s.tskAt j).prio < (s.tskAt i).prio ∨ (s.tskAt j).prio = (s.tskAt i).prio ∧ i < j) :
    ∃ l, s.readyTasks = i :: l := by
  have head : s.readyTasks.head? = some i := by
    rw [State.readyTasks, hw]
    simp only [Bool.false_eq_true, if_false, indices, List.filter_filter]
    rw [List.head?_flatMap]
    refine findSome_reverse_range hp ?_ fun p hlt hp8 => ?_
    · rw [List.head?_filter, List.find?_range_eq_some]
      refine ⟨by simp [hr], List.mem_range.2 hi, fun j hj => ?_⟩
      have := hb j (by omega) (by omega)
      by_cases hj' : (s.tskAt j).state = .ready
      · have := this hj'
        simp only [hj', decide_true, Bool.and_true, Bool.not_eq_true', decide_eq_false_iff_not]
        omega
      · simp [hj']
    · rw [List.head?_eq_none_iff, List.filter_eq_nil_iff]
      intro j hj
      rw [List.mem_range] at hj
      by_cases hj' : (s.tskAt j).state = .ready
      · by_cases hji : j = i
        · subst hji
          simp [Nat.ne_of_lt hlt]
        · have := hb j hj hji hj'
          simp only [hj', decide_true, Bool.and_true, decide_eq_true_eq]
          omega
      · simp [hj']
  exact List.head?_eq_some_iff.1 head

theorem readyTasks_none {s : State} (h : ∀ j < 64, (s.tskAt j).state ≠ .ready) : s.readyTasks = [] := by
  have none : (indices 64 fun i => decide ((s.tskAt i).state = .ready)) = [] := by
    rw [indices, List.filter_eq_nil_iff]
    exact fun j hj => by simp [h j (List.mem_range.1 hj)]
  unfold State.readyTasks
  rw [none]
  split <;> simp

/-- One step of the search for the best core (R129). -/
def State.betterCore (s : State) (t : TaskEntry) (best : Option CoreId) (c : CoreId) : Option CoreId :=
  if s.affine t c && s.freeCore c then
    match best with
    | none => some c
    | some b => if s.score t b < s.score t c then some c else best
  else best

section Best

variable {s : State} {t : TaskEntry} {c : CoreId}

/-- Before the best core the search has found none, or one of a lower score. -/
theorem betterCore_before (l : List CoreId) (best : Option CoreId) (hb : ∀ b, best = some b → s.score t b < s.score t c)
    (hl : ∀ d ∈ l, s.affine t d = true → s.freeCore d = true → s.score t d < s.score t c) :
    ∀ b, l.foldl (s.betterCore t) best = some b → s.score t b < s.score t c := by
  induction l generalizing best with
  | nil => exact hb
  | cons d l ih =>
    refine ih _ (fun b h => ?_) fun e he => hl e (List.mem_cons_of_mem _ he)
    have hd := hl d List.mem_cons_self
    unfold State.betterCore at h
    split at h
    · next hok =>
      rw [Bool.and_eq_true] at hok
      have hd := hd hok.1 hok.2
      split at h
      · exact Option.some.inj h ▸ hd
      · split at h
        · exact Option.some.inj h ▸ hd
        · exact hb b h
    · exact hb b h

/-- After it the search keeps it. -/
theorem betterCore_after (l : List CoreId)
    (hl : ∀ d ∈ l, s.affine t d = true → s.freeCore d = true → s.score t d ≤ s.score t c) :
    l.foldl (s.betterCore t) (some c) = some c := by
  induction l with
  | nil => rfl
  | cons d l ih =>
    have keep : s.betterCore t (some c) d = some c := by
      unfold State.betterCore
      split
      · next hok =>
        rw [Bool.and_eq_true] at hok
        exact if_neg (hl d List.mem_cons_self hok.1 hok.2).not_gt
      · rfl
    rw [List.foldl_cons, keep]
    exact ih fun e he => hl e (List.mem_cons_of_mem _ he)

theorem cores_split : ∀ c : CoreId, ([0, 1, 2, 3] : List CoreId) =
    ([0, 1, 2, 3] : List CoreId).filter (· < c) ++ c :: ([0, 1, 2, 3] : List CoreId).filter (c < ·) := by decide

/-- The eligible core of highest score, ties to the lower number, is the best (R129). -/
theorem bestCore_of_best (ha : s.affine t c = true) (hf : s.freeCore c = true)
    (hb : ∀ d : CoreId, d ≠ c → s.affine t d = true → s.freeCore d = true →
      s.score t d < s.score t c ∨ (s.score t d = s.score t c ∧ c < d)) : s.bestCore t = some c := by
  show ([0, 1, 2, 3] : List CoreId).foldl (s.betterCore t) none = some c
  rw [cores_split c, List.foldl_append, List.foldl_cons]
  have before := betterCore_before (s := s) (t := t) (c := c) (([0, 1, 2, 3] : List CoreId).filter (· < c)) none (by simp)
    fun d hd h1 h2 => by
      have hlt : d < c := by simpa using (List.mem_filter.1 hd).2
      rcases hb d hlt.ne h1 h2 with h | ⟨-, h⟩
      · exact h
      · exact absurd h hlt.not_gt
  have take : s.betterCore t ((([0, 1, 2, 3] : List CoreId).filter (· < c)).foldl (s.betterCore t) none) c = some c := by
    unfold State.betterCore
    rw [ha, hf, Bool.and_self, if_pos rfl]
    split
    · rfl
    · next b hbest => exact if_pos (before b hbest)
  rw [take]
  refine betterCore_after _ fun d hd h1 h2 => ?_
  have hlt : c < d := by simpa using (List.mem_filter.1 hd).2
  rcases hb d hlt.ne' h1 h2 with h | ⟨h, -⟩ <;> omega

end Best

/-- Settles O35: the firing of a channel by what it and its consumers leave, and the dispatch by the head of the tasks to
consider and the best core. -/
theorem channelsAndDispatch : Obligations.ChannelsAndDispatch := by
  refine ⟨?_, ?_⟩
  · intro s n p e prod o comes hrun
    have exec_fire : exec (.guylineChannelFire n) s = .next (finish s (s.channelFire n)) := by
      show Host.Outcome.next (finish s (s.awake fun s => s.channelFire n)) = _
      rw [State.awake, if_pos hrun]
    have ch : vget s.per.evt.ch n 0x7000#32 = e.ch[n] := vget_getElem _ n.isLt _
    have hprod : s.per.evt.prod n = prod := by rw [Evt.prod, Evt.cfg, ch]
    have hen : s.per.evt.enabled n = bit e.ch[n] 8 := by rw [Evt.enabled, Evt.cfg, ch]
    refine ⟨fun hs h => ?_, fun hs hp hc hgone h8 htrust => ?_⟩
    · refine becomes_of_eq exec_fire ?_
      rw [State.channelFire, eventFor_none (fun f hf hev => hs ⟨f, hf, hev⟩)
        (h.imp (hen.trans ·) fun hc f hf hev => hc ⟨f, hf, hev.trans hprod⟩)]
    · obtain ⟨f, hf, hev, hfor⟩ := eventFor_producer (fun f hf hev => hs ⟨f, hf, hev⟩) (hen.trans h8) (hprod.trans hp) hc
      have small : f.ev < 1000 := by
        have : prod < 256 := Nat.mod_lt _ (by decide)
        omega
      have reached : n.val ∈ s.per.evt.reached f := by
        rw [Evt.reached, if_pos small, List.mem_filter]
        refine ⟨List.mem_filter.2 ⟨List.mem_range.2 n.isLt, ?_⟩, by simpa using hgone f hf hev⟩
        have trusted : p = 190 → s.per.evt.trusted n = true := fun hp => by
          rw [Evt.trusted, Evt.cfg, ch]
          exact htrust hp
        rw [hev]
        rw [hen, h8, hprod, hp]
        by_cases h190 : p = 190
        · simp [trusted h190]
        · simp [h190]
      let s' : State := { s with inflight := s.inflight.filter (· ≠ f) }
      obtain ⟨u, hu, hr⟩ := fireChannels_fire f.ev _ reached s'
      have fire : s.channelFire n = (s.per.evt.reached f).foldl (State.fireChannel f.ev) s' := by
        rw [State.channelFire, hfor]
        show (s.per.evt.reached f).foldl (State.fireChannel (if f.ev < 1000 then f.ev else 188)) s' = _
        rw [if_pos small]
      rw [← fire] at hr
      obtain ⟨fired, pend⟩ := fireChannel_fires u f.ev n.isLt
      have all := (hu.trans (fireChannel_delivers u f.ev n)).trans hr
      refine ⟨_, exec_fire, ?_, fun b hb ho he ha => ?_, fun k _ hk => ?_, ?_, ?_⟩
      · rw [finish_per_evt]
        exact hr.fired n fired
      · obtain ⟨en, act⟩ := hu.bank b
        have owner : u.per.evt.owner n = b := by
          rw [Evt.owner, Evt.cfg, hu.ch]
          exact (congrArg (fun w => bits w 12 3) ch).trans ho
        exact (finish_setup _ s).pend b _ (hr.pend b _ (pend b hb owner (by rw [en]; exact he) (by rw [act]; exact ha)))
      · rw [finish_per_evt]
        exact all.fired k hk
      · rw [finish_cores]
        exact all.cores
      · rw [finish_mem]
        exact all.mem
  · intro s i c t k st top hup
    have exec_dispatch : exec .wardenDispatch s = .next (finish s s.dispatch) := by
      show Host.Outcome.next (finish s (if s.canvasUp then s.dispatch else s)) = _
      rw [if_pos hup]
    refine ⟨fun hn => ?_, fun hw hr hp hb ha hf hbest => ?_⟩
    · refine becomes_of_eq exec_dispatch ?_
      rw [State.dispatch, readyTasks_none hn]
      rfl
    · obtain ⟨l, hl⟩ := readyTasks_head i.isLt hw hr hp hb
      have best := bestCore_of_best (s := s) (t := t) ha hf hbest
      have go : s.dispatch = s.dispatchTo i c := by
        rw [State.dispatch, hl, State.dispatchFirst]
        dsimp only
        rw [best]
      rw [go, State.dispatchTo, hw] at exec_dispatch
      refine ⟨_, exec_dispatch, State.Noted.settles ((State.countCore_noted ..).trans (State.countSys_noted ..)) s⟩

end Sys2Proof.Machine

/-! # The frame boundary -/

namespace Sys2Proof.Machine

open Sys2Proof

/-! ## An uncorrectable word that the network engine reads under Twin-skin (R80, R145)

The reaction to it resets the device, and the frame count with it. -/

theorem recordFault_cfg (s : State) (f : FaultInfo) (action : Nat) : (s.recordFault f action).itg.cfg = s.itg.cfg :=
  ((s.writeWhole_burned _ _).trans (State.writeWhole_burned _ _ _)).same (fun t => t.itg.cfg) fun _ _ => rfl

/-- What the logging of an uncorrectable word leaves of the configuration in force. -/
theorem uncorrected_twin (s : State) (w m : Nat) (k : EccKind) : (s.uncorrected w m k).twin = s.twin := by
  have powerOff : ∀ t : State, t.powerOffEmpty.itg = t.itg := fun t => by
    unfold State.powerOffEmpty
    dsimp only
    split <;> rfl
  have flush : ∀ (l : List Migration) (t : State), (l.foldl (fun t m => t.flushLook m.obj) t).itg = t.itg := fun l => by
    induction l with
    | nil => exact fun _ => rfl
    | cons x l ih => exact fun t => (ih _).trans rfl
  have retire : ∀ (t : State) (b a : Nat), (t.requestRetire b a).twin = t.twin := fun t b a => by
    unfold State.requestRetire
    dsimp only
    split
    · rfl
    · split
      · unfold State.twin
        rw [powerOff]
        split
        · rfl
        · rw [State.onWdn_itg, flush]
          rfl
      · exact congrArg (bit · 0) (recordFault_cfg ..)
  exact retire ..

/-- Under Twin-skin the read of an uncorrectable word takes the device to the safe state. -/
theorem netWords_safeState {s : State} {a n w : Nat} (ht : s.twin = true) (he : s.mem.ecc = [(w, .double)])
    (h1 : a < w + eccSize w) (h2 : w < a + n) : ∃ (t : State) (f : FaultInfo), s.netWords a n = (t.safeState f, true) := by
  have hit : ((s.mem.ecc.map (·.1)).filter fun w => decide (a < w + eccSize w) && decide (w < a + n)) = [w] := by
    simp [he, h1, h2]
  obtain ⟨u, hu, hutwin, hulook⟩ : ∃ u, s.notePortA a n false = u ∧ u.twin = true ∧ u.mem.eccOf w = some .double := by
    refine ⟨_, rfl, ?_, ?_⟩
    · unfold State.notePortA
      split <;> exact ht
    · unfold State.notePortA Memory.eccOf
      split <;> simp [he]
  have read : u.readWords netMaster [w] = ⟨u.uncorrected w netMaster .double, [w]⟩ := by
    simp [State.readWords, State.readWord, hulook, uncorrectable]
  refine ⟨u.uncorrected w netMaster .double, uncFault w 0#32, ?_⟩
  unfold State.netWords
  simp only [hit, hu, read]
  rw [State.reactUnc, uncorrected_twin, hutwin]
  rfl

/-- A message whose receive object holds an uncorrectable word in its first descriptor is not delivered. -/
theorem deliver_safeState {s : State} {r : Reasm} {l : List Reasm} {e : ObjEntry} {o w : Nat} (ht : s.twin = true)
    (hn : s.per.net.ready = r :: l) (hr : s.rxObj = some e) (ho : s.wdn.indexAtBase s.per.net.rxobj.toNat = some o)
    (he : s.mem.ecc = [(w, .double)]) (h1 : e.physical < w + eccSize w) (h2 : w < e.physical + 4) :
    ∃ (t : State) (f : FaultInfo), s.deliver = t.safeState f := by
  obtain ⟨t, f, hread⟩ := netWords_safeState ht he h1 h2
  have stay : ∀ (parts : List (Nat × Nat)) (t : State), parts.foldl (fun (t : State × Bool) x =>
      if t.2 then t else t.1.netWords x.1 x.2) (t, true) = (t, true) := fun parts t => by
    induction parts with
    | nil => rfl
    | cons x parts ih => exact ih
  have message : s.readMessage r e = (t.safeState f, true) := by
    obtain ⟨m, hm⟩ : ∃ m, s.per.net.rxEntries = m + 1 := Nat.exists_eq_add_one.2 (Nat.two_pow_pos _)
    unfold State.readMessage
    dsimp only
    rw [hm, List.range_succ_eq_map, List.map_cons, List.cons_append, List.foldl_cons]
    simp only [Nat.mul_zero, Nat.add_zero, Bool.false_eq_true, if_false, hread]
    exact stay _ _
  refine ⟨t, f, ?_⟩
  unfold State.deliver
  simp only [hn, hr, ho, message, State.unlessBad, ht, if_true]

/-! ## The frame count across a boundary (R154) -/

theorem commit_empty {s : State} (h : s.itg.defer = []) (bad : List Writer) : s.commit bad = s := by
  have none : ∀ l : List Writer, l.foldl (fun s w => (s.itg.defer.filter fun d => decide (d.writer = w)).foldl
      (fun s d => s.periphWrite (.core d.core) d.addr d.value) s) s = s := fun l => by
    induction l with
    | nil => rfl
    | cons w l ih =>
      rw [List.foldl_cons, h]
      exact ih
  exact none _

theorem releaseFrame_frm (s : State) (bad : List Writer) : (s.releaseFrame bad).itg.frm = s.itg.frm := by
  have release : ∀ (l : List WayReady) (t : State), (l.foldl State.releaseReady t).itg = t.itg := fun l => by
    induction l with
    | nil => exact fun _ => rfl
    | cons r l ih =>
      intro t
      rw [List.foldl_cons, ih]
      unfold State.releaseReady
      split
      · split <;> rfl
      · rfl
  rw [State.releaseFrame, State.onWdn_itg, release]

/-- A frame that closes without late tasks, overruns, deferred writes or reads to clear. -/
theorem closeFrame_idle {s : State} (hl : s.lateCores = []) (hd : s.itg.defer = []) (hr : s.itg.rcRead = []) :
    s.closeFrame [] = s.popRead := by
  have clear : s.clearReads = s := by
    rw [State.clearReads, hr]
    rfl
  have kept : s.popRead.itg.defer = [] := hd
  rw [State.closeFrame, hl, List.foldl_nil, List.foldl_nil, clear, commit_empty kept]

/-- FRM after a boundary is one more than what the delivery of messages leaves. -/
theorem frameBoundary_frm {s : State} (h : s.canvasUp = true) (hw : s.waymark = true) : s.frameBoundary.itg.frm =
    (((s.closeFrame s.overrunners).onItg Itg.takeEvents).deliverAll).itg.frm + 1#32 := by
  have clear : ∀ t : State, (if t.frameBusy then t.clearIdle else t).itg = t.itg := fun t => by split <;> rfl
  have begin : ∀ (t : State) inp, (t.startFrame inp).itg.frm = (t.onItg Itg.takeEvents).deliverAll.itg.frm + 1#32 :=
    fun _ _ => rfl
  rw [State.frameBoundary, if_pos (by rw [h, hw]; rfl)]
  dsimp only
  rw [State.fire_itg, State.countSys_itg, State.onItg_itg]
  dsimp only
  rw [clear, releaseFrame_frm, begin]

/-- With one message waiting there is one delivery. -/
theorem deliverAll_single {s : State} {r : Reasm} (he : s.per.net.en = true) (hr : s.per.net.ready = [r]) :
    ∃ t, s.deliverAll = State.deliver t ∧ t = s.onNet fun n => { n with ready := n.sorted } := by
  have waiting : (s.onNet fun n => { n with ready := n.sorted }).per.net.ready = [r] := by
    show s.per.net.sorted = [r]
    rw [Net.sorted, hr]
    rfl
  refine ⟨_, ?_, rfl⟩
  rw [State.deliverAll, if_pos he]
  dsimp only
  rw [waiting]
  rfl

/-! ## A boundary that resets the device -/

/-- The receive object of the witness: 2 KiB in the first SRAM bank, at the start of the object window. -/
def faultyObject : ObjEntry := { ObjEntry.empty with phase := .live, size := 3, bank := 16 }

/-- A message that waits for the boundary. -/
def waitingMessage : Reasm :=
  { orig := 1, tid := 0, kind := 0, alarm := false, ttl := 0, via := 1, segl := 0, segs := [], slot := 0, sfn := 0#32,
    link := 0#32, stray := false }

/-- Canvas runs under Twin-skin and Waymark, in frame 1; the network engine runs with a message to deliver, and the first
word of its receive object is uncorrectable. -/
def faultyBoundary : State :=
  { State.reset with
    mem := { Memory.reset with ecc := [(sramBase, .double)] }
    wdn := { Warden.reset with obj := Warden.reset.obj.set 0 faultyObject }
    itg := { Itg.reset with cfg := 3#32, frm := 1#32 }
    rp := { Ridgepole.reset with mode := .up }
    per := { Periph.reset with
      net := { Net.reset with ctl := 1#32, rxobj := 0x60000000#32, ready := [waitingMessage] } } }

theorem faultyBoundary_frm : faultyBoundary.frameBoundary.itg.frm = 1#32 := by
  have overrun : faultyBoundary.overrunners = [] := by decide +kernel
  have close : faultyBoundary.closeFrame [] = faultyBoundary.popRead := closeFrame_idle (by decide +kernel) rfl rfl
  obtain ⟨t, once, ht⟩ := deliverAll_single (s := faultyBoundary.popRead.onItg Itg.takeEvents) (r := waitingMessage) rfl rfl
  obtain ⟨u, f, safe⟩ : ∃ (u : State) (f : FaultInfo), t.deliver = u.safeState f :=
    deliver_safeState (e := faultyObject) (o := 0) (w := sramBase) (r := waitingMessage) (l := [])
      (by rw [ht]; rfl) (by rw [ht]; rfl) (by rw [ht]; rfl) (by rw [ht]; decide +kernel) (by rw [ht]; rfl)
      (by decide) (by decide)
  rw [frameBoundary_frm rfl rfl, overrun, close, once, safe]
  rfl

/-- Refutes O41: under Twin-skin the delivery of a message at the boundary can read an uncorrectable word, which
resets the device (R80, R145); FRM starts from zero again, and the boundary then counts it to 1 where it stood at 1. -/
theorem not_frameBoundaries : ¬ Obligations.FrameBoundaries := by
  intro h
  obtain ⟨t, ht, hfrm, -⟩ := (h faultyBoundary).2 rfl rfl
  have same : finish faultyBoundary faultyBoundary.frameBoundary = t := Host.Outcome.next.inj ht
  rw [← same, finish_itg_frm, faultyBoundary_frm] at hfrm
  exact absurd hfrm (by decide)

end Sys2Proof.Machine

/-! # The cores that a boot starts -/

namespace Sys2Proof.Machine

open Sys2Proof

/-! ## The cores that a boot starts (R20, R134)

Under Twin-skin a pair is retired by both of its bits; one bit of the two keeps neither core from starting. -/

theorem startable_congr {s t : State} (hcfg : t.itg.cfg = s.itg.cfg) (hret : t.wdn.retire = s.wdn.retire) (c : Nat) :
    t.startable c = s.startable c := by
  unfold State.startable State.coreRetired State.twin
  rw [hcfg, hret]

theorem powerSram_startable (s : State) (b c : Nat) : (s.powerSram b).startable c = s.startable c := by
  unfold State.powerSram
  split
  · rfl
  · exact startable_congr rfl rfl c

/-- A declaration that frees no journal entry, writes none and loads nothing leaves the cores that may start. -/
theorem declareAt_startable (s : State) {e : ObjEntry} (he : e.load = false) (i b o : Nat) (f : Bool) (c : Nat) :
    (s.declareAt i e ⟨b, o, f, [], none, false⟩).startable c = s.startable c := by
  have filled : ∀ (t : State) (a n : Nat), (t.fillFree a n).startable c = t.startable c := fun _ _ _ => rfl
  refine Eq.trans ?_ (powerSram_startable s b c)
  unfold State.declareAt
  dsimp only
  rw [List.foldl_nil, if_neg Bool.false_ne_true, he, if_neg Bool.false_ne_true, filled]
  cases f <;> exact startable_congr rfl rfl c

theorem declareStack_startable (s : State) (k c : Nat) : (s.declareStack k).startable c = s.startable c := by
  have powered : ∀ (t : State) (g : MemRegs → MemRegs), (t.onMm g).startable c = t.startable c := fun _ _ => rfl
  unfold State.declareStack
  dsimp only
  split
  · next b o f _ =>
    have declared := declareAt_startable s (e := bootEntry (0xFFFF0 + 4 * k) 2 .vol 3#24 false 0) rfl (508 + k) b o f c
    rw [powered, declared]
  · rfl

/-- A core that may start runs once Canvas has started. -/
theorem startCanvas_runs {s : State} {c : CoreId} (h : s.startable c = true) (p : Bool) :
    ((s.startCanvas p).cores[c]).phase = .run := by
  have stacked : ∀ (l : List Nat) (t : State), (l.foldl State.declareStack t).startable c = t.startable c := fun l => by
    induction l with
    | nil => exact fun _ => rfl
    | cons k l ih => exact fun t => (ih _).trans (declareStack_startable t k c)
  have starts : ∀ (t : State) (entry : Word), t.startable c = true → ((t.startCores entry).cores[c]).phase = .run := by
    intro t entry ht
    rw [State.startCores, Fin.getElem_fin, Vector.getElem_ofFn, if_pos ht]
    rfl
  refine starts _ _ ((startable_congr rfl rfl c).trans ?_)
  exact (stacked (indices 4 (s.declareImage p).startable) (s.declareImage p)).trans ((startable_congr rfl rfl c).trans h)

/-! ## A wake with one retired core of a pair -/

/-- A Bivouac wake to image A under Twin-skin, where the stored retired bits name C0 and not C1. -/
def halfRetiredWake : State :=
  { State.reset with
    pwr := { Pwr.reset with cause := 8#32 }
    rp := { Ridgepole.reset with record := some ⟨false, 1#32⟩, retire := 0x10000#32 } }

theorem halfRetiredWake_runs : (halfRetiredWake.pitchPath.cores[(0 : CoreId)]).phase = .run := by
  have reads : halfRetiredWake.pitchReads.rp.retire = 0x10000#32 := by rfl
  have path : ∃ t, halfRetiredWake.pitchPath = State.startCanvas t false ∧ t.itg.cfg = 1#32 ∧
      t.wdn.retire = halfRetiredWake.pitchReads.rp.retire := ⟨_, rfl, rfl, rfl⟩
  obtain ⟨t, path, hcfg, hret⟩ := path
  rw [path]
  refine startCanvas_runs ?_ false
  unfold State.startable State.coreRetired State.twin
  rw [hcfg, hret, reads]
  decide

/-- Refutes O43: under Twin-skin a pair is retired by both of its bits (R134), so where the bit of its leading core
alone is set, that core starts at the wake, and the statement keeps it off. -/
theorem not_bootEvents : ¬ Obligations.BootEvents := by
  intro h
  obtain ⟨-, -, wake, -⟩ := h halfRetiredWake
  obtain ⟨t, ht, -, -, -, -, -, cores, -⟩ := wake ⟨rfl, rfl⟩ rfl rfl rfl ⟨false, 1#32⟩ rfl
  have off : (t.cores[(0 : CoreId)]).phase = .off := (cores 0).2 (.inl (by decide))
  have same : finish halfRetiredWake halfRetiredWake.pitchPath = t := Host.Outcome.next.inj ht
  rw [← same, finish_cores, halfRetiredWake_runs] at off
  exact Phase.noConfusion off

end Sys2Proof.Machine

/-! # Binary arithmetic, logic, shifts and extensions -/

namespace Sys2Proof.Machine

open Sys2Proof

/-! ## Add, subtract and logic (R62) -/

theorem addWith_eq (a b : Word) (cin : Bool) :
    addWith a b cin =
      (let r := a + b + BitVec.ofNat 32 cin.toNat
       ⟨r, decide (2 ^ 32 ≤ a.toNat + b.toNat + cin.toNat), decide (a.msb = b.msb ∧ r.msb ≠ a.msb)⟩) := by
  have sum : BitVec.ofNat 32 (a.toNat + b.toNat + cin.toNat) = a + b + BitVec.ofNat 32 cin.toNat := by
    rw [BitVec.ofNat_add, BitVec.ofNat_add, BitVec.ofNat_toNat, BitVec.ofNat_toNat, BitVec.setWidth_eq,
      BitVec.setWidth_eq]
  unfold addWith
  simp only [sum, Bool.decide_and, ne_eq, bne, beq_eq_decide, decide_not]

theorem subWith_eq (a b : Word) (bin : Bool) :
    subWith a b bin =
      (let r := a - b - BitVec.ofNat 32 bin.toNat
       ⟨r, decide (a.toNat < b.toNat + bin.toNat), decide (a.msb ≠ b.msb ∧ r.msb ≠ a.msb)⟩) := by
  unfold subWith
  simp only [Bool.decide_and, ne_eq, bne, beq_eq_decide, decide_not]

theorem Core.putAlu_add (k : Core) (d : Reg) (a b : Word) (cin : Bool) :
    k.putAlu d (addWith a b cin) = k.sum d a b cin := by
  rw [addWith_eq]; rfl

theorem Core.putAlu_sub (k : Core) (d : Reg) (a b : Word) (bin : Bool) :
    k.putAlu d (subWith a b bin) = k.difference d a b bin := by
  rw [subWith_eq]; rfl

theorem Core.cmpAlu_sub (k : Core) (a b : Word) (bin : Bool) :
    k.cmpAlu (subWith a b bin) = { k with flg := differenceFlags k.flg a b bin } := by
  rw [subWith_eq]; rfl

theorem low_half (x : Word) : (x.setWidth 16).setWidth 32 = x &&& 0xFFFF#32 := by
  apply BitVec.eq_of_toNat_eq
  rw [BitVec.toNat_setWidth, BitVec.toNat_setWidth, BitVec.toNat_and, show (0xFFFF#32).toNat = 2 ^ 16 - 1 from rfl,
    Nat.and_two_pow_sub_one_eq_mod]
  omega

theorem append_low_half (hi : BitVec 16) (x : Word) :
    (hi ++ x.setWidth 16 : BitVec 32) = hi.setWidth 32 * 65536#32 ||| (x &&& 0xFFFF#32) := by
  have shift : hi.setWidth 32 * 65536#32 = hi.setWidth 32 <<< 16 := BitVec.mul_twoPow_eq_shiftLeft (hi.setWidth 32) 16
  rw [shift, ← low_half, BitVec.append_def, BitVec.shiftLeftZeroExtend_eq, BitVec.setWidth'_eq]

theorem State.nextPc_two (s : State) (c : CoreId) : s.nextPc c 2 = s.cores[c].pc + 4#32 := rfl

/-- An instruction that rewrites only its core makes of it what `k'` says. -/
theorem regs_makes {s : State} {c : CoreId} {n cycles : Nat} {i : Instr} {f : Core → Core} {k' : Core} {pc : Word}
    (h : s.ready c n) (hpc : s.nextPc c n = pc) (hi : exec i s = .next (finish s (s.regs c n cycles f)))
    (hf : ∀ k : Core, (f k).seen = f k.seen) (hk : f s.cores[c] = k') : registerStep s i c k' pc cycles := by
  rw [← hpc, ← hk]
  exact regs_completes hf h hi

/-- Settles O1: each instruction rewrites its core by what its result and flags are in the terms of R62. -/
theorem binaryArithmeticAndLogic : Obligations.BinaryArithmeticAndLogic := by
  intro s c d a b i8 i16 k x y z cf zx8 zx16 sx8 sx16 short long
  refine ⟨fun h => ?_, fun h => ?_⟩
  · have makes : ∀ (i : Instr) (f : Core → Core) (k' : Core), exec i s = .next (finish s (s.regs c 1 1 f)) →
        (∀ k : Core, (f k).seen = f k.seen) → f k = k' → short i k' := fun i f k' hi hf hk =>
      regs_makes h (State.nextPc_one ..) hi hf hk
    refine ⟨?_, ?_, ?_, ?_, ?_, ?_, ?_, ?_, ?_, ?_, ?_, ?_, ?_, ?_, ?_⟩
    · exact makes (.add c d a) _ _ rfl (fun _ => rfl) (Core.putAlu_add ..)
    · exact makes (.adc c d a) _ _ rfl (fun _ => rfl) (Core.putAlu_add ..)
    · exact makes (.addi c d i8) _ _ rfl (fun _ => rfl) (Core.putAlu_add ..)
    · exact makes (.sub c d a) _ _ rfl (fun _ => rfl) (Core.putAlu_sub ..)
    · exact makes (.sbc c d a) _ _ rfl (fun _ => rfl) (Core.putAlu_sub ..)
    · exact makes (.neg c d a) _ _ rfl (fun _ => rfl) (Core.putAlu_sub ..)
    · exact makes (.cmp c d a) _ _ rfl (fun _ => rfl) (Core.cmpAlu_sub ..)
    · exact makes (.cmpi c d i8) _ _ rfl (fun _ => rfl) (Core.cmpAlu_sub ..)
    · exact makes (.and c d a) _ _ rfl (fun _ => rfl) rfl
    · exact makes (.or c d a) _ _ rfl (fun _ => rfl) rfl
    · exact makes (.xor c d a) _ _ rfl (fun _ => rfl) rfl
    · exact makes (.not c d a) _ _ rfl (fun _ => rfl) rfl
    · exact makes (.tst c d a) _ _ rfl (fun _ => rfl) rfl
    · exact makes (.mov c d a) _ _ rfl (fun _ => rfl) rfl
    · exact makes (.movi c d i8) _ _ rfl (fun _ => rfl) rfl
  · have makes : ∀ (i : Instr) (f : Core → Core) (k' : Core), exec i s = .next (finish s (s.regs c 2 1 f)) →
        (∀ k : Core, (f k).seen = f k.seen) → f k = k' → long i k' := fun i f k' hi hf hk =>
      regs_makes h (State.nextPc_two ..) hi hf hk
    refine ⟨?_, ?_, ?_, ?_, ?_, ?_, ?_, ?_, ?_, ?_, ?_, ?_⟩
    · exact makes (.addRrr c d a b) _ _ rfl (fun _ => rfl) (Core.putAlu_add ..)
    · exact makes (.addiRri c d a i16) _ _ rfl (fun _ => rfl) (Core.putAlu_add ..)
    · exact makes (.subRrr c d a b) _ _ rfl (fun _ => rfl) (Core.putAlu_sub ..)
    · exact makes (.cmpw c a i16) _ _ rfl (fun _ => rfl) (Core.cmpAlu_sub ..)
    · exact makes (.andRrr c d a b) _ _ rfl (fun _ => rfl) rfl
    · exact makes (.orRrr c d a b) _ _ rfl (fun _ => rfl) rfl
    · exact makes (.xorRrr c d a b) _ _ rfl (fun _ => rfl) rfl
    · exact makes (.andi c d a i16) _ _ rfl (fun _ => rfl) rfl
    · exact makes (.ori c d a i16) _ _ rfl (fun _ => rfl) rfl
    · exact makes (.xori c d a i16) _ _ rfl (fun _ => rfl) rfl
    · exact makes (.movw c d i16) _ _ rfl (fun _ => rfl) rfl
    · exact makes (.movh c d i16) _ _ rfl (fun _ => rfl) (congrArg (Core.wrote k d) (append_low_half i16 x))

/-! ## Shifts and rotates (R63) -/

/-- A bit written with its own value keeps the word. -/
theorem setBit_bit {n : Nat} (w : BitVec n) (i : Nat) : setBit w i (bit w i) = w := by
  refine BitVec.eq_of_getLsbD_eq fun j hj => ?_
  have e := bit_setBit w i j (bit w i)
  unfold bit at e
  rw [show (setBit w i (bit w i)).getLsbD j = _ from e]
  split
  · next hi => rw [hi.1]
  · rfl

/-- Setting Z and N leaves C. -/
theorem flagC_logicFlags (f r : Word) : flagC (logicFlags f r) = flagC f := by
  simp [flagC, logicFlags, bit_setBit]

/-- A shift leaves C where its amount is 0. -/
theorem Core.putShift_eq {k : Core} (d : Reg) {x : Shift} {n : Nat} {r : Word} {c : Bool} (hr : x.r = r)
    (hc : x.c = if n = 0 then flagC k.flg else c) : k.putShift d x = k.shifted d n r c := by
  have flags : setZNC k.flg r (if n = 0 then flagC k.flg else c) =
      if n = 0 then logicFlags k.flg r else setBit (logicFlags k.flg r) 2 c := by
    show setBit (logicFlags k.flg r) 2 _ = _
    split
    · rw [← flagC_logicFlags k.flg r]
      exact setBit_bit _ 2
    · rfl
  unfold Core.putShift Core.shifted
  rw [hr, hc, flags]
  rfl

theorem shl_eq (a : Word) (n : Nat) (c : Bool) :
    shl a n c = ⟨BitVec.ofNat 32 (a.toNat * 2 ^ n), if n = 0 then c else bit a (32 - n)⟩ := by
  have r : a <<< n = BitVec.ofNat 32 (a.toNat * 2 ^ n) := by
    rw [← Nat.shiftLeft_eq]
    exact BitVec.eq_of_toNat_eq (by rw [BitVec.toNat_shiftLeft, BitVec.toNat_ofNat])
  unfold shl
  rw [← r]
  split
  · next hn => rw [hn, BitVec.shiftLeft_zero]
  · rfl

theorem shrL_eq (a : Word) (n : Nat) (c : Bool) :
    shrL a n c = ⟨BitVec.ofNat 32 (a.toNat / 2 ^ n), if n = 0 then c else bit a (n - 1)⟩ := by
  have r : a >>> n = BitVec.ofNat 32 (a.toNat / 2 ^ n) := by
    rw [← Nat.shiftRight_eq_div_pow, ← BitVec.toNat_ushiftRight, BitVec.ofNat_toNat, BitVec.setWidth_eq]
  unfold shrL
  rw [← r]
  split
  · next hn => rw [hn, BitVec.ushiftRight_zero]
  · rfl

theorem shrA_eq (a : Word) (n : Nat) (c : Bool) :
    shrA a n c = ⟨BitVec.ofInt 32 (a.toInt / 2 ^ n), if n = 0 then c else bit a (n - 1)⟩ := by
  have r : a.sshiftRight n = BitVec.ofInt 32 (a.toInt / 2 ^ n) := by
    rw [← BitVec.ofInt_toInt (x := a.sshiftRight n), BitVec.toInt_sshiftRight, Int.shiftRight_eq_div_pow]
    norm_num
  unfold shrA
  rw [← r]
  split
  · next hn => rw [hn, BitVec.sshiftRight_zero]
  · rfl

theorem rotR_eq (a : Word) {n : Nat} (h : n < 32) (c : Bool) :
    rotR a n c =
      (let r := a >>> n ||| a <<< (32 - n)
       ⟨r, if n = 0 then c else r.msb⟩) := by
  have r : a.rotateRight n = a >>> n ||| a <<< (32 - n) := by
    rw [BitVec.rotateRight_def, Nat.mod_eq_of_lt h]
  unfold rotR
  rw [← r]
  dsimp only
  split
  · next hn => rw [hn, BitVec.rotateRight_def]; simp
  · rfl

/-- Settles O2: each shift by the value of its result, with C as it was where the amount is 0. -/
theorem shiftsAndExtension : Obligations.ShiftsAndExtension := by
  intro s c d a n5 k x y m n short long left right arith around
  have hm : m < 32 := Nat.mod_lt _ (by decide)
  have hn : n < 32 := n5.isLt
  have put : ∀ {p : Nat} {v r : Word} {b : Bool} {f : Word → Nat → Bool → Shift},
      f v p (flagC k.flg) = ⟨r, if p = 0 then flagC k.flg else b⟩ →
      k.putShift d (f v p (flagC k.flg)) = k.shifted d p r b := fun e => by
    rw [e]
    exact Core.putShift_eq d rfl rfl
  refine ⟨fun h => ?_, fun h => ?_⟩
  · have makes : ∀ (i : Instr) (f : Core → Core) (k' : Core), exec i s = .next (finish s (s.regs c 1 1 f)) →
        (∀ k : Core, (f k).seen = f k.seen) → f k = k' → short i k' := fun i f k' hi hf hk =>
      regs_makes h (State.nextPc_one ..) hi hf hk
    refine ⟨?_, ?_, ?_, ?_, ?_, ?_, ?_⟩
    · exact makes (.lsl c d a) _ _ rfl (fun _ => rfl) (put (shl_eq x m _))
    · exact makes (.lsr c d a) _ _ rfl (fun _ => rfl) (put (shrL_eq x m _))
    · exact makes (.asr c d a) _ _ rfl (fun _ => rfl) (put (shrA_eq x m _))
    · exact makes (.ror c d a) _ _ rfl (fun _ => rfl) (put (rotR_eq x hm _))
    · exact makes (.sxb c d a) _ _ rfl (fun _ => rfl) rfl
    · exact makes (.sxh c d a) _ _ rfl (fun _ => rfl) rfl
    · exact makes (.zxh c d a) _ _ rfl (fun _ => rfl) (congrArg (Core.wrote k d) (low_half y))
  · have makes : ∀ (i : Instr) (f : Core → Core) (k' : Core), exec i s = .next (finish s (s.regs c 2 1 f)) →
        (∀ k : Core, (f k).seen = f k.seen) → f k = k' → long i k' := fun i f k' hi hf hk =>
      regs_makes h (State.nextPc_two ..) hi hf hk
    refine ⟨?_, ?_, ?_, ?_⟩
    · exact makes (.lsli c d a n5) _ _ rfl (fun _ => rfl) (put (shl_eq y n _))
    · exact makes (.lsri c d a n5) _ _ rfl (fun _ => rfl) (put (shrL_eq y n _))
    · exact makes (.asri c d a n5) _ _ rfl (fun _ => rfl) (put (shrA_eq y n _))
    · exact makes (.rori c d a n5) _ _ rfl (fun _ => rfl) (put (rotR_eq y hn _))

end Sys2Proof.Machine

/-! # Loads and stores -/

namespace Sys2Proof.Machine

open Sys2Proof

/-! ## Loads and stores of memory (R64, R66) -/

theorem Core.wrote_still (d : Reg) (v : Word) : StillUpdate fun k => k.wrote d v := fun k k' e => by
  have e' := congrArg (fun k : Core => k.wrote d v) e
  exact e'

/-- A load of `n` bytes, widened by `w` into Wd. -/
theorem loadInto_completes {s : State} {c : CoreId} {halves n : Nat} {i : Instr} {ad : Core → Word} {w : Nat → Word}
    {d : Reg} (h : s.ready c halves) (hn : 0 < n) (hn8 : n ≤ 8)
    (hi : exec i s = .next (finish s (s.loads c halves n ad w d))) (had : ∀ k : Core, ad k.seen = ad k)
    (hacc : s.accessible c true false (ad s.cores[c]).toNat n) :
    registerStep s i c (s.cores[c].wrote d (w (s.valueAt (ad s.cores[c]).toNat n))) (s.nextPc c halves) 1 :=
  loads_complete (f := fun v k => k.wrote d (w v)) h hn hn8 hi
    (fun u hu => by rw [hu.nextPc, ← had s.cores[c], ← hu.seen, had]; rfl) (fun _ _ => rfl)
    (fun v => Core.wrote_still d (w v)) hacc

/-- A store of the low `n` bytes of Wd. -/
theorem storeOf_completes {s : State} {c : CoreId} {halves n : Nat} {i : Instr} {ad : Core → Word} {d : Reg}
    (h : s.ready c halves) (hn : 0 < n) (hn8 : n ≤ 8)
    (hi : exec i s = .next (finish s (s.stores c halves n ad d))) (had : ∀ k : Core, ad k.seen = ad k)
    (hacc : s.storable c (ad s.cores[c]).toNat n) :
    storeStep s i c s.cores[c] (s.nextPc c halves) 1 (ad s.cores[c]).toNat n (s.cores[c].r d).toNat :=
  stores_complete (f := fun k => k) h hn hn8 hi
    (fun u hu => by rw [hu.nextPc, ← Core.r_of_seen hu.seen, ← had s.cores[c], ← hu.seen, had])
    (fun _ => rfl) (fun _ _ e => e) hacc

/-- POP moves W15 on, then writes Wd. -/
theorem pop_completes {s : State} {c : CoreId} {d : Reg} (h : s.ready c 1)
    (hacc : s.accessible c true false (s.cores[c].r 15).toNat 4) :
    registerStep s (.pop c d) c ((s.cores[c].wrote 15 (s.cores[c].r 15 + 4#32)).wrote d
      (zeroExt (s.valueAt (s.cores[c].r 15).toNat 4))) (s.nextPc c 1) 1 :=
  loads_complete (i := .pop c d) (f := fun v k => (k.wrote 15 (s.cores[c].r 15 + 4#32)).wrote d (zeroExt v)) h
    (by decide) (by decide) rfl (fun u hu => by rw [hu.nextPc, ← Core.r_of_seen hu.seen]; rfl) (fun _ _ => rfl)
    (fun v k k' e => Core.wrote_still d (zeroExt v) _ _ (Core.wrote_still 15 _ k k' e)) hacc

/-- PUSH stores Ws below W15, then moves W15 down. -/
theorem push_completes {s : State} {c : CoreId} {d : Reg} (h : s.ready c 1)
    (hacc : s.storable c (s.cores[c].r 15 - 4#32).toNat 4) :
    storeStep s (.push c d) c (s.cores[c].wrote 15 (s.cores[c].r 15 - 4#32)) (s.nextPc c 1) 1
      (s.cores[c].r 15 - 4#32).toNat 4 (s.cores[c].r d).toNat :=
  stores_complete (i := .push c d) (f := fun k => k.wrote 15 (s.cores[c].r 15 - 4#32)) h (by decide) (by decide) rfl
    (fun u hu => by rw [hu.nextPc, ← Core.r_of_seen hu.seen, ← Core.r_of_seen hu.seen]; rfl) (fun _ => rfl)
    (Core.wrote_still 15 (s.cores[c].r 15 - 4#32)) hacc

/-- Settles O5: each load by its address and the widening of its value, and POP by the order of its two writes. -/
theorem memoryLoads : Obligations.MemoryLoads := by
  intro s c d a i8 i16 k base off sp slot val short long
  have shortLoad : ∀ (i : Instr) (ad : Core → Word) (n : Nat), 0 < n → n ≤ 8 →
      exec i s = .next (finish s (s.loads c 1 n ad zeroExt d)) → (∀ k : Core, ad k.seen = ad k) →
      short i (ad k) n (k.wrote d (BitVec.ofNat 32 (val (ad k) n))) := fun i ad n hn hn8 hi had h hacc => by
    have e := loadInto_completes h hn hn8 hi had hacc
    rw [State.nextPc_one] at e
    exact e
  have longLoad : ∀ (i : Instr) (n : Nat) (w : Nat → Word), 0 < n → n ≤ 8 →
      exec i s = .next (finish s (s.loads c 2 n (offsetAddr a i16) w d)) →
      long i off n (w (val off n)) := fun i n w hn hn8 hi h hacc => by
    have e := loadInto_completes h hn hn8 hi (fun _ => rfl) hacc
    rw [State.nextPc_two] at e
    exact e
  refine ⟨?_, ?_, ?_, ?_, ?_, ?_, ?_, ?_, ?_, ?_⟩
  · exact shortLoad (.ldb c d a) (fun k => k.r a) 1 (by decide) (by decide) rfl fun _ => rfl
  · exact shortLoad (.ldh c d a) (fun k => k.r a) 2 (by decide) (by decide) rfl fun _ => rfl
  · exact shortLoad (.ldw c d a) (fun k => k.r a) 4 (by decide) (by decide) rfl fun _ => rfl
  · exact shortLoad (.ldws c d i8) (fun k => k.r 15 + 4#32 * i8.setWidth 32) 4 (by decide) (by decide) rfl fun _ => rfl
  · intro h hacc
    have e := pop_completes (d := d) h hacc
    rw [State.nextPc_one] at e
    exact e
  · exact longLoad (.ldbRri c d a i16) 1 zeroExt (by decide) (by decide) rfl
  · exact longLoad (.ldbs c d a i16) 1 signByte (by decide) (by decide) rfl
  · exact longLoad (.ldhRri c d a i16) 2 zeroExt (by decide) (by decide) rfl
  · exact longLoad (.ldhs c d a i16) 2 signHalf (by decide) (by decide) rfl
  · exact longLoad (.ldwRri c d a i16) 4 zeroExt (by decide) (by decide) rfl

/-- Settles O6: each store by its address, and PUSH by the register it moves. -/
theorem memoryStores : Obligations.MemoryStores := by
  intro s c d a i16 k base off down x short long
  have shortStore : ∀ (i : Instr) (n : Nat), 0 < n → n ≤ 8 →
      exec i s = .next (finish s (s.stores c 1 n (fun k => k.r a) d)) → short i base n k :=
    fun i n hn hn8 hi h hacc => by
      have e := storeOf_completes h hn hn8 hi (fun _ => rfl) hacc
      rw [State.nextPc_one] at e
      exact e
  have longStore : ∀ (i : Instr) (n : Nat), 0 < n → n ≤ 8 →
      exec i s = .next (finish s (s.stores c 2 n (offsetAddr a i16) d)) → long i n := fun i n hn hn8 hi h hacc => by
    have e := storeOf_completes h hn hn8 hi (fun _ => rfl) hacc
    rw [State.nextPc_two] at e
    exact e
  refine ⟨?_, ?_, ?_, ?_, ?_, ?_, ?_⟩
  · exact shortStore (.stb c d a) 1 (by decide) (by decide) rfl
  · exact shortStore (.sth c d a) 2 (by decide) (by decide) rfl
  · exact shortStore (.stw c d a) 4 (by decide) (by decide) rfl
  · intro h hacc
    have e := push_completes (d := d) h hacc
    rw [State.nextPc_one] at e
    exact e
  · exact longStore (.stbRri c d a i16) 1 (by decide) (by decide) rfl
  · exact longStore (.sthRri c d a i16) 2 (by decide) (by decide) rfl
  · exact longStore (.stwRri c d a i16) 4 (by decide) (by decide) rfl

end Sys2Proof.Machine

/-! # Branches and returns -/

namespace Sys2Proof.Machine

open Sys2Proof

/-! ## Branches, jumps and calls (R56, R57, R67, R68) -/

/-- The target of a relative branch, as a displacement in halfwords from the branch's own address (R56). -/
theorem target_eq {n : Nat} (pc : Word) (disp : BitVec n) :
    target pc disp = BitVec.ofInt 32 (pc.toNat + 2 * disp.toInt) := by
  unfold target
  rw [BitVec.ofInt_add, BitVec.ofInt_mul, BitVec.ofInt_natCast, BitVec.ofNat_toNat, BitVec.setWidth_eq]
  rfl

theorem condHolds_iff (k : Cond) (f : Word) : condHolds k f = true ↔ condition k f := by
  cases k <;> simp [condHolds, condition, flagZ, flagN, flagC, flagV, flagD]

/-- An instruction that rewrites its core by `f` and counts an event before it goes to `pc`. -/
theorem goes_completes {s : State} {c : CoreId} {n src cycles : Nat} {i : Instr} {body : State → Out} {f : Core → Core}
    {pc : Word} (h : s.ready c n) (hi : exec i s = .next (finish s (s.instr c n body)))
    (hf : ∀ k : Core, (f k).seen = f k.seen)
    (hb : ∀ u, Fetched s c u → body u = ⟨(u.onCore c f).countCore c src 1, none, [], pc, cycles⟩) :
    registerStep s i c (f s.cores[c]) pc cycles :=
  instr_completes h hi hf fun u hu => by
    rw [hb u hu]
    exact ⟨rfl, rfl, State.countCore_base .., rfl, rfl⟩

theorem branch_taken {s : State} {c : CoreId} {halves n : Nat} {i : Instr} {cond : Cond} {disp : BitVec n}
    (h : s.ready c halves) (hi : exec i s = .next (finish s (s.branch c halves cond disp)))
    (hc : condition cond s.cores[c].flg) :
    registerStep s i c s.cores[c] (BitVec.ofInt 32 (s.cores[c].pc.toNat + 2 * disp.toInt)) 2 := by
  rw [← target_eq]
  refine goes_completes (f := id) (src := 6) h hi (fun _ => rfl) fun u hu => ?_
  dsimp only
  rw [hu.flg, if_pos ((condHolds_iff ..).2 hc), hu.pc, onCore_id]

theorem branch_notTaken {s : State} {c : CoreId} {halves n : Nat} {i : Instr} {cond : Cond} {disp : BitVec n}
    (h : s.ready c halves) (hi : exec i s = .next (finish s (s.branch c halves cond disp)))
    (hc : ¬condition cond s.cores[c].flg) : registerStep s i c s.cores[c] (s.nextPc c halves) 1 := by
  refine instr_completes (f := id) h hi (fun _ => rfl) fun u hu => ?_
  dsimp only
  rw [hu.flg, if_neg (mt (condHolds_iff ..).1 hc), onCore_id]
  exact ⟨rfl, rfl, rfl, hu.nextPc halves, rfl⟩

/-- A core with the return address in W14 where a jump links (R67). -/
def Core.linked (k : Core) (link : Bool) (ret : Word) : Core := if link then k.wrote 14 ret else k

theorem linked_onCore (u : State) (c : CoreId) (link : Bool) (ret : Word) :
    (if link then u.onCore c fun k => k.setR 14 ret else u) = u.onCore c fun k => k.linked link ret := by
  cases link
  · exact (onCore_id u c).symm
  · rfl

theorem Core.linked_seen (k : Core) (link : Bool) (ret : Word) :
    (k.linked link ret).seen = k.seen.linked link ret := by
  cases link <;> rfl

theorem jump_completes {s : State} {c : CoreId} {i : Instr} {link : Bool} {disp : BitVec 24} (h : s.ready c 2)
    (hi : exec i s = .next (finish s (s.jump c link disp))) :
    registerStep s i c (s.cores[c].linked link (s.nextPc c 2))
      (BitVec.ofInt 32 (s.cores[c].pc.toNat + 2 * disp.toInt)) 2 := by
  rw [← target_eq]
  refine goes_completes (f := fun k => k.linked link (s.nextPc c 2)) (src := 6) h hi (fun _ => Core.linked_seen ..)
    fun u hu => ?_
  dsimp only
  rw [linked_onCore, hu.pc, hu.nextPc]

theorem jumpReg_completes {s : State} {c : CoreId} {i : Instr} {link : Bool} {a : Reg} (h : s.ready c 1)
    (hi : exec i s = .next (finish s (s.jumpReg c link a))) (he : bit (s.cores[c].r a) 0 = false) :
    registerStep s i c (s.cores[c].linked link (s.nextPc c 1)) (s.cores[c].r a) 2 := by
  refine goes_completes (f := fun k => k.linked link (s.nextPc c 1)) (src := 6) h hi (fun _ => Core.linked_seen ..)
    fun u hu => ?_
  dsimp only
  rw [Core.r_of_seen hu.seen, he, if_neg Bool.false_ne_true, linked_onCore, hu.nextPc]

/-- Settles O11: a conditional branch by whether it is taken, and a jump by whether it links. -/
theorem branchesAndJumps : Obligations.BranchesAndJumps := by
  intro s c a cond d9 d20 d24 k go
  refine ⟨fun h => ⟨fun hc => ?_, fun hc => ?_, fun he => ⟨?_, ?_⟩⟩, fun h => ⟨fun hc => ?_, fun hc => ?_, ?_, ?_⟩⟩
  · exact branch_taken (i := .bcc c cond d9) h rfl hc
  · have e := branch_notTaken (i := .bcc c cond d9) h rfl hc
    rwa [State.nextPc_one] at e
  · exact jumpReg_completes (i := .jr c a) h rfl he
  · have e := jumpReg_completes (i := .jlr c a) h rfl he
    rw [State.nextPc_one] at e
    exact e
  · exact branch_taken (i := .bccL c cond d20) h rfl hc
  · have e := branch_notTaken (i := .bccL c cond d20) h rfl hc
    rwa [State.nextPc_two] at e
  · exact jump_completes (i := .jmp c d24) h rfl
  · have e := jump_completes (i := .bl c d24) h rfl
    rw [State.nextPc_two] at e
    exact e

/-! ## ERET and IRET (R72) -/

theorem eret_completes {s : State} {c : CoreId} (h : s.ready c 1) (he : bit s.cores[c].epc 0 = false) :
    registerStep s (.eret c) c (s.cores[c].setF (s.cores[c].eflg &&& flgMask)) s.cores[c].epc 2 := by
  refine instr_completes (i := .eret c) (f := fun k => k.setF (k.eflg &&& flgMask)) h rfl (fun _ => rfl) fun u hu => ?_
  have hepc : u.cores[c].epc = s.cores[c].epc := by rw [hu.core]
  dsimp only
  rw [hepc, he, if_neg Bool.false_ne_true]
  exact ⟨rfl, rfl, rfl, rfl, rfl⟩

/-- An instruction completes whose body rewrites its core in a state in which no more than its reads were noted. -/
theorem reads_complete {s : State} {c : CoreId} {n cycles : Nat} {f : Core → Core} {i : Instr} {pc : Word}
    {body : State → Out} (h : s.ready c n) (hi : exec i s = .next (finish s (s.instr c n body)))
    (hf : ∀ k : Core, (f k).seen = f k.seen) (hs : StillUpdate f)
    (hb : ∀ u, Fetched s c u → ∃ w : State, body u = ⟨w.onCore c f, none, [], pc, cycles⟩ ∧ w.plain c = u.plain c) :
    registerStep s i c (f s.cores[c]) pc cycles := by
  obtain ⟨t, he, hc, ho, hblocks, u, w, hu, hw, hm, hr, hk⟩ := instr_answers
    (P := fun u w => ∃ x : State, w = x.onCore c f ∧ x.plain c = u.plain c) h hi hf fun u hu => by
      obtain ⟨w, hw, hp⟩ := hb u hu
      exact ⟨_, hw, (StoreKept.of_plain hp).onCore f hs, w, rfl, hp⟩
  obtain ⟨x, rfl, hp⟩ := hw
  exact ⟨t, he, hc, ho, fun b => (seenByte_congr (t := x) (by rw [hm, State.onCore_mem]) hr hk b).trans
    ((plain_seenByte hp b).trans (hu.byte b)), hblocks⟩

/-- A core with FLG and W15 as IRET leaves them: `f` popped, and the stack pointer at `sp`. -/
def Core.returned (k : Core) (f : Nat) (sp : Word) : Core := (k.setF (BitVec.ofNat 32 f &&& flgMask)).setR 15 sp

theorem Core.returned_still (f : Nat) (sp : Word) : StillUpdate fun k => k.returned f sp := fun k k' e => by
  have e' := congrArg (fun k : Core => k.returned f sp) e
  exact e'

/-- Two reads that meet no fault, the second of an even address, raise nothing. -/
theorem iretFault_none {f a : Got} (hf : f.exn = none) (ha : a.exn = none) (he : a.v % 2 = 0) :
    iretFault f a = none := by
  rw [iretFault, hf, ha, he]
  rfl

theorem iret_completes {s : State} {c : CoreId} (h : s.ready c 1)
    (hf : s.accessible c true false (s.cores[c].r 15).toNat 4)
    (hr : s.accessible c true false (s.cores[c].r 15 + 4#32).toNat 4)
    (he : s.valueAt (s.cores[c].r 15 + 4#32).toNat 4 % 2 = 0) :
    registerStep s (.iret c) c
      (s.cores[c].returned (s.valueAt (s.cores[c].r 15).toNat 4) (s.cores[c].r 15 + 8#32))
      (BitVec.ofNat 32 (s.valueAt (s.cores[c].r 15 + 4#32).toNat 4)) 3 := by
  let sp := s.cores[c].r 15
  let f : Core → Core := fun k => k.returned (s.valueAt sp.toNat 4) (sp + 8#32)
  have still : StillUpdate f := Core.returned_still (s.valueAt sp.toNat 4) (sp + 8#32)
  refine reads_complete (i := .iret c) (f := f) h rfl (fun _ => rfl) still fun u hu => ?_
  obtain ⟨fexn, func, fplain, fval⟩ := load_ok (by decide) (by decide) ((hu.accessible ..).2 hf)
  obtain ⟨rexn, runc, rplain, rval⟩ := load_ok (by decide) (by decide)
    ((accessible_congr fplain ..).2 ((hu.accessible ..).2 hr))
  rw [hu.value] at fval
  rw [value_congr fplain, hu.value] at rval
  refine ⟨_, ?_, rplain.trans fplain⟩
  dsimp only
  rw [Core.r_of_seen hu.seen, iretFault_none fexn rexn (by rw [rval, he]), func, runc, fval, rval]
  rfl

/-- Settles O13: ERET by the even address in EPC, IRET by its two reads, which nothing stops. -/
theorem returns : Obligations.Returns := by
  intro s c k sp f r h
  refine ⟨fun he => ?_, fun hf hr he => ?_⟩
  · exact eret_completes h he
  · exact iret_completes h hf hr he

end Sys2Proof.Machine

/-! # Register lanes -/

namespace Sys2Proof.Machine

open Sys2Proof

/-! ## Byte, halfword and word accesses to the registers of MEM (R64, R65) -/

theorem State.Noted.mm {s t : State} (h : s.Noted t) : t.mm = s.mm := by
  have k := congrArg State.mm h.base
  exact k

theorem plain_calm {s t : State} {c : CoreId} (h : s.plain c = t.plain c) : s.mm.calm = t.mm.calm := by
  have k := congrArg (fun u : State => u.mm.calm) h
  exact k

theorem finish_calm (old s : State) : (finish old s).mm.calm = s.mm.calm := by
  have k := congrArg (fun u : State => u.mm.calm) (finish_core0 old s)
  exact k

theorem Fetched.mem {s u : State} {c : CoreId} (h : Fetched s c u) : u.mem = s.mem := (plain_mem h.plain).trans rfl

theorem Fetched.calm {s u : State} {c : CoreId} (h : Fetched s c u) : u.mm.calm = s.mm.calm :=
  (plain_calm h.plain).trans rfl

/-- The registers below the conflict counts show nothing that an access moves. -/
theorem MemRegs.read_calm (r : MemRegs) {o : Nat} (h : o < 0x80) : r.calm.read o = r.read o := by
  have h1 : ¬(0x80 ≤ o ∧ o ≤ 0xA0) := by omega
  have h2 : o ≠ 0xA4 := by omega
  have h3 : o ≠ 0xC8 := by omega
  unfold MemRegs.read
  simp only [h1, h2, h3, if_false]
  rfl

/-- Nor does a read of them change anything. -/
theorem onMm_readEffect_low (s : State) {o : Nat} (h : o < 0x80) : (s.onMm fun q => q.readEffect o) = s := by
  have e : s.mm.readEffect o = s.mm := by
    unfold MemRegs.readEffect
    rw [if_neg (by omega), if_neg (by omega), if_neg (by omega)]
  show ({ s with mm := s.mm.readEffect o } : State) = s
  rw [e]

theorem liveReg_mem (s : State) {r : Nat} (h : r < 0x1000) : s.liveReg (ioMem + r) = false := by
  have places := blockPlaces
  have hp : ioPeg = 0xF0000 := rfl
  have low : decide (ioMem + r ∈ [0x10, 0x20, 0x28, 0x1000, 0x100C, ioRf + 0x3C, ioNet + 0x40, ioNet + 0x6C]) = false := by
    simp only [List.mem_cons, List.not_mem_nil, or_false, decide_eq_false_iff_not]
    omega
  unfold State.liveReg
  rw [low]
  simp (disch := omega) only [inRange_eq_false, Bool.false_and, Bool.or_false]

theorem busRead_mem (s : State) (a : Agent) {r : Nat} (h : r < 0x1000) :
    s.busRead a (ioMem + r) = (s.onMm fun q => q.readEffect r, s.mm.read r) := by
  have places := blockPlaces
  have live : s.markLive a (ioMem + r) = s := by
    unfold State.markLive
    rw [liveReg_mem s h, Bool.and_false]
    rfl
  unfold State.busRead
  rw [live]
  simp (disch := omega) [waymarkBlock, inRange_eq_false, inRange_eq_true, if_neg]

section Lanes

variable {u : State} {c : CoreId} {a n : Nat}

/-- The beat of an access to MEM is noted, and no more. -/
theorem noteBeat_mem (src : Nat) (lo : 0x400A0000 ≤ a) (hi : a < 0x400A1000) : u.Noted (u.noteBeat c src a) := by
  obtain ⟨o, rfl⟩ : ∃ o, a = 0x40000000 + o := ⟨a - 0x40000000, by omega⟩
  exact u.noteBeat_periph c src (by omega)

/-- Where an address of MEM lies: its register, and the lane in it. -/
theorem memLane (lo : 0x400A0000 ≤ a) (hi : a < 0x400A1000) :
    inPeriph a = true ∧ (a - periphBase) % 4 = a % 4 ∧
      a - periphBase - a % 4 = ioMem + (a - 0x400A0000 - a % 4) := by
  have places := blockPlaces
  have hb : periphBase = 0x40000000 := rfl
  exact ⟨inRange_eq_true (by omega) (by omega), by omega, by omega⟩

/-- An aligned load from a register of MEM answers its lanes. -/
theorem load_mem (ha : a % n = 0) (lo : 0x400A0000 ≤ a) (hi : a < 0x400A0080) :
    u.load c a n =
      ⟨u.noteBeat c 7 a, none, [], (u.mm.read (a - 0x400A0000 - a % 4)).toNat / 256 ^ (a % 4) % 256 ^ n⟩ := by
  obtain ⟨periph, lane, place⟩ := memLane lo (by omega)
  have places := blockPlaces
  have allowed : ioReadFault (ioMem + (a - 0x400A0000 - a % 4)) = none := by
    unfold ioReadFault
    rw [inRange_eq_false (by omega)]
    rfl
  rw [State.load, if_pos periph, State.ioLoad, if_neg (not_not_intro ha)]
  have low : a - 0x400A0000 - a % 4 < 0x80 := by omega
  simp only [lane, place, allowed, busRead_mem _ _ (show a - 0x400A0000 - a % 4 < 0x1000 by omega),
    onMm_readEffect_low _ low, (noteBeat_mem (u := u) (c := c) 7 lo (by omega)).mm]

theorem ioWriteFault_bankSel (v : Word) : u.ioWriteFault c (ioMem + 0xC0) v = none := rfl

/-- An aligned store to MEM_BANK_SEL writes the whole register, with zero in the other lanes. -/
theorem storeBytes_bankSel (v : Nat) (ha : a % n = 0) (lo : 0x400A00C0 ≤ a) (hi : a < 0x400A00C4) :
    u.storeBytes c a n v =
      ⟨(u.noteBeat c 8 a).onMm fun q =>
        { q with sel := BitVec.ofNat 32 (v % 256 ^ n * 256 ^ (a % 4)) &&& 0x3F#32 }, none, [], 0⟩ := by
  obtain ⟨periph, lane, place⟩ := memLane (a := a) (by omega) (by omega)
  rw [show a - 0x400A0000 - a % 4 = 0xC0 by omega] at place
  have written : ∀ (t : State) (x : Word), t.busWrite (.core c) (ioMem + 0xC0) x =
      t.onMm fun q => { q with sel := x &&& 0x3F#32 } := fun t x =>
    (busWrite_core_direct fun k => Bool.noConfusion k).trans (directWrite_mem t _ x (by decide))
  rw [State.storeBytes, if_pos periph, State.ioStore, if_neg (not_not_intro ha)]
  simp only [lane, place, ioWriteFault_bankSel, written]

end Lanes

/-- A load of `n` bytes from a register of MEM, into Wd. -/
theorem loadLanes_completes {s : State} {c : CoreId} {n : Nat} {i : Instr} {a d : Reg} (h : s.ready c 1)
    (hi : exec i s = .next (finish s (s.loads c 1 n (fun k => k.r a) zeroExt d)))
    (ha : (s.cores[c].r a).toNat % n = 0) (lo : 0x400A0000 ≤ (s.cores[c].r a).toNat)
    (hlt : (s.cores[c].r a).toNat < 0x400A0080) :
    registerStep s i c
      (s.cores[c].wrote d (zeroExt ((s.mm.read ((s.cores[c].r a).toNat - 0x400A0000 - (s.cores[c].r a).toNat % 4)).toNat /
        256 ^ ((s.cores[c].r a).toNat % 4) % 256 ^ n)))
      (s.nextPc c 1) 1 := by
  refine reads_complete (f := fun k => k.wrote d _) h hi (fun _ => rfl) (Core.wrote_still d _) fun u hu => ?_
  refine ⟨u.noteBeat c 7 (s.cores[c].r a).toNat, ?_, State.noteBeat_plain ..⟩
  dsimp only
  rw [Core.r_of_seen hu.seen, load_mem ha lo hlt, hu.nextPc, ← MemRegs.read_calm u.mm (by omega), hu.calm,
    MemRegs.read_calm _ (by omega)]
  rfl

/-- What an instruction without an exception makes of MEM, but for the counts that any access may move. -/
theorem instr_calm {s : State} {c : CoreId} {n : Nat} {body : State → Out} {r : MemRegs} (h : s.ready c n)
    (hb : ∀ u, Fetched s c u → ∃ w pc cycles, body u = ⟨w, none, [], pc, cycles⟩ ∧ w.mm.calm = r) :
    (s.instr c n body).mm.calm = r := by
  obtain ⟨u, hu, hr⟩ := instr_ready h body
  obtain ⟨w, pc, cycles, hw, hm⟩ := hb u hu
  rw [hw] at hr
  have done : s.instr c n body = w.complete c pc cycles := hr
  rw [done, State.complete_mm, hm]

/-- A store of `n` bytes to MEM_BANK_SEL. -/
theorem storeLanes_completes {s : State} {c : CoreId} {n : Nat} {i : Instr} {a d : Reg} (h : s.ready c 1)
    (hi : exec i s = .next (finish s (s.stores c 1 n (fun k => k.r a) d)))
    (ha : (s.cores[c].r a).toNat % n = 0) (lo : 0x400A00C0 ≤ (s.cores[c].r a).toNat)
    (hlt : (s.cores[c].r a).toNat < 0x400A00C4) :
    ∃ t, exec i s = .next t ∧ t.cores[c].seen = s.cores[c].after (s.nextPc c 1) 1 ∧ t.mem = s.mem ∧
      (∀ e : CoreId, e ≠ c → t.cores[e] = s.cores[e]) ∧ SameBlocks s t ∧
      t.mm.calm = { s.mm with sel := BitVec.ofNat 32 ((s.cores[c].r d).toNat % 256 ^ n *
        256 ^ ((s.cores[c].r a).toNat % 4)) &&& 0x3F#32 }.calm := by
  let ad := (s.cores[c].r a).toNat
  let sel := BitVec.ofNat 32 ((s.cores[c].r d).toNat % 256 ^ n * 256 ^ (ad % 4)) &&& 0x3F#32
  let made := fun u : State => (u.noteBeat c 8 ad).onMm fun q => { q with sel := sel }
  have body : ∀ u, Fetched s c u → (u.storeBytes c (u.cores[c].r a).toNat n (u.cores[c].r d).toNat).into c (fun _ k => k)
      (u.nextPc c 1) 1 = ⟨made u, none, [], s.nextPc c 1, 1⟩ := fun u hu => by
    rw [Core.r_of_seen hu.seen, Core.r_of_seen hu.seen, storeBytes_bankSel _ ha lo hlt, hu.nextPc]
    exact congrArg (fun w => (⟨w, none, [], s.nextPc c 1, 1⟩ : Out)) (onCore_id (made u) c)
  have calm : ∀ u, Fetched s c u → (made u).mm.calm = { s.mm with sel := sel }.calm := fun u hu => by
    have noted := (noteBeat_mem (u := u) (c := c) 8 (by omega : 0x400A0000 ≤ ad) (by omega)).mm
    have e := congrArg (fun q : MemRegs => { q with sel := sel }) ((congrArg MemRegs.calm noted).trans hu.calm)
    exact e
  have kept : ∀ u : State, StoreKept (u.onCore c id) (made u) c := fun u => by
    have e := StoreKept.of_plain (State.noteBeat_plain u c 8 ad)
    rw [onCore_id]
    exact e
  have mem : ∀ u : State, (made u).mem = u.mem := fun u => by
    have e := plain_mem (State.noteBeat_plain u c 8 ad)
    exact e
  obtain ⟨t, he, hc, ho, hs, u, w, hu, hw, hm, -⟩ := instr_answers (f := id) (P := fun u w => w.mem = u.mem) h hi
    (fun _ => rfl) fun u hu => ⟨made u, body u hu, kept u, mem u⟩
  have ht : finish s (s.stores c 1 n (fun k => k.r a) d) = t := Host.Outcome.next.inj (hi.symm.trans he)
  refine ⟨t, he, hc, hm.trans (hw.trans hu.mem), ho, hs, ?_⟩
  rw [← ht, finish_calm]
  exact instr_calm h fun u hu => ⟨made u, _, _, body u hu, calm u hu⟩

/-- Settles O8: a load answers its lanes of the register and a store zeroes the other lanes, whatever the size. -/
theorem registerLanes : Obligations.RegisterLanes := by
  intro s c d a k ad lane short write h
  have loaded : ∀ (i : Instr) (n : Nat), exec i s = .next (finish s (s.loads c 1 n (fun k => k.r a) zeroExt d)) →
      short i n := fun i n hi ha lo hlt => by
    have e := loadLanes_completes h hi ha lo hlt
    rw [State.nextPc_one] at e
    exact e
  have stored : ∀ (i : Instr) (n : Nat), exec i s = .next (finish s (s.stores c 1 n (fun k => k.r a) d)) →
      write i n := fun i n hi ha lo hlt => by
    have e := storeLanes_completes h hi ha lo hlt
    rw [State.nextPc_one] at e
    exact e
  exact ⟨loaded (.ldb c d a) 1 rfl, loaded (.ldh c d a) 2 rfl, loaded (.ldw c d a) 4 rfl,
    stored (.stb c d a) 1 rfl, stored (.sth c d a) 2 rfl, stored (.stw c d a) 4 rfl⟩

end Sys2Proof.Machine

/-! # Memory stays in canonical form

What each operation does to memory: most leave it as it was (`_mem`), and those that write it keep its canonical form
(`_wf`), so that every command and every idle tick keeps it (R73; assumption 5). -/

namespace Sys2Proof.Machine

open Sys2Proof

/-! ## Memory as a whole -/

theorem ite_mem (p : Prop) [Decidable p] (s t : State) : (if p then s else t).mem = if p then s.mem else t.mem :=
  apply_ite State.mem p s t

@[simp] theorem Memory.wf_ite (p : Prop) [Decidable p] (m k : Memory) :
    (if p then m else k).wf = if p then m.wf else k.wf := apply_ite Memory.wf p m k

theorem wf_of_mem {s t : State} (e : t.mem = s.mem) (h : s.mem.wf = true) : t.mem.wf = true := by rw [e, h]

theorem ite_wf {p : Prop} [Decidable p] {s t : State} (hs : s.mem.wf = true) (ht : t.mem.wf = true) :
    (if p then s else t).mem.wf = true := by
  split
  · exact hs
  · exact ht

theorem ite_fst_mem {α : Type} {p : Prop} [Decidable p] {x y : State × α} {m : Memory} (hx : x.1.mem = m)
    (hy : y.1.mem = m) : (if p then x else y).1.mem = m := by
  split
  · exact hx
  · exact hy

theorem foldl_mem {α : Type} {f : State → α → State} (hf : ∀ s a, (f s a).mem = s.mem) :
    ∀ (l : List α) (s : State), (l.foldl f s).mem = s.mem
  | [], _ => rfl
  | a :: l, s => (foldl_mem hf l (f s a)).trans (hf s a)

theorem foldl_wf {α : Type} {f : State → α → State} (hf : ∀ s a, s.mem.wf = true → (f s a).mem.wf = true) :
    ∀ (l : List α) (s : State), s.mem.wf = true → (l.foldl f s).mem.wf = true
  | [], _, h => h
  | a :: l, s, h => foldl_wf hf l (f s a) (hf s a h)

/-- The canonical form is about the listed cells alone. -/
theorem Memory.wf_of_cells {m k : Memory} (h : m.wf = true) (e : k.cells = m.cells) : k.wf = true := by
  unfold Memory.wf at *
  rw [e]
  exact h

theorem Memory.wf_filter {m k : Memory} (h : m.wf = true) (p : Nat → Bool)
    (e : k.cells = m.cells.filter fun c => p c.1) : k.wf = true := Memory.wf_of_cells (m.wf_keep h p) e

/-! ## Resets, records and ECC words -/

@[simp] theorem State.writeWhole_wf {s : State} (a : Nat) (bs : List Byte) (h : s.mem.wf = true) :
    (s.writeWhole a bs).mem.wf = true := by
  have written : (s.mem.setBytes a bs).wf = true := Memory.wf_setBytes bs _ a h
  unfold State.writeWhole
  dsimp only
  split
  · split <;> exact Memory.wf_of_cells written rfl
  · exact Memory.wf_of_cells written rfl

@[simp] theorem State.deviceReset_wf {s : State} (causes wake : Word) (h : s.mem.wf = true) :
    (s.deviceReset causes wake).mem.wf = true := Memory.wf_filter h (fun a => inMram a || inRom a) rfl

@[simp] theorem State.recordFault_wf {s : State} (f : FaultInfo) (act : Nat) (h : s.mem.wf = true) :
    (s.recordFault f act).mem.wf = true := by simp [State.recordFault, h]

@[simp] theorem State.safeState_wf {s : State} (f : FaultInfo) (h : s.mem.wf = true) : (s.safeState f).mem.wf = true := by
  simp [State.safeState, h]

@[simp] theorem State.powerOffEmpty_wf {s : State} (h : s.mem.wf = true) : s.powerOffEmpty.mem.wf = true := by
  unfold State.powerOffEmpty
  dsimp only
  split
  · exact h
  · exact Memory.wf_filter h (fun a => !(inSram a && decide ((a - sramBase) / 0x8000 ∈ _))) rfl

@[simp] theorem flushLook_foldl_mem (f : Migration → Nat) : ∀ (l : List Migration) (s : State),
    (l.foldl (fun s m => s.flushLook (f m)) s).mem = s.mem := foldl_mem fun _ _ => rfl

@[simp] theorem State.requestRetire_wf {s : State} (b addr : Nat) (h : s.mem.wf = true) :
    (s.requestRetire b addr).mem.wf = true := by
  unfold State.requestRetire
  dsimp only
  split
  · exact h
  · split
    · split
      · exact State.powerOffEmpty_wf h
      · exact State.powerOffEmpty_wf (by simp [h])
    · exact State.recordFault_wf _ _ h

@[simp] theorem State.countCorrection_wf {s : State} (word master : Nat) (h : s.mem.wf = true) :
    (s.countCorrection word master).mem.wf = true := by
  unfold State.countCorrection
  dsimp only
  split
  · exact State.requestRetire_wf _ _ (by simp [h])
  · simp [h]

@[simp] theorem State.correct_wf {s : State} (word master : Nat) (h : s.mem.wf = true) :
    (s.correct word master).mem.wf = true := Memory.wf_of_cells (State.countCorrection_wf word master h) rfl

@[simp] theorem State.uncorrected_wf {s : State} (word master : Nat) (kind : EccKind) (h : s.mem.wf = true) :
    (s.uncorrected word master kind).mem.wf = true := State.requestRetire_wf _ _ h

/-! ## Beats -/

@[simp] theorem State.readWord_wf {s : State} (master word : Nat) (h : s.mem.wf = true) :
    (s.readWord master word).s.mem.wf = true := by
  unfold State.readWord
  split
  · exact h
  · split <;> simp [h]

@[simp] theorem State.readWords_wf (master : Nat) : ∀ (l : List Nat) {s : State}, s.mem.wf = true →
    (s.readWords master l).s.mem.wf = true
  | [], _, h => h
  | w :: l, _, h => State.readWords_wf master l (State.readWord_wf master w h)

@[simp] theorem State.mergeWord_wf {s : State} (master a n word : Nat) (h : s.mem.wf = true) :
    (s.mergeWord master a n word).mem.wf = true := by
  unfold State.mergeWord
  dsimp only
  split
  · exact h
  · split
    · exact Memory.wf_of_cells h rfl
    · split
      · exact State.uncorrected_wf _ _ _ h
      · exact Memory.wf_of_cells (State.countCorrection_wf word master h) rfl

@[simp] theorem State.countWear_mem (s : State) (word : Nat) : (s.countWear word).mem = s.mem := by
  unfold State.countWear
  split
  · split <;> rfl
  · rfl

@[simp] theorem State.writeBeat_wf {s : State} (master a : Nat) (bs : List Byte) (h : s.mem.wf = true) :
    (s.writeBeat master a bs).mem.wf = true := Memory.wf_setBytes bs _ a (foldl_wf (fun _ w h => by simp [h]) _ _ h)

@[simp] theorem State.writeAll_wf (master : Nat) : ∀ (n a : Nat) (bs : List Byte) {s : State}, s.mem.wf = true →
    (s.writeAll master a bs n).mem.wf = true
  | 0, _, _, _, h => h
  | n + 1, a, bs, s, h => by
    unfold State.writeAll
    split
    · exact h
    · exact State.writeAll_wf master n _ _ (State.writeBeat_wf _ _ _ h)

@[simp] theorem State.notePortA_mem (s : State) (a n : Nat) (write : Bool) : (s.notePortA a n write).mem = s.mem := by
  unfold State.notePortA
  split <;> rfl

@[simp] theorem State.noteCollision_mem (s : State) (a n : Nat) : (s.noteCollision a n).mem = s.mem := by
  unfold State.noteCollision
  split <;> rfl

@[simp] theorem State.conflict_mem (s : State) (master : Nat) : (s.conflict master).mem = s.mem := rfl

@[simp] theorem State.pullWords_wf {s : State} (image line : Nat) (unc : List Nat) (h : s.mem.wf = true) :
    (s.pullWords image line unc).mem.wf = true := Memory.wf_of_cells (Memory.wf_copy _ h _ _ _) rfl

@[simp] theorem State.pull_wf {s : State} (line : Nat) (h : s.mem.wf = true) : (s.pull line).s.mem.wf = true := by
  unfold State.pull
  split <;> simp [h]

@[simp] theorem State.readBeat_wf {s : State} (master a n : Nat) (h : s.mem.wf = true) :
    (s.readBeat master a n).1.s.mem.wf = true := State.readWords_wf master _ h

@[simp] theorem State.storeBeat_wf {s : State} (master a : Nat) (bs : List Byte) (h : s.mem.wf = true) :
    (s.storeBeat master a bs).s.mem.wf = true := by
  unfold State.storeBeat
  split <;> simp [h]

@[simp] theorem State.react_wf {s : State} (f : FaultInfo) (h : s.mem.wf = true) : (s.react f).mem.wf = true := by
  unfold State.react
  split
  · exact h
  · split <;> simp [h]

@[simp] theorem State.reactUnc_wf (pc : Word) : ∀ (l : List Nat) {s : State}, s.mem.wf = true →
    (s.reactUnc pc l).mem.wf = true
  | [], _, h => h
  | w :: l, s, h => by
    unfold State.reactUnc
    split
    · exact State.safeState_wf _ h
    · exact State.reactUnc_wf pc l (State.recordFault_wf _ _ h)

/-! ## Shared operations -/

@[simp] theorem State.dropService_mem (s : State) (c : CoreId) : (s.dropService c).mem = s.mem := rfl

@[simp] theorem State.clearIdle_mem (s : State) : s.clearIdle.mem = s.mem := rfl

@[simp] theorem State.fireAwake_mem (s : State) (p : Nat) : (s.fireAwake p).mem = s.mem := by
  unfold State.fireAwake
  split <;> rfl

@[simp] theorem State.makeReady_mem (s : State) (task : Nat) (r : Readiness) (o : ReadyOrder) :
    (s.makeReady task r o).mem = s.mem := by simp [State.makeReady, ite_mem]

@[simp] theorem State.makeMail_mem (s : State) (task : Nat) (r : Readiness) : (s.makeMail task r).mem = s.mem := by
  simp [State.makeMail]

/-! ## Resets and records -/

@[simp] theorem State.storeWrites_mem (s : State) : s.storeWrites.mem = s.mem := rfl

/-! ## Accesses -/

@[simp] theorem State.lookUp_mem (s : State) (master i : Nat) : (s.lookUp master i).mem = s.mem := rfl

@[simp] theorem State.flushLook_mem (s : State) (i : Nat) : (s.flushLook i).mem = s.mem := rfl

/-! ## Balls -/

@[simp] theorem State.driveBall_mem (s : State) (b : Nat) (level : Bool) : (s.driveBall b level).mem = s.mem := rfl

/-! ## Counters -/

@[simp] theorem State.wrapCounter_mem (s : State) (i : Nat) : (s.wrapCounter i).mem = s.mem := rfl

/-! ## Radio -/

@[simp] theorem State.txBegin_mem (s : State) : s.txBegin.mem = s.mem := by
  unfold State.txBegin
  split <;> rfl

@[simp] theorem State.txOver_mem (s : State) : s.txOver.mem = s.mem := rfl

/-! ## Timers -/

@[simp] theorem State.timOutput_mem (s : State) (n : Nat) (c : TimCh) : (s.timOutput n c).mem = s.mem := by
  simp [State.timOutput, ite_mem]

@[simp] theorem State.timRelease_mem (s : State) (n k : Nat) (c : TimCh) : (s.timRelease n k c).mem = s.mem := by
  simp [State.timRelease, ite_mem]

@[simp] theorem State.timMatch_mem (s : State) (n k : Nat) (late : Bool) : (s.timMatch n k late).mem = s.mem := by
  simp [State.timMatch]

@[simp] theorem State.timMatches_mem (s : State) (n : Nat) (at_ : Word) (k : Nat) :
    (s.timMatches n at_ k).mem = s.mem := by
  induction k with
  | zero => rfl
  | succ k ih => simp [State.timMatches, ite_mem, ih]

@[simp] theorem State.timStepTo_mem (s : State) (n : Nat) (next : Word) : (s.timStepTo n next).1.mem = s.mem := by
  simp [State.timStepTo, ite_mem]

@[simp] theorem State.timTick_mem (s : State) (n : Nat) : (s.timTick n).1.mem = s.mem := by
  simp [State.timTick, apply_ite Prod.fst, ite_mem]

@[simp] theorem State.timCarry_mem (s : State) (n : Nat) : (s.timCarry n).mem = s.mem := by
  simp [State.timCarry, ite_mem]

@[simp] theorem State.timClock_mem (s : State) (n : Nat) : (s.timClock n).mem = s.mem := by
  simp [State.timClock, ite_mem]

@[simp] theorem State.timRestart_mem (s : State) (n : Nat) : (s.timRestart n).mem = s.mem := rfl

@[simp] theorem State.timCapture_mem (s : State) (n k : Nat) : (s.timCapture n k).mem = s.mem := by
  simp [State.timCapture]

@[simp] theorem State.timCmpSet_mem (s : State) (n k : Nat) (v : Word) : (s.timCmpSet n k v).mem = s.mem := rfl

@[simp] theorem State.timLate_mem (s : State) (n : Nat) (k : Nat) : (s.timLate n k).mem = s.mem := by
  induction k with
  | zero => rfl
  | succ k ih => simp [State.timLate, ite_mem, ih]

@[simp] theorem State.timStag_mem (s : State) (n : Nat) (b i0 : Word) (k : Nat) : (s.timStag n b i0 k).mem = s.mem := by
  induction k with
  | zero => rfl
  | succ k ih => simp [State.timStag, ite_mem, ih]

@[simp] theorem State.timChWrite_mem (s : State) (n k r : Nat) (v : Word) : (s.timChWrite n k r v).mem = s.mem := by
  simp [State.timChWrite, ite_mem]

@[simp] theorem State.timWrite_mem (s : State) (n off : Nat) (v : Word) : (s.timWrite n off v).mem = s.mem := by
  simp [State.timWrite, ite_mem]

@[simp] theorem State.timEdge_mem (s : State) (b : Nat) (rise : Bool) (k : Nat) : (s.timEdge b rise k).mem = s.mem := by
  induction k with
  | zero => rfl
  | succ k ih => simp [State.timEdge, ite_mem, State.timClock_mem, ih]

@[simp] theorem State.ballEdge_mem (s : State) (b : Nat) (rise : Bool) : (s.ballEdge b rise).mem = s.mem := by
  simp [State.ballEdge, ite_mem]

@[simp] theorem State.resyncBalls_mem (s : State) (k : Nat) : (s.resyncBalls k).mem = s.mem := by
  induction k with
  | zero => rfl
  | succ k ih => simp [State.resyncBalls, ite_mem, State.ballEdge_mem, ih]

@[simp] theorem State.resync_mem (s : State) : s.resync.mem = s.mem := by simp [State.resync]

/-! ## The Warden -/

@[simp] theorem State.putJournal_wf {s : State} (j : Journal) (h : s.mem.wf = true) :
    (s.putJournal j).mem.wf = true := by simp [State.putJournal, h]

@[simp] theorem State.freeJournal_wf {s : State} (j : Journal) (h : s.mem.wf = true) :
    (s.freeJournal j).mem.wf = true := by simp [State.freeJournal, h]

@[simp] theorem State.readRange_wf {s : State} (master a n : Nat) (h : s.mem.wf = true) :
    (s.readRange master a n).s.mem.wf = true := by simp [State.readRange, h]

@[simp] theorem State.readJournal_wf {s : State} (h : s.mem.wf = true) : s.readJournal.mem.wf = true := by
  simp [State.readJournal, h]

@[simp] theorem State.powerSram_wf {s : State} (b : Nat) (h : s.mem.wf = true) : (s.powerSram b).mem.wf = true := by
  unfold State.powerSram
  split
  · exact h
  · exact Memory.wf_filter h (fun a => !inRange a (bankBase b) 0x8000) rfl

@[simp] theorem State.fillFree_wf {s : State} (a n : Nat) (h : s.mem.wf = true) : (s.fillFree a n).mem.wf = true :=
  Memory.wf_setBytes _ _ a h

@[simp] theorem State.loadObject_wf {s : State} (src dst n : Nat) (h : s.mem.wf = true) :
    (s.loadObject src dst n).mem.wf = true := State.reactUnc_wf _ _ (State.writeWhole_wf _ _ (State.readWords_wf _ _ h))

@[simp] theorem State.dropMigration_wf {s : State} (i : Nat) (h : s.mem.wf = true) :
    (s.dropMigration i).mem.wf = true := by simp [State.dropMigration, ite_mem, h]

@[simp] theorem State.dropJournal_wf {s : State} (j : Journal) (h : s.mem.wf = true) :
    (s.dropJournal j).mem.wf = true := by simp [State.dropJournal, h]

@[simp] theorem State.declareAt_wf {s : State} (i : Nat) (e : ObjEntry) (p : Placement) (h : s.mem.wf = true) :
    (s.declareAt i e p).mem.wf = true := by
  have dropped := foldl_wf (fun _ k h => State.dropJournal_wf k h) p.drop s h
  have powered := State.powerSram_wf p.bank dropped
  have filled : ∀ (t : State) (a n : Nat), t.mem.wf = true → (if p.keep then t else if e.load then
      (match t.sourcePlace e.source.toNat n with
       | some src => t.loadObject src a n
       | none => t) else t.fillFree a n).mem.wf = true := fun t a n ht => by
    split
    · exact ht
    · split
      · split <;> simp [ht]
      · simp [ht]
  refine filled _ _ _ ?_
  rw [ite_mem]
  cases p.slot with
  | some k => simp [powered]
  | none => simp [powered]

@[simp] theorem State.purgeJournal_wf {s : State} (h : s.mem.wf = true) : s.purgeJournal.mem.wf = true :=
  foldl_wf (by simp +contextual) _ _ h

@[simp] theorem State.runWarden_wf {s : State} (r : WdnBank) (ctx : WdnCtx) (op : Nat) (h : s.mem.wf = true) :
    (s.runWarden r ctx op).s.mem.wf = true := by
  have read : (if searchesJournal r op then s.readJournal else s).mem.wf = true := by simp [ite_mem, h]
  unfold State.runWarden
  dsimp only
  generalize (if searchesJournal r op then s.readJournal else s) = t at read ⊢
  split
  · exact read
  · split
    · split <;> simp [read]
    · simp [apply_ite Done.s, ite_mem, read]

@[simp] theorem State.onWdnBank_mem (s : State) (b : Nat) (f : WdnBank → WdnBank) : (s.onWdnBank b f).mem = s.mem := rfl

@[simp] theorem State.wdnStart_wf {s : State} (b : Nat) (ctx : WdnCtx) (op : Nat) (h : s.mem.wf = true) :
    (s.wdnStart b ctx op).mem.wf = true := by simp [State.wdnStart, ite_mem, h]

@[simp] theorem State.wdnCommand_wf {s : State} (b : Nat) (ctx : WdnCtx) (op : Nat) (h : s.mem.wf = true) :
    (s.wdnCommand b ctx op).mem.wf = true := by simp [State.wdnCommand, ite_mem, h]

@[simp] theorem State.releaseDone_wf {s : State} (i : Nat) (h : s.mem.wf = true) : (s.releaseDone i).mem.wf = true := by
  have dropped := fun l => foldl_wf (fun _ k h => State.dropJournal_wf k h) l s h
  unfold State.releaseDone
  refine State.powerOffEmpty_wf ?_
  simp [ite_mem, h, dropped]

@[simp] theorem State.wdnFinish_wf {s : State} (b : Nat) (c : WdnCmd) (h : s.mem.wf = true) :
    (s.wdnFinish b c).mem.wf = true := by simp [State.wdnFinish, ite_mem, h]

@[simp] theorem State.wdnComplete_wf {s : State} (b : Nat) (h : s.mem.wf = true) : (s.wdnComplete b).mem.wf = true := by
  unfold State.wdnComplete
  dsimp only
  split
  · simp [h]
  · split <;> simp [h]

@[simp] theorem State.selectObj_mem (s : State) (b : Nat) (v : Word) : (s.selectObj b v).mem = s.mem := rfl

@[simp] theorem State.selectTsk_mem (s : State) (b : Nat) (v : Word) : (s.selectTsk b v).mem = s.mem := rfl

@[simp] theorem State.enqueue_mem (s : State) (jnl : List Journal) (obj b n : Nat) :
    (s.enqueue jnl obj b n).mem = s.mem := by
  unfold State.enqueue
  split <;> rfl

@[simp] theorem State.decidePlace_mem (jnl : List Journal) (s : State) (o : Nat) :
    (State.decidePlace jnl s o).mem = s.mem := by simp [State.decidePlace, ite_mem]

@[simp] theorem State.evacuate_mem (jnl : List Journal) (s : State) (o : Nat) :
    (State.evacuate jnl s o).mem = s.mem := by
  unfold State.evacuate
  dsimp only
  split
  · simp
  · split
    · split
      · simp
      · split <;> simp
    · split
      · simp
      · split <;> simp

@[simp] theorem State.decidePlacement_mem (s : State) : s.decidePlacement.mem = s.mem :=
  (foldl_mem (State.decidePlace_mem _) _ _).trans (foldl_mem (State.evacuate_mem _) _ _)

@[simp] theorem State.epochEnd_mem (s : State) : s.epochEnd.mem = s.mem := by simp [State.epochEnd, ite_mem]

@[simp] theorem State.migrationStart_wf {s : State} (h : s.mem.wf = true) : s.migrationStart.mem.wf = true := by
  unfold State.migrationStart
  split
  · exact h
  · split
    · exact h
    · exact State.powerSram_wf _ h

@[simp] theorem State.abandon_wf {s : State} (h : s.mem.wf = true) : s.abandon.mem.wf = true := by
  unfold State.abandon
  split <;> simp [h]

@[simp] theorem State.copyBad_wf {s : State} (h : s.mem.wf = true) : s.copyBad.mem.wf = true := by
  unfold State.copyBad
  dsimp only
  split
  · simp [h]
  · split
    · simp [h]
    · split
      · split <;> simp [h]
      · simp [h]

@[simp] theorem State.migrationDone_wf {s : State} (m : Migration) (h : s.mem.wf = true) :
    (s.migrationDone m).mem.wf = true := by
  have read := State.readWords_wf copyEngine (s.badWords (s.migSource m) (s.migBytes m)) h
  have written := fun bs => State.writeWhole_wf (migDest m) bs read
  have recorded : ∀ (t : State) (b : Bool) (o : Option Journal), t.mem.wf = true → (if b then (match o with
      | some j => t.putJournal { j with bank := m.bank, offs := m.offs }
      | none => t) else t).mem.wf = true := fun t b o ht => by
    split
    · split <;> simp [ht]
    · exact ht
  unfold State.migrationDone
  simp only [State.countSys_mem]
  exact State.powerOffEmpty_wf (recorded _ _ _ (written _))

@[simp] theorem State.migrationComplete_wf {s : State} (h : s.mem.wf = true) : s.migrationComplete.mem.wf = true := by
  unfold State.migrationComplete
  split
  · exact h
  · simp [ite_mem, h]

@[simp] theorem State.store_wf {s : State} (master a : Nat) (bs : List Byte) (h : s.mem.wf = true) :
    (s.store master a bs).s.mem.wf = true := by
  unfold State.store
  dsimp only
  split
  · simp [h]
  · split <;> simp [h]

@[simp] theorem State.invalidateCode_mem (s : State) (i a n : Nat) : (s.invalidateCode i a n).mem = s.mem := by
  unfold State.invalidateCode
  split <;> rfl

@[simp] theorem State.refill_mem (s : State) (c : CoreId) (a : Nat) : (s.refill c a).mem = s.mem := rfl

@[simp] theorem State.dispatchTo_mem (s : State) (i : Nat) (c : CoreId) : (s.dispatchTo i c).mem = s.mem := by
  simp [State.dispatchTo, ite_mem]

@[simp] theorem State.dispatchFirst_mem (s : State) (k : List Nat) : (s.dispatchFirst k).mem = s.mem := by
  induction k generalizing s with
  | nil => rfl
  | cons i is ih =>
    unfold State.dispatchFirst
    dsimp only
    split <;> simp [ite_mem, ih]

@[simp] theorem State.dispatch_mem (s : State) : s.dispatch.mem = s.mem := by simp [State.dispatch]

@[simp] theorem State.endTask_mem (s : State) (c : CoreId) : (s.endTask c).mem = s.mem := rfl

@[simp] theorem State.retireCore_mem (s : State) (c : CoreId) : (s.retireCore c).mem = s.mem := by
  simp [State.retireCore, ite_mem]

@[simp] theorem State.wdnBankWrite_mem (s : State) (b off : Nat) (v : Word) : (s.wdnBankWrite b off v).mem = s.mem := by
  simp [State.wdnBankWrite, ite_mem]

/-! ## Power, Strikes and wakes -/

@[simp] theorem State.startRamp_mem (s : State) : s.startRamp.mem = s.mem := by simp [State.startRamp, ite_mem]

@[simp] theorem State.holdDiv_mem (s : State) : s.holdDiv.mem = s.mem := by
  unfold State.holdDiv
  split <;> rfl

@[simp] theorem State.judgeOpp_mem (s : State) : s.judgeOpp.mem = s.mem := by simp [State.judgeOpp, ite_mem]

@[simp] theorem State.oppComplete_mem (s : State) (k : Nat) : (s.oppComplete k).mem = s.mem := rfl

@[simp] theorem State.setVpt_mem (s : State) (v : Word) : (s.setVpt v).mem = s.mem := by simp [State.setVpt]

@[simp] theorem State.setDiv_mem (s : State) (v : Word) : (s.setDiv v).mem = s.mem := by simp [State.setDiv, ite_mem]

@[simp] theorem State.buckSettled_mem (s : State) : s.buckSettled.mem = s.mem := by
  unfold State.buckSettled
  split <;> simp [ite_mem]

@[simp] theorem State.dividerChange_mem (s : State) : s.dividerChange.mem = s.mem := by
  simp [State.dividerChange, ite_mem]

@[simp] theorem State.discardQueue_mem (s : State) : s.discardQueue.mem = s.mem := by
  unfold State.discardQueue
  split <;> rfl

@[simp] theorem State.strikeBegin_wf {s : State} (kind : StrikeKind) (causes : Word) (h : s.mem.wf = true) :
    (s.strikeBegin kind causes).mem.wf = true := by simp [State.strikeBegin, ite_mem, h]

@[simp] theorem State.strikeWord_wf {s : State} (w : Nat × List Byte × Bool) (h : s.mem.wf = true) :
    (s.strikeWord w).mem.wf = true := by
  have written := State.writeWhole_wf w.1 w.2.1 h
  unfold State.strikeWord
  dsimp only
  split
  · exact Memory.wf_of_cells written rfl
  · exact written

@[simp] theorem State.strikeWrite_wf {s : State} (n : Nat) (h : s.mem.wf = true) : (s.strikeWrite n).mem.wf = true :=
  foldl_wf (fun _ w h => State.strikeWord_wf w h) _ _ (foldl_wf (fun _ w h => State.strikeWord_wf w h) _ _ h)

@[simp] theorem State.strikeReads_wf {s : State} (h : s.mem.wf = true) : s.strikeReads.s.mem.wf = true := by
  simp [State.strikeReads, h]

@[simp] theorem State.cutWrites_mem (s : State) : s.cutWrites.mem = s.mem := rfl

@[simp] theorem State.judgeFuses_mem (s : State) : s.judgeFuses.mem = s.mem := by
  unfold State.judgeFuses
  split <;> rfl

@[simp] theorem State.enterDepleted_mem (s : State) : s.enterDepleted.mem = s.mem := by
  unfold State.enterDepleted
  dsimp only
  split <;> simp

@[simp] theorem State.enterBivouac_wf {s : State} (wake : Word) (h : s.mem.wf = true) :
    (s.enterBivouac wake).mem.wf = true := by simp [State.enterBivouac, ite_mem, h]

@[simp] theorem State.strikeEnd_wf {s : State} (k : Strike) (h : s.mem.wf = true) : (s.strikeEnd k).mem.wf = true := by
  unfold State.strikeEnd
  split
  · split <;> simp [h]
  · split
    · split <;> simp [h]
    · simp [h]

@[simp] theorem State.strikeComplete_wf {s : State} (h : s.mem.wf = true) : s.strikeComplete.mem.wf = true := by
  unfold State.strikeComplete
  split
  · exact h
  · have read := State.strikeReads_wf h
    have written := State.strikeWrite_wf s.strikeReads.s.strikeLength read
    simp [ite_mem, read, written]

@[simp] theorem State.resetDue_wf {s : State} (cause : Word) (h : s.mem.wf = true) :
    (s.resetDue cause).mem.wf = true := by
  unfold State.resetDue
  split <;> simp [h]

@[simp] theorem State.commandReset_wf {s : State} (cause : Word) (h : s.mem.wf = true) :
    (s.commandReset cause).mem.wf = true := by
  unfold State.commandReset
  split <;> simp [ite_mem, h]

@[simp] theorem State.wake_wf {s : State} (k pin : Nat) (rise : Bool) (h : s.mem.wf = true) :
    (s.wake k pin rise).mem.wf = true := by
  unfold State.wake
  split
  · exact h
  · split
    · split <;> exact h
    · split
      · exact State.deviceReset_wf _ _ h
      · split <;> exact h

@[simp] theorem State.porchEdge_wf {s : State} (b : Nat) (rise : Bool) (h : s.mem.wf = true) :
    (s.porchEdge b rise).mem.wf = true := by simp [State.porchEdge, ite_mem, h]

@[simp] theorem State.debounce_wf {s : State} (b : Nat) (h : s.mem.wf = true) : (s.debounce b).mem.wf = true := by
  unfold State.debounce
  split <;> simp [ite_mem, h]

@[simp] theorem State.debounceAll_wf {s : State} (h : s.mem.wf = true) : s.debounceAll.mem.wf = true :=
  foldl_wf (fun _ b h => State.debounce_wf b h) _ _ h

@[simp] theorem State.idleExpire_wf {s : State} (h : s.mem.wf = true) : s.idleExpire.mem.wf = true := by
  simp [State.idleExpire, h]

@[simp] theorem State.idleTick_wf {s : State} (h : s.mem.wf = true) : s.idleTick.mem.wf = true := by
  unfold State.idleTick
  dsimp only
  split
  · simp [h]
  · split
    · simp [h]
    · split
      · split <;> simp [h]
      · simp [h]

@[simp] theorem State.idleDue_wf {s : State} (h : s.mem.wf = true) : s.idleDue.mem.wf = true := by
  simp [State.idleDue, ite_mem, h]

@[simp] theorem State.reserveFalls_mem (s : State) : s.reserveFalls.mem = s.mem := by
  unfold State.reserveFalls
  split <;> rfl

@[simp] theorem State.vmainLost_wf {s : State} (h : s.mem.wf = true) : s.vmainLost.mem.wf = true := by
  unfold State.vmainLost
  dsimp only
  split
  · simp [h]
  · split
    · split
      · simp [h]
      · split
        · simp [h]
        · split <;> simp [h]
    · split
      · simp [h]
      · split
        · simp [h]
        · split <;> simp [h]

@[simp] theorem State.vmainBack_wf {s : State} (h : s.mem.wf = true) : s.vmainBack.mem.wf = true := by
  unfold State.vmainBack
  dsimp only
  split
  · simp [h]
  · split
    · split <;> simp [h]
    · split <;> simp [h]

@[simp] theorem State.judgeLevel_mem (s : State) (k : Nat) : (s.judgeLevel k).mem = s.mem := by
  simp [State.judgeLevel, ite_mem]

@[simp] theorem State.levelWake_wf {s : State} (old : Hrv) (k : Nat) (h : s.mem.wf = true) :
    (s.levelWake old k).mem.wf = true := by simp [State.levelWake, ite_mem, h]

@[simp] theorem State.drained_wf {s : State} (h : s.mem.wf = true) : s.drained.mem.wf = true := by
  unfold State.drained
  split
  · simp [h]
  · split <;> simp [ite_mem, h]

@[simp] theorem State.lanternUpdate_wf {s : State} (delta : Int) (h : s.mem.wf = true) :
    (s.lanternUpdate delta).mem.wf = true := by
  have counted : ∀ n k, ((s.countSys 33 n).countSys 34 k).mem.wf = true := by simp [h]
  have woken : ∀ (old : Hrv) (t : State), t.mem.wf = true →
      (((t.levelWake old 0).levelWake old 1).levelWake old 2).mem.wf = true := fun old t ht =>
    State.levelWake_wf _ _ (State.levelWake_wf _ _ (State.levelWake_wf _ _ ht))
  unfold State.lanternUpdate
  split
  · exact h
  · dsimp only
    split
    · exact State.drained_wf (by simp [h])
    · split
      · exact State.deviceReset_wf _ _ (by simp [h])
      · exact woken _ _ (by simp [h])

@[simp] theorem State.switchOff_mem (s : State) : s.switchOff.mem = s.mem := by
  unfold State.switchOff
  split <;> rfl

@[simp] theorem State.tripStrike_wf {s : State} (h : s.mem.wf = true) : s.tripStrike.mem.wf = true := by
  unfold State.tripStrike
  split <;> simp [ite_mem, h]

@[simp] theorem State.pwrWrite_mem (s : State) (off : Nat) (v : Word) : (s.pwrWrite off v).mem = s.mem := by
  simp [State.pwrWrite, ite_mem]

@[simp] theorem State.clkWrite_mem (s : State) (off : Nat) (v : Word) : (s.clkWrite off v).mem = s.mem := by
  simp [State.clkWrite, ite_mem]

/-! ## Guylines and ownership -/

@[simp] theorem State.freeChannel_mem (s : State) (n : Nat) : (s.freeChannel n).mem = s.mem := by
  simp [State.freeChannel, ite_mem]

@[simp] theorem State.claimChannel_mem (s : State) (n c : Nat) : (s.claimChannel n c).mem = s.mem := rfl

@[simp] theorem State.freeChannelsOf_mem (s : State) (c : Nat) : (s.freeChannelsOf c).mem = s.mem :=
  foldl_mem (by simp) _ _

@[simp] theorem State.pinAction_mem (s : State) (n : Nat) : (s.pinAction n).mem = s.mem := by
  simp [State.pinAction, ite_mem]

@[simp] theorem State.consume_mem (s : State) (n prod : Nat) (t : Word) (k : Nat) :
    (s.consume n prod t k).mem = s.mem := by simp [State.consume, ite_mem]

@[simp] theorem State.offerConsumer_mem (n prod : Nat) (t : Word) (s : State) (k : Nat) :
    (State.offerConsumer n prod t s k).mem = s.mem := by simp [State.offerConsumer, ite_mem]

@[simp] theorem State.fireChannel_mem (prod : Nat) (s : State) (n : Nat) :
    (State.fireChannel prod s n).mem = s.mem := by
  unfold State.fireChannel
  dsimp only
  split <;> simp [foldl_mem, ite_mem]

@[simp] theorem State.arrive_mem (s : State) (f : Flight) : (s.arrive f).mem = s.mem := foldl_mem (by simp) _ _

@[simp] theorem State.deliverEvent_mem (s : State) (f : Flight) : (s.deliverEvent f).mem = s.mem := by
  simp [State.deliverEvent]

@[simp] theorem State.swFire_mem (s : State) (a : Agent) (v : Word) : (s.swFire a v).mem = s.mem := by
  simp [State.swFire, ite_mem]

@[simp] theorem State.irqEnable_mem (s : State) (b n : Nat) (v : Word) : (s.irqEnable b n v).mem = s.mem := rfl

@[simp] theorem State.irqPset_mem (s : State) (a : Agent) (b n : Nat) (v : Word) : (s.irqPset a b n v).mem = s.mem :=
  rfl

@[simp] theorem State.irqSwset_mem (s : State) (k : CoreId) (v : Word) : (s.irqSwset k v).mem = s.mem :=
  foldl_mem (by simp) _ _

@[simp] theorem State.irqPermit_mem (s : State) (b n : Nat) (v : Word) : (s.irqPermit b n v).mem = s.mem := rfl

@[simp] theorem State.irqReadEffect_mem (s : State) (b off : Nat) : (s.irqReadEffect b off).mem = s.mem := by
  unfold State.irqReadEffect
  split <;> rfl

@[simp] theorem State.irqWrite_mem (s : State) (a : Agent) (b off : Nat) (v : Word) :
    (s.irqWrite a b off v).mem = s.mem := by
  unfold State.irqWrite
  split
  · rfl
  · cases a <;> simp [ite_mem]

/-! ## Ridgepole -/

@[simp] theorem State.ridgeRead_wf {s : State} (a n : Nat) (h : s.mem.wf = true) : (s.ridgeRead a n).mem.wf = true := by
  simp [State.ridgeRead, h]

@[simp] theorem State.ridgeOutside_wf {s : State} (a : Nat) (h : s.mem.wf = true) :
    (s.ridgeOutside a).mem.wf = true := by simp [State.ridgeOutside, h]

@[simp] theorem State.writeGs_wf {s : State} (g : Groundsheet) (h : s.mem.wf = true) : (s.writeGs g).mem.wf = true := by
  simp [State.writeGs, h]

@[simp] theorem State.reloadGs_mem (s : State) : s.reloadGs.mem = s.mem := rfl

@[simp] theorem State.loadLimits_mem (s : State) (wlim wepoch ecc misc : Word) :
    (s.loadLimits wlim wepoch ecc misc).mem = s.mem := rfl

@[simp] theorem State.adoptLimits_mem (s : State) : s.adoptLimits.mem = s.mem := rfl

@[simp] theorem State.verify_wf {s : State} (p : Bool) (h : s.mem.wf = true) : (s.verify p).1.mem.wf = true := by
  simp [State.verify, h]

@[simp] theorem State.fallBack_wf {s : State} (h : s.mem.wf = true) : s.fallBack.mem.wf = true := by
  simp [State.fallBack, h]

@[simp] theorem State.tryStep_wf {s : State} (h : s.mem.wf = true) : s.tryStep.1.mem.wf = true := by
  unfold State.tryStep
  dsimp only
  split
  · simp [h]
  · split
    · split <;> simp [h]
    · split <;> simp [h]

@[simp] theorem State.selectImage_wf {s : State} (h : s.mem.wf = true) : s.selectImage.1.mem.wf = true := by
  simp [State.selectImage, apply_ite Prod.fst, ite_mem, h]

@[simp] theorem State.restoreRetired_mem (s : State) : s.restoreRetired.mem = s.mem := rfl

@[simp] theorem State.enterStopped_mem (s : State) : s.enterStopped.mem = s.mem := rfl

@[simp] theorem State.declareStack_wf {s : State} (c : Nat) (h : s.mem.wf = true) :
    (s.declareStack c).mem.wf = true := by
  unfold State.declareStack
  dsimp only
  split <;> simp [h]

@[simp] theorem State.startCanvas_wf {s : State} (p : Bool) (h : s.mem.wf = true) : (s.startCanvas p).mem.wf = true :=
  foldl_wf (fun _ _ h => by simp [h]) _ _ h

@[simp] theorem State.loadGs_mem (s : State) : s.loadGs.mem = s.mem := by simp [State.loadGs]

@[simp] theorem State.settleBoot_mem (s : State) : s.settleBoot.mem = s.mem := rfl

@[simp] theorem State.bootImage_wf {s : State} (h : s.mem.wf = true) : s.bootImage.mem.wf = true := by
  unfold State.bootImage
  dsimp only
  split <;> simp [ite_mem, h]

@[simp] theorem State.pitchReads_wf {s : State} (h : s.mem.wf = true) : s.pitchReads.mem.wf = true := by
  simp [State.pitchReads, h]

@[simp] theorem State.fullBoot_wf {s : State} (h : s.mem.wf = true) : s.fullBoot.mem.wf = true := by
  simp [State.fullBoot, ite_mem, h]

@[simp] theorem State.pitchPath_wf {s : State} (h : s.mem.wf = true) : s.pitchPath.mem.wf = true := by
  unfold State.pitchPath
  dsimp only
  split <;> simp [ite_mem, h]

@[simp] theorem State.fails_mem (s : State) (n : Nat) : (s.fails n).s.mem = s.mem := rfl

@[simp] theorem State.serves_mem (s : State) (w1 w2 w3 : Word) : (s.serves w1 w2 w3).s.mem = s.mem := rfl

@[simp] theorem State.svcInfo_mem (s : State) : s.svcInfo.s.mem = s.mem := rfl

@[simp] theorem State.svcConfirm_wf {s : State} (h : s.mem.wf = true) : s.svcConfirm.s.mem.wf = true := by
  unfold State.svcConfirm
  dsimp only
  split
  · simp [h]
  · split <;> simp [h]

@[simp] theorem State.imgSwitch_wf {s : State} (n : Nat) (h : s.mem.wf = true) : (s.imgSwitch n).1.mem.wf = true := by
  unfold State.imgSwitch
  dsimp only
  split
  · simp [h]
  · split
    · simp [h]
    · split <;> simp [h]

@[simp] theorem State.svcRollback_mem (s : State) : s.svcRollback.s.mem = s.mem := by
  unfold State.svcRollback
  dsimp only
  split
  · simp
  · split
    · simp
    · split <;> simp

@[simp] theorem State.endRollback_mem (s : State) (r : TrapAnswer) : (s.endRollback r).s.mem = s.mem := by
  simp [State.endRollback, apply_ite Served.s, ite_mem]

@[simp] theorem State.svcPinClaim_mem (s : State) (c : CoreId) (w1 w2 : Word) :
    (s.svcPinClaim c w1 w2).s.mem = s.mem := by
  unfold State.svcPinClaim
  dsimp only
  split
  · simp
  · split <;> simp

@[simp] theorem State.svcPinFree_mem (s : State) (c : CoreId) (w1 : Word) : (s.svcPinFree c w1).s.mem = s.mem := by
  unfold State.svcPinFree
  dsimp only
  split
  · simp
  · split <;> simp

@[simp] theorem State.svcChanClaim_mem (s : State) (c : CoreId) (w1 : Word) : (s.svcChanClaim c w1).s.mem = s.mem := by
  unfold State.svcChanClaim
  dsimp only
  split
  · split <;> simp
  · split
    · simp
    · split <;> simp

@[simp] theorem State.svcChanFree_mem (s : State) (c : CoreId) (w1 : Word) : (s.svcChanFree c w1).s.mem = s.mem := by
  simp [State.svcChanFree, apply_ite Served.s, ite_mem]

@[simp] theorem State.requestPoint_mem (s : State) (p : Nat) : (s.requestPoint p).mem = s.mem := by
  simp [State.requestPoint, ite_mem]

@[simp] theorem State.svcDvfs_mem (s : State) (w1 : Word) : (s.svcDvfs w1).s.mem = s.mem := by
  simp [State.svcDvfs, apply_ite Served.s, ite_mem]

@[simp] theorem State.svcStay_mem (s : State) (c : CoreId) (w1 : Word) : (s.svcStay c w1).s.mem = s.mem := by
  unfold State.svcStay
  split <;> rfl

@[simp] theorem State.ridgeByte_wf {s : State} (a : Nat) (h : s.mem.wf = true) : (s.ridgeByte a).1.mem.wf = true := by
  unfold State.ridgeByte
  split <;> simp [h]

@[simp] theorem State.ridgeBytes_wf : ∀ (k a : Nat) {s : State}, s.mem.wf = true → (s.ridgeBytes a k).1.mem.wf = true
  | 0, _, _, h => h
  | k + 1, a, _, h => State.ridgeBytes_wf k (a + 1) (State.ridgeByte_wf a h)

@[simp] theorem State.svcKeyLoad_wf {s : State} (c : CoreId) (w1 w2 : Word) (h : s.mem.wf = true) :
    (s.svcKeyLoad c w1 w2).s.mem.wf = true := by simp [State.svcKeyLoad, apply_ite Served.s, ite_mem, h]

@[simp] theorem State.svcKeyCheck_mem (s : State) (w1 : Word) : (s.svcKeyCheck w1).s.mem = s.mem := by
  unfold State.svcKeyCheck
  split
  · simp
  · split <;> simp

@[simp] theorem State.svcEmbRights_mem (s : State) (c : CoreId) (w1 w2 : Word) :
    (s.svcEmbRights c w1 w2).s.mem = s.mem := by
  unfold State.svcEmbRights
  dsimp only
  split
  · simp
  · split <;> simp

@[simp] theorem State.svcWdogSet_mem (s : State) (w1 : Word) : (s.svcWdogSet w1).s.mem = s.mem := by
  unfold State.svcWdogSet
  dsimp only
  split
  · simp
  · split <;> simp

@[simp] theorem State.svcWdogKick_mem (s : State) : s.svcWdogKick.s.mem = s.mem := rfl

@[simp] theorem State.service_wf {s : State} (c : CoreId) (n : Nat) (h : s.mem.wf = true) :
    (s.service c n).s.mem.wf = true := by
  unfold State.service
  dsimp only
  split <;> simp [h]

@[simp] theorem State.takeService_wf {s : State} (c : CoreId) (n : Nat) (h : s.mem.wf = true) :
    (s.takeService c n).mem.wf = true := by
  have served := State.service_wf (s := (s.onCore c fun k => { k with asked := none }).onRp fun r =>
    { r with serving := some (c, n), served := c }) c n h
  unfold State.takeService
  dsimp only
  split
  · exact served
  · exact served

@[simp] theorem State.takeNext_wf {s : State} (h : s.mem.wf = true) : s.takeNext.mem.wf = true := by
  unfold State.takeNext
  split
  · exact h
  · split
    · exact State.takeService_wf _ _ h
    · exact h

@[simp] theorem State.trailSubmit_mem (s : State) (resp : List Byte) (scope : Word) :
    (s.trailSubmit resp scope).mem = s.mem := by simp [State.trailSubmit, ite_mem]

/-! ## The network engine: tables and commands -/

@[simp] theorem State.netFlag_mem (s : State) (i : Nat) : (s.netFlag i).mem = s.mem := rfl

@[simp] theorem State.netStore_wf {s : State} (i off : Nat) (bs : List Byte) (h : s.mem.wf = true) :
    (s.netStore i off bs).mem.wf = true := foldl_wf (fun _ _ h => State.store_wf _ _ _ h) _ _ (by simp [h])

@[simp] theorem State.netWords_wf {s : State} (a n : Nat) (h : s.mem.wf = true) : (s.netWords a n).1.mem.wf = true := by
  simp [State.netWords, h]

theorem State.unlessBad_wf {s : State} {r : State × Bool} {count go : State → State} (hr : r.1.mem.wf = true)
    (hc : ∀ t : State, t.mem.wf = true → (count t).mem.wf = true)
    (hg : ∀ t : State, t.mem.wf = true → (go t).mem.wf = true) : (s.unlessBad r count go).mem.wf = true := by
  unfold State.unlessBad
  split
  · split
    · exact hr
    · exact hc _ hr
  · exact hg _ hr

@[simp] theorem State.readTable_wf {s : State} (h : s.mem.wf = true) : s.readTable.1.mem.wf = true := by
  unfold State.readTable
  split <;> simp [h]

@[simp] theorem State.tabPut_wf {s : State} (off n v : Nat) (h : s.mem.wf = true) :
    (s.tabPut off n v).mem.wf = true := by
  unfold State.tabPut
  split
  · split <;> simp [h]
  · exact h

@[simp] theorem State.netSync_mem (s : State) : s.netSync.mem = s.mem := rfl

@[simp] theorem State.putNbr_wf {s : State} (b : Nbr) (h : s.mem.wf = true) : (s.putNbr b).mem.wf = true := by
  unfold State.putNbr
  simp [h]

@[simp] theorem State.putRoute_wf {s : State} (dest via : Nat) (h : s.mem.wf = true) :
    (s.putRoute dest via).mem.wf = true := by
  unfold State.putRoute
  dsimp only
  split
  · exact State.tabPut_wf _ _ _ h
  · exact h

@[simp] theorem State.dropRoutes_wf {s : State} (via : Nat) (h : s.mem.wf = true) : (s.dropRoutes via).mem.wf = true :=
  foldl_wf (fun _ _ h => State.tabPut_wf _ _ _ h) _ _ h

@[simp] theorem State.putJoined_wf {s : State} (joined : Bool) (h : s.mem.wf = true) :
    (s.putJoined joined).mem.wf = true := by
  unfold State.putJoined
  simp [h]

@[simp] theorem State.putParent_wf {s : State} (w : Word) (h : s.mem.wf = true) : (s.putParent w).mem.wf = true := by
  unfold State.putParent
  simp [h]

@[simp] theorem State.freshTable_wf {s : State} (h : s.mem.wf = true) : s.freshTable.mem.wf = true := by
  unfold State.freshTable
  split
  · rw [State.netSync_mem]
    exact State.putParent_wf _ (State.tabPut_wf _ _ _ (State.tabPut_wf _ _ _ (State.netStore_wf _ _ _ h)))
  · exact h

@[simp] theorem State.remap_mem (s : State) : s.remap.mem = s.mem := by
  unfold State.remap
  split <;> rfl

@[simp] theorem State.putBuf_wf {s : State} (b : Nat) (bs : List Byte) (h : s.mem.wf = true) :
    (s.putBuf b bs).mem.wf = true := by simp [State.putBuf, h]

@[simp] theorem State.txPut_wf {s : State} (f : TxFrame) (h : s.mem.wf = true) : (s.txPut f).mem.wf = true := by
  unfold State.txPut
  split <;> simp [h]

@[simp] theorem State.txPutAlarm_wf {s : State} (typ dst : Nat) (payload : List Byte) (h : s.mem.wf = true) :
    (s.txPutAlarm typ dst payload).mem.wf = true := by simp [State.txPutAlarm, h]

@[simp] theorem State.queueMessage_wf {s : State} (hop final tid kind : Nat) (alarm : Bool) (trans : Option Nat)
    (wait : Nat) (bs : List Byte) (h : s.mem.wf = true) : (s.queueMessage hop final tid kind alarm trans wait bs).mem.wf = true :=
  foldl_wf (by simp +contextual) _ _ h

@[simp] theorem State.queueControl_wf {s : State} (final : Nat) (bs : List Byte) (h : s.mem.wf = true) :
    (s.queueControl final bs).mem.wf = true := by
  unfold State.queueControl
  split <;> simp [h]

@[simp] theorem State.netCode_mem (s : State) (k : Nat) : (s.netCode k).mem = s.mem := rfl

@[simp] theorem State.regionFault_wf {s : State} (master a : Nat) (h : s.mem.wf = true) :
    (s.regionFault master a).mem.wf = true := by simp [State.regionFault, h]

@[simp] theorem State.netRead_wf {s : State} (a n : Nat) (h : s.mem.wf = true) : (s.netRead a n).1.mem.wf = true := by
  have seen : ∀ l : List Nat, (l.foldl (fun s i => s.lookUp netMaster i) s).mem.wf = true := fun l =>
    foldl_wf (fun _ _ h => by simp [h]) l s h
  have read := fun l bad => State.readWords_wf netMaster bad (seen l)
  unfold State.netRead
  dsimp only
  refine State.reactUnc_wf _ _ ?_
  split
  · exact State.regionFault_wf _ _ (read _ _)
  · exact read _ _

@[simp] theorem State.sendTid_wf {s : State} (h : s.mem.wf = true) : s.sendTid.1.mem.wf = true := by
  simp [State.sendTid, apply_ite Prod.fst, ite_mem, h]

@[simp] theorem State.sendMessage_wf {s : State} (bs : List Byte) (h : s.mem.wf = true) :
    (s.sendMessage bs).mem.wf = true := by
  have tid := State.sendTid_wf h
  unfold State.sendMessage
  dsimp only
  split
  · simp [tid]
  · exact State.queueMessage_wf _ _ _ _ _ _ _ _ (by simp [tid])

@[simp] theorem State.netDropped_mem (s : State) : s.netDropped.mem = s.mem := rfl

@[simp] theorem State.netSend_wf {s : State} (h : s.mem.wf = true) : s.netSend.mem.wf = true := by
  have read := fun a n => State.netRead_wf a n h
  unfold State.netSend
  dsimp only
  split
  · simp [ite_mem, h]
  · exact State.unlessBad_wf (read _ _) (fun t ht => by simp [ht]) fun t ht => by simp [ht]

@[simp] theorem State.netListen_mem (s : State) : s.netListen.mem = s.mem := by
  unfold State.netListen
  split <;> rfl

@[simp] theorem State.netClose_mem (s : State) : s.netClose.mem = s.mem := by simp [State.netClose, ite_mem]

@[simp] theorem State.netJoin_wf {s : State} (h : s.mem.wf = true) : s.netJoin.mem.wf = true := by
  unfold State.netJoin
  dsimp only
  split <;> simp [h]

@[simp] theorem State.netLeave_wf {s : State} (h : s.mem.wf = true) : s.netLeave.mem.wf = true := by
  unfold State.netLeave
  dsimp only
  simp [h]

@[simp] theorem State.netSurvey_mem (s : State) : s.netSurvey.mem = s.mem := by simp [State.netSurvey, ite_mem]

@[simp] theorem State.netAdmit_wf {s : State} (h : s.mem.wf = true) : s.netAdmit.mem.wf = true := by
  unfold State.netAdmit
  dsimp only
  split
  · simp [h]
  · split
    · split
      · simp [h]
      · split <;> simp [h]
    · simp [h]

@[simp] theorem State.netKeyset_wf {s : State} (h : s.mem.wf = true) : s.netKeyset.mem.wf = true := by
  unfold State.netKeyset
  dsimp only
  split
  · simp [h]
  · split <;> simp [h]

@[simp] theorem State.swapKeys_wf {s : State} (h : s.mem.wf = true) : s.swapKeys.mem.wf = true := by
  unfold State.swapKeys
  dsimp only
  split <;> simp [h]

@[simp] theorem State.netKeyuse_wf {s : State} (h : s.mem.wf = true) : s.netKeyuse.mem.wf = true := by
  unfold State.netKeyuse
  split <;> simp [ite_mem, h]

@[simp] theorem State.netCommand_wf {s : State} (op : Nat) (h : s.mem.wf = true) : (s.netCommand op).mem.wf = true := by
  unfold State.netCommand
  split <;> simp [ite_mem, h]

@[simp] theorem State.netStop_mem (s : State) : s.netStop.mem = s.mem := rfl

@[simp] theorem State.loadSlots_mem (s : State) : s.loadSlots.mem = s.mem := rfl

@[simp] theorem State.peekParent_mem (s : State) : s.peekParent.mem = s.mem := by
  unfold State.peekParent
  split <;> rfl

@[simp] theorem State.ageTable_wf {s : State} (k : Nat) (h : s.mem.wf = true) : (s.ageTable k).mem.wf = true :=
  foldl_wf (fun _ _ h => State.putNbr_wf _ h) _ _ h

@[simp] theorem State.netStart_wf {s : State} (h : s.mem.wf = true) : s.netStart.mem.wf = true := by
  have read := State.readTable_wf h
  unfold State.netStart
  simp [ite_mem, State.ageTable_wf, State.freshTable_wf, read]

@[simp] theorem State.netCtlWrite_wf {s : State} (v : Word) (h : s.mem.wf = true) :
    (s.netCtlWrite v).mem.wf = true := by
  unfold State.netCtlWrite
  dsimp only
  split
  · split
    · exact State.netStart_wf h
    · simp [h]
  · simp [ite_mem, h]

@[simp] theorem State.netIdWrite_mem (s : State) (v : Word) : (s.netIdWrite v).mem = s.mem := by
  simp [State.netIdWrite, ite_mem]

@[simp] theorem State.netSettle_mem (s : State) : s.netSettle.mem = s.mem := by
  unfold State.netSettle
  split <;> rfl

@[simp] theorem State.netWrite_wf {s : State} (off : Nat) (v : Word) (h : s.mem.wf = true) :
    (s.netWrite off v).mem.wf = true := by simp [State.netWrite, ite_mem, State.netCtlWrite_wf, State.netCommand_wf, h]

/-! ## The network engine: frames and slots -/

@[simp] theorem State.nextFcnt_mem (s : State) : s.nextFcnt.mem = s.mem := by simp [State.nextFcnt, ite_mem]

@[simp] theorem State.takeLseq_wf {s : State} (f : TxFrame) (h : s.mem.wf = true) : (s.takeLseq f).1.mem.wf = true := by
  unfold State.takeLseq
  split
  · exact h
  · split
    · exact h
    · split
      · exact State.putNbr_wf _ h
      · exact h

@[simp] theorem State.launch_wf {s : State} (f : TxFrame) (rest : List TxFrame) (rf : Rf) (h : s.mem.wf = true) :
    (s.launch f rest rf).mem.wf = true := by
  have taken := State.takeLseq_wf f h
  simp [State.launch, taken]

@[simp] theorem State.refuseFrame_mem (s : State) (f : TxFrame) (rest : List TxFrame) (rf : Rf) (o : Offer) :
    (s.refuseFrame f rest rf o).mem = s.mem := by simp [State.refuseFrame]

@[simp] theorem State.failFrame_mem (s : State) (f : TxFrame) : (s.failFrame f).mem = s.mem := by
  simp [State.failFrame, ite_mem]

@[simp] theorem State.readFrame_wf {s : State} (f : TxFrame) (h : s.mem.wf = true) :
    (s.readFrame f).1.mem.wf = true := by
  unfold State.readFrame
  dsimp only
  split <;> simp [h]

@[simp] theorem State.offerReady_wf {s : State} (f : TxFrame) (rest : List TxFrame) (means : List Byte)
    (h : s.mem.wf = true) : (s.offerReady f rest means).mem.wf = true := by
  unfold State.offerReady
  dsimp only
  split
  · exact State.launch_wf _ _ _ h
  · simp [ite_mem, h]
  · simp [h]

@[simp] theorem State.offerFrame_wf {s : State} (f : TxFrame) (rest : List TxFrame) (means : List Byte)
    (h : s.mem.wf = true) : (s.offerFrame f rest means).mem.wf = true :=
  State.unlessBad_wf (State.readFrame_wf f h) (fun t ht => by simp [ht]) fun t ht => State.offerReady_wf _ _ _ ht

@[simp] theorem State.sendNext_wf {s : State} (first : Bool) (means : List Byte) (h : s.mem.wf = true) :
    (s.sendNext first means).mem.wf = true := by
  unfold State.sendNext
  dsimp only
  split
  · exact h
  · split
    · split
      · exact State.offerFrame_wf _ _ _ h
      · exact h
    · split
      · exact State.offerFrame_wf _ _ _ h
      · exact h

@[simp] theorem State.sendMore_wf {s : State} (h : s.mem.wf = true) : s.sendMore.mem.wf = true :=
  State.sendNext_wf _ _ h

@[simp] theorem State.takeParent_wf {s : State} (node : Nat) (h : s.mem.wf = true) :
    (s.takeParent node).mem.wf = true := by
  have put := foldl_wf
    (f := fun (s : State) b => if b.isParent ∧ b.node ≠ node then s.putNbr { b with isParent := false } else s)
    (fun _ _ h => by simp [ite_mem, State.putNbr_wf, h]) s.nbrs s h
  unfold State.takeParent
  dsimp only
  split
  · exact put
  · rw [State.remap_mem]
    exact State.putNbr_wf _ (State.putParent_wf _ put)

@[simp] theorem State.sentFrame_wf {s : State} (f : TxFrame) (h : s.mem.wf = true) : (s.sentFrame f).mem.wf = true := by
  have taken : ∀ t : State, t.mem.wf = true → (t.takeParent f.dst).mem.wf = true := fun t ht => State.takeParent_wf _ ht
  unfold State.sentFrame
  dsimp only
  split
  · exact h
  · split
    · split
      · simp [State.putNbr_wf, h]
      · exact h
    · split
      · split
        · exact taken _ h
        · exact State.txPut_wf _ (taken _ h)
      · simp [ite_mem, h]

@[simp] theorem State.txEnd_wf {s : State} (h : s.mem.wf = true) : s.txEnd.mem.wf = true := by
  unfold State.txEnd
  split
  · exact h
  · dsimp only
    split
    · simp [ite_mem, h]
    · split
      · simp [h]
      · have sent := fun (t : State) f (ht : t.mem.wf = true) => State.sendMore_wf (State.sentFrame_wf f ht)
        split
        · simp [h]
        · split <;> simp only [State.netListen_mem, State.netSettle_mem] <;> exact sent _ _ (by simp [h])

@[simp] theorem State.returnFrame_mem (s : State) (cut : Bool) : (s.returnFrame cut).mem = s.mem := by
  simp [State.returnFrame]

@[simp] theorem State.pllFail_mem (s : State) : s.pllFail.mem = s.mem := by simp [State.pllFail, ite_mem]

@[simp] theorem State.txAbort_mem (s : State) (vcell : Nat) : (s.txAbort vcell).mem = s.mem := by
  simp [State.txAbort, ite_mem]

@[simp] theorem State.ackTimeout_wf {s : State} (h : s.mem.wf = true) : s.ackTimeout.mem.wf = true := by
  unfold State.ackTimeout
  split <;> simp [ite_mem, h]

@[simp] theorem State.micFail_mem (s : State) : s.micFail.mem = s.mem := rfl

@[simp] theorem State.slotWake_wf {s : State} (slot : Nat) (h : s.mem.wf = true) : (s.slotWake slot).mem.wf = true := by
  simp [State.slotWake, ite_mem, h]

@[simp] theorem State.newSuperframe_wf {s : State} (h : s.mem.wf = true) : s.newSuperframe.mem.wf = true := by
  simp [State.newSuperframe, ite_mem, State.ageTable_wf, h]

@[simp] theorem State.alarmTurn_wf {s : State} (means : List Byte) (h : s.mem.wf = true) :
    (s.alarmTurn means).mem.wf = true := by
  unfold State.alarmTurn
  dsimp only
  split
  · split
    · exact State.offerFrame_wf _ _ _ h
    · exact h
  · split
    · simp [h]
    · exact h

@[simp] theorem State.takeSlot_wf {s : State} (slot : Nat) (means : List Byte) (h : s.mem.wf = true) :
    (s.takeSlot slot means).mem.wf = true := by
  have read := State.readTable_wf h
  simp [State.takeSlot, ite_mem, read]

@[simp] theorem State.turnSlot_wf {s : State} (slot : Nat) (h : s.mem.wf = true) : (s.turnSlot slot).mem.wf = true := by
  simp [State.turnSlot, ite_mem, h]

@[simp] theorem State.slotStart_wf {s : State} (slot : Nat) (inTime : Bool) (means : List Byte) (h : s.mem.wf = true) :
    (s.slotStart slot inTime means).mem.wf = true := by
  have turned := State.turnSlot_wf slot h
  simp [State.slotStart, ite_mem, turned, h]

@[simp] theorem State.missParent_mem (s : State) : s.missParent.mem = s.mem := by
  unfold State.missParent
  split <;> rfl

@[simp] theorem State.attachTo_wf {s : State} (b : Nbr) (h : s.mem.wf = true) : (s.attachTo b).mem.wf = true := by
  simp [State.attachTo, h]

@[simp] theorem State.reevaluate_wf {s : State} (h : s.mem.wf = true) : s.reevaluate.mem.wf = true := by
  unfold State.reevaluate
  dsimp only
  split
  · split
    · simp [h]
    · split <;> simp [h]
  · simp [h]

@[simp] theorem State.slotEnd_wf {s : State} (h : s.mem.wf = true) : s.slotEnd.mem.wf = true := by
  unfold State.slotEnd
  dsimp only
  split
  · simp [h]
  · split <;> simp [h]

@[simp] theorem State.windowClose_mem (s : State) : s.windowClose.mem = s.mem := by simp [State.windowClose, ite_mem]

@[simp] theorem State.takeFrame_wf {s : State} (p : PhyFrame) (h : s.mem.wf = true) :
    (s.takeFrame p).mem.wf = true := by
  unfold State.takeFrame
  dsimp only
  split <;> simp [h]

@[simp] theorem State.afterFrame_mem (s : State) : s.afterFrame.mem = s.mem := by simp [State.afterFrame, ite_mem]

@[simp] theorem State.frameSpoilt_mem (s : State) : s.frameSpoilt.mem = s.mem := by simp [State.frameSpoilt]

theorem State.arrives_wf {s : State} (p : PhyFrame) (typ : Nat) {body : State → RxFrame → State}
    (h : s.mem.wf = true) (hb : ∀ (t : State) f, t.mem.wf = true → (body t f).mem.wf = true) :
    (s.arrives p typ body).mem.wf = true := by
  have taken := State.takeFrame_wf p h
  unfold State.arrives
  dsimp only
  split
  · exact h
  · split
    · simp [taken]
    · exact State.unlessBad_wf (State.readTable_wf taken) (fun t ht => by simp [ht]) fun t ht => hb t _ ht

@[simp] theorem State.ackReceived_wf {s : State} (p : PhyFrame) (h : s.mem.wf = true) :
    (s.ackReceived p).mem.wf = true := by
  have taken := State.takeFrame_wf p h
  have sent := fun (t : State) f (ht : t.mem.wf = true) => State.sendMore_wf (State.sentFrame_wf f ht)
  unfold State.ackReceived
  dsimp only
  split
  · exact h
  · split
    · simp [taken]
    · split
      · simp [taken]
      · split
        · simp [taken]
        · rw [State.netSettle_mem]
          refine sent _ _ ?_
          split <;> simp [taken]

@[simp] theorem State.tofsSlew_mem (s : State) (t : Int) : (s.tofsSlew t).mem = s.mem := by
  unfold State.tofsSlew
  split <;> rfl

@[simp] theorem State.phaseCorrect_mem (s : State) (f : RxFrame) : (s.phaseCorrect f).mem = s.mem := by
  rw [State.phaseCorrect, State.tofsSlew_mem, State.onNet_mem]

@[simp] theorem State.fromParent_wf {s : State} (f : RxFrame) (b : Nbr) (h : s.mem.wf = true) :
    (s.fromParent f b).mem.wf = true := by
  have phased : ∀ p : Prop, [Decidable p] → (if p then s.phaseCorrect f else s).mem.wf = true := fun p _ =>
    ite_wf (by simp [h]) h
  have placed : ∀ (p : Prop) (t : State) w, [Decidable p] → t.mem.wf = true →
      (if p then t else t.putParent w).mem.wf = true := fun p t w _ ht => ite_wf ht (State.putParent_wf _ ht)
  unfold State.fromParent
  refine ite_wf h (ite_wf ?_ (placed _ _ _ (phased _)))
  rw [State.netFlag_mem]
  exact State.swapKeys_wf (placed _ _ _ (phased _))

@[simp] theorem State.acceptFrame_wf {s : State} (f : RxFrame) (b : Nbr) (h : s.mem.wf = true) :
    (s.acceptFrame f b).mem.wf = true := State.fromParent_wf _ _ (State.putNbr_wf b h)

@[simp] theorem State.discardDup_mem (s : State) : s.discardDup.mem = s.mem := by simp [State.discardDup]

theorem State.accepted_wf {s : State} (f : RxFrame) {go : State → Nbr → State} (h : s.mem.wf = true) (hg : ∀
    (t : State) b, t.mem.wf = true → (go t b).mem.wf = true) : (s.accepted f go).mem.wf = true := by
  unfold State.accepted
  split
  · simp [h]
  · split
    · simp [h]
    · exact hg _ _ (State.acceptFrame_wf _ _ h)

@[simp] theorem State.sendAck_mem (s : State) (f : RxFrame) : (s.sendAck f).mem = s.mem := by
  unfold State.sendAck
  dsimp only
  split <;> simp

@[simp] theorem State.linkCheck_wf {s : State} (f : RxFrame) (b : Nbr) (h : s.mem.wf = true) :
    (s.linkCheck f b).1.mem.wf = true := by
  unfold State.linkCheck
  dsimp only
  split
  · exact h
  · rw [ite_mem, State.netFlag_mem, ite_self]
    split
    · exact State.putNbr_wf _ h
    · exact h

theorem State.receive_wf {s : State} (p : PhyFrame) (typ : Nat)
    (may : State → Bool) {body : State → Nbr → List Byte → State} (h : s.mem.wf = true)
    (hb : ∀ (t : State) b l, t.mem.wf = true → (body t b l).mem.wf = true) :
    (s.receive p typ may body).mem.wf = true := by
  refine State.arrives_wf p typ h fun t f ht => ?_
  split
  · simp [ht]
  · refine State.accepted_wf f ht fun u b hu => ?_
    have checked := State.linkCheck_wf f b hu
    split
    · simp [hu]
    · split
      · simp [hb _ _ _ hu]
      · split
        · simp [hu]
        · split
          · simp [hu]
          · simp [ite_mem, hb _ _ _ checked, checked]

@[simp] theorem State.adoptTime_mem (s : State) (plain : List Byte) : (s.adoptTime plain).mem = s.mem := rfl

@[simp] theorem State.pickCandidate_wf {s : State} (b : Nbr) (flags : Byte) (plain : List Byte) (h : s.mem.wf = true) :
    (s.pickCandidate b flags plain).mem.wf = true := by
  unfold State.pickCandidate
  dsimp only
  split <;> simp [ite_mem, h]

@[simp] theorem State.beaconBody_wf {s : State} (b : Nbr) (plain : List Byte) (h : s.mem.wf = true) :
    (s.beaconBody b plain).mem.wf = true := by
  have put := fun b => State.putNbr_wf b h
  unfold State.beaconBody
  dsimp only
  split
  · exact h
  · exact State.pickCandidate_wf _ _ _ (by simp [ite_mem, put])

@[simp] theorem State.beaconReceived_wf {s : State} (p : PhyFrame) (h : s.mem.wf = true) :
    (s.beaconReceived p).mem.wf = true := by
  unfold State.beaconReceived
  split
  · refine State.arrives_wf p _ h fun t f ht => State.accepted_wf f ht fun u b hu => ?_
    simp [State.beaconBody_wf, hu]
  · exact State.receive_wf p _ _ h fun t b l ht => State.beaconBody_wf _ _ ht

@[simp] theorem State.localMessage_mem (s : State) (bs : List Byte) : (s.localMessage bs).mem = s.mem := by
  unfold State.localMessage
  split <;> rfl

@[simp] theorem State.checkJoin_mem (s : State) (bs : List Byte) : (s.checkJoin bs).1.mem = s.mem := by
  unfold State.checkJoin
  dsimp only
  split
  · simp
  · split <;> simp

@[simp] theorem State.joinReqReceived_wf {s : State} (p : PhyFrame) (h : s.mem.wf = true) :
    (s.joinReqReceived p).mem.wf = true := by
  refine State.arrives_wf p _ h fun t f ht => ?_
  split
  · simp [ht]
  · refine State.accepted_wf f ht fun u b hu => ?_
    simp [ite_mem, hu]

@[simp] theorem State.joined_wf {s : State} (f : RxFrame) (slot : Nat) (key : List Byte) (h : s.mem.wf = true) :
    (s.joined f slot key).mem.wf = true := by
  unfold State.joined
  simp only [State.remap_mem]
  exact State.putJoined_wf _ (State.takeParent_wf _ (State.putParent_wf _ h))

@[simp] theorem State.joinRspReceived_wf {s : State} (p : PhyFrame) (h : s.mem.wf = true) :
    (s.joinRspReceived p).mem.wf = true := by
  refine State.arrives_wf p _ h fun t f ht => ?_
  dsimp only
  split
  · simp [ht]
  · split
    · split
      · refine State.accepted_wf f ht fun u b hu => ?_
        simp [State.joined_wf, hu]
      · simp [ht]
    · simp [ht]

@[simp] theorem State.joinTimeout_mem (s : State) : s.joinTimeout.mem = s.mem := by simp [State.joinTimeout, ite_mem]

@[simp] theorem State.attachReceived_wf {s : State} (p : PhyFrame) (h : s.mem.wf = true) :
    (s.attachReceived p).mem.wf = true := by
  refine State.receive_wf p _ _ h fun t b l ht => ?_
  split <;> simp [State.putNbr_wf, ht]

@[simp] theorem State.removeChild_wf {s : State} (node : Nat) (h : s.mem.wf = true) :
    (s.removeChild node).mem.wf = true := by
  unfold State.removeChild
  split
  · exact h
  · simp [ite_mem, State.dropRoutes_wf, State.putNbr_wf, h]

@[simp] theorem State.detachReceived_wf {s : State} (p : PhyFrame) (h : s.mem.wf = true) :
    (s.detachReceived p).mem.wf = true := State.receive_wf p _ _ h fun _ _ _ ht => State.removeChild_wf _ ht

@[simp] theorem State.childTimeout_wf {s : State} (node : Nat) (h : s.mem.wf = true) :
    (s.childTimeout node).mem.wf = true := by
  unfold State.childTimeout
  split <;> simp [h]

@[simp] theorem State.keepTimer_wf {s : State} (h : s.mem.wf = true) : s.keepTimer.mem.wf = true := by
  simp [State.keepTimer, ite_mem, h]

@[simp] theorem State.parentLoss_wf {s : State} (h : s.mem.wf = true) : s.parentLoss.mem.wf = true := by
  unfold State.parentLoss
  dsimp only
  split
  · simp [h]
  · split <;> simp [h]

@[simp] theorem State.oldKeyExpiry_mem (s : State) : s.oldKeyExpiry.mem = s.mem := by
  unfold State.oldKeyExpiry
  split <;> rfl

@[simp] theorem State.surveyEnd_mem (s : State) : s.surveyEnd.mem = s.mem := by simp [State.surveyEnd, ite_mem]

@[simp] theorem State.forward_wf {s : State} (b : Nbr) (head : SegHead) (data : List Byte) (h : s.mem.wf = true) :
    (s.forward b head data).mem.wf = true := by
  unfold State.forward
  split
  · exact h
  · split
    · simp [h]
    · exact State.txPut_wf _ h

@[simp] theorem State.admitted_wf {s : State} (bs : List Byte) (h : s.mem.wf = true) :
    (s.admitted bs).mem.wf = true := by simp [State.admitted, ite_mem, h]

@[simp] theorem State.keysetArrived_mem (s : State) (bs : List Byte) : (s.keysetArrived bs).mem = s.mem := by
  unfold State.keysetArrived
  dsimp only
  split <;> simp [ite_mem]

@[simp] theorem State.makeReadyMessage_mem (s : State) (r : Reasm) : (s.makeReadyMessage r).mem = s.mem := rfl

@[simp] theorem State.messageWhole_wf {s : State} (r : Reasm) (h : s.mem.wf = true) :
    (s.messageWhole r).mem.wf = true := by simp [State.messageWhole, ite_mem, h]

@[simp] theorem State.collect_wf {s : State} (b : Nbr) (head : SegHead) (data : List Byte) (buf : Nat)
    (h : s.mem.wf = true) : (s.collect b head data buf).mem.wf = true := by
  unfold State.collect
  dsimp only
  split
  · exact State.messageWhole_wf _ h
  · exact h

@[simp] theorem State.dataBody_wf {s : State} (b : Nbr) (plain : List Byte) (h : s.mem.wf = true) :
    (s.dataBody b plain).mem.wf = true := by
  have routed : (if b.isChild then s.putRoute (segHead plain).orig b.node else s).mem.wf = true := by
    simp [ite_mem, State.putRoute_wf, h]
  unfold State.dataBody
  dsimp only
  generalize (if b.isChild then s.putRoute (segHead plain).orig b.node else s) = t at routed ⊢
  split
  · exact h
  · split
    · split
      · exact State.collect_wf _ _ _ _ routed
      · exact routed
    · exact State.forward_wf _ _ _ routed

@[simp] theorem State.dataReceived_wf {s : State} (p : PhyFrame) (h : s.mem.wf = true) :
    (s.dataReceived p).mem.wf = true := State.receive_wf p _ _ h fun _ _ _ ht => State.dataBody_wf _ _ ht

@[simp] theorem State.reassemblyTimeout_mem (s : State) (orig tid : Nat) :
    (s.reassemblyTimeout orig tid).mem = s.mem := by simp [State.reassemblyTimeout, ite_mem]

@[simp] theorem State.transactionTimeout_mem (s : State) (tid : Nat) : (s.transactionTimeout tid).mem = s.mem := by
  unfold State.transactionTimeout
  split <;> rfl

@[simp] theorem State.readMessage_wf {s : State} (r : Reasm) (e : ObjEntry) (h : s.mem.wf = true) :
    (s.readMessage r e).1.mem.wf = true := by
  have read : ∀ (l : List (Nat × Nat)) (t : State × Bool), t.1.mem.wf = true →
      (l.foldl (fun (t : State × Bool) x => if t.2 then t else t.1.netWords x.1 x.2) t).1.mem.wf = true := fun l => by
    induction l with
    | nil => exact fun _ ht => ht
    | cons x l ih =>
      intro t ht
      refine ih _ ?_
      dsimp only
      split
      · exact ht
      · exact State.netWords_wf _ _ ht
  exact read _ _ h

@[simp] theorem State.writeMessage_wf {s : State} (r : Reasm) (o i : Nat) (h : s.mem.wf = true) :
    (s.writeMessage r o i).mem.wf = true := by simp [State.writeMessage, State.netStore_wf, h]

@[simp] theorem State.deliver_wf {s : State} (h : s.mem.wf = true) : s.deliver.mem.wf = true := by
  unfold State.deliver
  dsimp only
  split
  · refine State.unlessBad_wf (State.readMessage_wf _ _ h) (fun t ht => ht) fun t ht => ?_
    split
    · simp [ht]
    · exact State.writeMessage_wf _ _ _ ht
  · exact h

@[simp] theorem State.messageDelivery_wf {s : State} (h : s.mem.wf = true) : s.messageDelivery.mem.wf = true := by
  unfold State.messageDelivery
  split <;> simp [h]

@[simp] theorem State.deliverAll_wf {s : State} (h : s.mem.wf = true) : s.deliverAll.mem.wf = true := by
  unfold State.deliverAll
  split
  · exact foldl_wf (fun _ _ h => State.deliver_wf h) _ _ h
  · exact h

/-! ## Register blocks -/

@[simp] theorem State.selectLog_mem (s : State) (b : Nat) (v : Word) : (s.selectLog b v).mem = s.mem := rfl

@[simp] theorem State.itgWrite_mem (s : State) (b off : Nat) (v : Word) : (s.itgWrite b off v).mem = s.mem := by
  simp [State.itgWrite, ite_mem]

/-! ## The Peg port -/

@[simp] theorem State.pegLatch_mem (s : State) (k : Nat) : (s.pegLatch k).mem = s.mem := by
  unfold State.pegLatch
  split
  · split <;> simp
  · simp [ite_mem]

@[simp] theorem State.sessBegin_mem (s : State) (nonce : Word) : (s.sessBegin nonce).mem = s.mem := by
  simp [State.sessBegin]

@[simp] theorem State.sessRespond_mem (s : State) (v : Word) : (s.sessRespond v).mem = s.mem := by
  simp [State.sessRespond, ite_mem]

@[simp] theorem State.sessCheck_mem (s : State) : s.sessCheck.mem = s.mem := by simp [State.sessCheck, ite_mem]

@[simp] theorem State.pegGsWrite_wf {s : State} (h : s.mem.wf = true) : s.pegGsWrite.1.mem.wf = true := by
  simp [State.pegGsWrite, apply_ite Prod.fst, ite_mem, h]

@[simp] theorem State.pegKeySet_mem (s : State) (arg : Nat) : (s.pegKeySet arg).1.mem = s.mem := by
  unfold State.pegKeySet
  split <;> rfl

@[simp] theorem State.pegOp_wf {s : State} (op arg : Nat) (h : s.mem.wf = true) : (s.pegOp op arg).mem.wf = true := by
  simp [State.pegOp, ite_mem, h]

@[simp] theorem State.updWrite_wf {s : State} (v : Word) (h : s.mem.wf = true) : (s.updWrite v).1.mem.wf = true := by
  unfold State.updWrite
  dsimp only
  split
  · simp [h]
  · split <;> simp [h]

@[simp] theorem State.updRead_mem (s : State) : s.updRead.1.mem = s.mem := by
  simp [State.updRead, apply_ite Prod.fst, ite_mem]

@[simp] theorem State.updFetched_wf {s : State} (h : s.mem.wf = true) : s.updFetched.mem.wf = true := by
  unfold State.updFetched
  dsimp only
  split
  · simp [h]
  · split <;> simp [h]

@[simp] theorem State.mbWrite_mem (s : State) (a : Agent) (v : Word) : (s.mbWrite a v).1.mem = s.mem := by
  simp [State.mbWrite, apply_ite Prod.fst, ite_mem]

@[simp] theorem State.cmdWrite_wf {s : State} (a : Agent) (v : Word) (h : s.mem.wf = true) :
    (s.cmdWrite a v).1.mem.wf = true := by simp [State.cmdWrite, apply_ite Prod.fst, ite_mem, h]

@[simp] theorem State.pegStore_wf {s : State} (a : Agent) (k : Nat) (v : Word) (h : s.mem.wf = true) :
    (s.pegStore a k v).1.mem.wf = true := by simp [State.pegStore, apply_ite Prod.fst, ite_mem, h]

@[simp] theorem State.pegAnswer_mem (s : State) (k : Nat) : (s.pegAnswer k).mem = s.mem := by
  simp [State.pegAnswer, ite_mem]

@[simp] theorem State.pegWrite_wf {s : State} (addr : Byte) (data : Word) (crc : Byte) (h : s.mem.wf = true) :
    (s.pegWrite addr data crc).mem.wf = true := by simp [State.pegWrite, ite_mem, h]

@[simp] theorem State.pegReadUpd_mem (s : State) (addr : Byte) : (s.pegReadUpd addr).mem = s.mem := by
  simp [State.pegReadUpd]

@[simp] theorem State.pegRead_wf {s : State} (addr : Byte) (h : s.mem.wf = true) : (s.pegRead addr).mem.wf = true := by
  unfold State.pegRead
  dsimp only
  split <;> simp [ite_mem, h]

@[simp] theorem State.readStatus_wf {s : State} (addr : Byte) (h : s.mem.wf = true) :
    (s.readStatus addr).mem.wf = true := by simp [State.readStatus, ite_mem, h]

@[simp] theorem State.pegBegin_wf {s : State} (addr : Byte) (nonce : Word) (crc : Byte) (h : s.mem.wf = true) :
    (s.pegBegin addr nonce crc).mem.wf = true := by simp [State.pegBegin, ite_mem, h]

@[simp] theorem State.pegRespond_wf {s : State} (idx : Byte) (data : Word) (crc : Byte) (h : s.mem.wf = true) :
    (s.pegRespond idx data crc).mem.wf = true := by simp [State.pegRespond, ite_mem, h]

@[simp] theorem State.pegBad_wf {s : State} (cmd : Byte) (h : s.mem.wf = true) : (s.pegBad cmd).mem.wf = true := by
  simp [State.pegBad, ite_mem, h]

@[simp] theorem State.pegCut_wf {s : State} (h : s.mem.wf = true) : s.pegCut.mem.wf = true := by
  simp [State.pegCut, ite_mem, h]

/-! ## The bus -/

@[simp] theorem State.markLive_mem (s : State) (a : Agent) (o : Nat) : (s.markLive a o).mem = s.mem := by
  unfold State.markLive
  split <;> rfl

@[simp] theorem State.snapRead_mem (s : State) (x : ReadCtx) (o : Nat) : (s.snapRead x o).1.mem = s.mem := by
  unfold State.snapRead
  by_cases once : o = ioRtc + 0x4C ∧ bit s.snap.rtc.stat 7 = false
  · rw [if_pos once]
  · rw [if_neg once]
    by_cases clears : clearsOnRead o = true
    · rw [if_pos clears]; rfl
    · rw [if_neg clears]
      by_cases pops : (inRange o ioUa 0x400 && decide ((o - ioUa) % 256 = 0x1C)) = true
      · rw [if_pos pops]; exact State.onUa_mem _ _ _
      · rw [if_neg pops]
        by_cases slot : o = ioNet + 0x44
        · rw [if_pos slot]; rfl
        · rw [if_neg slot]

@[simp] theorem State.periphRead_mem (s : State) (a : Agent) (o : Nat) : (s.periphRead a o).1.mem = s.mem := by
  have used : (if o = ioRf + 0x3C then s.useFree 1 else s).mem = s.mem := by simp [ite_mem]
  unfold State.periphRead
  dsimp only
  generalize (if o = ioRf + 0x3C then s.useFree 1 else s) = t at used ⊢
  split
  · simp [used]
  · exact used

@[simp] theorem State.busRead_mem (s : State) (a : Agent) (o : Nat) : (s.busRead a o).1.mem = s.mem := by
  have live := State.markLive_mem s a o
  unfold State.busRead
  refine ite_fst_mem ?_ (ite_fst_mem live (ite_fst_mem live (ite_fst_mem ?_ (ite_fst_mem live (ite_fst_mem ?_
    (ite_fst_mem live (ite_fst_mem live live)))))))
  · rw [State.periphRead_mem, live]
  · rw [State.irqReadEffect_mem, live]
  · rw [State.onMm_mem, live]

@[simp] theorem State.wdnRetire_mem (s : State) (sb : Bool) (v : Word) : (s.wdnRetire sb v).mem = s.mem :=
  foldl_mem (by simp) _ _

@[simp] theorem State.wdnWrite_wf {s : State} (a : Agent) (off : Nat) (v : Word) (h : s.mem.wf = true) :
    (s.wdnWrite a off v).mem.wf = true := by simp [State.wdnWrite, ite_mem, h]

@[simp] theorem State.periphWrite_wf {s : State} (a : Agent) (o : Nat) (v : Word) (h : s.mem.wf = true) :
    (s.periphWrite a o v).mem.wf = true := by
  unfold State.periphWrite
  exact ite_wf (wf_of_mem (State.onHrv_mem ..) h) (ite_wf (ite_wf (wf_of_mem (State.swFire_mem ..) h)
    (wf_of_mem (State.onEvt_mem ..) h)) (ite_wf (wf_of_mem (State.timWrite_mem ..) h) (ite_wf (wf_of_mem (State.onRtc_mem ..) h)
    (ite_wf (wf_of_mem (State.onUa_mem ..) h) (ite_wf (wf_of_mem (State.onTch_mem ..) h) (ite_wf (wf_of_mem (State.onRf_mem ..) h)
    (ite_wf (State.netWrite_wf _ _ h) (ite_wf (wf_of_mem (State.onCnt_mem ..) h) (ite_wf (wf_of_mem (State.onPin_mem ..) h)
    (ite_wf (wf_of_mem (State.onPin_mem ..) h) h))))))))))

@[simp] theorem State.plainWrite_wf {s : State} (a : Agent) (o : Nat) (v : Word) (h : s.mem.wf = true) :
    (s.plainWrite a o v).mem.wf = true := by
  unfold State.plainWrite
  exact ite_wf (wf_of_mem (State.pwrWrite_mem ..) h) (ite_wf (wf_of_mem (State.clkWrite_mem ..) h)
    (ite_wf (wf_of_mem (State.irqWrite_mem ..) h) (ite_wf (State.wdnWrite_wf _ _ _ h) (ite_wf (wf_of_mem (State.onMm_mem ..) h)
    (ite_wf (wf_of_mem (State.itgWrite_mem ..) h) (ite_wf (ite_wf (wf_of_mem (State.onPeg_mem ..) h)
    (State.pegStore_wf _ _ _ h)) h))))))

@[simp] theorem State.deferWrite_mem (s : State) (c : CoreId) (o : Nat) (v : Word) : (s.deferWrite c o v).mem = s.mem :=
  rfl

@[simp] theorem State.busWrite_wf {s : State} (a : Agent) (o : Nat) (v : Word) (h : s.mem.wf = true) :
    (s.busWrite a o v).mem.wf = true := by
  unfold State.busWrite
  split
  · split
    · exact ite_wf (by simp [h]) (State.periphWrite_wf _ _ _ h)
    · exact State.periphWrite_wf _ _ _ h
  · exact State.plainWrite_wf _ _ _ h

/-! ## Loads, stores and fetches -/

@[simp] theorem State.logOutside_wf {s : State} (c : CoreId) (a : Nat) (h : s.mem.wf = true) :
    (s.logOutside c a).mem.wf = true := by simp [State.logOutside, ite_mem, h]

@[simp] theorem State.touchObject_mem (s : State) (c : CoreId) (i : Nat) : (s.touchObject c i).mem = s.mem := by
  simp [State.touchObject, ite_mem]

@[simp] theorem State.countPlace_mem (s : State) (c : CoreId) (p : Nat) : (s.countPlace c p).mem = s.mem := by
  simp [State.countPlace]

@[simp] theorem State.noteBeat_mem (s : State) (c : CoreId) (src a : Nat) : (s.noteBeat c src a).mem = s.mem := by
  unfold State.noteBeat
  dsimp only
  split <;> simp

@[simp] theorem State.loadBeat_wf {s : State} (c : CoreId) (a n : Nat) (h : s.mem.wf = true) :
    (s.loadBeat c a n).s.mem.wf = true := by
  unfold State.loadBeat
  split <;> simp [h]

/-- An aligned load of a register that may be read makes the read. -/
theorem ioLoad_of_read {s : State} {c : CoreId} {a n : Nat} (aligned : ¬a % n ≠ 0) (hf : ioReadFault
    (a - periphBase - (a - periphBase) % 4) = none) : ∃ v, s.ioLoad c a n =
      ⟨((s.noteBeat c 7 a).busRead (.core c) (a - periphBase - (a - periphBase) % 4)).1, none, [], v⟩ := by
  unfold State.ioLoad
  rw [if_neg aligned, hf]
  exact ⟨_, rfl⟩

@[simp] theorem State.ioLoad_mem (s : State) (c : CoreId) (a n : Nat) : (s.ioLoad c a n).s.mem = s.mem := by
  have kept : ∀ (t : State) v, t.mem = s.mem → (⟨t, none, [], v⟩ : Got).s.mem = s.mem := fun _ _ h => h
  by_cases aligned : a % n ≠ 0
  · rw [State.ioLoad, if_pos aligned]
  · cases hf : ioReadFault (a - periphBase - (a - periphBase) % 4) with
    | some f => rw [State.ioLoad, if_neg aligned, hf]
    | none =>
      obtain ⟨v, read⟩ := ioLoad_of_read (s := s) (c := c) aligned hf
      rw [read]
      exact kept _ _ ((State.busRead_mem ..).trans (State.noteBeat_mem ..))

@[simp] theorem State.load_wf {s : State} (c : CoreId) (a n : Nat) (h : s.mem.wf = true) :
    (s.load c a n).s.mem.wf = true := by
  unfold State.load
  dsimp only
  split
  · rw [State.ioLoad_mem]
    exact h
  · split
    · exact State.loadBeat_wf _ _ _ h
    · exact State.loadBeat_wf _ _ _ (by simp [h])

@[simp] theorem State.storeOne_wf {s : State} (c : CoreId) (a : Nat) (bs : List Byte) (h : s.mem.wf = true) :
    (s.storeOne c a bs).s.mem.wf = true := by
  unfold State.storeOne
  split
  · exact State.logOutside_wf _ _ h
  · simp [State.dropLines_mem, h]

@[simp] theorem State.ioStore_wf {s : State} (c : CoreId) (a n v : Nat) (h : s.mem.wf = true) :
    (s.ioStore c a n v).s.mem.wf = true := by
  unfold State.ioStore
  by_cases aligned : a % n ≠ 0
  · rw [if_pos aligned]
    exact h
  · rw [if_neg aligned]
    split
    · exact h
    · simp only [State.busWrite_wf, State.noteBeat_mem, h]

@[simp] theorem State.storeBytes_wf {s : State} (c : CoreId) (a n v : Nat) (h : s.mem.wf = true) :
    (s.storeBytes c a n v).s.mem.wf = true := by
  unfold State.storeBytes
  dsimp only
  split
  · exact State.ioStore_wf _ _ _ _ h
  · split
    · exact State.storeOne_wf _ _ _ h
    · exact State.storeOne_wf _ _ _ (by simp [State.storeOne_wf, h])

@[simp] theorem State.atomic_wf {s : State} (c : CoreId) (a : Nat) (f : Word → Word) (h : s.mem.wf = true) :
    (s.atomic c a f).s.mem.wf = true := by
  have noted : ∀ k, (((s.noteBeat c 7 a).countCore c 8 1).countCore c 22 k).mem.wf = true := fun k => by simp [h]
  have pulled : ∀ (p : Prop) k l, [Decidable p] → (if p then (((s.noteBeat c 7 a).countCore c 8 1).countCore c 22 k).pull l
      else (⟨((s.noteBeat c 7 a).countCore c 8 1).countCore c 22 k, []⟩ : Beat)).s.mem.wf = true := fun p k l _ => by
    split
    · exact State.pull_wf _ (noted k)
    · exact noted k
  unfold State.atomic
  split
  · exact State.logOutside_wf _ _ h
  · have read := State.readBeat_wf c (s.physical a) 4
      (pulled (inEmber (s.physical a)) (inEmber (s.physical a) && !bit s.mm.restored ((s.physical a - emberBase) / 64)).toNat
        ((s.physical a - emberBase) / 64))
    dsimp only
    rw [apply_ite Got.s, ite_mem, State.dropLines_mem]
    simp [read]

@[simp] theorem State.noteFetch_mem (s : State) (c : CoreId) (i a p : Nat) : (s.noteFetch c i a p).mem = s.mem := by
  simp [State.noteFetch, ite_mem]

@[simp] theorem State.fetch_wf {s : State} (c : CoreId) (a : Nat) (h : s.mem.wf = true) :
    (s.fetch c a).s.mem.wf = true := by
  unfold State.fetch
  dsimp only
  split
  · simp [h]
  · split <;> simp [h]

@[simp] theorem State.fetches_wf (c : CoreId) :
    ∀ (k a : Nat) {s : State}, s.mem.wf = true → (s.fetches c a k).s.mem.wf = true
  | 0, _, _, h => h
  | k + 1, a, s, h => by
    have fetched := State.fetch_wf c a h
    unfold State.fetches
    dsimp only
    split
    · exact State.fetches_wf c k (a + 2) fetched
    · exact fetched

/-! ## Exceptions and instructions -/

@[simp] theorem State.spend_mem (s : State) (c : CoreId) (n : Nat) : (s.spend c n).mem = s.mem := by simp [State.spend]

@[simp] theorem State.drainMath_mem (s : State) (c : CoreId) : (s.drainMath c).mem = s.mem := by simp [State.drainMath]

@[simp] theorem State.delay_mem (s : State) (c : CoreId) (n : Nat) : (s.delay c n).mem = s.mem := by simp [State.delay]

@[simp] theorem State.aftermath_wf {s : State} (c : CoreId) (pc : Word) (unc : List Nat) (double : Bool)
    (h : s.mem.wf = true) : (s.aftermath c pc unc double).mem.wf = true := by
  unfold State.aftermath
  split <;> simp [h]

@[simp] theorem State.takeException_wf {s : State} (c : CoreId) (x : Exn) (epc : Word) (unc : List Nat)
    (h : s.mem.wf = true) : (s.takeException c x epc unc).mem.wf = true := by
  have read := State.load_wf (s := ((s.drainMath c).onCore c fun k => k.enter x epc).countCore c 23 1) c
    (vectorOf x.code) 4 (by simp [h])
  unfold State.takeException
  dsimp only
  split
  · exact State.aftermath_wf _ _ _ _ h
  · split
    · exact State.aftermath_wf _ _ _ _ read
    · exact State.aftermath_wf _ _ _ _ (by simp [read])

@[simp] theorem State.logPush_wf {s : State} (c : CoreId) (h : s.mem.wf = true) : (s.logPush c).mem.wf = true := by
  unfold State.logPush
  dsimp only
  split
  · simp [h]
  · split <;> simp [h]

@[simp] theorem State.enterHandler_wf {s : State} (c : CoreId) (src : Nat) (v : Word) (h : s.mem.wf = true) :
    (s.enterHandler c src v).mem.wf = true := by
  have pushed := fun a n => State.storeBytes_wf c a 4 n h
  unfold State.enterHandler
  exact State.aftermath_wf _ _ _ _ (by simp [State.storeBytes_wf, pushed])

@[simp] theorem State.acceptInterrupt_wf {s : State} (c : CoreId) (src : Nat) (h : s.mem.wf = true) :
    (s.acceptInterrupt c src).mem.wf = true := by
  have woken : ((if s.cores[c].phase = .wait then s.clearIdle else s).drainMath c).mem.wf = true := by simp [ite_mem, h]
  unfold State.acceptInterrupt
  dsimp only
  generalize (if s.cores[c].phase = .wait then s.clearIdle else s).drainMath c = t at woken ⊢
  have read := State.load_wf c (0x60000200 + 4 * src) 4 woken
  generalize t.load c (0x60000200 + 4 * src) 4 = g at read ⊢
  split
  · exact State.takeException_wf _ _ _ _ read
  · split
    · exact State.takeException_wf _ _ _ _ read
    · split
      · exact State.takeException_wf _ _ _ _ (State.logPush_wf _ read)
      · exact State.enterHandler_wf _ _ _ read

theorem State.fetchFailed_wf {f : Got} {o : Out} (c : CoreId) (x : Exn) (pc : Word) (hf : f.s.mem.wf = true)
    (ho : o.s.mem.wf = true) : (State.fetchFailed f c x pc o).mem.wf = true := by
  unfold State.fetchFailed
  split
  · exact ite_wf (State.takeException_wf _ _ _ _ ho) (State.takeException_wf _ _ _ _ hf)
  · exact State.takeException_wf _ _ _ _ hf

theorem Got.into_wf {g : Got} (c : CoreId) (f : Nat → Core → Core) (pc : Word) (cycles : Nat) (h : g.s.mem.wf = true) :
    (g.into c f pc cycles).s.mem.wf = true := ite_wf h h

theorem Got.andThen_wf {g : Got} (fault : State → Option Exn) {f : State → Got} (h : g.s.mem.wf = true)
    (hf : ∀ t : State, t.mem.wf = true → (f t).s.mem.wf = true) : (g.andThen fault f).s.mem.wf = true := by
  unfold Got.andThen
  split
  · exact hf _ h
  · exact h

theorem Got.done_wf {g : Got} (c : CoreId) (f : Core → Core) (h : g.s.mem.wf = true) :
    (g.done c f).s.mem.wf = true := by
  unfold Got.done
  split <;> exact h

/-- An instruction keeps memory in canonical form where its body does. -/
theorem State.instr_wf {s : State} (c : CoreId) (n : Nat) {body : State → Out} (h : s.mem.wf = true)
    (hb : ∀ t : State, t.mem.wf = true → (body t).s.mem.wf = true) : (s.instr c n body).mem.wf = true := by
  have fetched := State.fetches_wf c n s.cores[c].pc.toNat h
  have run := hb ((s.fetches c s.cores[c].pc.toNat n).s.onCore c fun k => { k with repOpen := false }) fetched
  unfold State.instr
  dsimp only
  split
  · split
    · exact State.fetchFailed_wf _ _ _ fetched run
    · split
      · exact State.takeException_wf _ _ _ _ run
      · exact State.aftermath_wf _ _ _ _ ((congrArg Memory.wf (State.complete_mem ..)).trans run)
  · exact h

@[simp] theorem State.regs_wf {s : State} (c : CoreId) (n cycles : Nat) (f : Core → Core) (h : s.mem.wf = true) :
    (s.regs c n cycles f).mem.wf = true := State.instr_wf c n h fun _ ht => ht

@[simp] theorem illegal_mem (s : State) : (illegal s).s.mem = s.mem := rfl

/-! ## Arithmetic -/

@[simp] theorem State.countDecimal_mem (s : State) (c : CoreId) : (s.countDecimal c).mem = s.mem := by
  simp [State.countDecimal]

@[simp] theorem State.decimal_wf {s : State} (c : CoreId) (cycles : Nat) (f : Core → Core) (h : s.mem.wf = true) :
    (s.decimal c cycles f).mem.wf = true := State.instr_wf c 1 h fun _ ht => by simp [ht]

@[simp] theorem State.multiply_wf {s : State} (c : CoreId) (p : Core → DWord) (h : s.mem.wf = true) :
    (s.multiply c p).mem.wf = true := State.instr_wf c 1 h fun _ ht => by simp [ht]

@[simp] theorem State.divide_wf {s : State} (c : CoreId) (p : Core → Quot) (h : s.mem.wf = true) :
    (s.divide c p).mem.wf = true := State.instr_wf c 1 h fun _ ht => by simp [ht]

@[simp] theorem State.awaitResult_mem (s : State) (c : CoreId) (wait : Core → Nat) :
    (s.awaitResult c wait).mem = s.mem := by simp [State.awaitResult, ite_mem]

/-! ## System instructions and TRAP -/

@[simp] theorem State.countCancel_mem (s : State) (c : CoreId) (mul div : Bool) :
    (s.countCancel c mul div).mem = s.mem := by simp [State.countCancel]

@[simp] theorem State.mtsOp_wf {s : State} (c : CoreId) (n : SReg) (r : Reg) (h : s.mem.wf = true) :
    (s.mtsOp c n r).mem.wf = true := State.instr_wf c 1 h fun t ht => by
  split
  · exact ht
  · simp [ht]

@[simp] theorem State.mfsOp_wf {s : State} (c : CoreId) (d : Reg) (n : SReg) (h : s.mem.wf = true) :
    (s.mfsOp c d n).mem.wf = true := State.instr_wf c 1 h fun _ ht => ht

@[simp] theorem State.postOp_wf {s : State} (c : CoreId) (d r : Reg) (h : s.mem.wf = true) :
    (s.postOp c d r).mem.wf = true := State.instr_wf c 1 h fun t ht => by
  dsimp only
  split
  · exact ht
  · simp [ht]

@[simp] theorem State.haltIn_mem (s : State) (c : CoreId) (p : Phase) : (s.haltIn c p).s.mem = s.mem := by
  simp [State.haltIn]

@[simp] theorem State.waitOp_wf {s : State} (c : CoreId) (h : s.mem.wf = true) : (s.waitOp c).mem.wf = true :=
  State.instr_wf c 1 h fun t ht => by
  split
  · exact ht
  · split
    · exact ht
    · simp [ht]

@[simp] theorem State.frameOp_wf {s : State} (c : CoreId) (h : s.mem.wf = true) : (s.frameOp c).mem.wf = true :=
  State.instr_wf c 1 h fun t ht => by
  split
  · exact ht
  · simp [ht]

@[simp] theorem State.tendOp_wf {s : State} (c : CoreId) (h : s.mem.wf = true) : (s.tendOp c).mem.wf = true :=
  State.instr_wf c 1 h fun t ht => by
  split
  · exact ht
  · simp [ht]

@[simp] theorem State.eretOp_wf {s : State} (c : CoreId) (h : s.mem.wf = true) : (s.eretOp c).mem.wf = true :=
  State.instr_wf c 1 h fun t ht => by
  dsimp only
  split <;> exact ht

@[simp] theorem State.iretOp_wf {s : State} (c : CoreId) (h : s.mem.wf = true) : (s.iretOp c).mem.wf = true :=
  State.instr_wf c 1 h fun t ht => by
  have first := fun a => State.load_wf c a 4 ht
  have second := fun a b => State.load_wf c b 4 (first a)
  dsimp only
  split <;> exact second _ _

@[simp] theorem State.trapOp_wf {s : State} (c : CoreId) (n : Nat) (h : s.mem.wf = true) :
    (s.trapOp c n).mem.wf = true := by
  have fetched := State.fetches_wf c 1 s.cores[c].pc.toNat h
  unfold State.trapOp
  dsimp only
  split
  · split
    · exact State.takeException_wf _ _ _ _ fetched
    · exact State.takeNext_wf (by simpa [State.complete_mem] using fetched)
  · exact h

@[simp] theorem State.endService_mem (s : State) (n : Nat) (r : TrapAnswer) : (s.endService n r).s.mem = s.mem := by
  simp [State.endService, apply_ite Served.s, ite_mem]

@[simp] theorem State.trapAnswer_wf {s : State} (c : CoreId) (h : s.mem.wf = true) :
    (s.trapAnswer c).mem.wf = true := by
  have taken := State.takeNext_wf h
  unfold State.trapAnswer
  dsimp only
  split
  · split
    · split
      · exact State.takeNext_wf (by simp [taken])
      · exact taken
    · exact taken
  · exact h

/-! ## Frame boundaries -/

@[simp] theorem State.overrun_wf (old s : State) (w : Writer) (h : s.mem.wf = true) :
    (old.overrun s w).mem.wf = true := by simp [State.overrun, ite_mem, h]

@[simp] theorem State.endLate_mem (s : State) (c : CoreId) : (s.endLate c).mem = s.mem := by simp [State.endLate]

@[simp] theorem State.popRead_mem (s : State) : s.popRead.mem = s.mem := rfl

@[simp] theorem State.clearReads_mem (s : State) : s.clearReads.mem = s.mem := foldl_mem (by simp) _ _

@[simp] theorem State.commit_wf {s : State} (bad : List Writer) (h : s.mem.wf = true) : (s.commit bad).mem.wf = true :=
  foldl_wf (fun _ _ h => foldl_wf (fun _ _ h => State.periphWrite_wf _ _ _ h) _ _ h) _ _ h

@[simp] theorem State.releaseReady_mem (s : State) (r : WayReady) : (s.releaseReady r).mem = s.mem := by
  simp [State.releaseReady, ite_mem]

@[simp] theorem State.closeFrame_wf {s : State} (bad : List Writer) (h : s.mem.wf = true) :
    (s.closeFrame bad).mem.wf = true := by
  have ended : ∀ l : List CoreId, (l.foldl (fun s c => s.endLate c) s).mem.wf = true := fun l => by
    simp [foldl_mem, h]
  have late : ∀ l : List CoreId, (bad.foldl s.overrun (l.foldl (fun s c => s.endLate c) s)).mem.wf = true := fun l =>
    foldl_wf (fun _ _ h => State.overrun_wf _ _ _ h) bad _ (ended l)
  exact State.commit_wf _ (by simp [late])

@[simp] theorem State.startFrame_wf {s : State} (inp : BitVec 96) (h : s.mem.wf = true) :
    (s.startFrame inp).mem.wf = true := State.deliverAll_wf (s := s.onItg Itg.takeEvents) h

@[simp] theorem State.releaseFrame_mem (s : State) (bad : List Writer) : (s.releaseFrame bad).mem = s.mem :=
  foldl_mem (by simp) _ _

@[simp] theorem State.frameBoundary_wf {s : State} (h : s.mem.wf = true) : s.frameBoundary.mem.wf = true := by
  have closed := State.closeFrame_wf s.overrunners h
  have started := State.startFrame_wf s.per.pin.inp closed
  unfold State.frameBoundary
  refine ite_wf ?_ h
  simp [ite_mem, started]

/-! ## Branches -/

@[simp] theorem State.branch_wf {n : Nat} {s : State} (c : CoreId) (halves : Nat) (cond : Cond) (disp : BitVec n)
    (h : s.mem.wf = true) : (s.branch c halves cond disp).mem.wf = true := State.instr_wf c halves h fun t ht => by
  dsimp only
  split
  · simp [ht]
  · exact ht

@[simp] theorem State.jump_wf {s : State} (c : CoreId) (link : Bool) (disp : BitVec 24) (h : s.mem.wf = true) :
    (s.jump c link disp).mem.wf = true := State.instr_wf c 2 h fun t ht => by simp [ite_mem, ht]

@[simp] theorem State.jumpReg_wf {s : State} (c : CoreId) (link : Bool) (r : Reg) (h : s.mem.wf = true) :
    (s.jumpReg c link r).mem.wf = true := State.instr_wf c 1 h fun t ht => by
  dsimp only
  split
  · exact ht
  · simp [ite_mem, ht]

/-! ## Events of the core domain -/

theorem State.awake_wf {s : State} {f : State → State} (h : s.mem.wf = true) (hf : ∀ t : State, t.mem.wf = true →
    (f t).mem.wf = true) : (s.awake f).mem.wf = true := ite_wf (hf s h) h

@[simp] theorem State.channelFire_mem (s : State) (n : Nat) : (s.channelFire n).mem = s.mem := by
  unfold State.channelFire
  split <;> simp

@[simp] theorem State.bankCleared_mem (s : State) (b : Nat) : (s.bankCleared b).mem = s.mem := by
  unfold State.bankCleared
  split <;> rfl

theorem Memory.errorAt_cells (m : Memory) (w : Nat) (k : Option EccKind) : (m.errorAt w k).cells = m.cells := by
  unfold Memory.errorAt
  split <;> rfl

@[simp] theorem State.scrub_wf {s : State} (found : Option EccKind) (h : s.mem.wf = true) :
    (s.scrub found).mem.wf = true := by
  have shown : ∀ w, ((s.onMem fun m => m.errorAt w found).countSys 17 1).mem.wf = true := fun w => by
    rw [State.countSys_mem]
    exact Memory.wf_of_cells h (Memory.errorAt_cells _ _ _)
  have read := fun w => State.readWord_wf scrubber w (shown w)
  unfold State.scrub
  simp only [ite_mem, State.storeWrites_mem, State.onRp_mem, State.onMm_mem, ite_self]
  exact read _

@[simp] theorem State.writeBack_wf {s : State} (a : Nat) (h : s.mem.wf = true) : (s.writeBack a).mem.wf = true := by
  simp [State.writeBack, ite_mem, h]

@[simp] theorem State.diverge_wf {s : State} (pair : Fin 2) (pc1 : Word) (h : s.mem.wf = true) :
    (s.diverge pair pc1).mem.wf = true := by simp [State.diverge, ite_mem, h]

@[simp] theorem State.integrityFault_wf {s : State} (cls : FaultClass) (unit : BitVec 8) (addr syn : Word)
    (detail : DWord) (h : s.mem.wf = true) : (s.integrityFault cls unit addr syn detail).mem.wf = true := by
  simp [State.integrityFault, ite_mem, h]

@[simp] theorem State.selfTest_mem (s : State) : s.selfTest.mem = s.mem := by simp [State.selfTest, ite_mem]

@[simp] theorem State.watchBank_mem (s : State) (bank2 : Bool) : (s.watchBank bank2).mem = s.mem := by
  simp [State.watchBank, ite_mem]

@[simp] theorem State.canvasWatchdog_wf {s : State} (h : s.mem.wf = true) : s.canvasWatchdog.mem.wf = true := by
  unfold State.canvasWatchdog
  split <;> simp [h]

@[simp] theorem State.ridgeWatchdog_wf {s : State} (h : s.mem.wf = true) : s.ridgeWatchdog.mem.wf = true := by
  unfold State.ridgeWatchdog
  split <;> simp [h]

@[simp] theorem State.trailClose_mem (s : State) : s.trailClose.mem = s.mem := rfl

@[simp] theorem State.debug_mem (s : State) (c : CoreId) (f : Core → Core) : (s.debug c f).mem = s.mem := by
  unfold State.debug
  split <;> rfl

@[simp] theorem State.debugWord_wf {s : State} (c : CoreId) (a : Nat) (v : Option Word) (h : s.mem.wf = true) :
    (s.debugWord c a v).mem.wf = true := by
  have read := fun a => State.load_wf (s := s.onCore c fun k => { k with task := 0x80000000#32 }) c a 4 h
  have written := fun a n => State.storeBytes_wf (s := s.onCore c fun k => { k with task := 0x80000000#32 }) c a 4 n h
  unfold State.debugWord
  dsimp only
  split
  · exact h
  · cases v with
    | none => exact ite_wf h (State.reactUnc_wf _ _ (read _))
    | some v => exact ite_wf h (State.reactUnc_wf _ _ (written _ _))

@[simp] theorem State.debugAccess_wf {s : State} (c : CoreId) (reg : DebugReg) (v : Option Word) (h : s.mem.wf = true) :
    (s.debugAccess c reg v).mem.wf = true := by
  unfold State.debugAccess
  split
  · exact ite_wf (State.debugWord_wf _ _ _ h) h
  · simp [h]

/-! ## Events of the supplies -/

@[simp] theorem State.powerOn_wf {s : State} (fromCell rtcLost : Bool) (h : s.mem.wf = true) :
    (s.powerOn fromCell rtcLost).mem.wf = true := by simp [State.powerOn, ite_mem, h]

@[simp] theorem State.nrstLow_wf {s : State} (h : s.mem.wf = true) : s.nrstLow.mem.wf = true := by
  unfold State.nrstLow
  split
  · simp [h]
  · split <;> simp [h]

@[simp] theorem State.nrstHigh_mem (s : State) : s.nrstHigh.mem = s.mem := by
  unfold State.nrstHigh
  split <;> rfl

@[simp] theorem State.supplyLoss_wf {s : State} (n : Nat) (h : s.mem.wf = true) : (s.supplyLoss n).mem.wf = true := by
  unfold State.supplyLoss
  dsimp only
  split
  · simp [h]
  · split <;> simp [h]

@[simp] theorem State.rtcDomainReset_mem (s : State) : s.rtcDomainReset.mem = s.mem := rfl

@[simp] theorem State.setBank_mem (s : State) (bank2 up : Bool) : (s.setBank bank2 up).mem = s.mem := rfl

@[simp] theorem State.bankSupply_wf {s : State} (bank2 up : Bool) (h : s.mem.wf = true) :
    (s.bankSupply bank2 up).mem.wf = true := by simp [State.bankSupply, ite_mem, h]

@[simp] theorem State.crystalLost_mem (s : State) : s.crystalLost.mem = s.mem := by simp [State.crystalLost, ite_mem]

@[simp] theorem State.harvest_mem (s : State) (f : Hrv → Hrv) : (s.harvest f).mem = s.mem := by
  unfold State.harvest
  split <;> rfl

@[simp] theorem State.sampleDone_mem (s : State) (vcell vmain : BitVec 16) (inner : Int) (ntc : Option Int)
    (light : Bool) : (s.sampleDone vcell vmain inner ntc light).mem = s.mem := by simp [State.sampleDone, ite_mem]

@[simp] theorem State.overDischarge_mem (s : State) : s.overDischarge.mem = s.mem := by
  simp [State.overDischarge, ite_mem]

@[simp] theorem State.overCurrent_wf {s : State} (h : s.mem.wf = true) : s.overCurrent.mem.wf = true := by
  simp [State.overCurrent, ite_mem, h]

@[simp] theorem State.dischargeTemp_wf {s : State} (h : s.mem.wf = true) : s.dischargeTemp.mem.wf = true := by
  unfold State.dischargeTemp
  dsimp only
  split
  · split <;> simp [h]
  · simp [h]

@[simp] theorem State.alarmFires_wf {s : State} (n : Nat) (h : s.mem.wf = true) : (s.alarmFires n).mem.wf = true := by
  simp [State.alarmFires, ite_mem, h]

@[simp] theorem State.periodicFires_wf {s : State} (n : Nat) (h : s.mem.wf = true) :
    (s.periodicFires n).mem.wf = true := by simp [State.periodicFires, ite_mem, h]

/-! ## Events of the peripherals -/

@[simp] theorem State.timReach_mem (s : State) (n : Nat) (v : Word) : (s.timReach n v).mem = s.mem := by
  simp [State.timReach, ite_mem]

@[simp] theorem State.compareMatch_mem (s : State) (n k : Nat) : (s.compareMatch n k).mem = s.mem := by
  simp [State.compareMatch, ite_mem]

@[simp] theorem State.timOverflow_mem (s : State) (n : Nat) : (s.timOverflow n).mem = s.mem := by
  simp [State.timOverflow, ite_mem]

@[simp] theorem State.uaReceive_mem (s : State) (n : Nat) (c : UaChar) : (s.uaReceive n c).mem = s.mem := by
  simp [State.uaReceive, ite_mem]

@[simp] theorem State.uaIdle_mem (s : State) (n : Nat) : (s.uaIdle n).mem = s.mem := by simp [State.uaIdle, ite_mem]

@[simp] theorem State.uaStart_mem (s : State) (n : Nat) (high8 : Bool) : (s.uaStart n high8).mem = s.mem := by
  simp [State.uaStart, ite_mem]

@[simp] theorem State.uaEdge_mem (s : State) (n : Nat) (high8 : Bool) (cut : Option (BitVec 9 × Bool)) :
    (s.uaEdge n high8 cut).mem = s.mem := by
  unfold State.uaEdge
  split <;> simp [ite_mem]

@[simp] theorem State.uaTake_mem (s : State) (n pos : Nat) (l : Bool) : (s.uaTake n pos l).mem = s.mem := by
  simp [State.uaTake, ite_mem]

@[simp] theorem State.uaBegin_mem (s : State) (n : Nat) : (s.uaBegin n).mem = s.mem := rfl

@[simp] theorem State.uaWithin_mem (s : State) (n : Nat) (falls l : Bool) : (s.uaWithin n falls l).mem = s.mem := by
  simp [State.uaWithin, ite_mem]

@[simp] theorem State.uaSeek_mem (s : State) (n : Nat) (falls l : Bool) : (s.uaSeek n falls l).mem = s.mem := by
  simp [State.uaSeek, ite_mem]

@[simp] theorem State.uaSample_mem (s : State) (n : Nat) : (s.uaSample n).mem = s.mem := by
  simp [State.uaSample, ite_mem]

@[simp] theorem State.uaClock_mem (s : State) (n : Nat) : (s.uaClock n).mem = s.mem := by simp [State.uaClock, ite_mem]

@[simp] theorem State.touch_mem (s : State) (f : Tch → Tch) : (s.touch f).mem = s.mem := by
  unfold State.touch
  split <;> rfl

@[simp] theorem State.touchCommit_wf {s : State} (sc : Scan) (h : s.mem.wf = true) :
    (s.touchCommit sc).mem.wf = true := by simp [State.touchCommit, ite_mem, h]

@[simp] theorem State.touchEnd_wf {s : State} (h : s.mem.wf = true) : s.touchEnd.mem.wf = true := by
  unfold State.touchEnd
  split <;> simp [ite_mem, h]

@[simp] theorem State.rfReject_mem (s : State) (f : PhyFrame) : (s.rfReject f).mem = s.mem := by
  simp [State.rfReject, ite_mem]

@[simp] theorem State.rfSync_mem (s : State) (w : Word) (fofs : BitVec 16) : (s.rfSync w fofs).mem = s.mem := by
  unfold State.rfSync
  split <;> rfl

@[simp] theorem State.pinEdge_wf {s : State} (b : Nat) (rise : Bool) (h : s.mem.wf = true) :
    (s.pinEdge b rise).mem.wf = true := by simp [State.pinEdge, ite_mem, h]

@[simp] theorem State.pegDone_mem (s : State) : s.pegDone.mem = s.mem := by
  unfold State.pegDone
  split <;> rfl

/-! ## Loads and stores as instructions -/

@[simp] theorem State.loads_wf {s : State} (c : CoreId) (halves n : Nat) (a : Core → Word) (w : Nat → Word)
    (d : Reg) (h : s.mem.wf = true) : (s.loads c halves n a w d).mem.wf = true :=
  State.instr_wf c halves h fun _ ht => Got.into_wf _ _ _ _ (State.load_wf _ _ _ ht)

@[simp] theorem State.stores_wf {s : State} (c : CoreId) (halves n : Nat) (a : Core → Word) (d : Reg)
    (h : s.mem.wf = true) : (s.stores c halves n a d).mem.wf = true :=
  State.instr_wf c halves h fun _ ht => Got.into_wf _ _ _ _ (State.storeBytes_wf _ _ _ _ ht)

@[simp] theorem State.push_wf {s : State} (c : CoreId) (r : Reg) (h : s.mem.wf = true) : (s.push c r).mem.wf = true :=
  State.instr_wf c 1 h fun _ ht => Got.into_wf _ _ _ _ (State.storeBytes_wf _ _ _ _ ht)

@[simp] theorem State.pop_wf {s : State} (c : CoreId) (d : Reg) (h : s.mem.wf = true) : (s.pop c d).mem.wf = true :=
  State.instr_wf c 1 h fun _ ht => Got.into_wf _ _ _ _ (State.load_wf _ _ _ ht)

@[simp] theorem State.atomics_wf {s : State} (c : CoreId) (halves : Nat) (a : Reg) (f : Core → Word → Word)
    (d : Reg) (h : s.mem.wf = true) : (s.atomics c halves a f d).mem.wf = true :=
  State.instr_wf c halves h fun _ ht => Got.into_wf _ _ _ _ (State.atomic_wf _ _ _ ht)

/-! ## Accesses to registers -/

@[simp] theorem State.hostWrite_wf {s : State} (k : Option Nat) (v : Word) (h : s.mem.wf = true) :
    (s.hostWrite k v).mem.wf = true := by
  unfold State.hostWrite
  dsimp only
  split <;> simp [h]

@[simp] theorem State.rowWrite_wf {s : State} (a : Agent) (o : Nat) (k : Option Nat) (v : Word) (h : s.mem.wf = true) :
    (s.rowWrite a o k v).mem.wf = true := by
  unfold State.rowWrite
  split
  · refine ite_wf ?_ h
    split
    · exact State.takeException_wf _ _ _ _ h
    · exact State.busWrite_wf _ _ _ h
  · exact ite_wf (State.busWrite_wf _ _ _ h) h
  · exact State.hostWrite_wf _ _ h

@[simp] theorem State.rowRead_wf {s : State} (a : Agent) (o : Nat) (k : Option Nat) (h : s.mem.wf = true) :
    (s.rowRead a o k).mem.wf = true := by
  unfold State.rowRead
  split
  · refine ite_wf ?_ h
    split
    · exact State.takeException_wf _ _ _ _ h
    · exact wf_of_mem (State.busRead_mem ..) h
  · exact ite_wf (wf_of_mem (State.busRead_mem ..) h) h
  · split
    · exact State.pegRead_wf _ h
    · exact h

@[simp] theorem State.irqRow_wf {s : State} (a : Agent) (bank off : Nat) (v : Word) (h : s.mem.wf = true) :
    (s.irqRow a bank off v).mem.wf = true := State.rowWrite_wf _ _ _ _ h

@[simp] theorem State.wardenRow_wf {s : State} (a : Agent) (op : Nat) (h : s.mem.wf = true) :
    (s.wardenRow a op).mem.wf = true := State.rowWrite_wf _ _ _ _ h

@[simp] theorem State.pegCmdRow_wf {s : State} (a : Agent) (op arg : Nat) (h : s.mem.wf = true) :
    (s.pegCmdRow a op arg).mem.wf = true := State.rowWrite_wf _ _ _ _ h

@[simp] theorem State.physBeat_wf {s : State} (a : Nat) (bs : List Byte) (h : s.mem.wf = true) :
    (s.physBeat a bs).mem.wf = true := by
  unfold State.physBeat
  dsimp only
  split
  · simp [h]
  · split
    · simp [h]
    · split <;> simp [h]

@[simp] theorem State.windowBeat_wf {s : State} (a : Nat) (bs : List Byte) (h : s.mem.wf = true) :
    (s.windowBeat a bs).mem.wf = true := by
  unfold State.windowBeat
  split <;> simp [h]

@[simp] theorem State.ridgeWrite_wf {s : State} (a : Nat) (v : Word) (h : s.mem.wf = true) :
    (s.ridgeWrite a v).mem.wf = true := by
  have beat : ∀ (t : State) a bs, t.mem.wf = true →
      (if inObjWindow a then t.windowBeat a bs else t.physBeat a bs).mem.wf = true := fun t a bs ht =>
    ite_wf (State.windowBeat_wf _ _ ht) (State.physBeat_wf _ _ ht)
  unfold State.ridgeWrite
  exact ite_wf (ite_wf (State.busWrite_wf _ _ _ h) h) (ite_wf (beat _ _ _ h) (beat _ _ _ (beat _ _ _ h)))

@[simp] theorem State.anyWrite_wf {s : State} (a : Agent) (addr v : Word) (h : s.mem.wf = true) :
    (s.anyWrite a addr v).mem.wf = true := by
  have stored := fun c a n => State.storeBytes_wf c a 4 n h
  unfold State.anyWrite
  dsimp only
  split
  · refine ite_wf ?_ h
    split
    · exact State.takeException_wf _ _ _ _ (stored _ _ _)
    · exact State.aftermath_wf _ _ _ _ (stored _ _ _)
  · exact ite_wf (State.ridgeWrite_wf _ _ h) h
  · exact State.hostWrite_wf _ _ h

/-! ## String instructions -/

@[simp] theorem State.element_wf {s : State} (c : CoreId) (op : StringOp) (n : Nat) (h : s.mem.wf = true) :
    (s.element c op n).s.mem.wf = true := by
  have read := fun a => State.load_wf c a n h
  unfold State.element
  cases op with
  | movs => exact Got.done_wf _ _ (Got.andThen_wf _ (read _) fun _ ht => State.storeBytes_wf _ _ _ _ ht)
  | fils => exact Got.done_wf _ _ (State.storeBytes_wf _ _ _ _ h)
  | cmps => exact Got.done_wf _ _ (Got.andThen_wf _ (read _) fun _ ht => State.load_wf _ _ _ ht)
  | scns => exact Got.done_wf _ _ (read _)

@[simp] theorem State.elements_wf (c : CoreId) (op : StringOp) (n : Nat) (pre : RepPrefix) :
    ∀ (k : Nat) {s : State}, s.mem.wf = true → (s.elements c op n pre k).s.mem.wf = true
  | 0, _, h => h
  | k + 1, s, h => by
    have made := State.element_wf c op n h
    unfold State.elements
    dsimp only
    split
    · exact h
    · split
      · exact made
      · split
        · exact made
        · exact State.elements_wf c op n pre k (s := (s.element c op n).s.onCore c fun k => k.setR 3 (k.r 3 - 1#32)) made

@[simp] theorem State.stringBare_wf {s : State} (c : CoreId) (op : StringOp) (n : Nat) (h : s.mem.wf = true) :
    (s.stringBare c op n).mem.wf = true :=
  State.instr_wf c 1 h fun _ ht => ite_wf (by simp [State.element_wf, ht]) (State.element_wf _ _ _ ht)

@[simp] theorem State.stringGo_wf {s : State} (c : CoreId) (op : StringOp) (n : Nat) (pre : RepPrefix)
    (m first : Nat) (h : s.mem.wf = true) : (s.stringGo c op n pre m first).mem.wf = true := by
  have made := State.elements_wf c op n pre m h
  have counted : ∀ k, ((s.elements c op n pre m).s.countCore c 11 k).mem.wf = true := fun k => by simp [made]
  unfold State.stringGo
  dsimp only
  split
  · exact State.takeException_wf _ _ _ _ (by simp [made])
  · refine ite_wf ?_ (State.aftermath_wf _ _ _ _ (by simp [made]))
    exact State.aftermath_wf _ _ _ _ (by simp [State.complete_mem, made])

@[simp] theorem State.stringPrefixed_wf {s : State} (c : CoreId) (op : StringOp) (n : Nat) (pre : RepPrefix)
    (m : Nat) (h : s.mem.wf = true) : (s.stringPrefixed c op n pre m).mem.wf = true := by
  have fetched := State.fetches_wf c 2 s.cores[c].pc.toNat h
  unfold State.stringPrefixed
  refine ite_wf (ite_wf (State.stringGo_wf _ _ _ _ _ _ h) ?_) h
  dsimp only
  split
  · exact State.takeException_wf _ _ _ _ fetched
  · exact State.stringGo_wf _ _ _ _ _ _ fetched

@[simp] theorem State.string_wf {s : State} (c : CoreId) (op : StringOp) (size : ElemSize) (pre : RepPrefix)
    (m : Nat) (h : s.mem.wf = true) : (s.string c op size pre m).mem.wf = true := by
  unfold State.string
  split
  · exact State.stringBare_wf _ _ _ h
  · exact State.stringPrefixed_wf _ _ _ _ _ h

/-! ## The passing of time -/

@[simp] theorem State.rtcEvents_wf {s : State} (old : Rtc) (h : s.mem.wf = true) : (s.rtcEvents old).mem.wf = true := by
  have alarm : ∀ (t : State) b n, t.mem.wf = true → (if b = true then t.alarmFires n else t).mem.wf = true := fun t b n ht =>
    ite_wf (State.alarmFires_wf _ ht) ht
  have periodic : ∀ (t : State) b n, t.mem.wf = true → (if b = true then t.periodicFires n else t).mem.wf = true :=
    fun t b n ht => ite_wf (State.periodicFires_wf _ ht) ht
  exact periodic _ _ _ (periodic _ _ _ (periodic _ _ _ (alarm _ _ _ (alarm _ _ _ h))))

@[simp] theorem State.rtcTick_wf {s : State} (h : s.mem.wf = true) : s.rtcTick.mem.wf = true := by
  unfold State.rtcTick
  refine ite_wf (ite_wf h h) (State.rtcEvents_wf _ ?_)
  rw [State.onRtc_mem]
  exact ite_wf h h

@[simp] theorem State.touchTick_mem (s : State) : s.touchTick.mem = s.mem := by simp [State.touchTick]

@[simp] theorem State.porchTick_wf {s : State} (h : s.mem.wf = true) : s.porchTick.mem.wf = true := by
  have counted : ((if s.running then s.countSys 3 1 else s).onNet fun n => { n with sinceCorr := n.sinceCorr + 1 }).mem.wf =
      true := by simp [ite_mem, h]
  have ticked := State.debounceAll_wf (State.rtcTick_wf counted)
  exact State.idleTick_wf (by simp [ticked])

@[simp] theorem State.wdogTick_mem (s : State) : s.wdogTick.mem = s.mem := by
  unfold State.wdogTick
  split <;> rfl

@[simp] theorem State.idleCore_mem (s : State) (n : Nat) (c : CoreId) : (s.idleCore n c).mem = s.mem := by
  simp [State.idleCore, ite_mem]

@[simp] theorem State.pclk_mem (s : State) : s.pclk.mem = s.mem := by
  unfold State.pclk
  simp [foldl_mem]

@[simp] theorem State.advanceEvents_mem (s : State) : s.advanceEvents.mem = s.mem := rfl

@[simp] theorem State.timers_mem (s : State) (due : List Flight) : (s.timers due).mem = s.mem :=
  foldl_mem (fun _ _ => by simp [ite_mem]) _ _

@[simp] theorem State.lines_mem (s : State) : s.lines.mem = s.mem := foldl_mem (by simp) _ _

@[simp] theorem State.touchResume_mem (s : State) : s.touchResume.mem = s.mem := by
  unfold State.touchResume
  split <;> rfl

@[simp] theorem State.edge_mem (s : State) : s.edge.mem = s.mem := by
  have arrived : ∀ (l : List Flight) (t : State), (l.foldl (fun (s : State) (f : Flight) => s.arrive f) t).mem = t.mem :=
    foldl_mem fun _ _ => State.arrive_mem ..
  simp [State.edge, arrived]

@[simp] theorem State.idle_wf {s : State} (h : s.mem.wf = true) : s.idle.mem.wf = true := by
  unfold State.idle
  refine ite_wf ?_ ?_
  · rw [finish_mem]
    exact ite_wf (State.porchTick_wf (by simp [h])) (by simp [h])
  · rw [finish_mem]
    exact State.porchTick_wf h

/-! ## Commands -/

/-- The state that an outcome answers has its memory in canonical form. -/
def leavesCanonical (o : Host.Outcome State Fault Refusal) : Prop := ∀ t, o = .next t → t.mem.wf = true

theorem finish_leaves {s u : State} (h : u.mem.wf = true) : leavesCanonical (.next (finish s u)) := fun t e => by
  cases e
  rw [finish_mem]
  exact h

/-- Every command keeps memory in canonical form: by the operation that it makes, since no other part of it
writes memory. -/
theorem exec_leavesCanonical {s : State} (h : s.mem.wf = true) (i : Instr) : leavesCanonical (exec i s) := by
  cases i with
  | mov | add | adc | sub | sbc | cmp | neg | and | or | xor | tst | not | lsl | lsr | asr | ror | sxb | sxh | zxh 
  | movi | addi | cmpi | nop | sync | addRrr | subRrr | andRrr | orRrr | xorRrr | addiRri | andi | ori | xori | movw 
  | movh | cmpw | lsli | lsri | asri | rori => exact finish_leaves (State.regs_wf _ _ _ _ h)
  | mulu | muls => exact finish_leaves (State.multiply_wf _ _ h)
  | divu | divs => exact finish_leaves (State.divide_wf _ _ h)
  | badd | badc | bsub | bsbc | dadj | cvbd | cvdb => exact finish_leaves (State.decimal_wf _ _ _ h)
  | ldb | ldh | ldw | ldws | ldbRri | ldbs | ldhRri | ldhs | ldwRri =>
    exact finish_leaves (State.loads_wf _ _ _ _ _ _ h)
  | stb | sth | stw | stbRri | sthRri | stwRri => exact finish_leaves (State.stores_wf _ _ _ _ _ h)
  | xchg | addm => exact finish_leaves (State.atomics_wf _ _ _ _ _ h)
  | jr | jlr => exact finish_leaves (State.jumpReg_wf _ _ _ h)
  | bcc | bccL => exact finish_leaves (State.branch_wf _ _ _ _ h)
  | movs | cmps | scns | fils => exact finish_leaves (State.string_wf _ _ _ _ _ h)
  | jmp | bl => exact finish_leaves (State.jump_wf _ _ _ h)
  | info | imgConfirm | imgSwitch | rollbackCommit | pinClaim | pinFree | chanClaim | chanFree | dvfs | stay | keyLoad
  | keyCheck | embRights | wdogSet | wdogKick | reset => exact finish_leaves (State.trapOp_wf _ _ h)
  | irqEoi | irqSwset | evtSwfire | evtConsWrite | evtChCfgWrite | evtTrelWrite | evtPoutWrite | evtFiredClear 
  | evtCovrClear | wdnObjSelWrite | wdnTskSelWrite | wdnPolWrite | wdnEpochWrite | wdnLimWrite | wdnEpochLimWrite 
  | wdnRetireWrite | vptWrite | clkDivWrite | itgLogSelWrite | hrvCtlWrite | hrvProtWrite | hrvTlimWrite | hrvChgWrite 
  | hrvCapWrite | hrvLchgWrite | hrvThresholdWrite | rtcStep | rtcRel | rtcSwclr | rtcModeWrite | rtcSlewWrite 
  | timerCntWrite | timerCmpWrite | timerStagWrite | timerCtlWrite | uaTxWrite | uaDivWrite | uaQcfgWrite | uaCtlWrite 
  | tchStart | tchRebase | rfConfigWrite | rfCtlWrite | netCmdSend | netCmdJoin | netCmdLeave | netCmdSurvey 
  | netCmdAdmit | netCmdKeyset | netCmdKeyuse | netEnWrite | cntCapture | cntLoWrite | cntHiWrite | pinOutWrite 
  | pinHoldWrite | pinBallWrite | pegSessClose | pegH2d3Write | pegD2h3Write | pegMbstatWrite | pegUpdAddrWrite 
  | pegUpdDataWrite => exact finish_leaves (State.rowWrite_wf _ _ _ _ h)
  | irqEnWrite | irqPsetWrite | irqPermitWrite => exact finish_leaves (State.irqRow_wf _ _ _ _ h)
  | irqLostRead | memBankWearLoRead | memConfRead | memConfSatRead | rtcTimeRead | rtcEcapHiRead | timerCntRead 
  | uaRxRead | uaErrcntRead | rfAbortsRead | rfRxerrRead | netCntRead | cntLoRead | pegUpdDataRead =>
    exact finish_leaves (State.rowRead_wf _ _ _ h)
  | objDeclare | objRelease | objRights | tskDeclare | tskRelease | jnlPurge =>
    exact finish_leaves (State.wardenRow_wf _ _ h)
  | pegReset | gsWrite | pegImgSwitch | keySet => exact finish_leaves (State.pegCmdRow_wf _ _ _ h)
  | guylineChannelFire | wardenCommandComplete | epochEnd | migrationStart | migrationComplete | sramBankClearDone 
  | scrubRead | eccWriteback | scrubOverdue | buckSettled | dividerChange | trailSubmit | trailClose | timerCompareMatch
  | timerOverflow | uaCharacterReceived | uaBreakReceived | uaIdleDetect | uaCharacterSent | uaDeLagEnd 
  | pegWriteComplete | pegSessionCheck | pegSessionTimeout | pegCmdComplete | pegUpdPrefetchDone | uaStartBitDetect 
  | copyUncorrectableRead | correctionWindowEnd | ridgepoleWatchdogWarning =>
    exact finish_leaves (State.awake_wf h fun t ht => by simp [ite_mem, ht])
  | undefinedEncoding => exact finish_leaves (ite_wf (State.instr_wf _ _ h fun _ ht => ht) h)
  | unknownService => exact finish_leaves (ite_wf h (State.trapOp_wf _ _ h))
  | wardenBadOp => exact finish_leaves (ite_wf h (State.wardenRow_wf _ _ h))
  | pegCmdBadOp => exact finish_leaves (ite_wf h (State.pegCmdRow_wf _ _ _ h))
  | interruptAccept =>
    refine finish_leaves (ite_wf ?_ h)
    split
    · exact State.acceptInterrupt_wf _ _ h
    · exact h
  | push | pop | mfs | mts | post | wait | tend | frame | eret | iret | trapReturn | strikeComplete | idleTimerExpire
  | wakeSourceQualify | pitchPath | fullBoot | powerOn | nrstAssert | vmainLoss | vmainReturn | bankSupplyChange 
  | canvasWatchdogExpire | ridgepoleWatchdogExpire | lockstepDivergence | integrityFault | frameBoundary | lanternUpdate
  | overCurrentTrip | dischargeTemperatureTrip | rtcAlarmMatch | rtcPeriodicEvent | touchScanCommit | rfTxEnd 
  | netSlotWake | netSlotStart | netSlotEnd | ackTimeout | beaconReceived | dataReceived | ackReceived | joinReqReceived
  | joinRspReceived | attachReceived | detachReceived | messageDelivery | childTimeout | keepTimer | parentLoss 
  | pinEdge | pegRead | pegWrite | readStatus | beginSession | sessionResponse | pegBadCommand | pegFrameCut 
  | registerWrite | debugRegisterAccess | porchSupplyLoss => exact finish_leaves (by simp [h])
  | multiplyResult | divideResult | wardenDispatch | crystalQualified | hearthFllCount | debugHalt | dutyCreditAccrue
  | cntOverflow | rtcDomainReset | crystalLoss | selfTestRound | debugStep | debugResume | lanternSample 
  | mpptMeasurementStart | overchargeTrip | chargeTemperatureTrip | protectionRelease | chargerStateChange 
  | chargerPrechargeTimeout | chargerTerminate | harvestIntakeLimit | lanternSampleDone | mpptMeasurementEnd 
  | overDischargeTrip | rtcCalendarRoll | rtcSlewDone | touchScanDue | touchScanStart | dqiTimeout 
  | touchMeasurementDone | touchRateChange | rfPllLockFail | rfFrameAbort | rfFrameReject | listenWindowClose 
  | transactionTimeout | reassemblyTimeout | joinTimeout | oldKeyExpiry | surveyEnd | nrstRelease | rfSyncDetect 
  | supplyWatchQualified => exact finish_leaves (by simp [ite_mem, h])

/-- Settles O59: a step is a command's effect or an idle tick, and each keeps memory in canonical form. That memory
lists no byte which reads as an unlisted one does is the model's representation (assumption 5). -/
theorem canonicalMemoryKept : Obligations.CanonicalMemoryKept := by
  intro s t h e
  unfold step at e
  split at e
  next =>
    cases e
    exact State.idle_wf h
  next i rest _ => exact exec_leavesCanonical (s := s.withQueue rest) h i t e

end Sys2Proof.Machine

/-! # Memory events

The scrubber's word, a correction's write-back, bank clears and correction windows (R79-R86). -/

namespace Sys2Proof.Machine

open Sys2Proof

/-! ## What the reading of a word leaves to the scrubber and the cores

A word in error may be logged, retire its bank and be recorded as a fault; the scrubber's place and the cores are
no part of that. -/

/-- The scrubber's place and the cores. -/
def State.patrol (s : State) : Nat × Vector Core 4 := (s.mm.scrub, s.cores)

section Patrol

variable (s : State)

theorem State.powerOffEmpty_patrol : s.powerOffEmpty.patrol = s.patrol := by
  unfold State.powerOffEmpty
  dsimp only
  split <;> rfl

theorem State.recordFault_patrol (f : FaultInfo) (action : Nat) : (s.recordFault f action).patrol = s.patrol := by
  obtain ⟨t, g, h, e⟩ := s.recordFault_burned f action
  rw [e]
  exact h.same State.patrol fun _ _ => rfl

theorem State.flushLooks_patrol (l : List Migration) :
    (l.foldl (fun s m => s.flushLook m.obj) s).patrol = s.patrol := by
  induction l generalizing s with
  | nil => rfl
  | cons m l ih => exact ih (s.flushLook m.obj)

theorem State.requestRetire_patrol (b a : Nat) : (s.requestRetire b a).patrol = s.patrol := by
  unfold State.requestRetire
  dsimp only
  split
  · rfl
  · split
    · rw [State.powerOffEmpty_patrol]
      split
      · rfl
      · exact State.flushLooks_patrol _ _
    · exact State.recordFault_patrol ..

theorem State.countCorrection_patrol (w m : Nat) : (s.countCorrection w m).patrol = s.patrol := by
  have logged : ∀ r : MemRegs, (r.logEcc w m .single).scrub = r.scrub := fun r => by
    unfold MemRegs.logEcc
    dsimp only
    split <;> rfl
  have counted : ∀ f : MemRegs → MemRegs, (∀ r, (f r).scrub = r.scrub) →
      ((s.onMm f).countSys 16 1).patrol = s.patrol := fun f hf => by
    simp [State.patrol, hf]
  unfold State.countCorrection
  dsimp only
  split
  · rw [State.requestRetire_patrol]
    exact counted _ logged
  · exact counted _ logged

theorem State.uncorrected_patrol (w m : Nat) (k : EccKind) : (s.uncorrected w m k).patrol = s.patrol := by
  unfold State.uncorrected
  dsimp only
  rw [State.requestRetire_patrol]
  unfold MemRegs.logEcc State.patrol
  dsimp only [State.onMm]
  split <;> rfl

theorem State.readWord_patrol (m w : Nat) : (s.readWord m w).s.patrol = s.patrol := by
  unfold State.readWord
  split
  · rfl
  · split
    · exact State.uncorrected_patrol ..
    · exact State.countCorrection_patrol ..

end Patrol

/-! ## The scrubber's step -/

/-- The scrubber goes on to its next word (R81). -/
def State.scrubNext (s : State) : State := s.onMm fun r => { r with scrub := (r.scrub + 1) % 2 ^ 20 }

/-- A pass is complete, and Ridgepole stores when the next one begins (R83, R102). -/
def State.scrubPass (s : State) : State :=
  ((s.onMm fun r => { r with stat := setBit r.stat 5 true }).onRp fun r =>
    { r with passStart := s.per.rtc.secs, scrubLate := false }).storeWrites

section Scrub

variable (s : State)

theorem State.scrub_eq (f : Option EccKind) : s.scrub f =
    let w := mramBase + 8 * s.mm.scrub
    let t := (((s.onMem fun m => m.errorAt w f).countSys 17 1).readWord scrubber w).s.scrubNext
    if t.mm.scrub = 0 then t.scrubPass else t := rfl

theorem Memory.errorAt_none (m : Memory) (w : Nat) : m.errorAt w none = m := by
  rw [Memory.errorAt]
  nofun

theorem State.scrubNext_patrol : s.scrubNext.patrol = ((s.patrol.1 + 1) % 2 ^ 20, s.patrol.2) := rfl

theorem State.scrubPass_patrol : s.scrubPass.patrol = s.patrol := rfl

/-- The scrubber moves one word on, whatever it finds, and no core sees it (R81). -/
theorem State.scrub_patrol (f : Option EccKind) : (s.scrub f).patrol = ((s.mm.scrub + 1) % 2 ^ 20, s.cores) := by
  have counted : ∀ g : Memory → Memory, ((s.onMem g).countSys 17 1).patrol = s.patrol := fun g => by
    simp [State.patrol]
  rw [State.scrub_eq, apply_ite State.patrol, State.scrubPass_patrol, ite_self, State.scrubNext_patrol,
    State.readWord_patrol, counted]
  rfl

/-- The reading of a word that shows no error leaves only its count (R81, R83). -/
theorem State.scrub_of_clean (h : s.mem.eccOf (mramBase + 8 * s.mm.scrub) = none) : s.scrub none =
    let t := (s.countSys 17 1).scrubNext
    if t.mm.scrub = 0 then t.scrubPass else t := by
  have shown : (s.onMem fun m => m.errorAt (mramBase + 8 * s.mm.scrub) none) = s :=
    congrArg (fun m => { s with mem := m }) (Memory.errorAt_none ..)
  have read : (s.countSys 17 1).readWord scrubber (mramBase + 8 * s.mm.scrub) = ⟨s.countSys 17 1, []⟩ := by
    simp [State.readWord, h]
  rw [State.scrub_eq]
  dsimp only
  rw [shown, read]

theorem keepsNoted_scrubNext : KeepsNoted State.scrubNext := keepsNoted_onMm _

theorem keepsNoted_scrubPass : KeepsNoted State.scrubPass :=
  keepsNoted_of_apart (fun _ => rfl) (fun _ => rfl) (fun _ => rfl) fun _ => rfl

variable {s} (h : s.mem.eccOf (mramBase + 8 * s.mm.scrub) = none)

include h

/-- Inside a pass, the reading of a clean word moves the scrubber alone. -/
theorem State.scrub_noted (hn : (s.mm.scrub + 1) % 2 ^ 20 ≠ 0) : s.scrubNext.Noted (s.scrub none) := by
  have inside : (s.countSys 17 1).scrubNext.mm.scrub ≠ 0 := fun e => hn (by simpa [State.scrubNext] using e)
  rw [State.scrub_of_clean s h, if_neg inside]
  exact keepsNoted_scrubNext _ _ (s.countSys_noted 17 1)

/-- The last word of a pass, read clean, completes the pass. -/
theorem State.scrub_noted_of_last (hn : (s.mm.scrub + 1) % 2 ^ 20 = 0) :
    s.scrubNext.scrubPass.Noted (s.scrub none) := by
  have last : (s.countSys 17 1).scrubNext.mm.scrub = 0 := by simpa [State.scrubNext] using hn
  rw [State.scrub_of_clean s h, if_pos last]
  exact keepsNoted_scrubPass _ _ (keepsNoted_scrubNext _ _ (s.countSys_noted 17 1))

end Scrub

/-! ## Write-backs -/

theorem eccSize_pos (a : Nat) : 0 < eccSize a := by
  unfold eccSize
  split <;> decide

theorem Memory.bytes_getD (m : Memory) (a n : Nat) {x : Nat} (h : a ≤ x ∧ x < a + n) :
    (m.bytes a n).getD (x - a) 0#8 = m.byte x := by
  have hx : x - a < n := by omega
  have e : a + (x - a) = x := by omega
  rw [bytes_eq_map]
  simp [List.getD, hx, e]

/-- A word written whole shows no error and waits for no write-back. -/
theorem State.writeWhole_clean (s : State) {a : Nat} {bs : List Byte} (ha : a % eccSize a = 0) (hbs : bs ≠ []) :
    (s.writeWhole a bs).mem.eccOf a = none ∧ a ∉ (s.writeWhole a bs).mem.writeback := by
  have word : eccWord a = a := by rw [eccWord, ha, Nat.sub_zero]
  have hit : (decide (eccWord a ≤ a) && decide (a < a + bs.length)) = true := by
    simpa [word] using List.length_pos_iff.2 hbs
  have dropped : ∀ l : List (Nat × EccKind), (l.filter fun e =>
      !(decide (eccWord a ≤ e.1) && decide (e.1 < a + bs.length))).lookup a = none := fun l => by
    refine List.lookup_eq_none_iff.2 fun p hp => ?_
    have kept := (List.mem_filter.1 hp).2
    by_contra e
    have e' : a = p.1 := by simpa using e
    rw [← e', hit] at kept
    exact absurd kept (by decide)
  have forgotten : ∀ l : List Nat, a ∉ l.filter fun x =>
      !(decide (eccWord a ≤ x) && decide (x < a + bs.length)) := fun l hm => by
    have kept := (List.mem_filter.1 hm).2
    rw [hit] at kept
    exact absurd kept (by decide)
  unfold State.writeWhole
  dsimp only
  split
  · split <;> exact ⟨dropped _, forgotten _⟩
  · exact ⟨dropped _, forgotten _⟩

section WriteBack

variable {s : State} {a : Nat} (h : a ∈ s.mem.writeback)

include h

/-- A write-back changes no byte (R79). -/
theorem State.writeBack_byte (x : Nat) : (s.writeBack a).mem.byte x = s.mem.byte x := by
  rw [State.writeBack, if_pos h, State.writeWhole_byte, Memory.bytes_length]
  split
  · next hx => exact Memory.bytes_getD _ _ _ hx
  · rfl

theorem State.writeBack_cores : (s.writeBack a).cores = s.cores := by
  rw [State.writeBack, if_pos h]
  exact (s.writeWhole_burned _ _).same State.cores fun _ _ => rfl

theorem State.writeBack_clean (ha : a % eccSize a = 0) :
    (s.writeBack a).mem.eccOf a = none ∧ a ∉ (s.writeBack a).mem.writeback := by
  rw [State.writeBack, if_pos h]
  refine s.writeWhole_clean ha fun e => ?_
  have n := congrArg List.length e
  rw [Memory.bytes_length] at n
  exact absurd n (eccSize_pos a).ne'

end WriteBack

theorem State.awake_of_running {s : State} (h : s.running = true) (f : State → State) : s.awake f = f s := if_pos h

/-- Settles O37: each event runs its own step of the memory, and the scrubber's reading counts one word first. -/
theorem memoryEvents : Obligations.MemoryEvents := by
  intro s b k a f w next up
  have awake := State.awake_of_running up
  refine ⟨fun on => becomes_of_eq rfl ?_, fun off => becomes_of_eq rfl ?_, ⟨_, rfl, ?_⟩, fun hw hf hn => ?_,
    fun hw hf hn => ?_, fun ha => becomes_of_eq rfl ?_, fun ha haligned => ⟨_, rfl, fun x => ?_, ?_⟩,
    becomes_of_eq rfl (awake _), becomes_of_eq rfl (awake _)⟩
  · rw [awake]; exact if_pos on
  · rw [awake]; exact if_neg (by simp [off])
  · rw [awake, finish_mm_scrub, finish_cores]
    have moved := s.scrub_patrol f
    exact ⟨congrArg Prod.fst moved, congrArg Prod.snd moved⟩
  · subst hf
    refine ⟨_, rfl, ?_⟩
    rw [awake]
    exact (State.scrub_noted hw hn).settles s
  · subst hf
    refine ⟨_, rfl, ?_⟩
    rw [awake]
    have place : s.scrubNext = s.onMm fun r => { r with scrub := 0 } := by
      rw [State.scrubNext, State.onMm, show (s.mm.scrub + 1) % 2 ^ 20 = 0 from hn]
      rfl
    have e := State.scrub_noted_of_last hw hn
    rw [place] at e
    exact e.settles s
  · rw [awake]; exact if_neg ha
  · rw [awake, finish_mem]; exact State.writeBack_byte ha x
  · obtain ⟨clean, forgotten⟩ := State.writeBack_clean ha haligned
    rw [awake, finish_mem, finish_cores]
    exact ⟨clean, forgotten, State.writeBack_cores ha⟩

end Sys2Proof.Machine

/-! # Services of ownership and keys -/

namespace Sys2Proof.Machine

open Sys2Proof

/-! ## A service that changes one block (R173) -/

theorem canvasUp_of_issues {s : State} {c : CoreId} (h : s.issues c = true) : s.canvasUp = true := by
  simp only [State.issues, Bool.and_eq_true] at h
  exact h.1.1.1

section Blocks

variable {s : State} {c : CoreId} {n : Nat} {i : Instr} {r : TrapAnswer}

theorem Taken.pin {t : State} (h : Taken s c n t) : t.per.pin = s.per.pin := by
  have e := congrArg (fun u : State => u.per.pin) h.aside
  exact e

theorem Taken.evt {t : State} (h : Taken s c n t) : t.per.evt = s.per.evt := by
  have e := congrArg (fun u : State => u.per.evt) h.aside
  exact e

theorem Taken.w2 {t : State} (h : Taken s c n t) : t.cores[c].w[2] = s.cores[c].w[(2 : Reg)] := h.w 2

theorem Taken.task {t : State} (h : Taken s c n t) : t.cores[c].task = s.cores[c].task := by
  have e := congrArg Core.task h.core
  exact e.trans (Core.tick_task ..)

variable (h : s.ready c 1) (hm : s.mayAsk) (hi : exec i s = .next (finish s (s.trapOp c n))) (hn : n ≠ 15)

include h hm hi hn

/-- A service that makes of a ball what `f`, and so `g`, makes of it. -/
theorem trap_pin {f g : Pin → Pin} (hfg : f s.per.pin = g s.per.pin)
    (hs : ∀ t, Taken s c n t → t.service c n = ⟨t.onPin f, r⟩) : servedStep s i c n (s.onPin g) r := by
  have same : s.onPin g = s.onPin f := by
    unfold State.onPin State.onPer
    dsimp only
    rw [hfg]
  rw [same]
  refine trap_serves h hm hi hn rfl fun t ht => ⟨_, hs t ht, rfl, ?_⟩
  have e := congrArg (fun u : State => u.onPin f) ht.aside
  exact e

/-- A service that makes of a channel what `f` makes of it, next to what it takes back of interrupts and of events on
their way. -/
theorem trap_evt {f : Evt → Evt}
    (hs : ∀ t, Taken s c n t → ∃ v, t.service c n = ⟨v, r⟩ ∧ v.cores = t.cores ∧ v.aside c = (t.onEvt f).aside c) :
    servedStep s i c n (s.onEvt f) r := by
  refine trap_serves h hm hi hn rfl fun t ht => ?_
  obtain ⟨v, hv, hcores, haside⟩ := hs t ht
  have e := congrArg (fun u : State => u.onEvt f) ht.aside
  exact ⟨v, hv, hcores, haside.trans e⟩

/-- A service that makes of the memory block what `f` makes of it. -/
theorem trap_mm {f : MemRegs → MemRegs}
    (hf : ∀ r : MemRegs, f { r with conf := Vector.replicate 9 0#32, confSat := 0#32 } =
      { f r with conf := Vector.replicate 9 0#32, confSat := 0#32 })
    (hs : ∀ t, Taken s c n t → t.service c n = ⟨t.onMm f, r⟩) : servedStep s i c n (s.onMm f) r := by
  have apart : ∀ u : State, (u.onMm f).aside c = (u.aside c).onMm f := fun u =>
    congrArg (fun m => { u.aside c with mm := m }) (hf u.mm).symm
  refine trap_serves h hm hi hn rfl fun t ht => ⟨_, hs t ht, rfl, ?_⟩
  rw [apart, ht.aside, ← apart]
  rfl

end Blocks

/-! ## PIN_CLAIM and PIN_FREE (R395, R396) -/

section Balls

variable {t : State} {c : CoreId} {x y : Word}

theorem claimAllowed_ball {f b : Nat} (h : claimAllowed f b = true) : b < 96 := by
  unfold claimAllowed at h
  simp only [Bool.and_eq_true, decide_eq_true_eq] at h
  exact h.1

theorem svcPinClaim_bad (h : 96 ≤ x.toNat ∨ claimAllowed (bits y 0 4) x.toNat = false) :
    t.svcPinClaim c x y = t.fails 2 := if_pos h

section Allowed

variable (h : claimAllowed (bits y 0 4) x.toNat = true)

include h

theorem svcPinClaim_owned (ho : t.per.pin.owner x.toNat < 4) : t.svcPinClaim c x y =
    (t.onPin fun p => { p with stat := setBit p.stat 0 true }).fails 4 := by
  have hb := claimAllowed_ball h
  rw [State.svcPinClaim, if_neg (by rw [h]; simpa using hb), if_pos ho]
  rfl

theorem svcPinClaim_free (ho : ¬t.per.pin.owner x.toNat < 4) : t.svcPinClaim c x y =
    (t.onPin fun p => p.claim x.toNat (bits y 0 4) c (bit y 8)).serves 0#32 0#32 0#32 := by
  have hb := claimAllowed_ball h
  rw [State.svcPinClaim, if_neg (by rw [h]; simpa using hb), if_neg ho]

end Allowed

/-- A claim gives the ball its function, its owner and, for an output, its level (R395). -/
theorem Pin.claim_eq (p : Pin) (b f o : Nat) (level : Bool) : p.claim b f o level =
    { p with
      ball := vset p.ball b (setBits (setBits (p.cfg b) 0 4 f) 4 3 o)
      out := if 1 ≤ f ∧ f ≤ 3 then setBit p.out b level else p.out } := by
  unfold Pin.claim
  dsimp only
  split <;> rfl

theorem svcPinFree_bad (h : 96 ≤ x.toNat) : t.svcPinFree c x = t.fails 2 := if_pos h

theorem svcPinFree_denied (h : x.toNat < 96) (ho : t.per.pin.owner x.toNat ≠ c) : t.svcPinFree c x = t.fails 3 := by
  rw [State.svcPinFree, if_neg h.not_ge, if_pos ho]
  rfl

theorem svcPinFree_ok (h : x.toNat < 96) (ho : t.per.pin.owner x.toNat = c) : t.svcPinFree c x =
    (t.onPin fun p => p.free x.toNat).serves 0#32 0#32 0#32 := by
  rw [State.svcPinFree, if_neg h.not_ge, if_neg (not_not.2 ho)]

/-- Fields that do not overlap are set in either order. -/
theorem setBits_comm {n a k b m : Nat} (w : BitVec n) (u v : Nat) (h : a + k ≤ b ∨ b + m ≤ a) :
    setBits (setBits w a k u) b m v = setBits (setBits w b m v) a k u := by
  refine BitVec.eq_of_getLsbD_eq fun i _ => ?_
  change bit _ i = bit _ i
  simp only [bit_setBits]
  by_cases hu : a ≤ i ∧ i < a + k ∧ i < n
  · rw [if_neg (by omega), if_pos hu, if_pos hu]
  · rw [if_neg hu, if_neg hu]

/-- A ball that is free has neither drive nor wake nor pull, no function and no owner (R396). -/
theorem Pin.free_eq (p : Pin) (b : Nat) : p.free b =
    { p with
      ball := vset p.ball b (setBits (setBits (setBits (p.cfg b) 8 5 0) 0 4 0) 4 3 7)
      hold := if b < 16 then setBit p.hold b false else p.hold } := by
  have cleared : ∀ w : Word, w &&& ~~~0x1F00#32 = setBits w 8 5 0 := fun w => by simp [setBits, fieldMask]
  unfold Pin.free
  rw [cleared, setBits_comm _ _ _ (.inl (by decide)), setBits_comm _ 0 0 (.inl (by decide))]

end Balls

/-! ## CHAN_CLAIM and CHAN_FREE (R174, R204) -/

section Channels

variable {t : State} {c : CoreId} {x : Word}

theorem svcChanClaim_named (h : x.toNat < 62) (ho : 4 < t.per.evt.owner x.toNat) :
    t.svcChanClaim c x = (t.claimChannel x.toNat c).serves x 0#32 0#32 := by
  have named : x ≠ 0xFFFFFFFF#32 := fun e => absurd h (by rw [e]; decide)
  rw [State.svcChanClaim]
  dsimp only
  rw [if_neg named, if_neg h.not_ge, if_pos (decide_eq_true ho)]

theorem svcChanClaim_owned (h : x.toNat < 62) (ho : t.per.evt.owner x.toNat ≤ 4) :
    t.svcChanClaim c x = t.fails 4 := by
  have named : x ≠ 0xFFFFFFFF#32 := fun e => absurd h (by rw [e]; decide)
  rw [State.svcChanClaim]
  dsimp only
  rw [if_neg named, if_neg h.not_ge, if_neg (by simpa using ho)]
  rfl

theorem svcChanClaim_bad (h : 62 ≤ x.toNat) (hx : x ≠ 0xFFFFFFFF#32) : t.svcChanClaim c x = t.fails 2 := by
  rw [State.svcChanClaim]
  dsimp only
  rw [if_neg hx, if_pos h]
  rfl

/-- The free channel of lowest number is claimed (R174). -/
theorem svcChanClaim_lowest {n : Nat} (hn : n < 62) (ho : 4 < t.per.evt.owner n)
    (hl : ∀ m < n, t.per.evt.owner m ≤ 4) :
    t.svcChanClaim c 0xFFFFFFFF#32 = (t.claimChannel n c).serves (BitVec.ofNat 32 n) 0#32 0#32 := by
  have lowest : (List.range 62).find? (fun n => decide (4 < t.per.evt.owner n)) = some n :=
    List.find?_range_eq_some.2 ⟨decide_eq_true ho, List.mem_range.2 hn, fun m hm => by simpa using hl m hm⟩
  rw [State.svcChanClaim]
  dsimp only
  rw [if_pos rfl, lowest]

theorem svcChanClaim_none (h : ∀ m < 62, t.per.evt.owner m ≤ 4) :
    t.svcChanClaim c 0xFFFFFFFF#32 = t.fails 6 := by
  have none : (List.range 62).find? (fun n => decide (4 < t.per.evt.owner n)) = none :=
    List.find?_range_eq_none.2 fun m hm => by simpa using h m hm
  rw [State.svcChanClaim]
  dsimp only
  rw [if_pos rfl, none]
  rfl

theorem svcChanFree_bad (h : 64 ≤ x.toNat) : t.svcChanFree c x = t.fails 2 := if_pos h

theorem svcChanFree_denied (h : x.toNat < 64) (ho : t.per.evt.owner x.toNat ≠ c) :
    t.svcChanFree c x = t.fails 3 := by
  rw [State.svcChanFree, if_neg h.not_ge, if_pos ho]
  rfl

theorem svcChanFree_ok (h : x.toNat < 64) (ho : t.per.evt.owner x.toNat = c) :
    t.svcChanFree c x = (t.freeChannel x.toNat).serves 0#32 0#32 0#32 := by
  rw [State.svcChanFree, if_neg h.not_ge, if_neg (not_not.2 ho)]

/-- A channel as it is once freed: no owner, not fired, and named by no consumer (R204). -/
def Evt.freed (e : Evt) (n : Nat) : Evt :=
  { e with
    ch := vset e.ch n 0x7000#32
    fired := setBit e.fired n false
    cons := e.cons.map fun w => if bit w 6 ∧ bits w 0 6 = n then setBit w 6 false else w }

theorem freeChannel_cores (n : Nat) : (t.freeChannel n).cores = t.cores := by
  unfold State.freeChannel
  dsimp only
  split <;> rfl

/-- Next to the channel, only the owner's interrupt rows and the events on their way change. -/
theorem freeChannel_aside (n : Nat) : (t.freeChannel n).aside c = (t.onEvt fun e => e.freed n).aside c := by
  have cons : ∀ w : Word, (if bit w 6 && decide (bits w 0 6 = n) then setBit w 6 false else w) =
      if bit w 6 ∧ bits w 0 6 = n then setBit w 6 false else w := fun w => by
    simp only [Bool.and_eq_true, decide_eq_true_eq]
  unfold State.freeChannel
  dsimp only
  simp only [cons]
  split <;> rfl

end Channels

/-! ## What Ridgepole reads for a service (R96)

Each byte takes the object lookaside of Ridgepole and a turn of the free counter. -/

/-- `t` is `s` but for the lookasides and the free counter. -/
def State.Peeked (s t : State) : Prop := ∃ l k, t = { s with look := l, free := k }

theorem State.Peeked.trans {s t u : State} (h : s.Peeked t) (k : t.Peeked u) : s.Peeked u := by
  obtain ⟨l, m, rfl⟩ := h
  obtain ⟨l', m', rfl⟩ := k
  exact ⟨l', m', rfl⟩

section Reads

variable {s : State}

theorem State.ridgeRead_peeked (he : s.mem.ecc = []) (a n : Nat) : s.Peeked (s.ridgeRead a n) := by
  have bad : (s.useFree 1).badWords a n = [] := by
    have e : (s.useFree 1).mem.ecc = [] := he
    rw [State.badWords, e]
    rfl
  refine ⟨s.look, s.free + 1, ?_⟩
  unfold State.ridgeRead State.readRange
  rw [bad]
  rfl

theorem physical_of_index {a i : Nat} (hw : inObjWindow a = true) (hi : s.wdn.index a = some i) :
    s.physical a = (s.objAt i).translate a := by
  simp [State.physical, State.reach, hw, hi]

theorem State.ridgeByte_eq {a : Nat} (he : s.mem.ecc = []) (hw : inObjWindow a = true)
    (hi : (s.wdn.index a).isSome = true) :
    s.Peeked (s.ridgeByte a).1 ∧ (s.ridgeByte a).2 = s.mem.byte (s.physical a) := by
  obtain ⟨i, hi⟩ := Option.isSome_iff_exists.1 hi
  rw [physical_of_index hw hi]
  unfold State.ridgeByte
  rw [hi]
  have looked : s.Peeked (s.lookUp ridgepoleMaster i) := ⟨_, s.free, rfl⟩
  have read : (s.lookUp ridgepoleMaster i).Peeked
      ((s.lookUp ridgepoleMaster i).ridgeRead (eccWord ((s.objAt i).translate a)) 1) :=
    State.ridgeRead_peeked (s := s.lookUp ridgepoleMaster i) he _ _
  exact ⟨looked.trans read, rfl⟩

theorem State.ridgeBytes_eq : ∀ (n : Nat) {s : State} {a : Nat}, s.mem.ecc = [] →
    (∀ j < n, inObjWindow (a + j) = true) → (∀ j < n, (s.wdn.index (a + j)).isSome = true) →
    s.Peeked (s.ridgeBytes a n).1 ∧
      (s.ridgeBytes a n).2 = (List.range n).map fun j => s.mem.byte (s.physical (a + j))
  | 0, s, _, _, _, _ => ⟨⟨s.look, s.free, rfl⟩, rfl⟩
  | n + 1, s, a, he, hw, hi => by
    obtain ⟨first, byte⟩ := State.ridgeByte_eq he (hw 0 (by omega)) (hi 0 (by omega))
    simp only [Nat.add_zero] at first byte
    have shift : ∀ j, a + 1 + j = a + (j + 1) := fun j => by omega
    obtain ⟨l, k, e⟩ := first
    have rest := State.ridgeBytes_eq n (s := (s.ridgeByte a).1) (a := a + 1) (by rw [e]; exact he)
      (fun j hj => by rw [shift]; exact hw (j + 1) (by omega))
      (fun j hj => by rw [e, shift]; exact hi (j + 1) (by omega))
    refine ⟨State.Peeked.trans ⟨l, k, e⟩ rest.1, ?_⟩
    rw [List.range_succ_eq_map, List.map_cons, List.map_map]
    show (s.ridgeByte a).2 :: ((s.ridgeByte a).1.ridgeBytes (a + 1) n).2 = _
    rw [byte, rest.2, e]
    simp only [shift]
    rfl

end Reads

/-! ## KEY_LOAD and EMB_RIGHTS (R96, R171) -/

section Keys

variable {s t : State} {c : CoreId} {n : Nat}

/-- The objects stand as they did when the TRAP was issued, but for their heat. -/
theorem Taken.objects (h : Taken s c n t) : ({ s with wdn := t.wdn } : State).plain c = s.plain c := by
  have e := congrArg (fun u : State => { s.plain c with wdn := u.wdn }) h.aside
  exact e

theorem Taken.index (h : Taken s c n t) (a : Nat) : t.wdn.index a = s.wdn.index a := plain_index h.objects a

theorem Taken.physical (h : Taken s c n t) (a : Nat) : t.physical a = s.physical a := plain_physical h.objects a

theorem Taken.groupOf (h : Taken s c n t) : t.groupOf c = s.groupOf c := by
  have e : t.tskAt = s.tskAt := funext fun i => plain_tskAt h.objects i
  unfold State.groupOf
  rw [h.task, e]

/-- Whether a group may read a byte does not depend on the objects' heat. -/
theorem find_mayRead (w : Warden) (a g : Nat) : ((w.find a).any fun e => e.mayRead g) =
    (((w.obj.map ObjEntry.cold).toList.find? fun e => e.reachable && e.covers a).any fun e => e.mayRead g) := by
  rw [Vector.toList_map, List.find?_map, Option.any_map]
  rfl

theorem Taken.readable (h : Taken s c n t) (g a k : Nat) : t.readable g a k = s.readable g a k := by
  have objs : t.wdn.obj.map ObjEntry.cold = s.wdn.obj.map ObjEntry.cold := by
    have e := plain_obj h.objects
    exact e
  unfold State.readable
  simp only [find_mayRead, objs]

/-- A readable byte lies in an object. -/
theorem index_of_readable {g a k : Nat} (h : s.readable g a k = true) {j : Nat} (hj : j < k) :
    (s.wdn.index (a + j)).isSome = true := by
  have found := Option.isSome_of_any (List.all_eq_true.1 h j (List.mem_range.2 hj))
  rw [Warden.find, List.isSome_find?] at found
  rw [Warden.index, List.findIdx?_isSome]
  exact found

section Load

variable {x y : Word}

theorem svcKeyLoad_bad (h : 1028 ≤ x.toNat) : t.svcKeyLoad c x y = t.fails 2 := if_pos h

theorem svcKeyLoad_denied (h : x.toNat = 1026 ∨ x.toNat = 1027) : t.svcKeyLoad c x y = t.fails 3 := by
  rw [State.svcKeyLoad]
  dsimp only
  rw [if_neg (by omega), if_pos (by omega)]
  rfl

theorem svcKeyLoad_hidden (h : x.toNat < 1026) (hr : t.readable (t.groupOf c) y.toNat 16 = false) :
    t.svcKeyLoad c x y = t.fails 5 := by
  rw [State.svcKeyLoad]
  dsimp only
  rw [if_neg (by omega), if_neg (by omega), if_pos (by rw [hr]; rfl)]
  rfl

/-- The record of a key that is loaded (R171). -/
def Ridgepole.keyed (slot : Nat) (key : List Byte) (r : Ridgepole) : Ridgepole :=
  { r.setKey slot key with keyWrite := some slot }

theorem svcKeyLoad_ok (h : x.toNat < 1026) (hr : t.readable (t.groupOf c) y.toNat 16 = true) (hmode : t.rp.mode = .up)
    (he : t.mem.ecc = []) (hw : ∀ j < 16, inObjWindow (y.toNat + j) = true) :
    ∃ u, t.Peeked u ∧ t.svcKeyLoad c x y = (u.onRp (Ridgepole.keyed x.toNat
      ((List.range 16).map fun j => t.mem.byte (t.physical (y.toNat + j))))).storeWrites.serves 0#32 0#32 0#32 := by
  obtain ⟨peeked, bytes⟩ := State.ridgeBytes_eq 16 he hw fun j hj => index_of_readable hr hj
  have up : (t.ridgeBytes y.toNat 16).1.rp.mode = .up := by
    obtain ⟨l, k, e⟩ := peeked
    rw [e]
    exact hmode
  refine ⟨_, peeked, ?_⟩
  rw [State.svcKeyLoad]
  dsimp only
  rw [if_neg (by omega), if_neg (by omega), if_neg (by rw [hr]; decide), if_pos up, bytes]
  rfl

/-- The bytes that KEY_LOAD reads are those that the core would read (R96). -/
theorem Taken.keyBytes (h : Taken s c n t) (a : Nat) :
    ((List.range 16).map fun j => t.mem.byte (t.physical (a + j))) =
      (List.range 16).map fun j => s.mem.byte (s.physical (a + j)) := by
  simp only [h.physical, h.mem]

end Load

section Rights

variable {x y : Word}

theorem svcEmbRights_bad (h : 16 ≤ x.toNat ∨ 256 ≤ y.toNat) : t.svcEmbRights c x y = t.fails 2 := if_pos h

theorem svcEmbRights_denied (h : x.toNat < 16) (hy : y.toNat < 256) (ht : bit t.cores[c].task 31 = false) :
    t.svcEmbRights c x y = t.fails 3 := by
  rw [State.svcEmbRights]
  rw [if_neg (by omega), if_pos ht]
  rfl

theorem svcEmbRights_ok (h : x.toNat < 16) (hy : y.toNat < 256) (ht : bit t.cores[c].task 31 = true) :
    t.svcEmbRights c x y = (t.onMm fun r => { r with
      rights := vmod r.rights (x.toNat / 4) fun w => setBits w (8 * (x.toNat % 4)) 8 y.toNat }).serves
        0#32 0#32 0#32 := by
  rw [State.svcEmbRights]
  rw [if_neg (by omega), if_neg (by rw [ht]; decide)]

end Rights

/-- A service that stores a key: what it reads and writes on the way does not show. -/
theorem trap_keys {i : Instr} {r : TrapAnswer} {slot : Nat} {key : List Byte} (h : s.ready c 1) (hm : s.mayAsk)
    (hi : exec i s = .next (finish s (s.trapOp c n))) (hn : n ≠ 15)
    (hs : ∀ t, Taken s c n t → ∃ u, t.Peeked u ∧
      t.service c n = ⟨(u.onRp (Ridgepole.keyed slot key)).storeWrites, r⟩) :
    servedStep s i c n (s.onRp (Ridgepole.keyed slot key)) r := by
  obtain ⟨t, ht, hop⟩ := trapOp_taken (n := n) h hm
  obtain ⟨u, ⟨l, k, rfl⟩, hv⟩ := hs t ht
  have up : t.canvasUp = true := ht.canvasUp.trans (canvasUp_of_issues h.1)
  rw [hv] at hop
  have up' : (({ t with look := l, free := k } : State).onRp (Ridgepole.keyed slot key)).storeWrites.canvasUp = true :=
    up
  simp only [up', hn, ne_eq, not_false_eq_true, decide_true, Bool.and_self, if_true] at hop
  refine ⟨_, hi, ?_, ?_⟩
  · rw [finish_cores, hop, onCore_same]
    have e := congrArg (fun k : Core => { k with trap := some r }) ht.core
    exact e
  · rw [shown_finish, hop]
    have e := shown_of_aside (aside_onRp ht.aside (Ridgepole.keyed slot key))
    exact (shown_of_aside (aside_onCore ..)).trans e

end Keys

/-- Settles O17: each service by what it answers in the state in which Ridgepole takes the TRAP (assumption 23). -/
theorem servicesOfOwnershipAndKeys : Obligations.ServicesOfOwnershipAndKeys := by
  refine ⟨?_, ?_⟩
  · intro s c w1 w2 b f owner claim ball ok err h hm
    have pinClaim : ∀ t, Taken s c 4 t → t.service c 4 = t.svcPinClaim c w1 w2 := fun t ht => by
      show t.svcPinClaim c _ _ = _
      rw [ht.w1, ht.w2]
    have pinFree : ∀ t, Taken s c 5 t → t.service c 5 = t.svcPinFree c w1 := fun t ht => by
      show t.svcPinFree c _ = _
      rw [ht.w1]
    have chanClaim : ∀ t, Taken s c 6 t → t.service c 6 = t.svcChanClaim c w1 := fun t ht => by
      show t.svcChanClaim c _ = _
      rw [ht.w1]
    have chanFree : ∀ t, Taken s c 7 t → t.service c 7 = t.svcChanFree c w1 := fun t ht => by
      show t.svcChanFree c _ = _
      rw [ht.w1]
    have balls : ∀ {n t}, Taken s c n t → t.per.pin.owner b = bits (ball b) 4 3 := fun ht => by rw [ht.pin]; rfl
    have chans : ∀ {n t}, Taken s c n t → ∀ m, t.per.evt.owner m = owner m := fun ht m => by rw [ht.evt]; rfl
    refine ⟨fun hb => ?_, fun hf ho => ?_, fun hf ho => ?_, fun hb => ?_, fun hb ho => ?_, fun hb ho => ?_,
      fun hb ho => ?_, fun hb ho => ?_, fun hb hx => ?_, fun n hn hx ho hl => ?_, fun hx hl => ?_, fun hb => ?_,
      fun hb ho => ?_, fun hb ho => ?_⟩
    · exact trap_answers h hm (i := .pinClaim c) rfl (by decide) fun t ht =>
        (pinClaim t ht).trans (svcPinClaim_bad hb)
    · exact trap_pin h hm (i := .pinClaim c) rfl (by decide) rfl fun t ht =>
        (pinClaim t ht).trans (svcPinClaim_owned hf (by rw [balls ht]; exact ho))
    · exact trap_pin h hm (i := .pinClaim c) rfl (by decide) (Pin.claim_eq ..) fun t ht =>
        (pinClaim t ht).trans (svcPinClaim_free hf (by rw [balls ht]; exact ho))
    · exact trap_answers h hm (i := .pinFree c) rfl (by decide) fun t ht =>
        (pinFree t ht).trans (svcPinFree_bad hb)
    · exact trap_answers h hm (i := .pinFree c) rfl (by decide) fun t ht =>
        (pinFree t ht).trans (svcPinFree_denied hb (by rw [balls ht]; exact ho))
    · exact trap_pin h hm (i := .pinFree c) rfl (by decide) (Pin.free_eq ..) fun t ht =>
        (pinFree t ht).trans (svcPinFree_ok hb (by rw [balls ht]; exact ho))
    · exact trap_evt h hm (i := .chanClaim c) rfl (by decide) fun t ht =>
        ⟨_, (chanClaim t ht).trans (svcChanClaim_named hb (by rw [chans ht]; exact ho)), rfl, rfl⟩
    · exact trap_answers h hm (i := .chanClaim c) rfl (by decide) fun t ht =>
        (chanClaim t ht).trans (svcChanClaim_owned hb (by rw [chans ht]; exact ho))
    · exact trap_answers h hm (i := .chanClaim c) rfl (by decide) fun t ht =>
        (chanClaim t ht).trans (svcChanClaim_bad hb hx)
    · exact trap_evt h hm (i := .chanClaim c) rfl (by decide) fun t ht =>
        ⟨t.claimChannel n c, (chanClaim t ht).trans (hx ▸ svcChanClaim_lowest hn (by rw [chans ht]; exact ho)
          fun m hm => by rw [chans ht]; exact hl m hm), rfl, rfl⟩
    · exact trap_answers h hm (i := .chanClaim c) rfl (by decide) fun t ht =>
        (chanClaim t ht).trans (hx ▸ svcChanClaim_none fun m hm => by rw [chans ht]; exact hl m hm)
    · exact trap_answers h hm (i := .chanFree c) rfl (by decide) fun t ht =>
        (chanFree t ht).trans (svcChanFree_bad hb)
    · exact trap_answers h hm (i := .chanFree c) rfl (by decide) fun t ht =>
        (chanFree t ht).trans (svcChanFree_denied hb (by rw [chans ht]; exact ho))
    · exact trap_evt h hm (i := .chanFree c) rfl (by decide) fun t ht =>
        ⟨_, (chanFree t ht).trans (svcChanFree_ok hb (by rw [chans ht]; exact ho)), freeChannel_cores _,
          freeChannel_aside _⟩
  · intro s c k w1 w2 n ok err read bytes h hm
    have load : ∀ t, Taken s c 10 t → t.service c 10 = t.svcKeyLoad c w1 w2 := fun t ht => by
      show t.svcKeyLoad c _ _ = _
      rw [ht.w1, ht.w2]
    have ember : ∀ t, Taken s c 12 t → t.service c 12 = t.svcEmbRights c w1 w2 := fun t ht => by
      show t.svcEmbRights c _ _ = _
      rw [ht.w1, ht.w2]
    have readable : ∀ t, Taken s c 10 t → t.readable (t.groupOf c) w2.toNat 16 = read := fun t ht => by
      rw [ht.readable, ht.groupOf]
    refine ⟨fun hn => ?_, fun hn => ?_, fun hn hr => ?_, fun hn hr he hw => ?_, fun hn => ?_, fun hn hy ht => ?_,
      fun hn hy ht => ?_⟩
    · exact trap_answers h hm (i := .keyLoad c) rfl (by decide) fun t ht => (load t ht).trans (svcKeyLoad_bad hn)
    · exact trap_answers h hm (i := .keyLoad c) rfl (by decide) fun t ht => (load t ht).trans (svcKeyLoad_denied hn)
    · exact trap_answers h hm (i := .keyLoad c) rfl (by decide) fun t ht =>
        (load t ht).trans (svcKeyLoad_hidden hn ((readable t ht).trans hr))
    · refine trap_keys (slot := n) (key := bytes) h hm (i := .keyLoad c) rfl (by decide) fun t ht => ?_
      have mode : t.rp.mode = .up := by
        have up := ht.canvasUp.trans (canvasUp_of_issues h.1)
        simp only [State.canvasUp, Bool.and_eq_true, decide_eq_true_eq] at up
        exact up.2
      obtain ⟨u, peeked, e⟩ := svcKeyLoad_ok hn ((readable t ht).trans hr) mode
        ((congrArg Memory.ecc ht.mem).trans he) hw
      rw [ht.keyBytes] at e
      exact ⟨u, peeked, (load t ht).trans e⟩
    · exact trap_answers h hm (i := .embRights c) rfl (by decide) fun t ht =>
        (ember t ht).trans (svcEmbRights_bad hn)
    · exact trap_answers h hm (i := .embRights c) rfl (by decide) fun t ht' =>
        (ember t ht').trans (svcEmbRights_denied hn hy (by rw [ht'.task]; exact ht))
    · exact trap_mm h hm (i := .embRights c) rfl (by decide) (fun _ => rfl) fun t ht' =>
        (ember t ht').trans (svcEmbRights_ok hn hy (by rw [ht'.task]; exact ht))

end Sys2Proof.Machine

/-! # Rows of memory, integrity, power and clocks -/

namespace Sys2Proof.Machine

open Sys2Proof

/-! ## Rows that take effect at once

A row's access by an agent that reads or writes is the block's own effect, with no beat to note (R6, R7, R189). -/

section Rows

variable {s u : State} {a : Agent} {o : Nat} {k : Option Nat} {v : Word} {i : Instr}

theorem rowWrite_direct (hw : s.writes a o v) : s.rowWrite a o k v = s.directWrite a o v := by
  cases a with
  | core c =>
    obtain ⟨hi, hf, hm⟩ := hw
    rw [← busWrite_core_direct hm]
    simp only [State.rowWrite, hi, if_true, hf]
  | ridgepole => exact if_pos hw
  | host => exact hw.elim

theorem rowWrite_becomes (hw : s.writes a o v) (hi : exec i s = .next (finish s (s.rowWrite a o k v)))
    (e : s.directWrite a o v = u) : s.becomes i u :=
  becomes_of_eq hi ((rowWrite_direct hw).trans e)

theorem rowRead_direct (hr : s.reads a o) : s.rowRead a o k = (s.busRead a o).1 := by
  cases a with
  | core c =>
    obtain ⟨hi, hf, -⟩ := hr
    simp only [State.rowRead, hi, if_true, hf]
  | ridgepole => exact if_pos hr
  | host => exact hr.elim

/-- A read that takes effect at once finds no register live that Waymark shadows (R157). -/
theorem markLive_reads (hr : s.reads a o) (p : Nat) : s.markLive a p = s := by
  have live : (isCanvas a && s.waymark) = false := by
    cases a with
    | core c =>
      obtain ⟨-, -, hm⟩ := hr
      rw [hm, Bool.and_false]
    | ridgepole => rfl
    | host => rfl
  unfold State.markLive
  rw [live]
  rfl

theorem busRead_memBlock {r : Nat} (hr : s.reads a (ioMem + r)) (h : r < 0x1000) :
    (s.busRead a (ioMem + r)).1 = s.onMm fun q => q.readEffect r := by
  have places := blockPlaces
  have live := markLive_reads hr (ioMem + r)
  unfold State.busRead
  simp (disch := omega) [live, waymarkBlock, inRange_eq_false, inRange_eq_true, if_neg]

/-- A read of a register of MEM does what the register's reads do (R89, R90). -/
theorem memRead_becomes {r : Nat} (hr : s.reads a (ioMem + r)) (h : r < 0x1000)
    (hi : exec i s = .next (finish s (s.rowRead a (ioMem + r) k))) : s.becomes i (s.onMm fun q => q.readEffect r) :=
  becomes_of_eq hi ((rowRead_direct hr).trans (busRead_memBlock hr h))

end Rows

/-! ## Reads of MEM (R89, R90, R102) -/

theorem readEffect_conf (q : MemRegs) (n : Fin 9) :
    q.readEffect (0x80 + 4 * n) = { q with conf := q.conf.set n 0#32 } := by
  have index : (0x80 + 4 * n.val - 0x80) / 4 = n := by omega
  have conf : vset q.conf n 0#32 = q.conf.set n 0#32 := dif_pos n.isLt
  rw [MemRegs.readEffect, if_pos (by omega), index, conf]

theorem readEffect_confSat (q : MemRegs) : q.readEffect 0xA4 = { q with confSat := 0#32 } := rfl

theorem readEffect_wearLo (q : MemRegs) :
    q.readEffect 0xC8 = { q with wearHi := BitVec.ofNat 32 (q.wearCount / 2 ^ 32) } := rfl

/-! ## Requests of a voltage or a divider (R286, R297) -/

section Judged

variable (s : State)

theorem startRamp_of_ramp {s : State} (h : s.clk.ramp ≠ none) : s.startRamp = s :=
  if_pos (by simp [Option.isSome_iff_ne_none.2 h])

theorem startRamp_of_reached {s : State} (h : s.pwr.vpt = s.pwr.vnow) : s.startRamp = s :=
  if_pos (by simp [h])

theorem startRamp_of_allowed {s : State} (hr : s.clk.ramp = none) (hv : s.pwr.vpt ≠ s.pwr.vnow)
    (hd : divPoint s.clk.divNow ≤ s.pwr.vpt) : s.startRamp =
      (s.onClk fun k => { k with ramp := some s.pwr.vpt }).onPwr fun p => { p with opp := setBit p.opp 8 false } := by
  rw [State.startRamp, if_neg (by simp [hr, hv]), if_pos hd]

theorem startRamp_of_held {s : State} (hr : s.clk.ramp = none) (hv : s.pwr.vpt ≠ s.pwr.vnow)
    (hd : s.pwr.vpt < divPoint s.clk.divNow) :
    s.startRamp = s.onPwr fun p => { p with stat := setBit p.stat 4 true } := by
  rw [State.startRamp, if_neg (by simp [hr, hv]), if_neg hd.not_ge]

/-- The start of a ramp touches the ramp, the point's own bit and the pending flag alone. -/
theorem startRamp_parts : ∃ (r : Option Nat) (x y : Word), s.startRamp =
      (s.onClk fun k => { k with ramp := r }).onPwr (fun p => { p with opp := x, stat := y }) ∧
    (x = s.pwr.opp ∨ x = setBit s.pwr.opp 8 false) := by
  unfold State.startRamp
  split
  · exact ⟨s.clk.ramp, _, _, rfl, .inl rfl⟩
  · split
    · exact ⟨_, _, _, rfl, .inr rfl⟩
    · exact ⟨s.clk.ramp, _, _, rfl, .inl rfl⟩

/-- A divider that the present point does not allow is held pending (R297). -/
theorem holdDiv_stat : ∃ x : Word, s.holdDiv = s.onPwr (fun p => { p with stat := x }) ∧
    bit x 4 = bit s.pwr.stat 4 ∧
    (s.clk.divReq ≠ s.clk.divNow → s.pwr.vnow < divPoint s.clk.divReq → bit x 5 = true) := by
  unfold State.holdDiv
  split
  · refine ⟨_, rfl, ?_, fun _ _ => ?_⟩ <;> simp [bit_setBit]
  · next h => exact ⟨s.pwr.stat, rfl, rfl, fun hd hv => absurd ⟨hd, hv⟩ h⟩

/-- Past the start of a ramp, judging a request moves the pending flags alone, and clears both once nothing is under
way (R286). -/
theorem judgeOpp_stat : ∃ x : Word, s.judgeOpp = s.startRamp.onPwr (fun p => { p with stat := x }) ∧
    (s.startRamp.oppDone = true → bit x 4 = false ∧ bit x 5 = false) ∧
    (s.startRamp.oppDone = false → bit x 4 = bit s.startRamp.pwr.stat 4 ∧
      (s.startRamp.clk.divReq ≠ s.startRamp.clk.divNow →
        s.startRamp.pwr.vnow < divPoint s.startRamp.clk.divReq → bit x 5 = true)) := by
  obtain ⟨x, held, ramp, div⟩ := holdDiv_stat s.startRamp
  have same : s.startRamp.holdDiv.oppDone = s.startRamp.oppDone := by
    rw [held]
    rfl
  unfold State.judgeOpp
  dsimp only
  rw [same]
  split
  · next done =>
    rw [held]
    refine ⟨_, rfl, fun _ => ?_, fun pending => absurd done (by rw [pending]; decide)⟩
    simp [bit_setBit]
  · next pending => exact ⟨x, held, fun done => absurd done pending, fun _ => ⟨ramp, div⟩⟩

end Judged

/-! ## PWR_OPP.VPT (R286) -/

section Vpt

variable {s : State} {v : Word}

/-- The state in which a voltage is judged. -/
def State.asked (s : State) (v : Word) : State :=
  s.onPwr fun p => { p with opp := setBits p.opp 0 2 (min 2 (bits v 0 2)) }

theorem asked_clk : (s.asked v).clk = s.clk := rfl

theorem asked_vpt : (s.asked v).pwr.vpt = min 2 (bits v 0 2) := by
  show bits (setBits _ 0 2 _) 0 2 = _
  rw [bits_setBits_same _ _ (by omega)]
  omega

theorem asked_vnow : (s.asked v).pwr.vnow = s.pwr.vnow := bits_setBits_of_le _ _ _ (by decide)

theorem setVpt_of_allowed (hr : s.clk.ramp = none) (hv : min 2 (bits v 0 2) ≠ s.pwr.vnow)
    (hd : divPoint s.clk.divNow ≤ min 2 (bits v 0 2)) :
    (s.setVpt v).clk = { s.clk with ramp := some (min 2 (bits v 0 2)) } ∧ bit (s.setVpt v).pwr.opp 8 = false := by
  obtain ⟨x, e, -⟩ := judgeOpp_stat (s.asked v)
  rw [startRamp_of_allowed (s := s.asked v) hr (by rwa [asked_vpt, asked_vnow]) (by rw [asked_vpt]; exact hd),
    asked_vpt] at e
  rw [show s.setVpt v = (s.asked v).judgeOpp from rfl, e]
  refine ⟨rfl, ?_⟩
  show bit (setBit _ 8 false) 8 = false
  simp [bit_setBit]

theorem setVpt_of_held (hr : s.clk.ramp = none) (hv : min 2 (bits v 0 2) ≠ s.pwr.vnow)
    (hd : min 2 (bits v 0 2) < divPoint s.clk.divNow) :
    (s.setVpt v).clk = s.clk ∧ bit (s.setVpt v).pwr.stat 4 = true := by
  obtain ⟨x, e, -, pending⟩ := judgeOpp_stat (s.asked v)
  have moving : (s.asked v).pwr.vpt ≠ (s.asked v).pwr.vnow := by rwa [asked_vpt, asked_vnow]
  have ramp := startRamp_of_held (s := s.asked v) hr moving (by rw [asked_vpt]; exact hd)
  have undone : (s.asked v).startRamp.oppDone = false := by
    rw [ramp]
    show (decide ((s.asked v).pwr.vpt = (s.asked v).pwr.vnow) && _ && _) = false
    rw [decide_eq_false moving, Bool.false_and, Bool.false_and]
  obtain ⟨kept, -⟩ := pending undone
  rw [ramp] at e kept
  rw [show s.setVpt v = (s.asked v).judgeOpp from rfl, e]
  refine ⟨rfl, kept.trans ?_⟩
  show bit (setBit _ 4 true) 4 = true
  simp [bit_setBit]

/-- A voltage that is reached, or asked for while a ramp runs, starts no ramp. -/
theorem setVpt_clk (h : s.clk.ramp ≠ none ∨ min 2 (bits v 0 2) = s.pwr.vnow) : (s.setVpt v).clk = s.clk := by
  have still : (s.asked v).startRamp = s.asked v :=
    h.elim (startRamp_of_ramp (s := s.asked v)) fun h => startRamp_of_reached (by rw [asked_vpt, asked_vnow, h])
  obtain ⟨x, e, -⟩ := judgeOpp_stat (s.asked v)
  rw [still] at e
  rw [show s.setVpt v = (s.asked v).judgeOpp from rfl, e]
  rfl

theorem setVpt_of_done (hr : s.clk.ramp = none) (hv : min 2 (bits v 0 2) = s.pwr.vnow)
    (hd : s.clk.divReq = s.clk.divNow) :
    bit (s.setVpt v).pwr.stat 4 = false ∧ bit (s.setVpt v).pwr.stat 5 = false := by
  have reached : (s.asked v).pwr.vpt = (s.asked v).pwr.vnow := by rw [asked_vpt, asked_vnow, hv]
  obtain ⟨x, e, done, -⟩ := judgeOpp_stat (s.asked v)
  rw [startRamp_of_reached reached] at e done
  rw [show s.setVpt v = (s.asked v).judgeOpp from rfl, e]
  refine done ?_
  unfold State.oppDone
  rw [asked_clk, decide_eq_true reached, hr, decide_eq_true hd]
  rfl

end Vpt

/-! ## CLK_DIV (R297) -/

section Div

variable {s : State} {v : Word}

theorem field_bits (d : Nat) (h : d < 4) : bits (field 0 d) 0 2 = d := by
  revert d
  decide

/-- The bit that shows a point reached is none of the two points. -/
theorem opp_kept {x w : Word} (h : x = w ∨ x = setBit w 8 false) :
    x &&& 0x33#32 = w &&& 0x33#32 ∧ bits x 4 2 = bits w 4 2 := by
  rcases h with rfl | rfl
  · exact ⟨rfl, rfl⟩
  · have mask : ~~~(BitVec.twoPow 32 8) &&& 0x33#32 = 0x33#32 := by decide
    refine ⟨?_, bits_congr fun j hj => by rw [bit_setBit, if_neg (by omega)]⟩
    rw [setBit, if_neg (by decide), BitVec.and_assoc, mask]

/-- A divider that the target allows is requested, and held where the present point does not allow it. -/
theorem setDiv_of_allowed (h : divPoint (bits v 0 2) ≤ s.pwr.vpt) : ∃ (w : Pwr) (r : Option Nat),
    s.setDiv v = { s with pwr := w, clk := { s.clk with div := field 0 (bits v 0 2), ramp := r, alone := true } } ∧
    w.opp &&& 0x33#32 = s.pwr.opp &&& 0x33#32 ∧
    (bits v 0 2 ≠ s.clk.divNow → s.pwr.vnow < divPoint (bits v 0 2) → bit w.stat 5 = true) := by
  let t := s.onClk fun k => { k with div := field 0 (bits v 0 2), alone := true }
  have asked : t.clk.divReq = bits v 0 2 := field_bits _ (Nat.mod_lt _ (by decide))
  have judged : s.setDiv v = t.judgeOpp := if_neg h.not_gt
  obtain ⟨r, x, y, ramp, opp⟩ := startRamp_parts t
  obtain ⟨z, e, -, pending⟩ := judgeOpp_stat t
  obtain ⟨kept, vnow⟩ := opp_kept opp
  have vnow : t.startRamp.pwr.vnow = s.pwr.vnow := by rw [ramp]; exact vnow
  have req : t.startRamp.clk.divReq = bits v 0 2 := by rw [ramp]; exact asked
  have now : t.startRamp.clk.divNow = s.clk.divNow := by rw [ramp]; rfl
  refine ⟨t.judgeOpp.pwr, r, ?_, ?_, fun hd hv => ?_⟩
  · rw [judged, e, ramp]
    rfl
  · rw [e, ramp]
    exact kept
  · have undone : t.startRamp.oppDone = false := by
      unfold State.oppDone
      rw [req, now, decide_eq_false hd, Bool.and_false]
    obtain ⟨-, held⟩ := pending undone
    rw [e]
    exact held (by rwa [req, now]) (by rwa [req, vnow])

end Div

/-- Settles O23: each access by what its block makes of it, and the two requests by the judgement of the operating
point that follows them. -/
theorem memoryAndClockRows : Obligations.MemoryAndClockRows := by
  intro s a v m i now div req p d
  have write : ∀ s : State, s.directWrite a 0x1008 v = s.setDiv v := fun s =>
    directWrite_clk (r := 8) s a v (by decide)
  refine ⟨fun hr => ?_, fun n hr => ?_, fun hr => ?_, fun hw => ?_, fun hw => ?_,
    fun hw => ⟨fun hd => ?_, fun hd => ?_⟩⟩
  · have read := memRead_becomes (r := 0xC8) (i := .memBankWearLoRead a) hr (by decide) rfl
    simp only [readEffect_wearLo] at read
    exact read
  · have read := memRead_becomes (r := 0x80 + 4 * n) (i := .memConfRead a n) (by rwa [← Nat.add_assoc]) (by omega)
      (by rw [← Nat.add_assoc]; rfl)
    simpa only [readEffect_conf] using read
  · have read := memRead_becomes (r := 0xA4) (i := .memConfSatRead a) hr (by decide) rfl
    simpa only [readEffect_confSat] using read
  · exact rowWrite_becomes hw rfl (directWrite_itg s a v (by decide))
  · have row : s.becomes (.vptWrite a v) (s.setVpt v) :=
      rowWrite_becomes hw rfl (directWrite_pwr s a v (by decide))
    have asked := setVpt_requested s v
    refine ⟨(s.setVpt v).pwr, (s.setVpt v).clk, asked.eq ▸ row, asked.vpt, setVpt_of_allowed, setVpt_of_held,
      fun _ hv => setVpt_clk (.inr hv), setVpt_of_done, fun hr => setVpt_clk (.inl hr)⟩
  · exact rowWrite_becomes hw rfl ((write s).trans (if_pos hd))
  · obtain ⟨w, r, e, opp, held⟩ := setDiv_of_allowed hd
    exact ⟨w, r, rowWrite_becomes hw rfl ((write s).trans e), opp, held⟩

end Sys2Proof.Machine

/-! # The invariants of the machine -/

namespace Sys2Proof.Machine

open Sys2Proof

/-! ## What every command ends with -/

theorem consistent_of_base {s t : State} (h : t.base = s.base) (k : s.consistent) : t.consistent := by
  have e := congrArg State.consistent h
  exact e.mpr k

/-- Ridgepole's store holds the Warden's retired bits (R133). -/
def State.storeCurrent (s : State) : Prop := s.rp.retSb = s.wdn.retSb ∧ s.rp.retire = s.wdn.retire

theorem copyRetired_current (s : State) (h : s.rp.mode = .up ∨ s.rp.mode = .stopped) :
    s.copyRetired.storeCurrent := by
  unfold State.copyRetired
  split
  · exact ⟨rfl, rfl⟩
  · next same => simpa [State.storeCurrent, h] using same

theorem copyRetired_mode (s : State) : s.copyRetired.rp.mode = s.rp.mode := by
  unfold State.copyRetired
  split <;> rfl

/-- The guard leaves the engine off or with its table object (R258). -/
theorem netGuard_guards (s : State) (h : s.netGuard.per.net.en = true) : s.netGuard.tableObj.isSome = true := by
  unfold State.netGuard at *
  split at h
  · next stops =>
    have off : bit (setBit s.per.net.ctl 0 false) 0 = true := h
    rw [bit_setBit] at off
    cases off
  · next keeps =>
    rw [if_neg keeps]
    cases e : s.tableObj <;> simp_all

theorem housekeep_consistent (old s : State) : (old.housekeep s).consistent := by
  unfold State.housekeep
  refine ⟨fun h => ?_, netGuard_guards _⟩
  obtain ⟨-, -, -, -, rp, -⟩ := netGuard_same ((old.stuckNew s).settleRetiring.copyRetired)
  rw [rp] at h ⊢
  rw [State.netGuard_wdn]
  exact copyRetired_current _ (by rwa [copyRetired_mode] at h)

/-- The end of a command leaves a consistent state, whatever the command has made (R133, R258). -/
theorem finish_consistent (old s : State) : (finish old s).consistent := by
  have kept := housekeep_consistent old (s.dropPortA old)
  unfold finish
  dsimp only
  split
  · exact kept
  · exact consistent_of_base ((State.fireAll_base ..).trans (State.fireProducers_base ..)) kept

/-- Every command ends by settling what it has made. -/
theorem exec_finishes (i : Instr) (s : State) : ∃ u, exec i s = .next (finish s u) := by
  cases i <;> exact ⟨_, rfl⟩

theorem idle_finishes (s : State) : ∃ u, s.idle = finish s u := by
  unfold State.idle
  split
  · exact ⟨_, rfl⟩
  · exact ⟨_, rfl⟩

/-- Settles O58: a step is a command or an idle tick, each ends with the housekeeping of `finish`, and what that leaves
is consistent. That the store takes the bits within the step is the model's reading (assumption 40). -/
theorem consistencyKept : Obligations.ConsistencyKept := by
  intro s t _ e
  unfold step at e
  split at e
  next =>
    cases e
    obtain ⟨u, hu⟩ := idle_finishes s
    exact hu ▸ finish_consistent s u
  next i rest _ =>
    obtain ⟨u, hu⟩ := exec_finishes i (s.withQueue rest)
    cases hu.symm.trans e
    exact finish_consistent _ u

/-- Settles O57: after reset Ridgepole does not run, the engine is off, and memory lists no byte. -/
theorem invariantsAtReset : Obligations.InvariantsAtReset :=
  ⟨⟨fun h => h.elim nofun nofun, nofun⟩, rfl⟩

end Sys2Proof.Machine

/-! # A command of the Warden whose search resets the device -/

namespace Sys2Proof.Machine

open Sys2Proof

/-- An object that Ridgepole has declared. -/
def declaredObject : ObjEntry := { ObjEntry.empty with phase := .live }

/-- Before the boot, under Twin-skin, Ridgepole asks for a PER object at an entry that is declared already, and the
first word of the journal is uncorrectable. -/
def faultyDeclare : State :=
  { State.reset with
    mem := { Memory.reset with ecc := [(journalBase, .double)] }
    wdn := { Warden.reset with
      obj := Warden.reset.obj.set 0 declaredObject
      bank := Warden.reset.bank.set 4 { WdnBank.reset with objAttr := 0x10#32 } }
    itg := { Itg.reset with cfg := 1#32 } }

theorem faultyDeclare_resets : faultyDeclare.readJournal.rp.mode = .cold := by rfl

/-- The reset has emptied the table, so the request is judged on its own, and its base lies outside the window. -/
theorem faultyDeclare_badarg :
    faultyDeclare.readJournal.declareCheck (faultyDeclare.wdnBank 4) .ridgepole = .inr codeBadarg := by rfl

/-- A command makes of a state one state, but for what the end of the command settles. -/
theorem State.becomes_settled {s u v : State} {i : Instr} (hu : s.becomes i u) (hv : s.becomes i v) :
    u.settled = v.settled := by
  obtain ⟨t, ht, settled⟩ := hu
  obtain ⟨t', ht', settled'⟩ := hv
  cases ht.symm.trans ht'
  exact settled.settled.symm.trans settled'.settled

theorem wdnBank_onWdnBank (s : State) {b : Nat} (f : WdnBank → WdnBank) (h : b < 5) :
    (s.onWdnBank b f).wdnBank b = f (s.wdnBank b) := by
  unfold State.wdnBank State.onWdnBank
  rw [State.onWdn_wdn, vget_vmod, if_pos ⟨rfl, h⟩]

/-- The outcome that a Warden bank holds for the command it executes is part of the settled state. -/
theorem code_of_settled {u v : State} {b : Nat} {f g : WdnBank → WdnBank} (h : b < 5)
    (e : (u.onWdnBank b f).settled = (v.onWdnBank b g).settled) :
    (f (u.wdnBank b)).cmd = (g (v.wdnBank b)).cmd := by
  have k := congrArg (fun t : State => (t.wdnBank b).cmd) e
  have same : ∀ t : State, (t.settled.wdnBank b) = t.wdnBank b := fun _ => rfl
  rwa [same, same, wdnBank_onWdnBank u f h, wdnBank_onWdnBank v g h] at k

/-- Refutes O21: the search of the journal may reset the device (R80, R145). Before the boot that leaves Ridgepole's
mode as it was, so the command goes on, but over an empty table: the outcome is the request's own, where the
statement has INUSE for the entry that was declared before the reset. -/
theorem not_wardenCommands : ¬ Obligations.WardenCommands := by
  intro h
  obtain ⟨declare, -⟩ := h.1 faultyDeclare .ridgepole
  obtain ⟨-, -, taken⟩ := declare rfl
  obtain ⟨-, searched⟩ := taken rfl (by decide)
  obtain ⟨checked, -, -, inuse⟩ := searched faultyDeclare_resets
  have badarg := checked codeBadarg faultyDeclare_badarg
  have same := code_of_settled (b := 4) (by decide) (State.becomes_settled badarg (inuse (by decide) (.inr rfl)))
  exact absurd (congrArg (Option.map WdnCmd.code) same) (by decide)

end Sys2Proof.Machine

/-! # Epochs and migrations

The decision at the end of an epoch, the copy that completes a migration, and a word of its source that ends it. -/

namespace Sys2Proof.Machine

open Sys2Proof

/-! ## The placement decision (R119)

Retirement migrations and placements reach the Warden's queue alone, and each is queued only while the budget holds. -/

/-- `t` is `s` but for migrations queued behind those that wait, within the budget. -/
def State.Queued (s t : State) : Prop := ∃ q, t = s.onWdn (fun w => { w with queue := w.queue ++ q }) ∧
  (q ≠ [] → (s.wdn.queue ++ q).length + s.wdn.mig.toList.length ≤ bits s.wdn.lim 4 3)

namespace State.Queued

theorem refl (s : State) : s.Queued s := ⟨[], by simp [State.onWdn], fun h => absurd rfl h⟩

theorem trans {s t u : State} (h : s.Queued t) (k : t.Queued u) : s.Queued u := by
  obtain ⟨q, rfl, room⟩ := h
  obtain ⟨r, rfl, room'⟩ := k
  refine ⟨q ++ r, by simp [State.onWdn], fun hne => ?_⟩
  by_cases hr : r = []
  · subst hr
    rw [List.append_nil] at hne ⊢
    exact room hne
  · rw [← List.append_assoc]
    exact room' hr

theorem foldl {α : Type} {f : State → α → State} (hf : ∀ s a, State.Queued s (f s a)) :
    ∀ (l : List α) (s : State), s.Queued (l.foldl f s)
  | [], s => refl s
  | a :: l, s => (hf s a).trans (foldl hf l (f s a))

end State.Queued

theorem enqueue_queued {s : State} (h : s.budget ≠ 0) (jnl : List Journal) (obj b n : Nat) :
    s.Queued (s.enqueue jnl obj b n) := by
  unfold State.enqueue
  split
  · next o _ =>
    refine ⟨[⟨obj, b, o / 256⟩], rfl, fun _ => ?_⟩
    unfold State.budget at h
    rw [List.length_append, List.length_singleton]
    omega
  · exact .refl s

theorem decidePlace_queued (jnl : List Journal) (s : State) (o : Nat) : s.Queued (State.decidePlace jnl s o) := by
  unfold State.decidePlace
  dsimp only
  split
  · exact .refl s
  next room =>
    split
    · exact .refl s
    · split
      · exact .refl s
      · split
        · exact enqueue_queued room ..
        · exact .refl s

theorem evacuate_queued (jnl : List Journal) (s : State) (o : Nat) : s.Queued (State.evacuate jnl s o) := by
  unfold State.evacuate
  dsimp only
  split
  · exact .refl s
  next may =>
    obtain ⟨room, -⟩ := not_or.1 may
    split
    · split
      · exact .refl s
      · split
        · exact enqueue_queued room ..
        · exact .refl s
    · split
      · exact .refl s
      · split
        · exact .refl s
        · exact enqueue_queued room ..

theorem decidePlacement_queued (s : State) : s.Queued s.decidePlacement :=
  (State.Queued.foldl (evacuate_queued s.mem.journal) _ s).trans
    (State.Queued.foldl (decidePlace_queued s.mem.journal) _ _)

/-- The counts that the end of an epoch moves (R117). -/
def Warden.aged (w : Warden) : Warden :=
  { w with obj := w.obj.map fun e => { e with heat := e.heat.map (· / 2), hold := e.hold - 1 } }

theorem epochEnd_of_waiting {s : State} (h : s.allWaiting = true) : s.epochEnd = s.onWdn Warden.aged := by
  unfold State.epochEnd
  rw [if_pos h]
  rfl

/-- The end of an epoch moves the counts, and queues migrations. -/
theorem epochEnd_queued (s : State) : ∃ t, s.Queued t ∧ s.epochEnd = t.onWdn Warden.aged := by
  refine ⟨if s.allWaiting then s else s.decidePlacement, ?_, rfl⟩
  split
  · exact .refl s
  · exact decidePlacement_queued s

/-! ## Banks that stay powered (R86) -/

theorem powerOffEmpty_wdn (s : State) : s.powerOffEmpty.wdn = s.wdn := by
  obtain ⟨m, r, e⟩ := powerOffEmpty_same s
  rw [e]

theorem powerOffEmpty_cores (s : State) : s.powerOffEmpty.cores = s.cores :=
  congrArg Prod.snd (State.powerOffEmpty_patrol s)

/-- A byte outside SRAM, or in a bank that holds something, stays when the empty banks are powered off. -/
theorem powerOffEmpty_byte {s : State} {x : Nat}
    (h : inSram x = true → s.bankHolds (16 + (x - sramBase) / 0x8000) = true) :
    s.powerOffEmpty.mem.byte x = s.mem.byte x := by
  unfold State.powerOffEmpty
  dsimp only
  split
  · rfl
  · refine (readCell_filter (fun a => !(inSram a && decide ((a - sramBase) / 0x8000 ∈ _))) x s.mem.cells).trans ?_
    refine if_pos ?_
    cases hx : inSram x with
    | false => rfl
    | true => simp [indices, h hx]

/-- A place in an SRAM bank lies in that bank's part of SRAM, and one in another bank outside SRAM (R73). -/
theorem bank_of_place {b o : Nat} (hb : b < 49) (ho : o < bankBytes b) (h : inSram (bankBase b + o) = true) :
    16 + (bankBase b + o - sramBase) / 0x8000 = b := by
  unfold inSram inRange at h
  simp only [Bool.and_eq_true, decide_eq_true_eq] at h
  unfold bankBase bankBytes sramBase mramBase dpBase at *
  split at ho
  · rw [if_pos ‹_›] at h
    omega
  · split at ho
    · rw [if_neg ‹_›, if_pos ‹_›] at h ⊢
      omega
    · rw [if_neg ‹_›, if_neg ‹_›, if_pos (by omega)] at h
      omega

/-- The banks that hold objects lie above MB0. -/
theorem bankBase_above {b : Nat} (h5 : 5 ≤ b) (hb : b < 49) : mramBase + 0x80000 ≤ bankBase b := by
  unfold bankBase sramBase mramBase dpBase
  split
  · omega
  · split
    · omega
    · rw [if_pos (by omega)]
      decide

/-! ## The copy of a migration (R122) -/

section Copy

variable {s : State} {m : Migration}

theorem readWords_of_clean (h : s.mem.ecc = []) (master a n : Nat) :
    (s.readWords master (s.badWords a n)).s = s := by
  rw [State.badWords, h]
  rfl

theorem journalAt_index {m : Memory} {i : Nat} {j : Journal} (h : m.journalAt i = some j) : j.index = i := by
  unfold Memory.journalAt at h
  dsimp only at h
  split at h
  · cases h
    rfl
  · cases h

/-- A valid entry has an index of the journal. -/
theorem journal_index {m : Memory} {j : Journal} (h : j ∈ m.journal) : j.index < 1024 := by
  obtain ⟨i, hi, e⟩ := List.mem_filterMap.1 h
  rw [journalAt_index e]
  exact List.mem_range.1 hi

theorem putJournal_burned (s : State) (j : Journal) : s.Burned (s.putJournal j) := State.writeWhole_burned ..

/-- The journal lies in MB0, so an entry that is written leaves the bytes above. -/
theorem putJournal_byte (s : State) {j : Journal} {x : Nat} (hj : j.index < 1024) (hx : mramBase + 0x80000 ≤ x) :
    (s.putJournal j).mem.byte x = s.mem.byte x := by
  have entry : (bytesOfNat 8 j.word).length = 8 := by simp [bytesOfNat]
  unfold State.putJournal journalBase
  rw [State.writeWhole_byte, entry, if_neg (by omega)]

/-- The object that moves, at its destination and held (R122). -/
def Migration.arrives (m : Migration) (hold : Nat) (e : ObjEntry) : ObjEntry :=
  { e with bank := m.bank, offs := m.offs, hold := hold }

/-- The Warden once the copy is complete. -/
def Warden.migrated (w : Warden) (m : Migration) : Warden :=
  { w with
    obj := vmod w.obj m.obj (m.arrives (bits w.pol 24 4))
    mig := none
    migcnt := w.migcnt + 1#32 }

/-- The destination takes over (R122). -/
def State.takeOver (s : State) (m : Migration) : State :=
  (((s.flushLook m.obj).onObj m.obj (m.arrives (bits s.wdn.pol 24 4))).conflict copyEngine).onWdn fun w =>
    { w with mig := none, migcnt := w.migcnt + 1#32 }

theorem takeOver_mem (s : State) (m : Migration) : (s.takeOver m).mem = s.mem := rfl

theorem takeOver_cores (s : State) (m : Migration) : (s.takeOver m).cores = s.cores := rfl

theorem takeOver_wdn (s : State) (m : Migration) : (s.takeOver m).wdn = s.wdn.migrated m := rfl

/-- The bytes are copied, and the journal entry of a PER object names its new place. -/
def State.copied (s : State) (m : Migration) (entry : Option Journal) : State :=
  let t := s.writeWhole (migDest m) (s.mem.bytes (s.migSource m) (s.migBytes m))
  match entry with
  | some j => t.putJournal { j with bank := m.bank, offs := m.offs }
  | none => t

theorem copied_burned (entry : Option Journal) : s.Burned (s.copied m entry) := by
  unfold State.copied
  cases entry with
  | none => exact State.writeWhole_burned ..
  | some j => exact (State.writeWhole_burned ..).trans (putJournal_burned ..)

/-- The copy holds the bytes of the source; the journal entry lies elsewhere. -/
theorem copied_byte {entry : Option Journal} (he : ∀ j, entry = some j → j.index < 1024)
    (hd : mramBase + 0x80000 ≤ migDest m) {j : Nat} (hj : j < s.migBytes m) :
    (s.copied m entry).mem.byte (migDest m + j) = s.mem.byte (s.migSource m + j) := by
  have within : migDest m ≤ migDest m + j ∧ migDest m + j < migDest m + s.migBytes m := by omega
  have source := Memory.bytes_getD s.mem (s.migSource m) (s.migBytes m) (x := s.migSource m + j) (by omega)
  have written : (s.writeWhole (migDest m) (s.mem.bytes (s.migSource m) (s.migBytes m))).mem.byte (migDest m + j) =
      s.mem.byte (s.migSource m + j) := by
    rw [Nat.add_sub_cancel_left] at source
    rw [State.writeWhole_byte, Memory.bytes_length, if_pos within, Nat.add_sub_cancel_left, source]
  unfold State.copied
  cases entry with
  | none => exact written
  | some k =>
    have index : k.index < 1024 := he k rfl
    have above : mramBase + 0x80000 ≤ migDest m + j := Nat.le_add_right_of_le hd
    exact (putJournal_byte (j := { k with bank := m.bank, offs := m.offs }) _ index above).trans written

/-- The journal entry that a migration of object `i` rewrites. -/
def State.entryOf (s : State) (i : Nat) : Option Journal :=
  if (s.objAt i).cls = .per then
    s.mem.journal.find? fun j => j.matches (s.objAt i).base.toNat (s.objAt i).size (s.objAt i).owner
  else none

theorem entryOf_index {i : Nat} {j : Journal} (h : s.entryOf i = some j) : j.index < 1024 := by
  unfold State.entryOf at h
  split at h
  · exact journal_index (List.mem_of_find?_eq_some h)
  · cases h

/-- The end of an object's migration whose source shows no error. -/
theorem migrationDone_object (hm : m.obj < 512) (hc : s.mem.ecc = []) : s.migrationDone m =
    ((((s.copied m (s.entryOf m.obj)).takeOver m).powerOffEmpty.countSys 14 1).countSys 15 (s.migBytes m / 8)) := by
  have moved : s.migObject m = m.obj := if_pos hm
  unfold State.migrationDone State.entryOf
  simp only [hm, if_true, readWords_of_clean hc, moved, decide_eq_true_eq]
  split
  · generalize List.find? _ _ = entry
    cases entry <;> rfl
  · rfl

end Copy

/-! ## The start of a migration, and the wait for its destination (R86, R122, R125) -/

section Start

variable {s : State} {m : Migration}

theorem migrationStart_idle (h : s.wdn.mig ≠ none ∨ s.allWaiting = true ∨ s.wdn.queue = []) :
    s.migrationStart = s := by
  unfold State.migrationStart
  split
  · rfl
  next may =>
    rw [Bool.not_eq_true, Bool.or_eq_false_iff] at may
    obtain ⟨free, awake⟩ := may
    rw [Option.isSome_eq_false_iff, Option.isNone_iff_eq_none] at free
    obtain h | h | h := h
    · exact absurd free h
    · rw [awake] at h
      cases h
    · simp only [h]

theorem migrationStart_first {q : List Migration} (free : s.wdn.mig = none) (awake : s.allWaiting = false)
    (first : s.wdn.queue = m :: q) : s.migrationStart =
      ((s.flushLook m.obj).onWdn fun w => { w with mig := some m, queue := q }).powerSram m.bank := by
  unfold State.migrationStart
  simp [free, awake, first]

theorem destReady_eq :
    s.destReady m = (decide (m.bank < 16 ∨ 48 ≤ m.bank) || bit s.mm.sbPwr (m.bank - 16)) := by
  have outside : (!isSramBank m.bank) = decide (m.bank < 16 ∨ 48 ≤ m.bank) := by
    rw [Bool.eq_iff_iff, isSramBank]
    simp
  rw [State.destReady, outside]

theorem migrationComplete_of_none (h : s.wdn.mig = none) : s.migrationComplete = s := by
  rw [State.migrationComplete, h]

theorem copyBad_of_none (h : s.wdn.mig = none) : s.copyBad = s := by
  rw [State.copyBad, h]

theorem migrationComplete_waits (hg : s.wdn.mig = some m) (hr : s.destReady m = false) : s.migrationComplete = s := by
  unfold State.migrationComplete
  simp [hg, hr]

theorem copyBad_waits (hg : s.wdn.mig = some m) (hr : s.destReady m = false) : s.copyBad = s := by
  unfold State.copyBad
  simp only [hg, hr]
  split <;> rfl

end Start

theorem migrationComplete_clean {s : State} {m : Migration} (hg : s.wdn.mig = some m) (hr : s.destReady m = true)
    (hc : s.mem.ecc = []) : s.migrationComplete = s.migrationDone m := by
  have noBad : s.badWords (s.migSource m) (s.migBytes m) = [] := by
    rw [State.badWords, hc]
    rfl
  unfold State.migrationComplete
  simp [hg, hr, noBad]

/-- At the destination the object holds its bank, so the bytes that were copied stay when empty banks are powered
off (R86). -/
theorem takeOver_holds {s : State} {m : Migration} (hm : m.obj < 512) (hl : (s.objAt m.obj).phase = .live) :
    (s.takeOver m).bankHolds m.bank = true := by
  have here : ((s.takeOver m).wdn.obj)[m.obj] = m.arrives (bits s.wdn.pol 24 4) (s.objAt m.obj) := by
    rw [takeOver_wdn]
    simp [Warden.migrated, vmod, hm, State.objAt, vget]
  unfold State.bankHolds
  rw [Bool.or_eq_true]
  left
  refine List.any_eq_true.2 ⟨_, Vector.mem_toList_iff.2 (Vector.getElem_mem hm), ?_⟩
  rw [here]
  simp [ObjEntry.declared, Migration.arrives, hl]

/-- A migration of an object that completes moves the object and its bytes, and no core (R122). -/
theorem migrationComplete_object {s : State} {m : Migration} (hg : s.wdn.mig = some m) (hr : s.destReady m = true)
    (hm : m.obj < 512) (hl : (s.objAt m.obj).phase = .live) (hc : s.mem.ecc = []) (h5 : 5 ≤ m.bank) (hb : m.bank < 49)
    (fits : 256 * m.offs + s.migBytes m ≤ bankBytes m.bank) :
    s.migrationComplete.wdn = s.wdn.migrated m ∧ s.migrationComplete.cores = s.cores ∧
      ∀ j < s.migBytes m, s.migrationComplete.mem.byte (migDest m + j) = s.mem.byte (s.migSource m + j) := by
  obtain ⟨u, hu⟩ : ∃ u, s.copied m (s.entryOf m.obj) = u := ⟨_, rfl⟩
  have burned : s.Burned u := hu ▸ copied_burned _
  have wdn : u.wdn = s.wdn := burned.same State.wdn fun _ _ => rfl
  have cores : u.cores = s.cores := burned.same State.cores fun _ _ => rfl
  have live : (u.objAt m.obj).phase = .live := by rwa [State.objAt, wdn]
  rw [migrationComplete_clean hg hr hc, migrationDone_object hm hc, hu]
  refine ⟨?_, ?_, fun j hj => ?_⟩
  · rw [State.countSys_wdn, State.countSys_wdn, powerOffEmpty_wdn, takeOver_wdn, wdn]
  · rw [State.countSys_cores, State.countSys_cores, powerOffEmpty_cores, takeOver_cores, cores]
  · have place : migDest m + j = bankBase m.bank + (256 * m.offs + j) := Nat.add_assoc ..
    have within : 256 * m.offs + j < bankBytes m.bank := by omega
    have above : mramBase + 0x80000 ≤ migDest m := Nat.le_add_right_of_le (bankBase_above h5 hb)
    rw [State.countSys_mem, State.countSys_mem, powerOffEmpty_byte, takeOver_mem, ← hu,
      copied_byte (fun _ => entryOf_index) above hj]
    intro sram
    rw [place] at sram ⊢
    rw [bank_of_place hb within sram]
    exact takeOver_holds hm live

/-! ## A word of the source that cannot be corrected (R124) -/

theorem bit_setBit_of_bit {w : Word} {i : Nat} (j : Nat) (h : bit w i = true) : bit (setBit w j true) i = true := by
  rw [bit_setBit]
  split
  · rfl
  · exact h

/-- A Warden that keeps its migration, or has abandoned it with ABANDON set; the objects stand. -/
def Warden.Drops (w v : Warden) : Prop := v.obj = w.obj ∧ (v.mig = w.mig ∨ (v.mig = none ∧ bit v.stat 2 = true))

theorem Warden.drops_refl (w : Warden) : w.Drops w := ⟨rfl, .inl rfl⟩

theorem markRetiring_drops (w : Warden) (b : Nat) : w.Drops (w.markRetiring b) := by
  unfold Warden.markRetiring
  refine ⟨rfl, ?_⟩
  cases hm : w.mig with
  | none => exact .inl rfl
  | some m =>
    by_cases h : m.bank = b
    · exact .inr (by simp [h, bit_setBit])
    · exact .inl (by simp [h])

theorem flushLooks_wdn (l : List Migration) (s : State) : (l.foldl (fun s m => s.flushLook m.obj) s).wdn = s.wdn := by
  induction l generalizing s with
  | nil => rfl
  | cons m l ih => exact ih (s.flushLook m.obj)

theorem recordFault_wdn (s : State) (f : FaultInfo) (action : Nat) : (s.recordFault f action).wdn = s.wdn :=
  ((s.writeWhole_burned _ _).trans (State.writeWhole_burned _ _ _)).same State.wdn fun _ _ => rfl

theorem requestRetire_drops (s : State) (b a : Nat) : s.wdn.Drops (s.requestRetire b a).wdn := by
  unfold State.requestRetire
  dsimp only
  split
  · exact Warden.drops_refl _
  · split
    · rw [powerOffEmpty_wdn]
      split
      · exact Warden.drops_refl _
      · rw [State.onWdn_wdn, flushLooks_wdn]
        exact markRetiring_drops ..
    · rw [recordFault_wdn]
      exact Warden.drops_refl _

/-- The reading of an uncorrectable word retires its bank at most. -/
theorem readWord_drops {s : State} {w : Nat} (master : Nat) (h : (s.mem.eccOf w).any uncorrectable = true) :
    s.wdn.Drops (s.readWord master w).s.wdn := by
  obtain ⟨k, hk, hu⟩ := (Option.any_eq_true _ _).1 h
  unfold State.readWord
  simp only [hk, hu, if_true]
  exact requestRetire_drops (s.onMm _) _ _

/-- A migration that was in progress is gone, with ABANDON set, and no object has moved. -/
theorem abandon_dropped {s : State} {w : Warden} (hw : w.Drops s.wdn) (hm : w.mig.isSome = true) :
    s.abandon.wdn.obj = w.obj ∧ s.abandon.wdn.mig = none ∧ bit s.abandon.wdn.stat 2 = true := by
  obtain ⟨obj, mig⟩ := hw
  unfold State.abandon
  split
  · next gone =>
    obtain kept | ⟨-, stat⟩ := mig
    · rw [← kept, gone] at hm
      cases hm
    · exact ⟨obj, gone, stat⟩
  · rw [powerOffEmpty_wdn]
    exact ⟨obj, rfl, by simp [bit_setBit]⟩

theorem abandon_cores (s : State) : s.abandon.cores = s.cores := by
  obtain ⟨w, l, m, r, e, -⟩ := abandon_same s
  rw [e]

/-- An uncorrectable word of the source, with the destination ready, ends the migration. -/
theorem copyBad_abandons {s : State} {m : Migration} (hg : s.wdn.mig = some m) (hr : s.destReady m = true)
    (hb : ∃ w ∈ s.badWords (s.migSource m) (s.migBytes m), (s.mem.eccOf w).any uncorrectable = true) :
    ∃ t, s.copyBad = State.abandon t ∧ s.wdn.Drops t.wdn ∧ t.cores = s.cores := by
  obtain ⟨w, hw⟩ := Option.isSome_iff_exists.1 (List.find?_isSome.2 hb)
  have bad := List.find?_some (p := fun w => (s.mem.eccOf w).any uncorrectable) hw
  have drops := readWord_drops copyEngine bad
  have cores : (s.readWord copyEngine w).s.cores = s.cores := congrArg Prod.snd (State.readWord_patrol ..)
  unfold State.copyBad
  simp only [hg, hw, hr, if_true]
  refine ⟨_, rfl, ?_, ?_⟩
  · split
    · obtain ⟨obj, mig⟩ := drops
      exact ⟨obj, mig.imp id fun ⟨gone, stat⟩ => ⟨gone, bit_setBit_of_bit 3 stat⟩⟩
    · exact drops
  · split <;> exact cores

/-! ## The Warden at the end of a command -/

theorem copyRetired_wdn (s : State) : s.copyRetired.wdn = s.wdn := by
  unfold State.copyRetired
  split <;> rfl

/-- What STUCK and the retirement of a bank keep of the Warden, the end of a command keeps (R131, R132). -/
theorem finish_wdn_keeps {P : Warden → Prop} (stuck : ∀ w, P w → P { w with stat := setBit w.stat 3 true })
    (retire : ∀ w b, P w → P (w.retireBank b)) {s : State} (old : State) (h : P s.wdn) : P (finish old s).wdn := by
  have noted : P (old.stuckNew (s.dropPortA old)).wdn := by
    unfold State.stuckNew
    split
    · exact h
    · split
      · exact h
      · exact stuck _ h
  have retired : ∀ (l : List Nat) (t : State), P t.wdn →
      P (l.foldl (fun (s : State) b => s.onWdn fun w => w.retireBank b) t).wdn := fun l => by
    induction l with
    | nil => exact fun _ ht => ht
    | cons b l ih => exact fun t ht => ih _ (retire _ b ht)
  have kept : P (old.housekeep (s.dropPortA old)).wdn := by
    unfold State.housekeep
    rw [State.netGuard_wdn, copyRetired_wdn]
    unfold State.settleRetiring
    split
    · exact noted
    · exact retired _ _ noted
  unfold finish
  dsimp only
  split
  · exact kept
  · simpa using kept

/-- No flag of WDN_STAT is taken back at the end of a command. -/
theorem finish_wdn_stat {s : State} {i : Nat} (old : State) (h : bit s.wdn.stat i = true) :
    bit (finish old s).wdn.stat i = true :=
  finish_wdn_keeps (P := fun w => bit w.stat i = true) (fun _ hw => bit_setBit_of_bit 3 hw)
    (fun _ _ hw => bit_setBit_of_bit 6 hw) old h

/-- The end of a command keeps the objects. -/
theorem finish_objAt (s old : State) (i : Nat) : (finish old s).objAt i = s.objAt i := by
  unfold State.objAt
  rw [finish_wdn_obj]

/-- Settles O36: the decisions reach the queue alone; the copy is read before its destination is written, and the object
that arrives keeps its new bank powered; an abandoned migration leaves the table, HOLD with it (assumption 96). -/
theorem epochsAndMigrations : Obligations.EpochsAndMigrations := by
  refine ⟨?_, ?_⟩
  · intro s aged up
    refine ⟨fun waits => becomes_of_eq rfl ?_, ?_⟩
    · rw [State.awake_of_running up]
      exact epochEnd_of_waiting waits
    · obtain ⟨t, ⟨q, rfl, room⟩, e⟩ := epochEnd_queued s
      refine ⟨_, q, rfl, ?_⟩
      rw [State.awake_of_running up, e, finish_wdn_obj, finish_wdn_queue, finish_wdn_mig, finish_mem]
      exact ⟨rfl, rfl, rfl, rfl, room⟩
  · intro s m q e n src cleared up
    have awake := State.awake_of_running up
    refine ⟨fun idle => becomes_of_eq rfl ?_, fun free busy first => becomes_of_eq rfl ?_,
      fun still => ⟨becomes_of_eq rfl ?_, becomes_of_eq rfl ?_⟩,
      fun mig wait => ⟨becomes_of_eq rfl ?_, becomes_of_eq rfl ?_⟩,
      fun mig ready hm live clean h5 hb fits => ⟨_, rfl, ?_⟩, fun mig ready bad => ⟨_, rfl, ?_⟩⟩
    all_goals rw [awake]
    · exact migrationStart_idle idle
    · exact migrationStart_first free busy first
    · exact migrationComplete_of_none still
    · exact copyBad_of_none still
    · exact migrationComplete_waits mig (destReady_eq.trans wait)
    · exact copyBad_waits mig (destReady_eq.trans wait)
    · have size : s.migBytes m = n := if_pos hm
      obtain ⟨wdn, cores, bytes⟩ := migrationComplete_object mig (destReady_eq.trans ready) hm live clean h5 hb
        (size ▸ fits)
      have moved : ∀ i, (finish s s.migrationComplete).objAt i =
          if m.obj = i ∧ i < 512 then m.arrives (bits s.wdn.pol 24 4) (s.objAt i) else s.objAt i := fun i => by
        rw [finish_objAt, State.objAt, wdn]
        exact vget_vmod ..
      rw [finish_wdn_mig, finish_wdn_migcnt, finish_mem, finish_cores, moved, if_pos ⟨rfl, hm⟩, wdn]
      refine ⟨rfl, rfl, rfl, rfl, fun j hj hne => ?_, fun j hj => bytes j (size ▸ hj), cores⟩
      rw [moved, if_neg fun here => hne here.1.symm]
    · obtain ⟨t, he, drops, cores⟩ := copyBad_abandons mig (destReady_eq.trans ready) bad
      obtain ⟨obj, gone, flag⟩ := abandon_dropped drops (by rw [mig]; rfl)
      rw [he, finish_wdn_mig, finish_wdn_obj, finish_cores, abandon_cores]
      exact ⟨gone, finish_wdn_stat s flag, obj, cores⟩

end Sys2Proof.Machine

/-! # Registers of the Warden -/

namespace Sys2Proof.Machine

open Sys2Proof

section Policy

variable {w : Warden} {canvas : Bool} {v : Word}

theorem writePol_refused (h : bits v 0 2 = 3 ∨ (canvas = true ∧ bit w.lim (bits v 0 2) = false)) :
    w.writePol canvas v = { w with stat := setBit w.stat 0 true } := by
  refine if_pos (h.imp id fun ⟨hc, hb⟩ => ⟨hc, ?_⟩)
  rw [Warden.policyOk, hb, Bool.and_false]

theorem writePol_taken (hp : bits v 0 2 < 3) (h : canvas = false ∨ bit w.lim (bits v 0 2) = true) :
    w.writePol canvas v = { w with pol := (w.pol &&& 0x8000000C#32) ||| (v &&& 0x7FFFFFF3#32) } := by
  refine if_neg fun refused => ?_
  obtain three | ⟨hc, hb⟩ := refused
  · omega
  · obtain h | h := h
    · rw [h] at hc
      cases hc
    · rw [Warden.policyOk, decide_eq_true hp, h] at hb
      cases hb

theorem writeEpoch_refused (hc : canvas = true)
    (h : bits v 0 10 < bits w.epochLim 0 10 ∨ bits w.epochLim 16 10 < bits v 0 10) :
    w.writeEpoch canvas v = { w with stat := setBit w.stat 0 true } := if_pos ⟨hc, h⟩

theorem writeEpoch_taken
    (h : canvas = false ∨ (bits w.epochLim 0 10 ≤ bits v 0 10 ∧ bits v 0 10 ≤ bits w.epochLim 16 10)) :
    w.writeEpoch canvas v = { w with epoch := (w.epoch &&& 0xFFFFFC00#32) ||| (v &&& 0x3FF#32) } := by
  refine if_neg fun ⟨hc, out⟩ => ?_
  obtain h | ⟨lo, hi⟩ := h
  · rw [h] at hc
    cases hc
  · omega

theorem writeLim_eq (w : Warden) (v : Word) :
    let lim := limStored v
    w.writeLim v = { w with
      lim := lim
      pol := if bits w.pol 0 2 < 3 ∧ bit lim (bits w.pol 0 2) = true then w.pol
        else setBits w.pol 0 2 (if bit lim 0 then 0 else if bit lim 1 then 1 else 2) } := by
  unfold Warden.writeLim Warden.policyOk
  simp only [Bool.and_eq_true, decide_eq_true_eq]
  split <;> rfl

/-- The nearer limit of an epoch outside the two (R121). -/
theorem nearer_eq {lo hi n : Nat} (h : lo ≤ hi) :
    (if n < lo then lo else if hi < n then hi else n) = max lo (min hi n) := by
  split
  · omega
  · split <;> omega

theorem writeEpochLim_eq (w : Warden) (v : Word) :
    let lo := max 16 (bits v 0 10)
    let hi := max lo (bits v 16 10)
    w.writeEpochLim v = { w with
      epochLim := field 0 lo ||| field 16 hi
      epoch := setBits w.epoch 0 10 (max lo (min hi (bits w.epoch 0 10))) } := by
  intro lo hi
  rw [← nearer_eq (le_max_left ..)]
  rfl

end Policy

theorem selectObj_eq (s : State) (b : Nat) (v : Word) :
    let e := s.objAt (bits v 0 9)
    s.selectObj b v = s.onWdnBank b fun r =>
      { r with
        objSel := field 0 (bits v 0 9)
        objBase := if e.phase = .free then 0#32 else BitVec.ofNat 32 (0x60000000 + 256 * e.base.toNat)
        objAttr := field 0 e.size ||| field 4 (objClassCode e.cls) ||| flagAt 6 e.xp |||
          flagAt 7 e.load ||| field 8 e.hint ||| field 12 e.owner
        objRights := e.rights.setWidth 32
        objLoad := e.source
        objLoc := field 0 e.offs ||| field 16 e.bank ||| flagAt 30 (s.moving s.mem.journal (bits v 0 9)) |||
          flagAt 31 (decide (e.phase = .live ∨ e.phase = .releasing))
        objHeat0 := field 0 e.heat[0] ||| field 16 e.heat[1]
        objHeat1 := field 0 e.heat[2] ||| field 16 e.heat[3] } := by
  intro e
  have base : (if e.declared then BitVec.ofNat 32 e.logical else 0#32) =
      if e.phase = .free then 0#32 else BitVec.ofNat 32 (0x60000000 + 256 * e.base.toNat) := by
    by_cases h : e.phase = .free
    · simp [ObjEntry.declared, h]
    · simp [ObjEntry.declared, h, ObjEntry.logical, objBase]
  have reachable : e.reachable = decide (e.phase = .live ∨ e.phase = .releasing) := by
    rw [ObjEntry.reachable, Bool.decide_or]
  rw [← base, ← reachable]
  rfl

/-! ## Retired cores (R131-R134, R194) -/

/-- A core that is retired stops, and its channels are freed. -/
def State.stopCore (s : State) (c : CoreId) : State := (s.retireCore c).freeChannelsOf c

/-- The cores that a write of retired bits retires. -/
def State.newlyRetired (s t : State) : List CoreId :=
  allCores.filter fun (c : CoreId) => t.coreRetired c && !s.coreRetired c

/-- The state in which Ridgepole has set retired bits. -/
def State.withRetired (s : State) (sb : Bool) (v : Word) : State := s.onWdn fun w => w.writeRetired sb v

theorem wdnRetire_eq (s : State) (sb : Bool) (v : Word) : s.wdnRetire sb v =
    (s.newlyRetired (s.withRetired sb v)).foldl State.stopCore (s.withRetired sb v) := rfl

theorem mem_newlyRetired {s t : State} {c : CoreId} :
    c ∈ s.newlyRetired t ↔ t.coreRetired c = true ∧ s.coreRetired c = false := by
  have all : c ∈ allCores := by
    revert c
    decide
  simp [State.newlyRetired, all]

/-- Bits that retire no core change the bits alone. -/
theorem wdnRetire_of_kept {s : State} {sb : Bool} {v : Word}
    (h : ∀ c : CoreId, (s.withRetired sb v).coreRetired c = s.coreRetired c) :
    s.wdnRetire sb v = s.withRetired sb v := by
  have nothing : s.newlyRetired (s.withRetired sb v) = [] := List.eq_nil_iff_forall_not_mem.2 fun c hc => by
    obtain ⟨new, old⟩ := mem_newlyRetired.1 hc
    rw [h, old] at new
    cases new
  rw [wdnRetire_eq, nothing]
  rfl

/-- What the freeing of one channel leaves, the freeing of a core's channels leaves. -/
theorem freeChannels_same {α : Type} (f : State → α) (hf : ∀ s n, f (State.freeChannel s n) = f s) (s : State)
    (c : Nat) : f (s.freeChannelsOf c) = f s := by
  unfold State.freeChannelsOf
  generalize indices 62 _ = l
  induction l generalizing s with
  | nil => rfl
  | cons n l ih => exact (ih _).trans (hf s n)

theorem freeChannel_wdn (s : State) (n : Nat) : (s.freeChannel n).wdn = s.wdn := by
  unfold State.freeChannel
  dsimp only
  split <;> rfl

theorem freeChannel_evt (s : State) (n : Nat) : (s.freeChannel n).per.evt = s.per.evt.freed n := by
  have e := congrArg (fun t : State => t.per.evt) (freeChannel_aside (t := s) (c := 0) n)
  exact e

/-- A core as its retirement leaves it (R134). -/
def Core.retired (k : Core) : Core :=
  { k with phase := .off, task := 0x80000000#32, shadow := none, mul := none, div := none, asked := none, trap := none }

theorem stopCore_cores (s : State) (c : CoreId) : (s.stopCore c).cores = (s.onCore c Core.retired).cores := by
  refine (freeChannels_same State.cores (fun _ n => freeChannel_cores n) ..).trans ?_
  unfold State.retireCore
  dsimp only
  split <;> rfl

theorem stopCore_retire (s : State) (c : CoreId) : (s.stopCore c).wdn.retire = s.wdn.retire := by
  have kept : ∀ (t : State) n, (t.freeChannel n).wdn.retire = t.wdn.retire := fun t n =>
    congrArg Warden.retire (freeChannel_wdn t n)
  refine (freeChannels_same (fun t => t.wdn.retire) kept ..).trans ?_
  unfold State.retireCore
  dsimp only
  split <;> rfl

/-- A core that does not run and is in no task. -/
def Core.Off (k : Core) : Prop := k.phase = .off ∧ bit k.task 31 = true

theorem Core.off_retired (k : Core) : k.retired.Off :=
  have thread : bit 0x80000000#32 31 = true := by decide
  ⟨rfl, thread⟩

theorem stopCore_same (s : State) (c : CoreId) : (s.stopCore c).cores[c].Off := by
  have e := congrArg (fun v : Vector Core 4 => v[c]) (stopCore_cores s c)
  rw [onCore_same] at e
  exact e ▸ Core.off_retired _

theorem stopCore_other (s : State) {c e : CoreId} (h : e ≠ c) : (s.stopCore c).cores[e] = s.cores[e] := by
  have k := congrArg (fun v : Vector Core 4 => v[e]) (stopCore_cores s c)
  rwa [onCore_other s h] at k

section Stops

variable {l : List CoreId} {s : State} {e : CoreId}

theorem stops_other (h : e ∉ l) : (l.foldl State.stopCore s).cores[e] = s.cores[e] := by
  induction l generalizing s with
  | nil => rfl
  | cons c l ih =>
    obtain ⟨hc, hl⟩ := not_or.1 (List.mem_cons.not.1 h)
    exact (ih hl).trans (stopCore_other s hc)

theorem stops_same (h : e ∈ l) : ((l.foldl State.stopCore s).cores[e]).Off := by
  induction l generalizing s with
  | nil => cases h
  | cons c l ih =>
    by_cases hl : e ∈ l
    · exact ih hl
    · have here : e = c := (List.mem_cons.1 h).resolve_right hl
      have kept : ((l.foldl State.stopCore (s.stopCore c)).cores[e]) = (s.stopCore c).cores[e] := stops_other hl
      rw [List.foldl_cons, kept, here]
      exact stopCore_same s c

theorem stops_retire : (l.foldl State.stopCore s).wdn.retire = s.wdn.retire := by
  induction l generalizing s with
  | nil => rfl
  | cons c l ih => exact ih.trans (stopCore_retire s c)

theorem stops_mem : (l.foldl State.stopCore s).mem = s.mem :=
  foldl_mem (fun s c => (State.freeChannelsOf_mem ..).trans (State.retireCore_mem s c)) l s

end Stops

/-! ## Channels of a retired core (R194, R204) -/

theorem vget_vset {α : Type} {n : Nat} (v : Vector α n) (i j : Nat) (x d : α) :
    vget (vset v i x) j d = if i = j ∧ j < n then x else vget v j d := vget_vmod v i j (fun _ => x) d

theorem freed_owner (e : Evt) (n m : Nat) : (e.freed n).owner m = if n = m ∧ m < 64 then 7 else e.owner m := by
  unfold Evt.owner Evt.cfg Evt.freed
  rw [vget_vset]
  split <;> rfl

/-- A channel that a core does not own, it does not own after another channel is freed. -/
theorem freed_not_owner {e : Evt} {m c : Nat} (hc : c < 4) (n : Nat) (h : e.owner m ≠ c) :
    (e.freed n).owner m ≠ c := by
  rw [freed_owner]
  split
  · omega
  · exact h

theorem frees_not_owner {m c : Nat} (hc : c < 4) : ∀ (l : List Nat) {s : State}, s.per.evt.owner m ≠ c →
    (l.foldl State.freeChannel s).per.evt.owner m ≠ c
  | [], _, h => h
  | n :: l, s, h => frees_not_owner hc l (s := s.freeChannel n) (by
    rw [freeChannel_evt]
    exact freed_not_owner hc n h)

theorem frees_owned {m c : Nat} (hc : c < 4) (hm : m < 64) : ∀ {l : List Nat} (s : State), m ∈ l →
    (l.foldl State.freeChannel s).per.evt.owner m ≠ c
  | [], _, h => nomatch h
  | n :: l, s, h => by
    by_cases e : n = m
    · refine frees_not_owner hc l ?_
      rw [freeChannel_evt, freed_owner, if_pos ⟨e, hm⟩]
      omega
    · exact frees_owned hc hm (s.freeChannel n) (l := l) ((List.mem_cons.1 h).resolve_left (Ne.symm e))

theorem freeChannelsOf_not_owner (s : State) {m c : Nat} (hc : c < 4) (hm : m < 62) :
    (s.freeChannelsOf c).per.evt.owner m ≠ c := by
  unfold State.freeChannelsOf
  by_cases h : s.per.evt.owner m = c
  · refine frees_owned hc (by omega) s ?_
    simp [indices, hm, h]
  · exact frees_not_owner hc _ h

theorem retireCore_evt (s : State) (c : CoreId) : (s.retireCore c).per.evt = s.per.evt := by
  unfold State.retireCore
  dsimp only
  split <;> rfl

theorem stops_not_owner {m : Nat} {c : CoreId} : ∀ {l : List CoreId} {s : State}, s.per.evt.owner m ≠ c →
    (l.foldl State.stopCore s).per.evt.owner m ≠ c
  | [], _, h => h
  | d :: l, s, h => stops_not_owner (l := l) (s := s.stopCore d)
      (frees_not_owner c.isLt _ (by rw [retireCore_evt]; exact h))

theorem stops_frees {m : Nat} {c : CoreId} (hm : m < 62) : ∀ {l : List CoreId} {s : State}, c ∈ l →
    (l.foldl State.stopCore s).per.evt.owner m ≠ c
  | [], _, h => nomatch h
  | d :: l, s, h => by
    by_cases e : c = d
    · exact stops_not_owner (s := s.stopCore d) (e ▸ freeChannelsOf_not_owner _ c.isLt hm)
    · exact stops_frees hm (l := l) (s := s.stopCore d) ((List.mem_cons.1 h).resolve_left e)

/-! ## The bits of CORE (R133, R134) -/

/-- The bits of a pair, written together, are those of its two cores. -/
theorem pairBits : ∀ c e : CoreId, let pair := BitVec.ofNat 32 (3 * 2 ^ (16 + c.val / 2 * 2)) &&& 0xFFFE0#32
    bit pair (16 + e.val / 2 * 2) = decide (e.val / 2 = c.val / 2) ∧
      bit pair (17 + e.val / 2 * 2) = decide (e.val / 2 = c.val / 2) ∧
      bit pair (16 + e.val) = decide (e.val / 2 = c.val / 2) := by decide

theorem coreBits : ∀ c e : CoreId,
    bit (BitVec.twoPow 32 (16 + c.val) &&& 0xFFFE0#32) (16 + e.val) = decide (e = c) := by decide

theorem coreRetired_single {s : State} (h : s.twin = false) (c : CoreId) :
    s.coreRetired c = bit s.wdn.retire (16 + c.val) := by
  rw [State.coreRetired, h, if_neg Bool.false_ne_true]

/-- Under Twin-skin a core is retired by both bits of its pair. -/
theorem coreRetired_pair {s : State} (h : s.twin = true) (c : CoreId) :
    s.coreRetired c = (bit s.wdn.retire (16 + c.val / 2 * 2) && bit s.wdn.retire (17 + c.val / 2 * 2)) := by
  rw [State.coreRetired, h, if_pos rfl]

section Retire

variable (s : State) (c e : CoreId) (v : Word)

theorem bit_withRetired (i : Nat) :
    bit (s.withRetired false v).wdn.retire i = (bit s.wdn.retire i || bit (v &&& 0xFFFE0#32) i) := BitVec.getLsbD_or ..

variable {s c v}

/-- Under Twin-skin both bits of a pair retire its two cores, and no other. -/
theorem mem_newlyRetired_pair (twin : s.twin = true) (hv : v = BitVec.ofNat 32 (3 * 2 ^ (16 + c.val / 2 * 2)))
    (on : s.coreRetired c = false) : e ∈ s.newlyRetired (s.withRetired false v) ↔ e.val / 2 = c.val / 2 := by
  obtain ⟨leader, follower, -⟩ := pairBits c e
  rw [mem_newlyRetired, coreRetired_pair (s := s.withRetired false v) twin, coreRetired_pair twin, bit_withRetired,
    bit_withRetired, hv, leader, follower]
  rw [coreRetired_pair twin] at on
  by_cases h : e.val / 2 = c.val / 2
  · simpa [h] using on
  · simp [h]

/-- Outside Twin-skin a core's bit retires that core alone. -/
theorem mem_newlyRetired_core (single : s.twin = false) (hv : v = BitVec.twoPow 32 (16 + c.val))
    (on : s.coreRetired c = false) : e ∈ s.newlyRetired (s.withRetired false v) ↔ e = c := by
  rw [mem_newlyRetired, coreRetired_single (s := s.withRetired false v) single, coreRetired_single single,
    bit_withRetired, hv, coreBits]
  rw [coreRetired_single single] at on
  by_cases h : e = c
  · subst h
    simpa using on
  · simp [h]

end Retire

/-- No retired bit is taken back at the end of a command (R133). -/
theorem finish_wdn_retire {s : State} {i : Nat} (old : State) (h : bit s.wdn.retire i = true) :
    bit (finish old s).wdn.retire i = true := by
  refine finish_wdn_keeps (P := fun w => bit w.retire i = true) (fun _ hw => hw) (fun w b hw => ?_) old h
  unfold Warden.retireBank
  dsimp only
  split
  · exact bit_setBit_of_bit b hw
  · exact hw

/-! ## Writes by Ridgepole and by Canvas -/

theorem isCanvas_of_writes {s : State} {a : Agent} {o : Nat} {v : Word} (h : s.writes a o v) :
    isCanvas a = decide (a ≠ .ridgepole) := by
  cases a with
  | core c => rfl
  | ridgepole => rfl
  | host => exact h.elim

/-- Settles O22: each register by what the Warden's own write makes of it. That a free entry's copy shows zeros is the
model's choice (assumption 95). -/
theorem wardenRegisters : Obligations.WardenRegisters := by
  intro s a v b w write put limit canvas e t p n
  have direct : ∀ {off : Nat}, off < 0x1000 → s.writes a (ioWdn + off) v →
      s.rowWrite a (ioWdn + off) none v = s.wdnWrite a off v :=
    fun ho hw => (rowWrite_direct hw).trans (directWrite_wdn s a v ho)
  have becomes : ∀ {off : Nat} {i : Instr} {u : State}, off < 0x1000 → s.writes a (ioWdn + off) v →
      exec i s = .next (finish s (s.rowWrite a (ioWdn + off) none v)) → s.wdnWrite a off v = u → s.becomes i u :=
    fun ho hw hi hu => becomes_of_eq hi ((direct ho hw).trans hu)
  have warden : ∀ {x y : Warden}, x = y → ({ s with wdn := x } : State) = { s with wdn := y } :=
    fun h => congrArg (fun x => { s with wdn := x }) h
  have retires : a = .ridgepole → s.wdnWrite a 0x9C v = s.wdnRetire false v := fun ha => by
    rw [ha]
    rfl
  have stops : a = .ridgepole → s.writes a (ioWdn + 0x9C) v → s.rowWrite a (ioWdn + 0x9C) none v =
      (s.newlyRetired (s.withRetired false v)).foldl State.stopCore (s.withRetired false v) := fun ha hw =>
    (direct (by decide) hw).trans ((retires ha).trans (wdnRetire_eq ..))
  refine ⟨fun hw => becomes (by decide) hw rfl (selectObj_eq ..), fun hw => becomes (by decide) hw rfl rfl,
    fun h hw => becomes (by decide) hw rfl (warden (writePol_refused ?_)),
    fun hp h hw => becomes (by decide) hw rfl (warden (writePol_taken hp ?_)),
    fun hc h hw => becomes (by decide) hw rfl (warden (writeEpoch_refused ?_ h)),
    fun h hw => becomes (by decide) hw rfl (warden (writeEpoch_taken ?_)),
    fun ha hw => becomes (by decide) hw rfl ?_, fun ha hw => becomes (by decide) hw rfl ?_,
    fun ha hw => becomes (by decide) hw rfl ?_,
    fun ha kept hw => becomes (by decide) hw rfl ((retires ha).trans (wdnRetire_of_kept kept)),
    fun c ha twin hv on hw => ⟨_, rfl, ?_⟩, fun c ha single hv on hw => ⟨_, rfl, ?_⟩⟩
  · rw [isCanvas_of_writes hw, decide_eq_true_eq]
    exact h
  · rw [isCanvas_of_writes hw, decide_eq_false_iff_not]
    exact h
  · rw [isCanvas_of_writes hw, decide_eq_true_eq]
    exact hc
  · rw [isCanvas_of_writes hw, decide_eq_false_iff_not]
    exact h
  · subst ha
    exact warden (writeLim_eq ..)
  · subst ha
    exact warden (writeEpochLim_eq ..)
  · subst ha
    exact wdnRetire_of_kept (sb := true) fun _ => rfl
  · have hit : ∀ e, e ∈ s.newlyRetired (s.withRetired false v) ↔ e.val / 2 = c.val / 2 := fun e =>
      mem_newlyRetired_pair e twin hv on
    rw [if_neg Bool.false_ne_true, stops ha hw, finish_mem, finish_cores]
    refine ⟨stops_mem, fun e => ?_⟩
    split
    · next h =>
      obtain ⟨phase, task⟩ := stops_same (s := s.withRetired false v) ((hit e).2 h)
      refine ⟨phase, task, finish_wdn_retire s ?_⟩
      obtain ⟨-, -, own⟩ := pairBits c e
      rw [stops_retire, bit_withRetired, hv, own, decide_eq_true h, Bool.or_true]
    · next h => exact stops_other (s := s.withRetired false v) fun he => h ((hit e).1 he)
  · have hit : ∀ e, e ∈ s.newlyRetired (s.withRetired false v) ↔ e = c := fun e =>
      mem_newlyRetired_core e single hv on
    obtain ⟨phase, task⟩ := stops_same (s := s.withRetired false v) ((hit c).2 rfl)
    rw [if_neg Bool.false_ne_true, stops ha hw, finish_mem, finish_cores, finish_per_evt]
    refine ⟨phase, task, finish_wdn_retire s ?_, fun n hn => stops_frees hn ((hit c).2 rfl),
      fun e he => stops_other (s := s.withRetired false v) fun h => he ((hit e).1 h), stops_mem⟩
    rw [stops_retire, bit_withRetired, hv, coreBits, decide_eq_true rfl, Bool.or_true]

end Sys2Proof.Machine

/-! # Integrity events -/

namespace Sys2Proof.Machine

open Sys2Proof

/-! ## Classes of faults (R151) -/

/-- The classes that call for the safe state in the configuration without Twin-skin as well. -/
def alwaysSafe : List FaultClass := [.rplock, .mcmp, .bpar, .tpar, .pcmp, .clock, .supply]

theorem deadClass_twin (cls : Nat) : deadClass true cls = false := rfl

theorem deadClass_classCode (c : FaultClass) : deadClass false (classCode c) = decide (c = .rdbk ∨ c = .check) := by
  cases c <;> rfl

theorem safeClass_classCode_twin (c : FaultClass) : safeClass true (classCode c) = true := by
  cases c <;> rfl

theorem safeClass_classCode (c : FaultClass) : safeClass false (classCode c) = decide (c ∈ alwaysSafe) := by
  cases c <;> rfl

/-- A class that calls for the safe state arises in the configuration. -/
theorem deadClass_of_alwaysSafe (twin : Bool) {c : FaultClass} (h : c ∈ alwaysSafe) :
    deadClass twin (classCode c) = false := by
  cases twin with
  | true => rfl
  | false =>
    rw [deadClass_classCode, decide_eq_false]
    rintro (rfl | rfl) <;> exact absurd h (by decide)

section React

variable {s : State} {f : FaultInfo}

theorem react_of_dead (h : deadClass s.twin f.cls = true) : s.react f = s := by
  rw [State.react, if_pos h]

theorem react_of_safe (hd : deadClass s.twin f.cls = false) (h : safeClass s.twin f.cls = true) :
    s.react f = s.safeState f := by
  rw [State.react, if_neg (Bool.eq_false_iff.1 hd), if_pos h]

theorem react_of_recorded (hd : deadClass s.twin f.cls = false) (h : safeClass s.twin f.cls = false) :
    s.react f = s.recordFault f 0 := by
  rw [State.react, if_neg (Bool.eq_false_iff.1 hd), if_neg (Bool.eq_false_iff.1 h)]

/-- A fault of a checker's class that resets the device: any class under Twin-skin, and otherwise the seven. -/
theorem react_classCode_safe {c : FaultClass} (hf : f.cls = classCode c) (h : s.twin = true ∨ c ∈ alwaysSafe) :
    s.react f = s.safeState f := by
  rcases Bool.eq_false_or_eq_true s.twin with twin | single
  · exact react_of_safe (by rw [twin, deadClass_twin]) (by rw [twin, hf, safeClass_classCode_twin])
  · have hc : c ∈ alwaysSafe := h.resolve_left (by simp [single])
    exact react_of_safe (by rw [hf, deadClass_of_alwaysSafe _ hc])
      (by rw [single, hf, safeClass_classCode, decide_eq_true hc])

end React

/-! ## The safe state (R145, R146) -/

/-- The reset of a fault goes to Pitch with the reaction noted and bit 4, and with bit 3 where it was the reset of a
wake. -/
theorem safeState_reset (s : State) (f : FaultInfo) :
    let t := s.safeState f
    t.rp.itgPend = some ⟨faultAction s f, (lockPair f).getD 0⟩ ∧
      t.pwr.cause = (0x10#32 ||| if s.rp.mode = .cold ∧ bit s.pwr.cause 3 = true then 8#32 else 0#32) ∧
      t.cores = Vector.replicate 4 Core.reset := by
  have fuses : ∀ (r : Ridgepole) (n : Nat), (r.cutFuses n).itgPend = r.itgPend := fun r n => by
    unfold Ridgepole.cutFuses
    split <;> rfl
  refine ⟨fuses _ _, ?_, rfl⟩
  show (0x10#32 ||| if (decide (s.rp.mode = .cold) && bit s.pwr.cause 3) = true then 8#32 else 0#32) = _
  simp only [Bool.and_eq_true, decide_eq_true_eq]

/-! ## Checkers (R138, R139) -/

section Checkers

variable {s : State} {c : FaultClass} {u : BitVec 8}

theorem diverge_condition : (s.domainOn && decide (s.rp.mode = .up) && s.twin) = true ↔
    s.pwr.state = .awake ∧ s.rp.mode = .up ∧ s.twin = true := by
  simp only [State.domainOn, Bool.and_eq_true, decide_eq_true_eq, and_assoc]

theorem diverge_of_unpaired (p : Fin 2) (x : Word) (h : ¬(s.pwr.state = .awake ∧ s.rp.mode = .up ∧ s.twin = true)) :
    s.diverge p x = s := by
  rw [State.diverge, if_neg (mt diverge_condition.1 h)]

theorem diverge_of_paired (p : Fin 2) (x : Word) (h : s.pwr.state = .awake ∧ s.rp.mode = .up ∧ s.twin = true) :
    s.diverge p x =
      s.safeState { cls := 1, unit := p, pc0 := s.cores[Fin.ofNat 4 (2 * p.val)].pc, pc1 := x } := by
  have ⟨_, _, twin⟩ := h
  rw [State.diverge, if_pos (diverge_condition.2 h), react_of_safe (by rw [twin, deadClass_twin]) (by rw [twin]; rfl)]

/-- The units that a checker watches, class by class. -/
theorem checks_iff : s.checks c u.toNat = true ↔ s.pwr.state = .awake ∧
    (c = .supply → (u = 1#8 → bit s.itg.stat 5 = true) ∧ (u = 2#8 → bit s.itg.stat 6 = true)) ∧
    (c = .rdbk → bit s.itg.cfg 4 = true ∧ u.toNat < 96 ∧ s.per.pin.isOutput u.toNat = true ∧
      driveLevel s u.toNat ≠ none) := by
  have one : u = 1#8 ↔ u.toNat = 1 := BitVec.toNat_inj.symm
  have two : u = 2#8 ↔ u.toNat = 2 := BitVec.toNat_inj.symm
  unfold State.checks State.domainOn
  rw [Bool.and_eq_true, decide_eq_true_eq]
  refine and_congr_right fun _ => ?_
  cases c
  case supply =>
    simp only [one, two, forall_const, reduceCtorEq, false_implies, and_true]
    by_cases h1 : u.toNat = 1
    · simp [h1]
    · by_cases h2 : u.toNat = 2 <;> simp [h1, h2]
  case rdbk => simp [Option.isSome_iff_ne_none, and_assoc]
  all_goals simp

theorem integrityFault_of_unwatched (a y : Word) (d : DWord) (h : ¬s.checks c u.toNat = true) :
    s.integrityFault c u a y d = s := by
  rw [State.integrityFault, if_neg h]

/-- The record that a checker makes of a fault (R150). -/
def checkerInfo (s : State) (c : FaultClass) (u : BitVec 8) (a y : Word) (d : DWord) : FaultInfo :=
  { cls := classCode c, unit := u.toNat, syn := y, pc0 := s.faultPc c u.toNat
    addr := if c = .unc ∨ c = .bpar then a else 0#32, detail := if c = .supply ∨ c = .clock then d else 0#64 }

theorem integrityFault_of_watched (a y : Word) (d : DWord) (h : s.checks c u.toNat = true) :
    s.integrityFault c u a y d = (s.useFree 1).react (checkerInfo s c u a y d) := by
  rw [State.integrityFault, if_pos h]
  rfl

end Checkers

/-! ## The firing of a source, as what it makes pending (R184) -/

/-- Source `src` is made pending where it is enabled and not active. -/
def IrqBank.madePending (q : IrqBank) (src : Nat) : IrqBank :=
  if bit q.en src = true ∧ bit q.act src = false then { q with pend := setBit q.pend src true } else q

theorem IrqBank.madePending_setup (q : IrqBank) (src : Nat) : (q.madePending src).setup = q.setup := by
  unfold IrqBank.madePending
  split <;> rfl

/-- What is pending then was pending, or is the source. -/
theorem IrqBank.pend_of_madePending {q : IrqBank} {src i : Nat} (h : bit (q.madePending src).pend i = true) :
    bit q.pend i = true ∨ src = i ∧ bit q.en src = true ∧ bit q.act src = false := by
  unfold IrqBank.madePending at h
  split at h
  · next on =>
    rw [bit_setBit] at h
    split at h
    · next hsrc => exact .inr ⟨hsrc.left, on⟩
    · exact .inl h
  · exact .inl h

/-- Controller `b` with source `src` made pending. -/
def State.madePending (s : State) (b src : Nat) : State := s.onIrq b fun q => q.madePending src

/-- A firing makes its source pending, next to counts of what is lost. -/
theorem madePending_noted_fireSource (s : State) {b src : Nat} (hb : b < 5) (hs : src < 128) (h56 : src ≠ 56) :
    (s.madePending b src).Noted (s.fireSource b src) := by
  have fired := s.fireSource_setup b src
  have setup : (s.madePending b src).irq.map IrqBank.setup = s.irq.map IrqBank.setup :=
    map_vmod _ _ _ _ fun q => q.madePending_setup src
  refine ⟨s.fireSource_base b src, fired.irq.trans setup.symm, fired.cfg, fired.ie, fun k i hi => ?_, fired.inflight⟩
  rw [State.madePending, State.onIrq, vget_vmod] at hi
  split at hi
  · next hk =>
    obtain ⟨rfl, -⟩ := hk
    rcases IrqBank.pend_of_madePending hi with pending | ⟨rfl, en, idle⟩
    · exact fired.pend _ _ pending
    · exact fireSource_pend s hb hs h56 en idle
  · exact fired.pend _ _ hi

/-! ## Self-tests and supply watches (R139, R142) -/

/-- ITG_STEST.ROUNDS counts a round. -/
def Itg.roundCounted (g : Itg) : Itg := { g with stest := setBits g.stest 16 8 (bits g.stest 16 8 + 1) }

section Rounds

variable {s : State}

theorem selfTest_of_idle (h : ¬(s.canvasUp = true ∧ s.twin = true)) : s.selfTest = s := by
  rw [State.selfTest, if_neg (by rwa [Bool.and_eq_true])]

theorem selfTest_of_running (hup : s.canvasUp = true) (twin : s.twin = true) :
    s.selfTest = (s.onItg Itg.roundCounted).fireSource 4 59 := by
  rw [State.selfTest, if_pos (by rw [hup, twin]; rfl)]
  rfl

/-- Source 59 of Ridgepole's controller, made pending where R184 says. -/
theorem madePending_ridgepole (s : State) : s.madePending 4 59 =
    { s with irq := let q := s.irq[(4 : Fin 5)]
                    s.irq.set 4 (if bit q.en 59 = true ∧ bit q.act 59 = false
                      then { q with pend := setBit q.pend 59 true } else q) } :=
  congrArg (fun v => { s with irq := v }) (vmod_fin s.irq 4 _)

theorem watchBank_of_absent {b2 : Bool} (h : (if b2 then s.pwr.vio2 else s.pwr.vio1) = false) :
    s.watchBank b2 = s := by
  rw [State.watchBank, h, Bool.and_false, if_neg Bool.false_ne_true]

theorem watchBank_of_present {b2 : Bool} (hr : s.running = true) (h : (if b2 then s.pwr.vio2 else s.pwr.vio1) = true) :
    s.watchBank b2 = s.onItg fun g => { g with stat := setBit g.stat (if b2 then 6 else 5) true } := by
  rw [State.watchBank, hr, h, Bool.and_self, if_pos rfl]

end Rounds

/-- Settles O38: a divergence and each class of fault by the reaction it calls for, and the self-test round and the
supply watch by their one register. The fields that a record leaves 0 or free, and that a round fires source 59 and has
no effect without Twin-skin, are readings of the model (assumptions 29, 30 and 60). -/
theorem integrityEvents : Obligations.IntegrityEvents := by
  unfold Obligations.IntegrityEvents
  intro s p x c u a y d b2 total slot down at0 info fault runs paired
  have resets : ∀ {i : Instr} {v w : State} {f : FaultInfo} (n : Nat), v = s ∨ v = s.useFree 1 →
      exec i s = .next (finish s w) → w = v.safeState f → (lockPair f).getD 0 = n →
      down i f.cls f.unit ⟨faultAction s f, n⟩ := by
    rintro i v w f n hv hi rfl rfl
    obtain ⟨hmode, -, hcls, hunit, htotal⟩ := safeState_spec v f
    obtain ⟨hpend, hcause, hcores⟩ := safeState_reset v f
    refine ⟨_, hi, ?_⟩
    simp only [finish_rp_mode, finish_rp_itgPend, finish_pwr, finish_itg_total, finish_mem, finish_cores]
    rcases hv with rfl | rfl <;> exact ⟨hmode, hpend, hcause, htotal, hcls, hunit, hcores⟩
  have hruns : s.checks c u.toNat = true ↔ runs := checks_iff
  have reacts : ∀ {v : State}, runs → (s.useFree 1).react info = v →
      s.integrityFault c u a y d = v := fun hr e =>
    (integrityFault_of_watched a y d (hruns.2 hr)).trans e
  refine ⟨fun h => becomes_of_eq rfl (diverge_of_unpaired p x h),
    fun h => becomes_of_eq rfl (selfTest_of_idle h), fun h => ?_, fun hup twin => ?_,
    fun h => becomes_of_eq rfl (integrityFault_of_unwatched a y d (mt hruns.1 h)), fun hr h => ?_,
    fun hr single h => ?_, fun hr single h => ?_, fun hr h => becomes_of_eq rfl (watchBank_of_present hr h),
    fun h => becomes_of_eq rfl (watchBank_of_absent h)⟩
  · exact resets p (.inl rfl) rfl (diverge_of_paired p x h) (Nat.mod_eq_of_lt p.isLt)
  · refine ⟨_, rfl, ?_⟩
    rw [selfTest_of_running hup twin]
    have noted := madePending_noted_fireSource (s.onItg Itg.roundCounted) (b := 4) (src := 59)
      (by decide) (by decide) (by decide)
    rw [madePending_ridgepole] at noted
    exact noted.settles s
  · exact resets _ (.inr rfl) rfl (reacts hr (react_classCode_safe rfl h)) rfl
  · refine becomes_of_eq rfl (reacts hr (react_of_dead ?_))
    rw [show (s.useFree 1).twin = false from single, show info.cls = classCode c from rfl, deadClass_classCode,
      decide_eq_true h]
  · subst h
    refine becomes_of_eq rfl (reacts hr (react_of_recorded ?_ ?_)) <;>
      rw [show (s.useFree 1).twin = false from single] <;> rfl

end Sys2Proof.Machine

/-! # The Trail port -/

namespace Sys2Proof.Machine

open Sys2Proof

/-! ## Submissions (R180) -/

section Submit

variable {s : State} {resp : List Byte} {scope : Word}

theorem trailOff_iff : s.trailOff = true ↔ s.rp.dbgen = false ∨ s.rp.key 1027 = none := by
  unfold State.trailOff
  rw [Bool.or_eq_true, Bool.not_eq_true', Option.isNone_iff_eq_none]

theorem scopeOk_iff : s.scopeOk scope = true ↔
    (s.twin = true → bit scope 0 = bit scope 1 ∧ bit scope 2 = bit scope 3) := by
  unfold State.scopeOk
  cases s.twin <;> simp

/-- The submissions that succeed: the port is neither locked nor off, SCOPE names whole pairs, and RESP is the HMAC. -/
theorem trailGood_iff : s.trailGood resp scope = true ↔
    s.rp.trail.locked = false ∧ (s.twin = true → bit scope 0 = bit scope 1 ∧ bit scope 2 = bit scope 3) ∧
      s.rp.dbgen = true ∧
      ∃ k, s.rp.key 1027 = some k ∧ resp = hmac k (s.rp.trail.chal ++ uidBytes ++ bytesOf scope) := by
  unfold State.trailGood
  rw [Bool.and_eq_true, Bool.and_eq_true, Bool.and_eq_true, scopeOk_iff, Bool.not_eq_true', Bool.not_eq_true',
    Bool.eq_false_iff (b := s.trailOff), Ne, trailOff_iff]
  cases s.rp.key 1027 with
  | none => simp
  | some k => simp [and_assoc, and_left_comm]

theorem trailGood_fireSource (b src : Nat) : (s.fireSource b src).trailGood resp scope = s.trailGood resp scope := by
  unfold State.trailGood State.trailOff State.scopeOk State.twin
  simp only [State.fireSource_rp, State.fireSource_itg]

/-- The Trail mailbox of Ridgepole replaced. -/
def State.putTrail (s : State) (t : Trail) : State := s.onRp fun r => { r with trail := t }

theorem keepsNoted_putTrail (t : Trail) : KeepsNoted fun s => s.putTrail t :=
  keepsNoted_of_apart (fun _ => rfl) (fun _ => rfl) (fun _ => rfl) fun _ => rfl

theorem keepsNoted_useFree (k : Nat) : KeepsNoted fun s => s.useFree k :=
  keepsNoted_of_apart (fun _ => rfl) (fun _ => rfl) (fun _ => rfl) fun _ => rfl

/-- The mailbox after a submission that succeeds. -/
def Trail.opened (r : Trail) (scope : Word) : Trail := { r with scope := scope, isOpen := true }

/-- The mailbox after a submission that fails. -/
def State.trailFailed (s : State) (scope : Word) : Trail :=
  { s.rp.trail with
    chal := freeBytes s.free 16
    scope := scope
    disabled := s.rp.trail.disabled || s.trailOff
    fails := min 3 (s.rp.trail.fails + 1)
    locked := s.rp.trail.locked || decide (min 3 (s.rp.trail.fails + 1) = 3) }

theorem trailFailed_fireSource (b src : Nat) : (s.fireSource b src).trailFailed scope = s.trailFailed scope := by
  unfold State.trailFailed State.trailOff
  simp only [State.fireSource_rp, State.fireSource_free]

theorem trailSubmit_of_good (h : s.trailGood resp (scope &&& 0xF#32) = true) :
    s.trailSubmit resp scope = (s.fireSource 4 58).putTrail (s.rp.trail.opened (scope &&& 0xF#32)) := by
  unfold State.trailSubmit
  dsimp only
  rw [if_pos (by rw [trailGood_fireSource, h]), ← State.fireSource_rp s 4 58]
  rfl

theorem trailSubmit_of_bad (h : ¬s.trailGood resp (scope &&& 0xF#32) = true) :
    s.trailSubmit resp scope = ((s.fireSource 4 58).useFree 16).putTrail (s.trailFailed (scope &&& 0xF#32)) := by
  unfold State.trailSubmit
  dsimp only
  rw [if_neg (by rw [trailGood_fireSource]; exact h), ← trailFailed_fireSource 4 58]
  rfl

/-- A submission fires source 58 beside what it makes of the mailbox. -/
theorem trailSubmit_noted_of_good (h : s.trailGood resp (scope &&& 0xF#32) = true) :
    (s.putTrail (s.rp.trail.opened (scope &&& 0xF#32))).Noted (s.trailSubmit resp scope) := by
  rw [trailSubmit_of_good h]
  exact keepsNoted_putTrail _ _ _ ⟨s.fireSource_base 4 58, s.fireSource_setup 4 58⟩

theorem trailSubmit_noted_of_bad (h : ¬s.trailGood resp (scope &&& 0xF#32) = true) :
    ((s.useFree 16).putTrail (s.trailFailed (scope &&& 0xF#32))).Noted (s.trailSubmit resp scope) := by
  rw [trailSubmit_of_bad h]
  exact keepsNoted_putTrail _ _ _ (keepsNoted_useFree 16 _ _ ⟨s.fireSource_base 4 58, s.fireSource_setup 4 58⟩)

end Submit

/-! ## The reach of a session (R181) -/

section Reach

variable {s : State} {c : CoreId}

theorem debugs_iff (hr : s.running = true) :
    s.debugs c = true ↔ s.rp.trail.isOpen = true ∧ bit s.rp.trail.scope c = true := by
  unfold State.debugs
  rw [hr, Bool.true_and, Bool.and_eq_true]

theorem not_debugs (h : s.rp.trail.isOpen = false ∨ bit s.rp.trail.scope c = false) : ¬s.debugs c = true := by
  unfold State.debugs
  rcases h with h | h <;> simp [h]

/-- Under Twin-skin the leading core of its pair stands for a core with an odd number. -/
theorem leadCore_eq : s.leadCore c = if s.twin = true ∧ c.val % 2 = 1 then Fin.ofNat 4 (c.val - 1) else c := by
  unfold State.leadCore
  simp only [Bool.and_eq_true, decide_eq_true_eq]
  refine ite_congr rfl (fun h => ?_) fun _ => rfl
  obtain ⟨twin, odd⟩ := h
  unfold haltCore
  rw [if_pos twin]
  revert odd
  revert c
  decide

theorem debug_of_closed (f : Core → Core) (h : ¬s.debugs c = true) : s.debug c f = s := if_neg h

theorem debug_of_open (f : Core → Core) (h : s.debugs c = true) : s.debug c f = s.onCore (s.leadCore c) f := if_pos h

theorem debugAccess_of_closed (reg : DebugReg) (v : Option Word) (h : ¬s.debugs c = true) :
    s.debugAccess c reg v = s := by
  cases reg with
  | word a => exact if_neg h
  | w r => exact debug_of_closed _ h
  | pc => exact debug_of_closed _ h
  | special n => exact debug_of_closed _ h

/-- A register of the core, and no word of memory, takes what the debugger writes. -/
theorem debugAccess_register {reg : DebugReg} (v : Option Word) (h : s.debugs c = true) (hw : ∀ a, reg ≠ .word a) :
    s.debugAccess c reg v = s.onCore (s.leadCore c) fun k => k.debugWrite reg v := by
  cases reg with
  | word a => exact absurd rfl (hw a)
  | w r => exact debug_of_open _ h
  | pc => exact debug_of_open _ h
  | special n => exact debug_of_open _ h

theorem debugAccess_word (a : Word) (v : Option Word) (h : s.debugs c = true) :
    s.debugAccess c (.word a) v = s.debugWord (s.leadCore c) a.toNat v := if_pos h

end Reach

theorem Core.debugWrite_of_running {k : Core} (reg : DebugReg) (v : Word) (h : k.halted = false) :
    k.debugWrite reg (some v) = k :=
  if_neg (by rw [h]; exact Bool.false_ne_true)

/-! ## Words of memory (R181) -/

section Words

variable {s u : State} {c : CoreId} {a : Nat}

/-- Core `c` is in thread code of task group 0. -/
def State.asGroup0 (s : State) (c : CoreId) : State := s.onCore c fun k => { k with task := 0x80000000#32 }

/-- Core `c` of `u` is back in the task it has in `s`. -/
def State.backToTask (s u : State) (c : CoreId) : State := u.onCore c fun k => { k with task := s.cores[c].task }

/-- An access as thread code of task group 0 leaves the core as it was, once the core is back in its task. -/
theorem backToTask_seen (h : StoreKept (s.asGroup0 c) u c) : (s.backToTask u c).cores[c].seen = s.cores[c].seen := by
  have same : u.cores[c].seen = { s.cores[c].seen with task := 0x80000000#32 } := by
    rw [h.core, State.asGroup0, onCore_same]
    rfl
  calc (s.backToTask u c).cores[c].seen = { u.cores[c].seen with task := s.cores[c].task } := by
        rw [State.backToTask, onCore_same]; rfl
    _ = s.cores[c].seen := by rw [same]; rfl

/-- A core that runs reaches no word of memory, and nothing reaches MB0. -/
theorem debugWord_of_unreached (v : Option Word) (h : s.cores[c].halted = false ∨ bankOf (s.physical a) = some 0) :
    s.debugWord c a v = s := by
  refine if_pos ?_
  rcases h with h | h
  · rw [h, Bool.not_false, Bool.true_or]
  · rw [decide_eq_true h, Bool.or_true]

theorem debugWord_condition (hk : s.cores[c].halted = true) (hb : bankOf (s.physical a) ≠ some 0) :
    ¬(!s.cores[c].halted || decide (bankOf (s.physical a) = some 0)) = true := by
  rw [hk, decide_eq_false hb]
  decide

theorem debugWord_read (hk : s.cores[c].halted = true) (hb : bankOf (s.physical a) ≠ some 0)
    (h : (s.asGroup0 c).accessible c true false a 4) :
    s.debugWord c a none = s.backToTask ((s.asGroup0 c).load c a 4).s c := by
  obtain ⟨exn, unc, -, -⟩ := load_ok (by decide) (by decide) h
  refine (if_neg (debugWord_condition hk hb)).trans ?_
  show (if (((s.asGroup0 c).load c a 4).exn.any fun x => decide (x ≠ exnMemory)) = true then s else
    (s.backToTask ((s.asGroup0 c).load c a 4).s c).reactUnc s.cores[c].pc ((s.asGroup0 c).load c a 4).unc) = _
  rw [exn, unc]
  rfl

theorem debugWord_write {v : Word} (hk : s.cores[c].halted = true) (hb : bankOf (s.physical a) ≠ some 0)
    (h : (s.asGroup0 c).storeBytes c a 4 v.toNat = ⟨u, none, [], 0⟩) :
    s.debugWord c a (some v) = s.backToTask u c := by
  refine (if_neg (debugWord_condition hk hb)).trans ?_
  show (if (((s.asGroup0 c).storeBytes c a 4 v.toNat).exn.any fun x => decide (x ≠ exnMemory)) = true then s else
    (s.backToTask ((s.asGroup0 c).storeBytes c a 4 v.toNat).s c).reactUnc s.cores[c].pc
      ((s.asGroup0 c).storeBytes c a 4 v.toNat).unc) = _
  rw [h]
  rfl

/-- The debugger's read of a word leaves the core and every byte as they were. -/
theorem debugWord_read_keeps (hk : s.cores[c].halted = true) (hb : bankOf (s.physical a) ≠ some 0)
    (h : (s.asGroup0 c).accessible c true false a 4) :
    (s.debugWord c a none).cores[c].seen = s.cores[c].seen ∧
      ∀ p, (s.debugWord c a none).seenByte p = s.seenByte p := by
  obtain ⟨-, -, kept, -⟩ := load_ok (by decide) (by decide) h
  rw [debugWord_read hk hb h]
  exact ⟨backToTask_seen (.of_plain kept), fun p => plain_seenByte kept p⟩

/-- The debugger's write of a word stores it and leaves the core as it was. -/
theorem debugWord_write_stores (v : Word) (hk : s.cores[c].halted = true) (hb : bankOf (s.physical a) ≠ some 0)
    (h : (s.asGroup0 c).storable c a 4) :
    (s.debugWord c a (some v)).cores[c].seen = s.cores[c].seen ∧
      Stored s (s.debugWord c a (some v)) a 4 v.toNat := by
  obtain ⟨u, stored, put, kept⟩ := storeBytes_ok (v := v.toNat) (by decide) (by decide) h
  rw [debugWord_write hk hb stored]
  obtain ⟨bytes, mirror, image, rest⟩ := put
  exact ⟨backToTask_seen kept, bytes, mirror, image, rest⟩

end Words

/-- Settles O40: a submission by whether it is right, and each command of the debugger by whether the session reaches
the core; a word of memory goes by an access of thread code of task group 0. That a close leaves the cores halted and
that a word goes through the halted core are readings of the model (assumptions 61 and 106). -/
theorem trailEvents : Obligations.TrailEvents := by
  unfold Obligations.TrailEvents
  intro s resp scope c reg v w r sc off right n put l k core any serves group0 word up
  have awake := State.awake_of_running up
  have lead : s.leadCore c = l := leadCore_eq
  have good : s.trailGood resp sc = true ↔ right := trailGood_iff
  have failed : s.trailFailed sc = { r with
      chal := freeBytes s.free 16, scope := sc, disabled := r.disabled || decide off
      fails := n, locked := r.locked || decide (n = 3) } := by
    rw [show decide off = s.trailOff from Bool.eq_iff_iff.2 (decide_eq_true_iff.trans trailOff_iff.symm)]
    rfl
  refine ⟨fun h => becomes_of_eq rfl ((awake _).trans (if_neg h)), fun hs h => ⟨_, rfl, ?_⟩,
    fun hs h => ⟨_, rfl, ?_⟩, becomes_of_eq rfl (awake _), fun h i hi => ?_, fun ho hc => ?_⟩
  · rw [awake, if_pos hs]
    exact (trailSubmit_noted_of_good (good.2 h)).settles s
  · rw [awake, if_pos hs, ← failed]
    exact (trailSubmit_noted_of_bad (mt good.1 h)).settles s
  · have closed := not_debugs h
    simp only [any, List.mem_cons, List.not_mem_nil, or_false] at hi
    rcases hi with rfl | rfl | rfl | rfl | rfl
    · exact becomes_of_eq rfl (if_neg closed)
    · exact becomes_of_eq rfl (debug_of_closed _ closed)
    · exact becomes_of_eq rfl (debug_of_closed _ closed)
    · exact becomes_of_eq rfl (debugAccess_of_closed _ _ closed)
    · exact becomes_of_eq rfl (debugAccess_of_closed _ _ closed)
  · have reached : s.debugs c = true := (debugs_iff up).2 ⟨ho, hc⟩
    have onLead : ∀ f : Core → Core, s.debug c f = s.onCore l f := fun f => lead ▸ debug_of_open f reached
    have register : (∀ x, reg ≠ .word x) → ∀ x, s.debugAccess c reg x = s.onCore l fun k => k.debugWrite reg x :=
      fun hw x => lead ▸ debugAccess_register x reached hw
    have access : ∀ x, s.debugAccess c (.word w) x = s.debugWord l w.toNat x := fun x =>
      lead ▸ debugAccess_word w x reached
    refine ⟨becomes_of_eq rfl ((if_pos reached).trans (congrArg State.clearIdle (onLead _))),
      becomes_of_eq rfl (onLead _), becomes_of_eq rfl (onLead _),
      fun hw => becomes_of_eq rfl (register hw none), fun hw => becomes_of_eq rfl ?_,
      fun h => ⟨becomes_of_eq rfl ?_, becomes_of_eq rfl ?_⟩, fun hk hb h => ⟨_, rfl, ?_⟩, fun hk hb h => ⟨_, rfl, ?_⟩⟩
    · refine (register hw (some v)).trans (onCore_congr ?_)
      by_cases runs : k.halted = false
      · rw [if_pos runs]
        exact Core.debugWrite_of_running reg v runs
      · rw [if_neg runs]
        have halted : k.halted = true := Bool.eq_true_of_not_eq_false runs
        cases reg with
        | w d => exact if_pos halted
        | pc => exact if_pos halted
        | special n => exact if_pos halted
        | word x => exact absurd rfl (hw x)
    · rw [access, debugWord_of_unreached none h]
    · rw [access, debugWord_of_unreached (some v) h]
    · obtain ⟨same, bytes⟩ := debugWord_read_keeps hk hb h
      rw [access, finish_cores]
      exact ⟨same, fun p => (finish_seenByte ..).trans (bytes p)⟩
    · obtain ⟨same, stored⟩ := debugWord_write_stores v hk hb h
      rw [access, finish_cores]
      exact ⟨same, stored.of_mem (finish_mem ..)⟩

end Sys2Proof.Machine

/-! # Requests that rise

The sources that a command's requests fire at its end, and the controllers that record them (R182-R184). -/

namespace Sys2Proof.Machine

open Sys2Proof

/-! ## A source that has fired -/

/-- Source `i` is pending or active at controller `b` wherever it is enabled there. -/
def State.records (s : State) (b i : Nat) : Prop :=
  bit (vget s.irq b IrqBank.reset).en i = true →
    bit (vget s.irq b IrqBank.reset).pend i = true ∨ bit (vget s.irq b IrqBank.reset).act i = true

/-- Enables and active bits are set-up. -/
theorem State.SameSetup.bank {s t : State} (h : s.SameSetup t) (b : Nat) :
    (vget t.irq b IrqBank.reset).en = (vget s.irq b IrqBank.reset).en ∧
      (vget t.irq b IrqBank.reset).act = (vget s.irq b IrqBank.reset).act := by
  have same := congrArg (fun v => vget v b IrqBank.reset.setup) h.irq
  simp only [vget_map] at same
  have en := congrArg IrqBank.en same
  have act := congrArg IrqBank.act same
  exact ⟨en, act⟩

/-- Nothing pending is taken back. -/
theorem State.SameSetup.records {s t : State} (h : s.SameSetup t) {b i : Nat} (hr : s.records b i) :
    t.records b i := by
  obtain ⟨en, act⟩ := h.bank b
  intro he
  rw [en] at he
  rw [act]
  exact (hr he).imp_left (h.pend b i)

/-- A controller that cannot set a firing pending holds the source pending or active already (R184). -/
theorem IrqBank.fire_records (q : IrqBank) {i : Nat} (hi : i < 128) (he : bit q.en i = true) :
    bit (q.fire i).pend i = true ∨ bit q.act i = true := by
  by_cases held : bit q.pend i = true ∨ bit q.act i = true
  · exact held.imp_left (IrqBank.fire_pend q i i)
  · have free : (bit q.pend i || bit q.act i) = false := by simpa using held
    left
    by_cases h56 : i = 56
    · subst h56
      rw [IrqBank.fire, if_pos rfl, IrqBank.fire56, if_pos he, if_neg (by rw [free]; decide)]
      simp [bit_setBit]
    · rw [IrqBank.fire, if_neg h56, if_pos he, if_neg (by rw [free]; decide)]
      simp [bit_setBit, hi]

theorem State.fireSource_irq (s : State) (b i : Nat) : (s.fireSource b i).irq = vmod s.irq b fun q => q.fire i := by
  unfold State.fireSource
  dsimp only
  split
  · exact State.countSys_irq ..
  · rfl

theorem fireSource_records (s : State) {b i : Nat} (hb : b < 5) (hi : i < 128) : (s.fireSource b i).records b i := by
  have fired : vget (s.fireSource b i).irq b IrqBank.reset = (vget s.irq b IrqBank.reset).fire i := by
    rw [State.fireSource_irq, vget_vmod, if_pos ⟨rfl, hb⟩]
  obtain ⟨en, act⟩ := (State.fireSource_setup s b i).bank b
  intro he
  rw [en] at he
  rw [act, fired]
  exact IrqBank.fire_records _ hi he

/-- What one step of a fold records, and every step keeps, the fold records. -/
theorem foldl_records {α : Type} {f : State → α → State} (kept : ∀ (s : State) (a : α), s.SameSetup (f s a))
    {b i : Nat} {x : α} (made : ∀ s : State, (f s x).records b i) (l : List α) (h : x ∈ l) (s : State) :
    (l.foldl f s).records b i := by
  induction l generalizing s with
  | nil => cases h
  | cons a l ih =>
    rcases List.mem_cons.1 h with rfl | later
    · exact (State.SameSetup.foldl f l kept _).records (made s)
    · exact ih later (f s a)

theorem fireMask_records (s : State) {b i : Nat} (hb : b < 5) (hi : i < 64) {m : BitVec 64} (hm : bit m i = true) :
    (s.fireMask b m).records b i := by
  have some : m ≠ 0#64 := fun e => by simp [e, bit] at hm
  rw [State.fireMask, if_neg some]
  exact foldl_records (fun s i => State.fireSource_setup s b i) (fun s => fireSource_records s hb (by omega)) _
    (List.mem_filter.2 ⟨List.mem_range.2 hi, hm⟩) s

/-- A request that has risen is recorded at its controller once the risen sources have fired (R183). -/
theorem fireRisen_records (old s : State) {b i : Nat} (hb : b < 5) (hi : i < 64) (up : bit (s.requests b) i = true)
    (down : bit (old.requests b) i = false) : (old.fireRisen s).records b i := by
  have risen : bit (s.requests b &&& ~~~(old.requests b)) i = true := by
    unfold bit at up down ⊢
    rw [BitVec.getLsbD_and, BitVec.getLsbD_not, up, down]
    simp [hi]
  have bank : b ∈ [0, 1, 2, 3, 4] := by
    simp only [List.mem_cons, List.not_mem_nil, or_false]
    omega
  exact foldl_records (f := fun t c => t.fireMask c (s.requests c &&& ~~~(old.requests c)))
    (fun t c => State.fireMask_setup t c _) (fun s => fireMask_records s hb hi risen) _ bank s

/-! ## Counters that overflow while sources fire

A lost firing is counted (R384), so that a counter's overflow may raise the request of source 46. -/

/-- Overflow bits only rise from `s` to `t`, and only those of counters. -/
structure State.Overflows (s t : State) : Prop where
  kept : ∀ i, bit s.per.cnt.ovf i = true → bit t.per.cnt.ovf i = true
  within : ∀ i, bit t.per.cnt.ovf i = true → bit s.per.cnt.ovf i = false → i < 24

namespace State.Overflows

variable {s t u : State}

theorem of_same (h : t.per.cnt.ovf = s.per.cnt.ovf) : s.Overflows t :=
  ⟨fun i hi => by rw [h]; exact hi, fun i hi lo => by rw [h, lo] at hi; cases hi⟩

theorem trans (h : s.Overflows t) (k : t.Overflows u) : s.Overflows u := by
  refine ⟨fun i hi => k.kept i (h.kept i hi), fun i hi lo => ?_⟩
  cases mid : bit t.per.cnt.ovf i with
  | true => exact h.within i mid lo
  | false => exact k.within i hi mid

theorem foldl {α : Type} {f : State → α → State} (h : ∀ (s : State) (a : α), s.Overflows (f s a)) (l : List α)
    (s : State) : s.Overflows (l.foldl f s) := by
  induction l generalizing s with
  | nil => exact of_same rfl
  | cons a l ih => exact (h s a).trans (ih _)

theorem addCount (s : State) {i : Nat} (hi : i < 24) (n : Nat) : s.Overflows (s.addCount i n) := by
  unfold State.addCount
  dsimp only
  split
  · exact of_same rfl
  · have raised : ∀ j, bit (setBit s.per.cnt.ovf i true) j = true ↔
        i = j ∧ j < 32 ∨ bit s.per.cnt.ovf j = true := fun j => by
      rw [bit_setBit]
      split <;> simp [*]
    refine ⟨fun j hj => (raised j).2 (.inr hj), fun j hj lo => ?_⟩
    rcases (raised j).1 hj with ⟨rfl, -⟩ | same
    · exact hi
    · rw [lo] at same
      cases same

theorem countRange (s : State) {lo k : Nat} (h : lo + k ≤ 24) (src n : Nat) : s.Overflows (s.countRange lo src n k) := by
  induction k with
  | zero => exact of_same rfl
  | succ k ih =>
    have before := ih (by omega)
    unfold State.countRange
    dsimp only
    split
    · exact before.trans (addCount _ (by omega) n)
    · exact before

theorem fireSource (s : State) (b i : Nat) : s.Overflows (s.fireSource b i) := by
  unfold State.fireSource
  dsimp only
  split
  · have fired : s.Overflows (s.onIrq b fun q => q.fire i) := of_same rfl
    exact fired.trans (countRange _ (show 16 + 8 ≤ 24 by decide) 21 1)
  · exact of_same rfl

theorem fireMask (s : State) (b : Nat) (m : BitVec 64) : s.Overflows (s.fireMask b m) := by
  unfold State.fireMask
  split
  · exact of_same rfl
  · exact foldl (fun s i => fireSource s b i) _ _

theorem fireRisen (old s : State) : s.Overflows (old.fireRisen s) := foldl (fun s b => fireMask s b _) _ _

end State.Overflows

/-- The counters that have not overflowed. -/
def State.unspent (s : State) : Finset Nat := (Finset.range 24).filter fun i => bit s.per.cnt.ovf i = false

theorem unspent_card_le (s : State) : s.unspent.card ≤ 24 := (Finset.card_filter_le ..).trans (Finset.card_range 24).le

/-- Where overflow bits change, one counter fewer is left. -/
theorem State.Overflows.unspent_lt {s t : State} (h : s.Overflows t) (ne : t.per.cnt.ovf ≠ s.per.cnt.ovf) :
    t.unspent.card < s.unspent.card := by
  obtain ⟨i, lo, hi⟩ : ∃ i, bit s.per.cnt.ovf i = false ∧ bit t.per.cnt.ovf i = true := by
    by_contra none
    refine ne (BitVec.eq_of_getLsbD_eq fun i _ => ?_)
    cases e : s.per.cnt.ovf.getLsbD i with
    | true => exact h.kept i e
    | false => exact Bool.eq_false_of_not_eq_true fun k => none ⟨i, e, k⟩
  refine Finset.card_lt_card (Finset.ssubset_iff_subset_ne.2 ⟨fun j hj => ?_, fun same => ?_⟩)
  · obtain ⟨hj, lo'⟩ := Finset.mem_filter.1 hj
    refine Finset.mem_filter.2 ⟨hj, Bool.eq_false_of_not_eq_true fun k => ?_⟩
    rw [h.kept j k] at lo'
    cases lo'
  · have mem : i ∈ s.unspent := Finset.mem_filter.2 ⟨Finset.mem_range.2 (h.within i hi lo), lo⟩
    rw [← same] at mem
    have clear := (Finset.mem_filter.1 mem).2
    rw [hi] at clear
    cases clear

/-! ## The end of a command -/

/-- Firing and counting change no request but that of an overflow. -/
theorem requests_of_base {s t : State} (h : t.base = s.base) (ovf : t.per.cnt.ovf = s.per.cnt.ovf)
    (ie : t.per.cnt.ie = s.per.cnt.ie) (b : Nat) : t.requests b = s.requests b := by
  have shared : t.sharedRequests = s.sharedRequests := by
    have e := congrArg State.sharedRequests h
    exact e
  have pin : t.per.pin = s.per.pin := by
    have e := congrArg (fun u : State => u.per.pin) h
    exact e
  have cnt : t.per.cnt.request b = s.per.cnt.request b := by
    unfold Cnt.request
    rw [ovf, ie]
  unfold State.requests
  rw [shared, pin, cnt]

/-- Every request that stands at the end and did not before is recorded: each round that does not end the firings spends
a counter. -/
theorem fireAll_records {b i : Nat} (hb : b < 5) (hi : i < 64) (n : Nat) (old s : State) (room : s.unspent.card < n)
    (up : bit ((old.fireAll s n).requests b) i = true) (down : bit (old.requests b) i = false) :
    (old.fireAll s n).records b i := by
  induction n generalizing old s with
  | zero => cases room
  | succ n ih =>
    have grows := State.Overflows.fireRisen old s
    unfold State.fireAll at up ⊢
    dsimp only at up ⊢
    split at up
    · next settled =>
      rw [if_pos settled]
      rw [requests_of_base (State.fireRisen_base ..) settled (State.fireRisen_setup s old).ie] at up
      exact fireRisen_records old s hb hi up down
    · next moved =>
      rw [if_neg moved]
      cases mid : bit (s.requests b) i with
      | true => exact (State.fireAll_setup ..).records (fireRisen_records old s hb hi mid down)
      | false => exact ih s _ (by have := grows.unspent_lt moved; omega) up mid

theorem finish_records (old s : State) {b i : Nat} (hb : b < 5) (hi : i < 64) (warm : (finish old s).rp.mode ≠ .cold)
    (up : bit ((finish old s).requests b) i = true) (down : bit (old.requests b) i = false) :
    (finish old s).records b i := by
  have mode : (old.housekeep (s.dropPortA old)).rp.mode = (finish old s).rp.mode := by
    have e := congrArg (fun u : State => u.rp.mode) ((State.housekeep_core0 old _).trans (State.dropPortA_core0 old s))
    exact e.trans (finish_rp_mode old s).symm
  unfold finish at up ⊢
  dsimp only at up ⊢
  rw [if_neg (by rw [mode]; exact warm)] at up ⊢
  exact fireAll_records hb hi 25 old _ (Nat.lt_succ_of_le (unspent_card_le _)) up down

/-- Settles O60: every command ends by firing the requests that have risen since it began, until no lost firing makes a
counter overflow. That a source fires at the rise is the model's reading (assumption 41). -/
theorem risenRequestIsRecorded : Obligations.RisenRequestIsRecorded := by
  intro s t i b src e warm en up down
  obtain ⟨u, hu⟩ := exec_finishes i s
  cases hu.symm.trans e
  have recorded := finish_records s u b.isLt src.isLt warm up down
  unfold State.records at recorded
  rw [vget_getElem _ b.isLt] at recorded
  exact recorded en

end Sys2Proof.Machine

/-! # Banks of bits

A register bank kept as one vector of bits, word by word, and the masks of R188, R202 and R207. -/

namespace Sys2Proof.Machine

open Sys2Proof

theorem bit_setWord32 {m : Nat} (v : BitVec m) (n : Nat) (w : Word) {i : Nat} (hi : i < m) :
    bit (setWord32 v n w) i = if i / 32 = n then bit w (i % 32) else bit v i := by
  unfold bit setWord32
  simp only [BitVec.getLsbD_or, BitVec.getLsbD_and, BitVec.getLsbD_not, BitVec.getLsbD_shiftLeft, BitVec.getLsbD_setWidth,
    BitVec.getLsbD_allOnes]
  by_cases h : i / 32 = n
  · have above : ¬i < 32 * n := by omega
    have within : i - 32 * n < m ∧ i - 32 * n < 32 := by omega
    have place : i - 32 * n = i % 32 := by omega
    rw [if_pos h]
    simp [hi, above, within, ← place]
  · have outside : i < 32 * n ∨ ¬i - 32 * n < 32 := by omega
    rw [if_neg h]
    rcases outside with below | far
    · simp [hi, below]
    · simp [hi, far, BitVec.getLsbD_of_ge w _ (Nat.not_lt.1 far)]

theorem bit_word32 {m : Nat} (v : BitVec m) (n : Nat) {k : Nat} (hk : k < 32) :
    bit (word32 v n) k = bit v (32 * n + k) := by
  simp [bit, word32, hk]

/-- The sum of distinct powers of two has the bits that are summed. -/
theorem testBit_foldl_powers {l : List Nat} (h : l.SortedLT) (k : Nat) :
    (l.foldl (fun m k => m + 2 ^ k) 0).testBit k = true ↔ k ∈ l := by
  have sum : l.foldl (fun m k => m + 2 ^ k) 0 = (l.map fun k => 2 ^ k).sum := by
    rw [List.sum_eq_foldl, List.foldl_map]
  rw [sum, ← Nat.mem_bitIndices, Nat.bitIndices_sum_map_two_pow h]

theorem bit_maskOf (n : Nat) (p : Nat → Bool) {k : Nat} (hk : k < 32) : bit (maskOf n p) k = p (32 * n + k) := by
  have sorted : (indices 32 fun k => p (32 * n + k)).SortedLT := (List.pairwise_lt_range.filter _).sortedLT
  apply Bool.eq_iff_iff.2
  unfold bit maskOf
  rw [BitVec.getLsbD_ofNat, decide_eq_true hk, Bool.true_and, testBit_foldl_powers sorted]
  simp [indices, hk]

end Sys2Proof.Machine

/-! # Rows of the Guyline router -/

namespace Sys2Proof.Machine

open Sys2Proof

/-! ## The say over channels and consumers (R200, R202, R207) -/

section Say

variable (e : Evt) (a : Agent)

/-- An owner has the say over a consumer that names no channel or one of its own. -/
theorem Evt.mayTouch_iff (o k : Nat) :
    e.mayTouch o k = true ↔ (bit (vget e.cons k 0#32) 6 = true → e.owner (bits (vget e.cons k 0#32) 0 6) = o) := by
  unfold Evt.mayTouch Evt.consOwner Evt.names
  cases h : bit (vget e.cons k 0#32) 6 with
  | false => simp [h]
  | true => simp [h]

/-- A core writes what its consumer governs where it has the say over the consumer, and Ridgepole anywhere. -/
theorem Evt.mayWrite_iff (k : Nat) (ha : a ≠ .host) :
    e.mayWrite a k = true ↔ a = .ridgepole ∨ e.mayTouch (ownerOf a) k = true := by
  cases a with
  | core c => exact (or_iff_right nofun).symm
  | ridgepole => exact iff_of_true rfl (.inl rfl)
  | host => exact absurd rfl ha

theorem bit_firedMask (n : Nat) {k : Nat} (hk : k < 32) :
    bit (e.firedMask a n) k = decide (e.owner (32 * n + k) = ownerOf a) :=
  bit_maskOf n (fun i => decide (e.owner i = ownerOf a)) hk

theorem bit_covrMask (n : Nat) {k : Nat} (hk : k < 32) :
    bit (e.covrMask a n) k = e.mayTouch (ownerOf a) (32 * n + k) :=
  bit_maskOf n (fun i => e.mayTouch (ownerOf a) i) hk

end Say

/-- A bit of a word whose ones written clear what the mask `m` allows (R2). -/
theorem bit_writeW1C (m w v : Word) {k : Nat} (hk : k < 32) :
    bit (writeW1C m w v) k = (bit w k && !(bit v k && bit m k)) := by
  simp [bit, writeW1C, hk]

/-- A word of a bank of flags whose ones written clear the flags that `p` allows. -/
theorem bit_clearWord {m : Nat} (f : BitVec m) (n : Nat) (v : Word) {k : Word} {p : Nat → Bool}
    (hk : ∀ j < 32, bit k j = p (32 * n + j)) {i : Nat} (hi : i < m) :
    bit (setWord32 f n (writeW1C k (word32 f n) v)) i = true ↔
      bit f i = true ∧ ¬(i / 32 = n ∧ bit v (i % 32) = true ∧ p i = true) := by
  rw [bit_setWord32 _ _ _ hi]
  by_cases h : i / 32 = n
  · have low : i % 32 < 32 := Nat.mod_lt _ (by decide)
    have place : 32 * n + i % 32 = i := by omega
    rw [if_pos h, bit_writeW1C _ _ _ low, bit_word32 _ _ low, hk _ low, place]
    simp only [h, true_and, Bool.and_eq_true, Bool.not_eq_true', Bool.and_eq_false_iff, not_and, Bool.not_eq_true]
    cases bit v (i % 32) <;> simp
  · rw [if_neg h]
    simp [h]

/-! ## Where a write of EVT lands (R207) -/

section Offsets

variable (e : Evt) (a : Agent) (v : Word)

theorem evtWrite_cons (n : Fin 96) : e.write a (0x200 + 4 * n) v = e.writeCons a n v := by
  have place : (0x200 + 4 * n.val - 0x200) / 4 = n := by omega
  unfold Evt.write
  rw [if_neg (by omega), if_neg (by omega), if_neg (by omega), if_neg (by omega), if_pos (by omega), place]

theorem evtWrite_ch (n : Fin 64) : e.write a (0x100 + 4 * n) v = e.writeCh a n v := by
  have place : (0x100 + 4 * n.val - 0x100) / 4 = n := by omega
  unfold Evt.write
  rw [if_neg (by omega), if_neg (by omega), if_neg (by omega), if_pos (by omega), place]

theorem evtWrite_trel (n : Fin 16) : e.write a (0x380 + 4 * n) v =
    if e.mayWrite a (64 + n) then { e with trel := e.trel.set n (v &&& 0x3F#32) } else e.refuse := by
  have place : (0x380 + 4 * n.val - 0x380) / 4 = n := by omega
  have bank : ∀ x, vset e.trel n x = e.trel.set n x := fun x => dif_pos n.isLt
  unfold Evt.write
  rw [if_neg (by omega), if_neg (by omega), if_neg (by omega), if_neg (by omega), if_neg (by omega), if_pos (by omega)]
  simp only [place, bank]

theorem evtWrite_pout (n : Fin 8) : e.write a (0x3C0 + 4 * n) v =
    if e.mayWrite a (80 + n) then { e with pout := e.pout.set n (v &&& 0x37F#32) } else e.refuse := by
  have place : (0x3C0 + 4 * n.val - 0x3C0) / 4 = n := by omega
  have bank : ∀ x, vset e.pout n x = e.pout.set n x := fun x => dif_pos n.isLt
  unfold Evt.write
  rw [if_neg (by omega), if_neg (by omega), if_neg (by omega), if_neg (by omega), if_neg (by omega),
    if_neg (by omega), if_pos (by omega)]
  simp only [place, bank]

theorem evtWrite_fired (n : Fin 2) : e.write a (0x10 + 4 * n) v =
    { e with fired := setWord32 e.fired n (writeW1C (e.firedMask a n) (word32 e.fired n) v) } := by
  have place : (0x10 + 4 * n.val - 0x10) / 4 = n := by omega
  unfold Evt.write
  rw [if_neg (by omega), if_pos (by omega)]
  simp only [place]

theorem evtWrite_covr (n : Fin 3) : e.write a (0x20 + 4 * n) v =
    { e with covr := setWord32 e.covr n (writeW1C (e.covrMask a n) (word32 e.covr n) v) } := by
  have place : (0x20 + 4 * n.val - 0x20) / 4 = n := by omega
  unfold Evt.write
  rw [if_neg (by omega), if_neg (by omega), if_pos (by omega)]
  simp only [place]

/-- EVT_CONSn takes a value where the writer has the say over the consumer and owns the channel that it is to name
(R200). -/
theorem writeCons_taken (n : Fin 96) (ha : a ≠ .host) (say : a = .ridgepole ∨ e.mayTouch (ownerOf a) n = true)
    (own : a = .ridgepole ∨ bit v 6 = false ∨ e.owner (bits v 0 6) = ownerOf a) :
    e.writeCons a n v = { e with cons := e.cons.set n (v &&& 0x7F#32) } := by
  have bank : vset e.cons n (v &&& 0x7F#32) = e.cons.set n (v &&& 0x7F#32) := dif_pos n.isLt
  unfold Evt.writeCons
  cases a with
  | core c =>
    have touch : e.mayTouch c n = true := say.resolve_left nofun
    have names : bit v 6 = false ∨ e.owner (bits v 0 6) = c := own.resolve_left nofun
    dsimp only
    rw [if_pos (by simpa [touch] using names), bank]
  | ridgepole => exact congrArg (fun c => { e with cons := c }) bank
  | host => exact absurd rfl ha

theorem writeCons_refused (n : Fin 96) (ha : a ≠ .host) (h : ¬((a = .ridgepole ∨ e.mayTouch (ownerOf a) n = true) ∧
    (a = .ridgepole ∨ bit v 6 = false ∨ e.owner (bits v 0 6) = ownerOf a))) : e.writeCons a n v = e.refuse := by
  cases a with
  | core c => exact if_neg fun k => h (by simpa [ownerOf, and_comm] using k)
  | ridgepole => exact absurd ⟨.inl rfl, .inl rfl⟩ h
  | host => exact absurd rfl ha

/-- EVT_CHn_CFG takes PROD and EN from its channel's owner among the cores (R200). -/
theorem writeCh_taken (n : Fin 64) (c : CoreId) (h : e.owner n = c) : e.writeCh (.core c) n v =
    { e with ch := e.ch.set n ((e.ch[n] &&& 0xFFFFFE00#32) ||| (v &&& 0x1FF#32)) } := by
  have bank : vmod e.ch n (fun w => writeRW 0x1FF#32 w v) =
    e.ch.set n ((e.ch[n] &&& 0xFFFFFE00#32) ||| (v &&& 0x1FF#32)) := vmod_fin ..
  unfold Evt.writeCh
  dsimp only
  rw [if_pos h, bank]

/-- Ridgepole writes every field of EVT_CHn_CFG but the reserved owners (R207). -/
theorem writeCh_ridgepole (n : Fin 64) : e.writeCh .ridgepole n v =
    { e with ch := e.ch.set n ((if bits v 12 3 = 5 ∨ bits v 12 3 = 6 then setBits v 12 3 7 else v) &&& 0xF1FF#32) } :=
  congrArg (fun c => { e with ch := c }) (dif_pos n.isLt)

end Offsets

/-! ## Rows of the router -/

section Rows

variable {s : State} {a : Agent} {v : Word} {i : Instr}

theorem writes_not_host {o : Nat} (hw : s.writes a o v) : a ≠ .host := by
  rintro rfl
  exact hw

/-- A write of EVT that takes effect at once makes of the router what the block's own write makes. -/
theorem evtRow {r : Nat} {q : Evt} (hw : s.writes a (ioEvt + r) v) (hr : r < 0x1000) (h8 : r ≠ 8)
    (hi : exec i s = .next (finish s (s.rowWrite a (ioEvt + r) none v))) (e : s.per.evt.write a r v = q) :
    s.becomes i (s.onEvt fun _ => q) :=
  rowWrite_becomes hw hi ((directWrite_evt s a v hr h8).trans (congrArg (fun q => s.onEvt fun _ => q) e))

theorem directWrite_swfire (s : State) (a : Agent) (v : Word) : s.directWrite a (ioEvt + 8) v = s.swFire a v := rfl

/-- A software fire is on its way to its channel at the end of the command (R197, R203). -/
theorem swFire_inflight (old s : State) (n : Nat) : ⟨1000 + n, 0, []⟩ ∈ (finish old (s.fire (1000 + n))).inflight := by
  have now : resyncWait (1000 + n) = 0 := by
    unfold resyncWait
    rw [if_neg (by omega)]
  have fired : (⟨1000 + n, 0, []⟩ : Flight) ∈ (s.fire (1000 + n)).inflight := by
    unfold State.fire
    rw [now]
    exact List.mem_append_right _ (List.mem_singleton.2 rfl)
  obtain ⟨q, hq, ev, left, gone⟩ := (finish_setup (s.fire (1000 + n)) old).inflight _ fired
  have none : q.gone = [] := List.eq_nil_iff_forall_not_mem.2 fun m hm => nomatch gone m hm
  cases q
  cases ev
  cases left
  cases none
  exact hq

end Rows

/-- Settles O20: a software fire by who owns the channel and what it selects, and each other register by what the
router's own write stores. -/
theorem routerRows : Obligations.RouterRows := by
  intro s a v e owner mine held open_ evt deny n
  have held_iff : ∀ k, e.mayTouch (ownerOf a) k = true ↔ held k := fun k => Evt.mayTouch_iff e (ownerOf a) k
  have say : ∀ k, open_ k ↔ a = .ridgepole ∨ e.mayTouch (ownerOf a) k = true := fun k =>
    or_congr_right (held_iff k).symm
  have write_iff : a ≠ .host → ∀ k, e.mayWrite a k = true ↔ open_ k := fun ha k =>
    (Evt.mayWrite_iff e a k ha).trans (say k).symm
  refine ⟨fun hw => ⟨fun own sel => ?_, fun h => ?_⟩, fun n hw => ?_, fun n hw => ?_,
    fun n hw => ?_, fun n hw => ?_, fun n hw => ?_, fun n hw => ?_⟩
  · have fires : s.swFire a v = s.fire (1000 + n) := if_pos ⟨sel, own⟩
    refine ⟨_, rfl, ?_, ?_⟩
    · rw [rowWrite_direct hw, directWrite_swfire, fires]
      exact finish_settles _ _
    · rw [rowWrite_direct hw, directWrite_swfire, fires]
      exact swFire_inflight s s n
  · exact rowWrite_becomes hw rfl ((directWrite_swfire s a v).trans (if_neg fun k => h ⟨k.2, k.1⟩))
  · have row : ∀ q, e.writeCons a n v = q → s.becomes (.evtConsWrite a n v) (evt q) := fun q h =>
      evtRow hw (by omega) (by omega) (by rw [← Nat.add_assoc]; rfl) ((evtWrite_cons e a v n).trans h)
    exact ⟨fun h => row _ (writeCons_taken e a v n (writes_not_host hw) ((say n).1 h.1) h.2),
      fun h => row _ (writeCons_refused e a v n (writes_not_host hw) fun k => h ⟨(say n).2 k.1, k.2⟩)⟩
  · have row : ∀ q, e.writeCh a n v = q → s.becomes (.evtChCfgWrite a n v) (evt q) := fun q h =>
      evtRow hw (by omega) (by omega) (by rw [← Nat.add_assoc]; rfl) ((evtWrite_ch e a v n).trans h)
    refine ⟨fun ha own => row _ ?_, fun ha own => row _ ?_, fun ha => row _ ?_⟩
    · cases a with
      | core c => exact writeCh_taken e v n c own
      | ridgepole => exact absurd rfl ha
      | host => exact absurd rfl (writes_not_host hw)
    · cases a with
      | core c => exact if_neg own
      | ridgepole => exact absurd rfl ha
      | host => exact absurd rfl (writes_not_host hw)
    · subst ha
      exact writeCh_ridgepole e v n
  · have row : ∀ q, e.write a (0x380 + 4 * n) v = q → s.becomes (.evtTrelWrite a n v) (evt q) := fun q h =>
      evtRow hw (by omega) (by omega) (by rw [← Nat.add_assoc]; rfl) h
    have may := write_iff (writes_not_host hw) (64 + n)
    exact ⟨fun h => row _ ((evtWrite_trel e a v n).trans (if_pos (may.2 h))),
      fun h => row _ ((evtWrite_trel e a v n).trans (if_neg (mt may.1 h)))⟩
  · have row : ∀ q, e.write a (0x3C0 + 4 * n) v = q → s.becomes (.evtPoutWrite a n v) (evt q) := fun q h =>
      evtRow hw (by omega) (by omega) (by rw [← Nat.add_assoc]; rfl) h
    have may := write_iff (writes_not_host hw) (80 + n)
    exact ⟨fun h => row _ ((evtWrite_pout e a v n).trans (if_pos (may.2 h))),
      fun h => row _ ((evtWrite_pout e a v n).trans (if_neg (mt may.1 h)))⟩
  · rw [Nat.add_assoc] at hw
    refine ⟨_, evtRow hw (by omega) (by omega) (by rw [← Nat.add_assoc]; rfl) (evtWrite_fired e a v n), fun i hi => ?_⟩
    rw [bit_clearWord e.fired n v (p := fun k => decide (e.owner k = ownerOf a)) (fun j => bit_firedMask e a n) hi,
      decide_eq_true_iff]
    rfl
  · rw [Nat.add_assoc] at hw
    refine ⟨_, evtRow hw (by omega) (by omega) (by rw [← Nat.add_assoc]; rfl) (evtWrite_covr e a v n), fun i hi => ?_⟩
    rw [bit_clearWord e.covr n v (p := fun k => e.mayTouch (ownerOf a) k) (fun j => bit_covrMask e a n) hi, held_iff]

end Sys2Proof.Machine

/-! # Rows of the interrupt controllers -/

namespace Sys2Proof.Machine

open Sys2Proof

/-! ## Words of a controller's banks -/

theorem bit_and {m : Nat} (v w : BitVec m) (i : Nat) : bit (v &&& w) i = (bit v i && bit w i) := BitVec.getLsbD_and

theorem bit_or {m : Nat} (v w : BitVec m) (i : Nat) : bit (v ||| w) i = (bit v i || bit w i) := BitVec.getLsbD_or

theorem anyBit_exists {m : Nat} (w : BitVec m) : anyBit w = true ↔ ∃ i < m, bit w i = true := by
  rw [anyBit_iff]
  refine ⟨fun ne => ?_, fun ⟨i, _, h⟩ e => by simp [e, bit] at h⟩
  by_contra none
  refine ne (BitVec.eq_of_getLsbD_eq fun i hi => ?_)
  rw [BitVec.getLsbD_zero]
  exact Bool.eq_false_of_not_eq_true fun h => none ⟨i, hi, h⟩

/-- Bit `i` of a bank lies at place `i % 32` of its word. -/
theorem word_place {i n : Nat} (h : i / 32 = n) : i % 32 < 32 ∧ 32 * n + i % 32 = i := by omega

/-! ## Where an access to IRQ lands (R189, R206) -/

section Places

variable {s : State} {a : Agent} {b off : Nat} {v : Word}

theorem irqPlace (hb : b < 5) (ho : off < 0x400) : irqBankOf (ioIrq + 0x400 * b + off) = b ∧
    (ioIrq + 0x400 * b + off - ioIrq) % 0x400 = off ∧ inRange (ioIrq + 0x400 * b + off) ioIrq 0x1400 = true := by
  refine ⟨?_, ?_, inRange_eq_true (by omega) (by omega)⟩
  · unfold irqBankOf
    omega
  · omega

theorem waymarkBlock_irq (hb : b < 5) (ho : off < 0x400) : waymarkBlock (ioIrq + 0x400 * b + off) = false := by
  have places := blockPlaces
  simp (disch := omega) only [waymarkBlock, inRange_eq_false, Bool.or_false]

theorem directWrite_irq (hb : b < 5) (ho : off < 0x400) :
    s.directWrite a (ioIrq + 0x400 * b + off) v = s.irqWrite a b off v := by
  have places := blockPlaces
  obtain ⟨bank, place, within⟩ := irqPlace hb ho
  rw [directWrite_plain s a v (waymarkBlock_irq hb ho)]
  unfold State.plainWrite
  rw [if_neg (by omega), if_neg (by omega), if_pos within, bank, place]

theorem busRead_irq (hr : s.reads a (ioIrq + 0x400 * b + off)) (hb : b < 5) (ho : off < 0x400) :
    (s.busRead a (ioIrq + 0x400 * b + off)).1 = s.irqReadEffect b off := by
  have places := blockPlaces
  obtain ⟨bank, place, within⟩ := irqPlace hb ho
  unfold State.busRead
  rw [markLive_reads hr, waymarkBlock_irq hb ho]
  dsimp only
  rw [if_neg (by decide), if_neg (by omega), if_neg (by omega), if_pos within, bank, place]

/-- A write of IRQ that takes effect at once makes of the controllers what the block's own write makes. -/
theorem irqRow_becomes {i : Instr} {u : State} (hw : s.writes a (ioIrq + 0x400 * b + off) v) (hb : b < 5) (ho : off < 0x400)
    (hi : exec i s = .next (finish s (s.rowWrite a (ioIrq + 0x400 * b + off) none v)))
    (e : s.irqWrite a b off v = u) : s.becomes i u :=
  rowWrite_becomes hw hi ((directWrite_irq hb ho).trans e)

end Places

/-- One controller rewritten. -/
theorem onIrq_eq (s : State) (b : Nat) (f : IrqBank → IrqBank) :
    s.onIrq b f = { s with irq := vset s.irq b (f (vget s.irq b IrqBank.reset)) } := by
  have bank : vmod s.irq b f = vset s.irq b (f (vget s.irq b IrqBank.reset)) := by
    unfold vmod vset vget
    split <;> rfl
  rw [State.onIrq, bank]

/-- The cores' controllers that a software interrupt reaches (R190, R191). -/
def State.swHits (s : State) (v : Word) (c : Nat) : Bool :=
  if s.twin then decide (c % 2 = 0) && (bit v c || bit v (c + 1)) else bit v c

theorem swHits_iff (s : State) (v : Word) (b : Nat) : s.swHits v b = true ↔
    if s.twin then b % 2 = 0 ∧ (bit v b = true ∨ bit v (b + 1) = true) else bit v b = true := by
  unfold State.swHits
  split
  · rw [Bool.and_eq_true, decide_eq_true_eq, Bool.or_eq_true]
  · exact Iff.rfl

section Offsets

variable {s : State} {a : Agent} {b : Nat} {v : Word}

/-- A dead bank ignores writes (R191). -/
theorem irqWrite_dead (off : Nat) (h : s.irqDead b = true) : s.irqWrite a b off v = s := if_pos h

theorem irqWrite_eoi (h : s.irqDead b = false) : s.irqWrite a b 0x08 v = s.onIrq b IrqBank.eoi :=
  if_neg (by rw [h]; decide)

theorem irqWrite_swset {k : CoreId} (h : s.irqDead b = false) : s.irqWrite (.core k) b 0x0C v =
    (indices 4 (s.swHits v)).foldl (fun s c => s.fireSource c k) s :=
  if_neg (by rw [h]; decide)

theorem irqWrite_en (n : Fin 4) (h : s.irqDead b = false) : s.irqWrite a b (0x10 + 4 * n) v = s.irqEnable b n v := by
  have place : (0x10 + 4 * n.val - 0x10) / 4 = n := by omega
  unfold State.irqWrite
  rw [if_neg (by rw [h]; decide), if_neg (by omega), if_neg (by omega), if_neg (by omega), if_neg (by omega),
    if_pos (by omega), place]

theorem irqWrite_pset (n : Fin 4) (h : s.irqDead b = false) : s.irqWrite a b (0x30 + 4 * n) v = s.irqPset a b n v := by
  have place : (0x30 + 4 * n.val - 0x30) / 4 = n := by omega
  unfold State.irqWrite
  rw [if_neg (by rw [h]; decide), if_neg (by omega), if_neg (by omega), if_neg (by omega), if_neg (by omega),
    if_neg (by omega), if_neg (by omega), if_pos (by omega), place]

theorem irqWrite_permit (n : Fin 2) (hb : b < 4) (ha : isCanvas a = false) (h : s.irqDead b = false) :
    s.irqWrite a b (0xB0 + 4 * n) v = s.irqPermit b n v := by
  have place : (0xB0 + 4 * n.val - 0xB0) / 4 = n := by omega
  unfold State.irqWrite
  rw [if_neg (by rw [h]; decide), if_neg (by omega), if_neg (by omega), if_neg (by omega), if_neg (by omega),
    if_neg (by omega), if_neg (by omega), if_neg (by omega), if_neg (by rw [if_pos hb]; omega),
    if_pos ⟨by omega, by omega, hb, ha⟩, place]

theorem irqReadEffect_lost (n : Fin 4) (h : s.irqDead b = false) : s.irqReadEffect b (0xA0 + 4 * n) =
    s.onIrq b fun q => { q with lost := vset (vset q.lost (2 * n) 0#16) (2 * n + 1) 0#16 } := by
  have place : (0xA0 + 4 * n.val - 0xA0) / 4 = n := by omega
  unfold State.irqReadEffect
  rw [if_pos ⟨by omega, by omega, h⟩, place]

theorem irqReadEffect_dead (off : Nat) (h : s.irqDead b = true) : s.irqReadEffect b off = s :=
  if_neg fun k => by
    obtain ⟨-, -, live⟩ := k
    rw [h] at live
    cases live

end Offsets

/-- An end of interrupt retires the top entry of the stack, and is an error without one (R186). -/
theorem eoi_of_empty {q : IrqBank} (h : q.stack = []) : q.eoi = { q with eoierr := true } := by
  unfold IrqBank.eoi
  split
  · rfl
  · next e => cases h.symm.trans e

theorem eoi_of_top {q : IrqBank} {e : IrqEntry} {r : List IrqEntry} (h : q.stack = e :: r) :
    q.eoi = { q with stack := r, act := setBit q.act e.src false } := by
  rw [IrqBank.eoi, h]

/-! ## Enables, pending bits and permits (R188, R206) -/

section Banks

variable (s : State) (b : Nat)

theorem mayEnable_iff (i : Nat) : s.mayEnable b i = true ↔
    if b = 4 then i < 64 else i < 4 ∨ i = 56 ∨ (i < 64 ∧ bit (vget s.irq b IrqBank.reset).permit i = true) ∨
      (64 ≤ i ∧ s.per.evt.owner (i - 64) = b) := by
  unfold State.mayEnable
  by_cases rp : b = 4
  · simp [rp]
  · by_cases fixed : i < 4 ∨ i = 56
    · simp only [if_neg rp, if_pos fixed, true_iff]
      tauto
    · by_cases shared : i < 64
      · simp only [if_neg rp, if_neg fixed, if_pos shared]
        have below : ¬64 ≤ i := by omega
        tauto
      · simp only [if_neg rp, if_neg fixed, if_neg shared, decide_eq_true_eq]
        have channel : 64 ≤ i := by omega
        tauto

/-- Enables of word `n` after a write of IRQ_ENn (R188). -/
theorem irqEnable_en (q : IrqBank) (n : Nat) (v : Word) {i : Nat} (hi : i < 128) :
    bit (setWord32 q.en n (v &&& maskOf n (s.mayEnable b))) i = true ↔
      if i / 32 = n then bit v (i % 32) = true ∧ s.mayEnable b i = true else bit q.en i = true := by
  rw [bit_setWord32 _ _ _ hi]
  split
  · next h =>
    obtain ⟨low, place⟩ := word_place h
    rw [bit_and, bit_maskOf _ _ low, place, Bool.and_eq_true]
  · exact Iff.rfl

/-- A 1 that is not permitted (R188). -/
theorem irqEnable_denied (n : Nat) (v : Word) : anyBit (v &&& ~~~(maskOf n (s.mayEnable b))) = true ↔
    ∃ i < 32, bit v i = true ∧ ¬s.mayEnable b (32 * n + i) = true := by
  rw [anyBit_exists]
  refine exists_congr fun i => and_congr_right fun hi => ?_
  have outside : bit (~~~(maskOf n (s.mayEnable b))) i = !s.mayEnable b (32 * n + i) := by
    rw [← bit_maskOf n (s.mayEnable b) hi]
    simp [bit, hi]
  rw [bit_and, outside]
  simp

end Banks

/-- Pending bits of word `n` after a write of IRQ_PSETn (R206). -/
theorem irqPset_pend (w : BitVec 128) (n : Nat) (v : Word) (p : Nat → Bool) {i : Nat} (hi : i < 128) :
    bit (setWord32 w n (word32 w n ||| (v &&& maskOf n p))) i = true ↔
      bit w i = true ∨ (i / 32 = n ∧ bit v (i % 32) = true ∧ p i = true) := by
  rw [bit_setWord32 _ _ _ hi]
  split
  · next h =>
    obtain ⟨low, place⟩ := word_place h
    rw [bit_or, bit_word32 _ _ low, bit_and, bit_maskOf _ _ low, place]
    simp [h]
  · next h => simp [h]

/-- Permits of word `n` after a write of IRQ_PERMITn (R188). -/
theorem irqPermit_permit (w : DWord) (n : Nat) (v : Word) {i : Nat} (hi : i < 64) :
    bit (setWord32 w n (v ||| maskOf n fun i => decide (i < 4) || decide (i = 56))) i = true ↔
      if i / 32 = n then bit v (i % 32) = true ∨ i < 4 ∨ i = 56 else bit w i = true := by
  rw [bit_setWord32 _ _ _ hi]
  split
  · next h =>
    obtain ⟨low, place⟩ := word_place h
    rw [bit_or, bit_maskOf _ _ low, place]
    simp
  · exact Iff.rfl

/-- An enable stays where its source's permit does (R188). -/
theorem irqPermit_en (w : BitVec 128) (p : DWord) (n : Nat) {i : Nat} (hi : i < 128) :
    bit (setWord32 w n (word32 w n &&& word32 p n)) i = true ↔
      bit w i = true ∧ (i / 32 = n → bit p i = true) := by
  rw [bit_setWord32 _ _ _ hi]
  split
  · next h =>
    obtain ⟨low, place⟩ := word_place h
    rw [bit_and, bit_word32 _ _ low, bit_word32 _ _ low, place, Bool.and_eq_true]
    simp [h]
  · next h => simp [h]

/-! ## Software interrupts (R190, R191) -/

/-- Source `k` set pending at the controllers that `p` picks. -/
def State.pendOn (s : State) (k : Nat) (p : Fin 5 → Prop) [DecidablePred p] : State :=
  { s with
    irq := Vector.ofFn fun b : Fin 5 => if p b then { s.irq[b] with pend := setBit s.irq[b].pend k true } else s.irq[b] }

theorem pendOn_setup (s : State) (k : Nat) (p : Fin 5 → Prop) [DecidablePred p] :
    (s.pendOn k p).irq.map IrqBank.setup = s.irq.map IrqBank.setup := by
  ext1 i hi
  simp only [State.pendOn, Vector.getElem_map, Vector.getElem_ofFn]
  split <;> rfl

/-- A state in which the source is pending at those controllers, where it is `s` but for firings, is one in which they have
been set so. -/
theorem pendOn_noted {s t : State} {k : Nat} {p : Fin 5 → Prop} [DecidablePred p] (h : s.Noted t)
    (made : ∀ b : Fin 5, p b → bit (vget t.irq b IrqBank.reset).pend k = true) : (s.pendOn k p).Noted t := by
  obtain ⟨base, setup⟩ := h
  refine ⟨base, setup.irq.trans (pendOn_setup s k p).symm, setup.cfg, setup.ie, fun b i hi => ?_, setup.inflight⟩
  by_cases hb : b < 5
  · have bank : vget (s.pendOn k p).irq b IrqBank.reset =
        if p ⟨b, hb⟩ then { s.irq[b] with pend := setBit s.irq[b].pend k true } else s.irq[b] := by
      rw [vget_getElem _ hb]
      exact Vector.getElem_ofFn ..
    have kept := setup.pend b i
    rw [vget_getElem s.irq hb] at kept
    rw [bank] at hi
    split at hi
    · next picked =>
      rw [bit_setBit] at hi
      split at hi
      · next same => exact same.1 ▸ made ⟨b, hb⟩ picked
      · exact kept hi
    · exact kept hi
  · rw [vget, dif_neg hb] at hi
    simp [IrqBank.reset, bit] at hi

theorem foldl_fires_noted (k : Nat) (l : List Nat) (s : State) : s.Noted (l.foldl (fun s c => s.fireSource c k) s) :=
  ⟨foldl_base _ _ (fun s c => State.fireSource_base s c k) s,
    State.SameSetup.foldl _ _ (fun s c => State.fireSource_setup s c k) s⟩

/-- A source that fires at several controllers, enabled at one of them and not active there, is pending there (R184). -/
theorem foldl_fires_pend {k : Nat} (hk : k < 128) {l : List Nat} {b : Nat} (hb : b < 5) (mem : b ∈ l) (s : State)
    (en : bit (vget s.irq b IrqBank.reset).en k = true) (act : bit (vget s.irq b IrqBank.reset).act k = false) :
    bit (vget (l.foldl (fun s c => s.fireSource c k) s).irq b IrqBank.reset).pend k = true := by
  obtain ⟨sameEn, sameAct⟩ := (foldl_fires_noted k l s).setup.bank b
  have recorded := foldl_records (f := fun s c => s.fireSource c k) (fun s c => State.fireSource_setup s c k)
    (fun s => fireSource_records s hb hk) l mem s
  refine (recorded (by rw [sameEn]; exact en)).resolve_right fun active => ?_
  rw [sameAct, act] at active
  cases active

/-! ## What a read of a loss count leaves to the end of the command -/

theorem copyRetired_of_consistent {s : State} (h : s.consistent) : s.copyRetired = s := by
  obtain ⟨store, -⟩ := h
  refine if_neg fun k => ?_
  simp only [Bool.and_eq_true, Bool.or_eq_true, decide_eq_true_eq, bne_iff_ne] at k
  obtain ⟨sb, retire⟩ := store k.1
  exact k.2.elim (· sb) (· retire)

theorem netGuard_of_consistent {s : State} (h : s.consistent) : s.netGuard = s := by
  obtain ⟨-, table⟩ := h
  refine if_neg fun k => ?_
  rw [Bool.and_eq_true] at k
  have missing := k.2
  rw [Option.isNone_iff_eq_none] at missing
  simpa [missing] using table k.1

/-- In a consistent state in which nothing retires there is nothing to settle. -/
theorem housekeep_of_consistent (old : State) {s : State} (hr : s.wdn.retiring = 0#50) (h : s.consistent) :
    old.housekeep s = s := by
  rw [State.housekeep, State.stuckNew_of_none _ _ hr, State.settleRetiring_of_none _ hr, copyRetired_of_consistent h,
    netGuard_of_consistent h]

/-- Where no request has risen, no source fires. -/
theorem fireAll_of_same {old s : State} (h : ∀ b, s.requests b = old.requests b) (n : Nat) :
    old.fireAll s (n + 1) = s := by
  have mask : ∀ b, s.requests b &&& ~~~(old.requests b) = 0#64 := fun b => by
    rw [h b]
    exact BitVec.and_not_self _
  have still : old.fireRisen s = s := by simp [State.fireRisen, mask, State.fireMask]
  unfold State.fireAll
  dsimp only
  rw [still]
  exact if_pos rfl

/-- Producers fire into the resynchronisers alone. -/
theorem fireProducers_apart (old s : State) :
    (old.fireProducers s).irq = s.irq ∧ (old.fireProducers s).per.cnt = s.per.cnt := by
  have apart : ∀ (s : State) c p, (s.fireIf c p).irq = s.irq ∧ (s.fireIf c p).per.cnt = s.per.cnt := fun s c p => by
    unfold State.fireIf
    split <;> exact ⟨rfl, rfl⟩
  have irq : ∀ (s : State) c p, (s.fireIf c p).irq = s.irq := fun s c p => (apart s c p).1
  have cnt : ∀ (s : State) c p, (s.fireIf c p).per.cnt = s.per.cnt := fun s c p => (apart s c p).2
  simp [State.fireProducers, State.fireTriggers, irq, cnt]

/-- The end of a command that raises no request leaves the controllers. -/
theorem finish_irq_of_same {old s : State} (hr : s.wdn.retiring = 0#50) (hc : s.consistent)
    (h : ∀ b, s.requests b = old.requests b) : (finish old s).irq = s.irq := by
  have kept : old.housekeep (s.dropPortA old) = s.dropPortA old := housekeep_of_consistent old hr hc
  obtain ⟨irq, cnt⟩ := fireProducers_apart old (s.dropPortA old)
  have same : ∀ b, (old.fireProducers (s.dropPortA old)).requests b = old.requests b := fun b =>
    (requests_of_base (State.fireProducers_base ..) (by rw [cnt]) (by rw [cnt]) b).trans (h b)
  unfold finish
  dsimp only
  rw [kept]
  split
  · rfl
  · rw [fireAll_of_same same]
    exact irq

/-- Settles O19: each register by what the block's own write makes of its bank, and a software interrupt by the sources that
it fires. -/
theorem interruptRows : Obligations.InterruptRows := by
  intro s a v bank put owner may hit
  have may_iff : ∀ b i, s.mayEnable b i = true ↔ may b i := fun b i => mayEnable_iff s b i
  refine ⟨fun b hb hw => ?_, fun k ha hw => ?_, fun b n => ⟨fun hw => ?_, fun hw => ?_, fun hr => ?_⟩,
    fun b n ha up => ?_⟩
  · have hb5 : b < 5 := by
      cases a with
      | core c => exact hb ▸ Nat.lt_succ_of_lt c.isLt
      | ridgepole => exact hb ▸ (by decide)
      | host => exact absurd rfl (writes_not_host hw)
    have row : ∀ u, s.irqWrite a b 0x08 v = u → s.becomes (.irqEoi a v) u := fun u e =>
      irqRow_becomes hw hb5 (by decide) (hb ▸ rfl) e
    have live : ∀ q, s.irqDead b = false → (bank b).eoi = q → s.becomes (.irqEoi a v) (put b q) := fun q hl e =>
      row _ ((irqWrite_eoi hl).trans ((onIrq_eq s b _).trans (congrArg (put b) e)))
    refine ⟨fun hd => row s (irqWrite_dead _ hd), fun hl he => live _ hl (eoi_of_empty he),
      fun e r hl he => live _ hl (eoi_of_top he)⟩
  · subst ha
    have hk : k.val < 5 := Nat.lt_succ_of_lt k.isLt
    refine ⟨fun hd => irqRow_becomes hw hk (by decide) rfl (irqWrite_dead _ hd), fun hl => ⟨_, rfl, ?_⟩⟩
    have fires : s.rowWrite (.core k) (irqBase (.core k) + 0x0C) none v =
        (indices 4 (s.swHits v)).foldl (fun s c => s.fireSource c k) s :=
      (rowWrite_direct hw).trans ((directWrite_irq hk (by decide)).trans (irqWrite_swset hl))
    have set := pendOn_noted (foldl_fires_noted k (indices 4 (s.swHits v)) s)
      (p := fun b => b.val < 4 ∧ hit b ∧ bit s.irq[b].en k = true ∧ bit s.irq[b].act k = false)
      fun b ⟨hb, hits, en, act⟩ => by
        have reached : b.val ∈ indices 4 (s.swHits v) :=
          List.mem_filter.2 ⟨List.mem_range.2 hb, (swHits_iff s v b).2 hits⟩
        refine foldl_fires_pend (by omega) b.isLt reached s ?_ ?_
        · rw [vget_getElem _ b.isLt]
          exact en
        · rw [vget_getElem _ b.isLt]
          exact act
    rw [fires]
    exact set.settles s
  · rw [Nat.add_assoc] at hw
    have row : ∀ u, s.irqWrite a b (0x10 + 4 * n) v = u → s.becomes (.irqEnWrite a b n v) u := fun u e =>
      irqRow_becomes hw b.isLt (by omega) rfl e
    refine ⟨fun hd => row s (irqWrite_dead _ hd), fun hl =>
      ⟨_, row _ ((irqWrite_en n hl).trans (onIrq_eq ..)), fun i hi => ?_, ?_, rfl⟩⟩
    · rw [irqEnable_en s b (bank b) n v hi, may_iff]
    · rw [Bool.or_eq_true, Bool.and_eq_true, decide_eq_true_eq, irqEnable_denied]
      simp only [may_iff]
      rfl
  · rw [Nat.add_assoc] at hw
    have row : ∀ u, s.irqWrite a b (0x30 + 4 * n) v = u → s.becomes (.irqPsetWrite a b n v) u := fun u e =>
      irqRow_becomes hw b.isLt (by omega) rfl e
    refine ⟨fun hd => row s (irqWrite_dead _ hd), fun hl =>
      ⟨_, row _ ((irqWrite_pset n hl).trans (onIrq_eq ..)), fun i hi => ?_, rfl⟩⟩
    rw [irqPset_pend _ n v _ hi]
    simp only [Bool.or_eq_true, Bool.and_eq_true, decide_eq_true_eq]
    rfl
  · rw [Nat.add_assoc] at hr
    have read : ∀ u, s.irqReadEffect b (0xA0 + 4 * n) = u →
        exec (.irqLostRead a b n) s = .next (finish s u) := fun u e => by
      rw [← e, ← busRead_irq hr b.isLt (by omega), ← rowRead_direct (k := none) hr, ← Nat.add_assoc]
      rfl
    refine ⟨fun hd => State.becomes_of (read s (irqReadEffect_dead _ hd)), fun hl => ?_⟩
    intro lost
    refine ⟨_, read _ ((irqReadEffect_lost n hl).trans (onIrq_eq ..)), finish_settles _ _, fun none ok => ?_⟩
    have kept := finish_irq_of_same (old := s)
      (s := put b { bank b with lost := lost }) none ok fun _ => rfl
    refine (congrArg (fun irq => (vget irq b IrqBank.reset).lost) kept).trans ?_
    dsimp only [put]
    rw [vget_vset, if_pos ⟨rfl, b.isLt⟩]
  · subst ha
    have hw : s.writes .ridgepole (ioIrq + 0x400 * b + (0xB0 + 4 * n)) v := up
    have row : ∀ u, s.irqWrite .ridgepole b (0xB0 + 4 * n) v = u → s.becomes (.irqPermitWrite .ridgepole b n v) u :=
      fun u e => irqRow_becomes hw (by omega) (by omega) rfl e
    refine ⟨fun hd => row s (irqWrite_dead _ hd), fun hl =>
      ⟨_, row _ ((irqWrite_permit n b.isLt rfl hl).trans (onIrq_eq ..)), fun i hi => ?_, fun i hi => ?_, rfl⟩⟩
    · exact irqPermit_permit _ n v hi
    · dsimp only
      rw [if_pos n.isLt]
      exact irqPermit_en _ _ n hi

end Sys2Proof.Machine

/-! # The passing of time on an empty queue

What an idle tick leaves: the queue, the counts of EVT_TIME and of the calendar clock, which each tick moves in one place,
and the mode of Ridgepole, which a wake alone changes (R197, R204, R314; assumption 12). -/

namespace Sys2Proof.Machine

open Sys2Proof

/-! ## The dials -/

/-- The queue, EVT_TIME, the count of the calendar clock, and Ridgepole's mode. -/
def State.dials (s : State) : List Instr × Word × Nat × RpMode := (s.pending, s.per.evt.time, s.per.rtc.time, s.rp.mode)

theorem eq_of_dials {s t : State} (h : t.dials = s.dials) : t.pending = s.pending ∧
    t.per.evt.time = s.per.evt.time ∧ t.per.rtc.time = s.per.rtc.time ∧ t.rp.mode = s.rp.mode := by
  simpa only [State.dials, Prod.mk.injEq] using h

theorem ite_dials (p : Prop) [Decidable p] (s t : State) : (if p then s else t).dials = if p then s.dials else t.dials :=
  apply_ite State.dials p s t

theorem foldl_dials {α : Type} {f : State → α → State} (hf : ∀ s a, (f s a).dials = s.dials) (l : List α)
    (s : State) : (l.foldl f s).dials = s.dials := by
  induction l generalizing s with
  | nil => rfl
  | cons a l ih => exact (ih _).trans (hf s a)

theorem dials_of_base {s t : State} (h : t.base = s.base) : t.dials = s.dials := by
  have e := congrArg State.dials h
  exact e

section Updates

variable (s : State)

@[simp] theorem State.onCore_dials (c : CoreId) (f : Core → Core) : (s.onCore c f).dials = s.dials := rfl
@[simp] theorem State.onWdn_dials (f : Warden → Warden) : (s.onWdn f).dials = s.dials := rfl
@[simp] theorem State.onItg_dials (f : Itg → Itg) : (s.onItg f).dials = s.dials := rfl
@[simp] theorem State.onPin_dials (f : Pin → Pin) : (s.onPin f).dials = s.dials := rfl
@[simp] theorem State.onTim_dials (n : Nat) (f : Tim → Tim) : (s.onTim n f).dials = s.dials := rfl
@[simp] theorem State.onUa_dials (n : Nat) (f : Ua → Ua) : (s.onUa n f).dials = s.dials := rfl
@[simp] theorem State.onTch_dials (f : Tch → Tch) : (s.onTch f).dials = s.dials := rfl
@[simp] theorem State.onRf_dials (f : Rf → Rf) : (s.onRf f).dials = s.dials := rfl
@[simp] theorem State.onNet_dials (f : Net → Net) : (s.onNet f).dials = s.dials := rfl
@[simp] theorem State.onHrv_dials (f : Hrv → Hrv) : (s.onHrv f).dials = s.dials := rfl
@[simp] theorem State.onCnt_dials (f : Cnt → Cnt) : (s.onCnt f).dials = s.dials := rfl
@[simp] theorem State.onTsk_dials (i : Nat) (f : TaskEntry → TaskEntry) : (s.onTsk i f).dials = s.dials := rfl
@[simp] theorem State.clearIdle_dials : s.clearIdle.dials = s.dials := rfl
@[simp] theorem State.fire_dials (p : Nat) : (s.fire p).dials = s.dials := rfl

@[simp] theorem State.countSys_dials (a n : Nat) : (s.countSys a n).dials = s.dials :=
  dials_of_base (State.countSys_base ..)

@[simp] theorem State.countCore_dials (c : CoreId) (a n : Nat) : (s.countCore c a n).dials = s.dials :=
  dials_of_base (State.countCore_base ..)

@[simp] theorem State.fireSource_dials (b i : Nat) : (s.fireSource b i).dials = s.dials :=
  dials_of_base (State.fireSource_base ..)

/-- An update of the router that leaves EVT_TIME. -/
theorem State.onEvt_dials {f : Evt → Evt} (h : ∀ e, (f e).time = e.time) : (s.onEvt f).dials = s.dials := by
  show (s.pending, (f s.per.evt).time, _, _) = s.dials
  rw [h]
  rfl

/-- An update of the calendar clock that leaves its count. -/
theorem State.onRtc_dials {f : Rtc → Rtc} (h : ∀ r, (f r).time = r.time) : (s.onRtc f).dials = s.dials := by
  show (s.pending, _, (f s.per.rtc).time, _) = s.dials
  rw [h]
  rfl

end Updates

/-! ## Timers, channels and lines -/

section Edge

variable (s : State)

@[simp] theorem State.makeReady_dials (i : Nat) (r : Readiness) (o : ReadyOrder) : (s.makeReady i r o).dials = s.dials := by
  simp [State.makeReady, ite_dials]

@[simp] theorem State.timOutput_dials (n : Nat) (c : TimCh) : (s.timOutput n c).dials = s.dials := by
  simp [State.timOutput, State.driveBall, ite_dials]

@[simp] theorem State.timRelease_dials (n k : Nat) (c : TimCh) : (s.timRelease n k c).dials = s.dials := by
  simp [State.timRelease, ite_dials]

@[simp] theorem State.timMatch_dials (n k : Nat) (late : Bool) : (s.timMatch n k late).dials = s.dials := by
  simp [State.timMatch]

@[simp] theorem State.timMatches_dials (n : Nat) (v : Word) (k : Nat) : (s.timMatches n v k).dials = s.dials := by
  induction k with
  | zero => rfl
  | succ k ih => simp [State.timMatches, ite_dials, ih]

@[simp] theorem State.timTick_dials (n : Nat) : (s.timTick n).1.dials = s.dials := by
  simp [State.timTick, State.timStepTo, apply_ite Prod.fst, ite_dials]

@[simp] theorem State.timClock_dials (n : Nat) : (s.timClock n).dials = s.dials := by
  simp [State.timClock, State.timCarry, ite_dials]

@[simp] theorem State.timLate_dials (n k : Nat) : (s.timLate n k).dials = s.dials := by
  induction k with
  | zero => rfl
  | succ k ih => simp [State.timLate, ite_dials, ih]

@[simp] theorem State.timers_dials (due : List Flight) : (s.timers due).dials = s.dials :=
  foldl_dials (fun _ _ => by simp [ite_dials]) _ _

@[simp] theorem State.timCapture_dials (n k : Nat) : (s.timCapture n k).dials = s.dials := by simp [State.timCapture]

@[simp] theorem State.pinAction_dials (n : Nat) : (s.pinAction n).dials = s.dials := by
  have denied : (s.onEvt fun e => { e with deny := true }).dials = s.dials := s.onEvt_dials fun _ => rfl
  simp [State.pinAction, State.driveBall, ite_dials, denied]

/-- A capture of the calendar clock leaves it running (R324). -/
@[simp] theorem State.consume_dials (n prod : Nat) (t : Word) (k : Nat) : (s.consume n prod t k).dials = s.dials := by
  have captured : (s.onRtc Rtc.eventCapture).dials = s.dials := s.onRtc_dials fun _ => rfl
  simp [State.consume, State.timRestart, ite_dials, captured]

@[simp] theorem State.offerConsumer_dials (n prod : Nat) (t : Word) (k : Nat) :
    (State.offerConsumer n prod t s k).dials = s.dials := by
  have overrun : (s.onEvt fun e => { e with covr := setBit e.covr k true }).dials = s.dials := s.onEvt_dials fun _ => rfl
  simp [State.offerConsumer, ite_dials, overrun]

@[simp] theorem State.fireChannel_dials (prod n : Nat) : (State.fireChannel prod s n).dials = s.dials := by
  have fired : (s.onEvt fun e => { e with fired := setBit e.fired n true }).dials = s.dials := s.onEvt_dials fun _ => rfl
  have offered : ∀ (t : State) m, ((List.range 96).foldl (State.offerConsumer n prod m) t).dials = t.dials := fun t m =>
    foldl_dials (State.offerConsumer_dials · n prod m) _ _
  simp [State.fireChannel, offered, ite_dials, fired]

@[simp] theorem State.arrive_dials (f : Flight) : (s.arrive f).dials = s.dials :=
  foldl_dials (fun t n => State.fireChannel_dials t _ n) _ _

@[simp] theorem State.txBegin_dials : s.txBegin.dials = s.dials := by simp [State.txBegin, ite_dials]

@[simp] theorem State.wdogTick_dials : s.wdogTick.dials = s.dials := by
  unfold State.wdogTick
  split <;> rfl

@[simp] theorem State.touchResume_dials : s.touchResume.dials = s.dials := by simp [State.touchResume, ite_dials]

@[simp] theorem State.uaReceive_dials (n : Nat) (c : UaChar) : (s.uaReceive n c).dials = s.dials := by
  simp [State.uaReceive, ite_dials]

@[simp] theorem State.uaIdle_dials (n : Nat) : (s.uaIdle n).dials = s.dials := by simp [State.uaIdle, ite_dials]

@[simp] theorem State.uaTake_dials (n pos : Nat) (l : Bool) : (s.uaTake n pos l).dials = s.dials := by
  simp [State.uaTake, ite_dials]

@[simp] theorem State.uaSample_dials (n : Nat) : (s.uaSample n).dials = s.dials := by
  simp [State.uaSample, State.uaWithin, State.uaSeek, State.uaBegin, ite_dials]

@[simp] theorem State.uaClock_dials (n : Nat) : (s.uaClock n).dials = s.dials := by simp [State.uaClock, ite_dials]

@[simp] theorem State.lines_dials : s.lines.dials = s.dials := foldl_dials (fun t n => State.uaClock_dials t n) _ _

@[simp] theorem State.timEdge_dials (b : Nat) (rise : Bool) (k : Nat) : (s.timEdge b rise k).dials = s.dials := by
  induction k with
  | zero => rfl
  | succ k ih => simp [State.timEdge, ite_dials, ih]

@[simp] theorem State.ballEdge_dials (b : Nat) (rise : Bool) : (s.ballEdge b rise).dials = s.dials := by
  simp [State.ballEdge, ite_dials]

@[simp] theorem State.resyncBalls_dials (k : Nat) : (s.resyncBalls k).dials = s.dials := by
  induction k with
  | zero => rfl
  | succ k ih => simp [State.resyncBalls, ite_dials, ih]

@[simp] theorem State.idleCore_dials (n : Nat) (c : CoreId) : (s.idleCore n c).dials = s.dials := by
  simp [State.idleCore, State.delay, ite_dials]

end Edge

/-- EVT_TIME counts a PCLK edge, and what else the edge does leaves the dials (R197, R204). -/
theorem edge_dials (s : State) : s.edge.dials = (s.onEvt fun e => { e with time := e.time + 1#32 }).dials := by
  have arrived : ∀ (l : List Flight) (t : State),
      (l.foldl (fun (s : State) (f : Flight) => s.arrive f) t).dials = t.dials := foldl_dials State.arrive_dials
  have cores : ∀ (l : List CoreId) n (t : State),
      (l.foldl (fun (s : State) (c : CoreId) => s.idleCore n c) t).dials = t.dials :=
    fun l n => foldl_dials (State.idleCore_dials · n) l
  simp only [State.edge, State.resync, State.pclk, State.resyncBalls_dials, State.lines_dials, State.touchResume_dials,
    State.wdogTick_dials, State.txBegin_dials, arrived, State.timers_dials, cores, State.countSys_dials]
  rfl

theorem edge_pending (s : State) : s.edge.pending = s.pending := by
  obtain ⟨pending, -⟩ := eq_of_dials (edge_dials s)
  exact pending

theorem edge_time (s : State) : s.edge.per.evt.time = s.per.evt.time + 1#32 := by
  obtain ⟨-, time, -⟩ := eq_of_dials (edge_dials s)
  exact time

/-! ## The Porch tick -/

/-- From `s` to `t` the queue and the calendar's count stay, and so do EVT_TIME and the mode, unless a wake has reset the
device. -/
structure Endures (s t : State) : Prop where
  pending : t.pending = s.pending
  rtc : t.per.rtc.time = s.per.rtc.time
  clock : t.rp.mode = .cold ∨ (t.rp.mode = s.rp.mode ∧ t.per.evt.time = s.per.evt.time)

namespace Endures

variable {s t u : State}

theorem of_dials (h : t.dials = s.dials) : Endures s t := by
  obtain ⟨pending, time, rtc, mode⟩ := eq_of_dials h
  exact ⟨pending, rtc, .inr ⟨mode, time⟩⟩

theorem refl (s : State) : Endures s s := of_dials rfl

theorem trans (h : Endures s t) (k : Endures t u) : Endures s u := by
  refine ⟨k.pending.trans h.pending, k.rtc.trans h.rtc, ?_⟩
  rcases k.clock with cold | ⟨mode, time⟩
  · exact .inl cold
  · rw [mode, time]
    exact h.clock

theorem ite {p : Prop} [Decidable p] (h : Endures s t) (k : Endures s u) : Endures s (if p then t else u) := by
  split
  · exact h
  · exact k

theorem foldl {α : Type} {f : State → α → State} (h : ∀ s a, Endures s (f s a)) (l : List α) (s : State) :
    Endures s (l.foldl f s) := by
  induction l generalizing s with
  | nil => exact refl s
  | cons a l ih => exact (h s a).trans (ih _)

/-- The reset of a wake keeps the calendar (R328). -/
theorem wakeReset (s : State) (w : Word) : Endures s (s.deviceReset 8#32 w) := ⟨rfl, rfl, .inl rfl⟩

theorem wake (s : State) (k pin : Nat) (rise : Bool) : Endures s (s.wake k pin rise) := by
  unfold State.wake
  split
  · exact refl s
  · split
    · exact ite (of_dials rfl) (refl s)
    · exact ite (wakeReset s _) (ite (of_dials rfl) (refl s))

theorem fireAwake (s : State) (p : Nat) : Endures s (s.fireAwake p) := ite (of_dials rfl) (refl s)

theorem alarmFires (s : State) (n : Nat) : Endures s (s.alarmFires n) := by
  have flagged : Endures s (s.onRtc fun r => { r with stat := setBit r.stat n true }) :=
    of_dials (s.onRtc_dials fun _ => rfl)
  exact ite ((flagged.trans (fireAwake ..)).trans (wake ..)) (refl s)

theorem periodicFires (s : State) (n : Nat) : Endures s (s.periodicFires n) := by
  have flagged : Endures s (s.onRtc fun r => { r with stat := setBit r.stat 2 true }) :=
    of_dials (s.onRtc_dials fun _ => rfl)
  exact ite ((flagged.trans (fireAwake ..)).trans (wake ..)) (refl s)

theorem rtcEvents (s : State) (old : Rtc) : Endures s (s.rtcEvents old) := by
  have alarm : ∀ (t : State) b n, Endures t (if b = true then t.alarmFires n else t) := fun t b n =>
    ite (alarmFires t n) (refl t)
  have periodic : ∀ (t : State) b n, Endures t (if b = true then t.periodicFires n else t) := fun t b n =>
    ite (periodicFires t n) (refl t)
  exact ((((alarm s _ 0).trans (alarm _ _ 1)).trans (periodic _ _ 0)).trans (periodic _ _ 1)).trans (periodic _ _ 2)

theorem debounce (s : State) (b : Nat) : Endures s (s.debounce b) := by
  have noted : ∀ f : Pwr → Pwr, Endures s (s.onPwr f) := fun f => of_dials rfl
  unfold State.debounce
  split
  · exact refl s
  · exact ite ((noted _).trans (wake ..)) (noted _)

theorem debounceAll (s : State) : Endures s s.debounceAll := foldl debounce _ s

theorem touchTick (s : State) : Endures s s.touchTick := ite (of_dials rfl) (refl s)

theorem discardQueue (s : State) : Endures s s.discardQueue := ite (of_dials rfl) (refl s)

theorem powerOffEmpty (s : State) : Endures s s.powerOffEmpty := by
  unfold State.powerOffEmpty
  exact ite (refl s) (of_dials rfl)

theorem abandon (s : State) : Endures s s.abandon := by
  unfold State.abandon
  split
  · exact refl s
  · next m _ =>
    have dropped : Endures s ((s.flushLook (s.migObject m)).onWdn fun w =>
        { w with mig := none, stat := setBit w.stat 2 true }) := of_dials rfl
    exact dropped.trans (powerOffEmpty _)

/-- The Strike of an entry begins, and stops the bus alone (R10). -/
theorem idleExpire (s : State) : Endures s s.idleExpire := (abandon s).trans (of_dials rfl)

theorem idleTick (s : State) : Endures s s.idleTick := by
  have noted : ∀ (t : State) (f : Pwr → Pwr), Endures t (t.onPwr f) := fun t f => of_dials rfl
  unfold State.idleTick
  refine ite (refl s) ((discardQueue s).trans ?_)
  exact ite (noted _ _) (ite ((noted _ _).trans (ite (refl _) (idleExpire _))) (noted _ _))

end Endures

theorem onRtc_onRtc (s : State) (f g : Rtc → Rtc) : (s.onRtc f).onRtc g = s.onRtc fun r => g (f r) := rfl

theorem onRtc_id (s : State) : s.onRtc id = s := rfl

/-- The calendar clock takes its tick first, and what the tick leads to leaves the count; a clock with no step due counts
(R314, R318). -/
theorem rtcTick_endures (s : State) : ∃ f : Rtc → Rtc, Endures (s.onRtc f) s.rtcTick ∧
    (s.per.rtc.stepDue = false → f = fun r => r.settleMode.count) := by
  have settled := onRtc_onRtc s Rtc.settleMode
  unfold State.rtcTick
  dsimp only
  split
  · next h =>
    rw [Bool.and_eq_true] at h
    have due : s.per.rtc.stepDue = true := h.1
    rw [if_pos h.1, settled]
    exact ⟨_, .refl _, fun none => nomatch due.symm.trans none⟩
  · split
    · next due =>
      rw [settled, onRtc_onRtc]
      exact ⟨_, .rtcEvents _ _, fun none => nomatch due.symm.trans none⟩
    · rw [settled]
      exact ⟨_, .rtcEvents _ _, fun _ => rfl⟩

theorem porchTick_endures (s : State) : ∃ f : Rtc → Rtc, Endures (s.onRtc f) s.porchTick ∧
    (s.per.rtc.stepDue = false → f = fun r => r.settleMode.count) := by
  let u := (if s.running then s.countSys 3 1 else s).onNet fun n => { n with sinceCorr := n.sinceCorr + 1 }
  have dials : u.dials = s.dials := by simp [u, ite_dials]
  have rtc : u.per.rtc = s.per.rtc := by
    show (if s.running then s.countSys 3 1 else s).per.rtc = _
    split <;> simp
  obtain ⟨f, ticked, counts⟩ := rtcTick_endures u
  have before : Endures (s.onRtc f) (u.onRtc f) := by
    obtain ⟨pending, -, clock⟩ := Endures.of_dials dials
    exact ⟨pending, congrArg (fun r => (f r).time) rtc, clock⟩
  exact ⟨f, (((before.trans ticked).trans (.debounceAll _)).trans (.touchTick _)).trans (.idleTick _),
    fun none => counts (by rw [rtc]; exact none)⟩

/-- A clock that is neither trimmed nor slewed counts one tick (R314, R320, R321). -/
theorem count_time {r : Rtc} (mode : r.mode = false) (trim : bits r.trim 0 12 = 0) (acc : r.trimAcc < 2 ^ 23)
    (slew : bits r.slew 0 22 = 0) : r.count.time = (r.time + 1) % 2 ^ 63 := by
  have trimStep : r.trimStep = (0, r.trimAcc) := by
    unfold Rtc.trimStep
    simp only [sbits, trim]
    rw [if_neg (by simpa using acc)]
    rfl
  have amt : r.amt = 0 := by
    unfold Rtc.amt
    simp only [sbits, slew]
    rfl
  have slewStep : r.slewStep = (0, r) := if_pos amt
  unfold Rtc.count
  simp only [trimStep, slewStep, mode]
  rfl

/-! ## An idle step -/

theorem step_of_empty {s : State} (h : s.pending = []) : step s = .next s.idle := by
  unfold step
  rw [h]

/-- Settles O55: while the core domain runs, the edge counts EVT_TIME, and a Porch tick that falls with it leaves the count;
otherwise the Porch tick counts the calendar. That this is what an empty queue does is the model's choice (assumption 12). -/
theorem emptyQueuePassesTime : Obligations.EmptyQueuePassesTime := by
  intro s r hq
  refine ⟨fun runs => ⟨_, step_of_empty hq, ?_⟩,
    fun stops noStep noMode mode trim acc slew => ⟨_, step_of_empty hq, ?_⟩⟩
  · obtain ⟨f, ticks⟩ : ∃ f, Endures (s.edge.onRtc f)
        (if s.edge.per.evt.time.toNat % 675 = 0 then s.edge.porchTick else s.edge) := by
      obtain ⟨f, porch, -⟩ := porchTick_endures s.edge
      split
      · exact ⟨f, porch⟩
      · refine ⟨id, ?_⟩
        rw [onRtc_id]
        exact .refl _
    have idle : s.idle = finish s (if s.edge.per.evt.time.toNat % 675 = 0 then s.edge.porchTick else s.edge) := if_pos runs
    rw [idle, finish_pending, finish_rp_mode, finish_per_evt, ticks.pending, State.onRtc_pending, edge_pending]
    refine ⟨hq, fun warm => ?_⟩
    rw [(ticks.clock.resolve_left warm).2, State.onRtc_per_evt, edge_time]
  · obtain ⟨f, ticks, counts⟩ := porchTick_endures s
    have idle : s.idle = finish s s.porchTick := if_neg (by rw [stops]; decide)
    have settled : r.settleMode.mode = false := by
      show (r.mode != r.modeDue) = false
      rw [mode, noMode]
      rfl
    rw [idle, finish_pending, finish_per_rtc, ticks.pending, ticks.rtc, counts noStep]
    exact ⟨hq, count_time (r := r.settleMode) settled trim acc slew⟩

end Sys2Proof.Machine

/-! # Rows of the touch panel and the radio -/

namespace Sys2Proof.Machine

open Sys2Proof

/-! ## TCH_CMD (R352, R353, R356-R358) -/

section Panel

variable (t : Tch) (p : Pin)

/-- START does nothing while a scan runs or scanning is off. -/
theorem writeCmd_start_ignored (h : bits t.ctl 0 2 = 0 ∨ t.scan ≠ none) : t.writeCmd p 1#32 = t := by
  have idle : ¬(bit 1#32 0 = true ∧ t.mode ≠ 0 ∧ t.scan.isNone = true) := fun ⟨_, mode, scan⟩ =>
    h.elim mode fun running => running (Option.isNone_iff_eq_none.1 scan)
  exact if_neg idle

/-- START is a request for a scan where none runs. -/
theorem writeCmd_start_requests (mode : bits t.ctl 0 2 ≠ 0) (scan : t.scan = none) :
    t.writeCmd p 1#32 = t.request p false :=
  if_pos (c := bit 1#32 0 = true ∧ t.mode ≠ 0 ∧ t.scan.isNone = true)
    ⟨rfl, mode, Option.isNone_iff_eq_none.2 scan⟩

theorem writeCmd_rebase : t.writeCmd p 2#32 = t.askRebase 0x1FFFFFF#25 := by
  have noStart : ¬bit 2#32 0 = true := nofun
  unfold Tch.writeCmd
  exact if_neg fun ⟨start, _⟩ => noStart start

/-- A request waits for what holds the scan. -/
theorem request_held (h : t.susp = true ∨ (bit t.sync 0 = true ∧ t.free = false)) :
    t.request p false = { t with due := true } := by
  refine if_neg fun starts => ?_
  simp only [Tch.synced, syncOn, Bool.and_eq_true, Bool.not_eq_true'] at starts
  rcases h with susp | ⟨sync, free⟩
  · simp [susp] at starts
  · simp [sync, free] at starts

theorem request_starts (scan : t.scan = none) (h : ¬(t.susp = true ∨ (bit t.sync 0 = true ∧ t.free = false))) :
    t.request p false = { t with due := true }.startScan p false := by
  rw [not_or, not_and, Bool.not_eq_true, Bool.not_eq_false] at h
  obtain ⟨susp, sync⟩ := h
  refine if_pos ?_
  simp only [Tch.synced, syncOn, scan, susp]
  cases on : bit t.sync 0 with
  | false => rfl
  | true => simp [sync on]

theorem bit_allOnes (k : Fin 25) : bit 0x1FFFFFF#25 k = true := by
  revert k
  decide

/-- A request for every channel is noted in each electrode. -/
theorem askRebase_all (scan : t.scan = none) :
    t.askRebase 0x1FFFFFF#25 = { t with el := t.el.map fun e => { e with rebase := true } } := by
  have every : (Vector.ofFn fun k : Fin 25 => { t.el[k] with rebase := t.el[k].rebase || bit 0x1FFFFFF#25 k }) =
      t.el.map fun e => { e with rebase := true } := by
    ext k hk : 1
    have all := bit_allOnes ⟨k, hk⟩
    simp only [Vector.getElem_ofFn, Vector.getElem_map, all, Bool.or_true, Fin.getElem_fin]
  unfold Tch.askRebase
  split
  · next running => cases scan.symm.trans running
  · exact congrArg (fun el => { t with el := el }) every

/-- A request for every channel waits for the end of the scan that runs (R362). -/
theorem askRebase_running {sc : Scan} (scan : t.scan = some sc) :
    t.askRebase 0x1FFFFFF#25 = { t with scan := some { sc with asked := BitVec.allOnes 25 } } := by
  have all : sc.asked ||| 0x1FFFFFF#25 = BitVec.allOnes 25 := BitVec.or_allOnes
  unfold Tch.askRebase
  rw [scan]
  dsimp only
  rw [all]

end Panel

/-! ## The configuration of the radio (R225) -/

theorem configWrite_active {r : Rf} (h : r.rxOn = true ∨ r.txOn = true) (k : Nat) (v : Word) :
    r.configWrite k v = { r with stat := setBit r.stat 7 true } :=
  if_pos (by rwa [Rf.active, Bool.or_eq_true])

theorem write_config (r : Rf) (k : Fin 5) (v : Word) : r.write (0x10 + 4 * k) v = r.configWrite k v := by
  have place : (0x10 + 4 * k.val - 0x10) / 4 = k := by omega
  unfold Rf.write
  rw [if_neg (by omega), if_neg (by omega), if_neg (by omega), if_pos (by omega), place]

/-! ## Where the accesses land -/

section Rows

variable {s : State} {a : Agent} {v : Word} {i : Instr}

/-- A write of TCH_CMD that takes effect at once. -/
theorem tchCmd_becomes {q : Tch} (hw : s.writes a (ioTch + 0x0C) v)
    (hi : exec i s = .next (finish s (s.rowWrite a (ioTch + 0x0C) none v))) (e : s.per.tch.writeCmd s.per.pin v = q) :
    s.becomes i (s.onTch fun _ => q) :=
  rowWrite_becomes hw hi ((directWrite_tch s a v (by decide)).trans (congrArg (fun q => s.onTch fun _ => q) e))

/-- A write of a register of the radio that takes effect at once. -/
theorem rfRow_becomes {r : Nat} {q : Rf} (hw : s.writes a (ioRf + r) v) (hr : r < 0x1000)
    (hi : exec i s = .next (finish s (s.rowWrite a (ioRf + r) none v))) (e : s.per.rf.write r v = q) :
    s.becomes i (s.onRf fun _ => q) :=
  rowWrite_becomes hw hi ((directWrite_rf s a v hr).trans (congrArg (fun q => s.onRf fun _ => q) e))

/-- A read of a register that the block of R157 clears does so at once. -/
theorem busRead_periph {o : Nat} (hr : s.reads a o) (ho : waymarkBlock o = true) (rssi : o ≠ ioRf + 0x3C) :
    (s.busRead a o).1 =
      { s with per := s.per.readEffect ⟨ioBank a, isCanvas a, s.twin, s.asleep, s.rssiNow⟩ o } := by
  have now : (s.waymark && isCanvas a) = false := by
    cases a with
    | core c =>
      obtain ⟨-, -, hm⟩ := hr
      rw [hm, Bool.false_and]
    | ridgepole => exact Bool.and_false _
    | host => exact Bool.and_false _
  unfold State.busRead State.periphRead
  rw [markLive_reads hr, if_pos ho, if_neg rssi]
  dsimp only
  rw [now]
  rfl

end Rows

/-- Settles O28: the panel's command by what the scan and its holds make of it, the radio's configuration by whether the
radio is active, and each other access by its own register. -/
theorem touchAndRadioRows : Obligations.TouchAndRadioRows := by
  intro s a v k t r tch held rf
  have start {q : Tch} (e : t.writeCmd s.per.pin 1#32 = q) : tch (.tchStart a) 1#32 q := fun hw =>
    tchCmd_becomes hw rfl e
  have rebase {q : Tch} (e : t.askRebase 0x1FFFFFF#25 = q) : tch (.tchRebase a) 2#32 q := fun hw =>
    tchCmd_becomes hw rfl ((writeCmd_rebase t s.per.pin).trans e)
  have config {q : Rf} (e : r.configWrite k v = q) : rf (.rfConfigWrite a k v) (0x10 + 4 * k) q := fun hw =>
    rfRow_becomes hw (by omega) (by rw [← Nat.add_assoc]; rfl) ((write_config r k v).trans e)
  refine ⟨fun h => start (writeCmd_start_ignored t _ h), fun mode scan h => start ?_, fun mode scan h => start ?_,
    fun scan => rebase (askRebase_all t scan), fun sc scan => rebase (askRebase_running t scan),
    fun h => config (configWrite_active h k v), fun rx tx => config ?_, fun hw => rfRow_becomes hw (by decide) rfl rfl,
    fun hr => ?_, fun hr => ?_⟩
  · exact (writeCmd_start_requests t _ mode scan).trans (request_held t _ h)
  · exact (writeCmd_start_requests t _ mode scan).trans (request_starts t _ scan h)
  · have rests : r.active = false := by rw [Rf.active, rx, tx]; rfl
    unfold Rf.configWrite
    rw [rests]
    fin_cases k <;> rfl
  · exact becomes_of_eq rfl ((rowRead_direct hr).trans (busRead_periph hr rfl (by decide)))
  · exact becomes_of_eq rfl ((rowRead_direct hr).trans (busRead_periph hr rfl (by decide)))

end Sys2Proof.Machine

/-! # A frame on the air -/

namespace Sys2Proof.Machine

open Sys2Proof

/-! ## Bytes and their bits (R213) -/

theorem bitsOfByte_length (b : Byte) : (bitsOfByte b).length = 8 := rfl

/-- The bits of the number that a list of bits spells. -/
theorem testBit_spelled (l : List Bool) (i : Nat) :
    (l.foldr (fun (b : Bool) (v : Nat) => 2 * v + b.toNat) 0).testBit i = l.getD i false := by
  induction l generalizing i with
  | nil => simp
  | cons b l ih =>
    have half : (2 * l.foldr (fun (b : Bool) (v : Nat) => 2 * v + b.toNat) 0 + b.toNat) / 2 = l.foldr (fun (b : Bool) (v : Nat) => 2 * v + b.toNat) 0 := by
      have := b.toNat_le
      omega
    cases i with
    | zero => cases b <;> simp [Nat.testBit_zero, Nat.add_mod]
    | succ i => rw [List.foldr_cons, Nat.testBit_succ, half, ih, List.getD_cons_succ]

theorem byteOfBits_bitsOfByte (b : Byte) : byteOfBits (bitsOfByte b) = b := by
  apply BitVec.eq_of_getLsbD_eq
  intro i hi
  rw [byteOfBits, BitVec.getLsbD_ofNat, testBit_spelled]
  simp [bitsOfByte, hi]

theorem bitsOfBytes_length (l : List Byte) : (bitsOfBytes l).length = 8 * l.length := by
  induction l with
  | nil => rfl
  | cons b l ih => 
    have split : bitsOfBytes (b :: l) = bitsOfByte b ++ bitsOfBytes l := rfl
    rw [split, List.length_append, bitsOfByte_length, ih, List.length_cons]
    omega

/-- The bytes come back from their bits, whatever follows them. -/
theorem bytesOfBits_bitsOfBytes (l : List Byte) (rest : List Bool) :
    bytesOfBits l.length (bitsOfBytes l ++ rest) = l := by
  induction l with
  | nil => rfl
  | cons b l ih =>
    have split : bitsOfBytes (b :: l) ++ rest = bitsOfByte b ++ (bitsOfBytes l ++ rest) := List.append_assoc ..
    rw [split, List.length_cons, bytesOfBits, List.take_left' (bitsOfByte_length b), List.drop_left' (bitsOfByte_length b),
      ih, byteOfBits_bitsOfByte]

/-! ## The code (R214) -/

theorem convolve_length (p : Six) (l : List Bool) : (convolve p l).length = 2 * l.length := by
  induction l generalizing p with
  | nil => rfl
  | cons x l ih => 
    rw [convolve, List.length_cons, List.length_cons, ih, List.length_cons]
    omega

/-- A code word gives its input back. -/
theorem unconvolve_convolve (p : Six) (l : List Bool) : unconvolve p (convolve p l) = some l := by
  induction l generalizing p with
  | nil => rfl
  | cons x l ih =>
    have input : ((x ^^ p.tapA) ^^ p.tapA) = x := by rw [Bool.xor_assoc, Bool.xor_self, Bool.xor_false]
    simp only [convolve, unconvolve, input, if_true, ih, Option.map_some]

/-! ## The interleaver (R215) -/

theorem interleave64_length (c : List Bool) : (interleave64 c).length = 64 := by
  rw [interleave64, List.length_map, List.length_range]

theorem interleave64_getElem (c : List Bool) {j : Nat} (h : j < (interleave64 c).length) :
    (interleave64 c)[j] = c.getD (8 * (j % 8) + j / 8) false := by
  simp [interleave64]

/-- The rows and columns of a block change places, and back. -/
theorem interleave64_interleave64 {c : List Bool} (h : c.length = 64) : interleave64 (interleave64 c) = c := by
  apply List.ext_getElem (by rw [interleave64_length, h])
  intro j hj k
  have place : 8 * (j % 8) + j / 8 < (interleave64 c).length := by
    rw [interleave64_length] at hj ⊢
    omega
  have back : 8 * ((8 * (j % 8) + j / 8) % 8) + (8 * (j % 8) + j / 8) / 8 = j := by
    rw [interleave64_length] at hj
    omega
  rw [interleave64_getElem, List.getD_eq_getElem _ _ place, interleave64_getElem, back, List.getD_eq_getElem _ _ k]

theorem interleave_interleave (n : Nat) {l : List Bool} (h : l.length = 64 * n) : interleave n (interleave n l) = l := by
  induction n generalizing l with
  | zero =>
    rw [List.eq_nil_of_length_eq_zero (by omega : l.length = 0)]
    rfl
  | succ n ih =>
    have first : (l.take 64).length = 64 := by rw [List.length_take]; omega
    have rest : (l.drop 64).length = 64 * n := by rw [List.length_drop]; omega
    rw [interleave, interleave, List.take_left' (interleave64_length _), List.drop_left' (interleave64_length _),
      interleave64_interleave64 first, ih rest, List.take_append_drop]

/-! ## What a receiver makes of a frame as it is sent (R211-R217) -/

section Sent

variable {p : PhyFrame} {body : List Byte} {rate : Fin 5} {code : Bool}

theorem phyStream_length (body : List Byte) : (phyStream body).length = body.length + 4 := by
  rw [phyStream, List.length_append]
  rfl

theorem rateByte_toNat (rate : Fin 5) (code : Bool) : (BitVec.ofNat 8 (rate + 8 * code.toNat)).toNat = rate + 8 * code.toNat := by
  revert rate code
  decide

theorem rateByte_code (rate : Fin 5) (code : Bool) : (BitVec.ofNat 8 (rate + 8 * code.toNat)).getLsbD 3 = code := by
  revert rate code
  decide

variable (small : body.length < 256) (header : [p.h0, p.h1, p.h2] = phyHeader body.length rate code)

include header in
theorem header_fields : p.h0 = BitVec.ofNat 8 body.length ∧ p.h1 = BitVec.ofNat 8 (rate + 8 * code.toNat) ∧
    p.h2 = crc8 [p.h0, p.h1] := by
  have parts : [p.h0, p.h1, p.h2] = [BitVec.ofNat 8 body.length, BitVec.ofNat 8 (rate + 8 * code.toNat),
    crc8 [BitVec.ofNat 8 body.length, BitVec.ofNat 8 (rate + 8 * code.toNat)]] := header
  simp only [List.cons.injEq, and_true] at parts
  obtain ⟨h0, h1, h2⟩ := parts
  exact ⟨h0, h1, by rw [h2, h0, h1]⟩

include small header

theorem sent_len : p.len = body.length := by
  obtain ⟨h0, -, -⟩ := header_fields header
  rw [PhyFrame.len, h0, BitVec.toNat_ofNat, Nat.mod_eq_of_lt small]

omit small in
theorem sent_rate : p.rate = rate := by
  obtain ⟨-, h1, -⟩ := header_fields header
  have valid := rate.isLt
  rw [PhyFrame.rate, h1, rateByte_toNat]
  omega

omit small in
theorem sent_code : p.code = code := by
  obtain ⟨-, h1, -⟩ := header_fields header
  rw [PhyFrame.code, h1]
  exact rateByte_code rate code

/-- A header as it is sent passes at its own symbol rate (R212). -/
theorem sent_goodHeader (some : 0 < body.length) : p.badHeader (symbolRate rate) = false := by
  obtain ⟨-, h1, h2⟩ := header_fields header
  have top : p.h1.toNat < 16 := by
    rw [h1, rateByte_toNat]
    have := code.toNat_le
    omega
  have len := sent_len small header
  have valid := rate.isLt
  simp only [PhyFrame.badHeader, sent_rate header, h2, len]
  simp
  exact ⟨⟨List.ne_nil_of_length_pos some, top⟩, by omega⟩

variable (field : p.field = phyField code body)

include field

/-- The coded bits of a frame as it is sent are the code word of its stream. -/
theorem sent_codedBits (coding : code = true) : p.codedBits = coded (bitsOfBytes (phyStream body)) := by
  subst coding
  have len := sent_len small header
  have word : (coded (bitsOfBytes (phyStream body))).length = 16 * body.length + 76 := by
    rw [coded, convolve_length, List.length_append, bitsOfBytes_length, phyStream_length, List.length_replicate]
    omega
  let blocks := fieldBits body.length true / 64
  let pad := List.replicate (fieldBits body.length true - (16 * body.length + 76)) false
  have whole : (coded (bitsOfBytes (phyStream body)) ++ pad).length = 64 * blocks := by
    rw [List.length_append, word, List.length_replicate]
    simp only [blocks, fieldBits, if_true]
    omega
  have sent : p.field = interleave blocks (coded (bitsOfBytes (phyStream body)) ++ pad) := by
    rw [field]
    simp only [phyField, if_true, word, blocks, pad]
  rw [PhyFrame.codedBits, sent, len, interleave_interleave _ whole, List.take_left' word]

/-- The stream of a frame as it is sent comes back (R213-R215). -/
theorem sent_stream : p.stream = phyStream body := by
  have len := sent_len small header
  have bytes := bytesOfBits_bitsOfBytes (phyStream body)
  rw [phyStream_length] at bytes
  unfold PhyFrame.stream
  rw [sent_code header, len]
  cases code with
  | true =>
    rw [if_pos rfl, sent_codedBits small header field rfl, coded, unconvolve_convolve]
    exact bytes _
  | false =>
    have plain : p.field = bitsOfBytes (phyStream body) := field
    rw [if_neg Bool.false_ne_true, plain, ← List.append_nil (bitsOfBytes _)]
    exact bytes []

theorem sent_body : p.body = body := by
  rw [PhyFrame.body, sent_stream small header field, sent_len small header, phyStream, List.take_left' rfl]

theorem sent_goodCrc : p.badCrc = false := by
  have len := sent_len small header
  have stream := sent_stream small header field
  rw [PhyFrame.badCrc, sent_body small header field, stream, len, phyStream, List.drop_left' rfl]
  exact decide_eq_false (not_not.2 rfl)

omit small header field in
theorem filter_zip_self (l : List Bool) : ((l.zip l).filter fun x => x.1 != x.2) = [] := by
  induction l with
  | nil => rfl
  | cons b l ih => rw [List.zip_cons_cons, List.filter_cons_of_neg (by simp), ih]

/-- Every hard decision of a coded frame as it is sent agrees with its stream coded again (R217). -/
theorem sent_lqi : p.lqi = if code then 255 else 0 := by
  unfold PhyFrame.lqi
  rw [sent_code header]
  cases code with
  | true =>
    have agrees := filter_zip_self (coded (bitsOfBytes (phyStream body)))
    simp only [if_true, sent_len small header, sent_stream small header field, sent_codedBits small header field rfl, agrees]
    exact Nat.mul_div_cancel 255 (by omega : 0 < 16 * body.length + 76)
  | false => rfl

end Sent

end Sys2Proof.Machine

/-! # Events of the radio -/

namespace Sys2Proof.Machine

open Sys2Proof

/-! ## Updates of the engine and the radio -/

section Updates

variable {s : State}

theorem onNet_congr {f g : Net → Net} (h : f s.per.net = g s.per.net) : s.onNet f = s.onNet g :=
  congrArg (fun n => { s with per := { s.per with net := n } }) h

theorem onRf_congr {f g : Rf → Rf} (h : f s.per.rf = g s.per.rf) : s.onRf f = s.onRf g :=
  congrArg (fun r => { s with per := { s.per with rf := r } }) h

/-- An engine that runs does not stop at the end of an exchange (R258). -/
theorem netSettle_of_en (h : s.per.net.en = true) : s.netSettle = s := by
  refine if_neg ?_
  rw [h]
  exact nofun

/-- The table object is found by the objects and NET_TBL alone. -/
theorem finish_net_of_tables {t : State} (old : State) (table : s.tableObj.isSome = true) (obj : t.wdn.obj = s.wdn.obj)
    (tbl : t.per.net.tbl = s.per.net.tbl) : (finish old t).per.net = t.per.net ∧ (finish old t).per.rf = t.per.rf :=
  finish_net old t fun _ => by rw [State.tableObj_core0 obj tbl]; exact table

end Updates

/-! ## Producers that have fired -/

/-- Producer `e` is on its way to the router. -/
def State.Firing (s : State) (e : Nat) : Prop := ∃ f ∈ s.inflight, f.ev = e

theorem firing_fire (s : State) (e : Nat) : (s.fire e).Firing e :=
  ⟨_, List.mem_append_right _ (List.mem_singleton.2 rfl), rfl⟩

theorem State.Firing.keep {s t : State} {e : Nat} (h : s.Firing e) (k : s.SameSetup t) : t.Firing e := by
  obtain ⟨p, hp, ev⟩ := h
  obtain ⟨q, hq, same, -⟩ := k.inflight p hp
  exact ⟨q, hq, same.trans ev⟩

theorem State.Firing.finish {s : State} {e : Nat} (h : s.Firing e) (old : State) :
    (Sys2Proof.Machine.finish old s).Firing e := h.keep (finish_setup s old)

theorem State.Firing.onNet {s : State} {e : Nat} (h : s.Firing e) (f : Net → Net) : (s.onNet f).Firing e := h

theorem State.Firing.onRf {s : State} {e : Nat} (h : s.Firing e) (f : Rf → Rf) : (s.onRf f).Firing e := h

theorem countSys_setup (s : State) (src n : Nat) : s.SameSetup (s.countSys src n) := State.countRange_setup ..

/-! ## The amplifier goes off (R223, R357) -/

section TxOver

variable (s : State)

theorem resume_susp (t : Tch) (p : Pin) (asleep : Bool) : (t.resume p asleep).susp = false := by
  unfold Tch.resume Tch.tryStart
  split <;> rfl

@[simp] theorem txOver_per_rf : s.txOver.per.rf = s.per.rf.paOff := rfl
@[simp] theorem txOver_per_net : s.txOver.per.net = s.per.net := rfl
@[simp] theorem txOver_cores : s.txOver.cores = s.cores := rfl
@[simp] theorem txOver_mem : s.txOver.mem = s.mem := rfl
@[simp] theorem txOver_wdn : s.txOver.wdn = s.wdn := rfl

theorem txOver_susp : s.txOver.per.tch.susp = false := resume_susp ..

end TxOver

/-! ## A frame that comes back (R222, R223, R254) -/

/-- The engine takes back a frame that was not sent: no attempt, and no further frame in the slot. -/
def Net.returned (n : Net) (f : TxFrame) (cut : Bool) : Net :=
  { n with
    await := none, stopped := true
    txq := if f.typ = typBeacon then n.txq
      else { f with attempts := f.attempts - 1, wait := 0, aborted := cut } :: n.txq }

theorem returnFrame_of_await {s : State} {f : TxFrame} (en : s.per.net.en = true) (h : s.per.net.await = some f)
    (cut : Bool) : s.returnFrame cut = s.onNet fun n => n.returned f cut := by
  unfold State.returnFrame
  rw [onNet_congr (g := fun n => n.returned f cut) (by rw [h]; rfl)]
  exact netSettle_of_en en

section Failures

variable {s : State}

theorem pllFail_idle (h : ¬(s.running = true ∧ s.per.rf.txOn = true ∧ s.per.rf.begun = false)) : s.pllFail = s :=
  if_neg (by simpa [and_assoc] using h)

theorem pllFail_returns {f : TxFrame} (run : s.running = true) (tx : s.per.rf.txOn = true)
    (unbegun : s.per.rf.begun = false) (en : s.per.net.en = true) (h : s.per.net.await = some f) :
    s.pllFail = (s.onRf fun r => { r with stat := setBit r.stat 9 true, txOn := false }).onNet
      fun n => n.returned f false := by
  unfold State.pllFail
  rw [if_pos (by simp [run, tx, unbegun])]
  exact returnFrame_of_await (s := s.onRf fun r => { r.flag 9 with txOn := false }) en h false

theorem txAbort_idle {v : Nat} (h : ¬(s.running = true ∧ s.per.rf.txOn = true ∧ s.per.rf.begun = true ∧
    s.pwr.main = false ∧ v < bits s.per.rf.adm 0 12)) : s.txAbort v = s :=
  if_neg (by simpa [and_assoc] using h)

/-- The radio after an abort on the cell: the flag and the count (R222). -/
def Rf.aborted (r : Rf) : Rf :=
  { r.flag 2 with aborts := setBits r.aborts 0 16 (satAdd 0xFFFF (bits r.aborts 0 16) 1) }

theorem txAbort_returns {f : TxFrame} {v : Nat} (run : s.running = true) (tx : s.per.rf.txOn = true)
    (begun : s.per.rf.begun = true) (cell : s.pwr.main = false) (low : v < bits s.per.rf.adm 0 12)
    (en : s.per.net.en = true) (h : s.per.net.await = some f) :
    s.txAbort v = ((s.txOver.fire 180).onRf Rf.aborted).onNet fun n => n.returned f true := by
  unfold State.txAbort
  rw [if_pos (by simp [run, tx, begun, cell, low])]
  exact returnFrame_of_await (s := (s.txOver.fire 180).onRf Rf.aborted) en h true

/-! ## The end of a frame (R223, R240) -/

theorem txEnd_idle (h : ¬(s.running = true ∧ s.per.rf.txOn = true ∧ s.per.rf.begun = true)) : s.txEnd = s := by
  refine if_pos ?_
  simpa [or_assoc, imp_iff_not_or] using h

theorem acked_of_unicast {f : TxFrame} (cast : f.bcast = false) (req : f.typ ≠ typJoinReq) (rsp : f.typ ≠ typJoinRsp) :
    f.acked = true := by
  simp [TxFrame.acked, joinFrame, cast, req, rsp]

/-- A frame that is acknowledged leaves the receiver open at its own symbol rate. -/
theorem txEnd_awaits {f : TxFrame} (run : s.running = true) (tx : s.per.rf.txOn = true) (begun : s.per.rf.begun = true)
    (noAck : s.per.net.ackOn = false) (h : s.per.net.await = some f) (acked : f.acked = true) :
    s.txEnd = (((s.txOver.fire 179).onNet fun n => { n with cnt0 := bump n.cnt0 false }).countSys 22 1).onRf
      fun r => r.listenAt r.txRate := by
  unfold State.txEnd
  rw [if_neg (by simp [run, tx, begun])]
  dsimp only
  simp only [State.countSys_per_net, State.onNet_per_net, State.fire_per_net, txOver_per_net, noAck, h, acked, if_true,
    Bool.false_eq_true, if_false]

/-- A receiver that is off opens where the configuration allows it. -/
theorem listenAt_off {r : Rf} {rate : Nat} (h : r.rxOn = false) : r.listenAt rate =
    if txConfigOk r rate then { r with rxOn := true, locked := false, closing := false, baud := symbolRate rate }
    else { r with stat := setBit r.stat 6 true } := by
  refine if_neg ?_
  rw [h]
  exact nofun

end Failures

/-! ## Rejects, sync words and credit (R212, R216, R221) -/

section Reception

variable {s : State}

/-- The header is discarded for its CRC, a length of 0, a reserved bit, or a rate that is not listened to (R212). -/
theorem badHeader_iff (p : PhyFrame) (baud : Nat) : p.badHeader baud = true ↔
    crc8 [p.h0, p.h1] ≠ p.h2 ∨ p.h0 = 0#8 ∨ 16 ≤ p.h1.toNat ∨ 4 < p.h1.toNat % 8 ∨ symbolRate (p.h1.toNat % 8) ≠ baud := by
  have empty : p.len = 0 ↔ p.h0 = 0#8 := BitVec.toNat_eq (x := p.h0) (y := 0#8) |>.symm
  unfold PhyFrame.badHeader PhyFrame.rate
  rw [Bool.or_eq_true, Bool.or_eq_true, Bool.or_eq_true, Bool.or_eq_true]
  simp only [decide_eq_true_iff, empty, or_assoc]

theorem rfReject_idle {p : PhyFrame} (h : ¬((s.running = true ∧ s.per.rf.rxOn = true ∧ s.per.rf.locked = true) ∧
    (p.badHeader s.per.rf.baud = true ∨ p.badCrc = true))) : s.rfReject p = s :=
  if_neg (by simpa [and_assoc] using h)

theorem rfReject_counts {p : PhyFrame} (run : s.running = true) (rx : s.per.rf.rxOn = true)
    (locked : s.per.rf.locked = true) (en : s.per.net.en = true)
    (h : p.badHeader s.per.rf.baud = true ∨ p.badCrc = true) :
    s.rfReject p = (s.onRf fun r => r.reject !(p.badHeader s.per.rf.baud)).countSys 24 1 := by
  unfold State.rfReject
  dsimp only
  rw [if_pos (by simpa [run, rx, locked] using h), netSettle_of_en (by simpa using en)]

theorem bit_xor (v w : Word) (i : Nat) : bit (v ^^^ w) i = (bit v i != bit w i) := BitVec.getLsbD_xor

/-- The carrier is in reach and the word is within TOL bits (R216). -/
theorem rfSync_locks {w : Word} {f : BitVec 16} (run : s.running = true) (rx : s.per.rf.rxOn = true)
    (reach : s.per.rf.acquires f = true) (tol : s.per.rf.syncMatch w = true) :
    s.rfSync w f = s.onRf fun r => { r with locked := true } :=
  if_pos (by rw [run, rx, reach, tol]; rfl)

theorem rfSync_misses {w : Word} {f : BitVec 16} (h : ¬(s.running = true ∧ s.per.rf.rxOn = true ∧
    s.per.rf.acquires f = true ∧ s.per.rf.syncMatch w = true)) : s.rfSync w f = s :=
  if_neg (by simpa [and_assoc] using h)

theorem syncMatch_iff (r : Rf) (w : Word) : r.syncMatch w = true ↔
    ((List.range 32).filter fun i => bit w i != bit r.sync i).length ≤ bits r.rate 12 2 := by
  simp only [Rf.syncMatch, indices, bit_xor, decide_eq_true_eq]

end Reception

/-! ## What the end of a transmission leaves -/

section Ends

variable {s : State} {f : TxFrame} (run : s.running = true) (tx : s.per.rf.txOn = true) (begun : s.per.rf.begun = true)
  (en : s.per.net.en = true) (table : s.tableObj.isSome = true) (await : s.per.net.await = some f)

include run tx begun en table await

/-- An abort on the cell leaves the cores, memory and the panel free, and takes the frame back (R222, R223, R254). -/
theorem txAbort_leaves {v : Nat} (cell : s.pwr.main = false) (low : v < bits s.per.rf.adm 0 12) :
    let t := finish s (s.txAbort v)
    t.per.net = s.per.net.returned f true ∧ t.Firing 180 ∧ t.per.rf = s.per.rf.paOff.aborted ∧
      t.per.tch.susp = false ∧ t.cores = s.cores ∧ t.mem = s.mem := by
  intro t
  have aborts := txAbort_returns run tx begun cell low en await
  obtain ⟨net, rf⟩ := finish_net_of_tables (t := s.txAbort v) s table (by simp [aborts]) (by simp [aborts]; rfl)
  refine ⟨?_, ?_, ?_, ?_, ?_, ?_⟩
  · rw [net, aborts]
    simp
  · have fired : (s.txAbort v).Firing 180 := by
      rw [aborts]
      exact firing_fire s.txOver 180
    exact fired.finish s
  · rw [rf, aborts]
    simp
  · rw [finish_per_tch, aborts]
    simpa using txOver_susp s
  · rw [finish_cores, aborts]
    simp
  · rw [finish_mem, aborts]
    simp

omit en in
/-- The end of a frame that is acknowledged opens the receiver for the ACK (R223, R240). -/
theorem txEnd_leaves (noAck : s.per.net.ackOn = false) (acked : f.acked = true) :
    let t := finish s s.txEnd
    t.Firing 179 ∧ t.per.net = { s.per.net with cnt0 := bump s.per.net.cnt0 false } ∧
      t.per.rf = s.per.rf.paOff.listenAt s.per.rf.txRate ∧
      t.per.tch.susp = false ∧ t.cores = s.cores ∧ t.mem = s.mem := by
  intro t
  have waits := txEnd_awaits run tx begun noAck await acked
  obtain ⟨net, rf⟩ := finish_net_of_tables (t := s.txEnd) s table (by simp [waits]) (by simp [waits])
  refine ⟨?_, ?_, ?_, ?_, ?_, ?_⟩
  · have fired : s.txEnd.Firing 179 := by
      rw [waits]
      exact (((firing_fire s.txOver 179).onNet _).keep (countSys_setup ..)).onRf _
    exact fired.finish s
  · rw [net, waits]
    simp
  · rw [rf, waits]
    simp
    rfl
  · rw [finish_per_tch, waits]
    simpa using txOver_susp s
  · rw [finish_cores, waits]
    simp
  · rw [finish_mem, waits]
    simp

end Ends

/-- A reject counts in the half of RF_RXERR that its cause names (R216). -/
theorem reject_eq (r : Rf) {b : Bool} {head : Prop} [Decidable head] (h : b = true ↔ head) : r.reject (!b) =
    { r with
      locked := false, rxOn := r.rxOn && !r.closing, closing := false
      rxerr := setBits r.rxerr (if head then 0 else 16) 16
        (satAdd 0xFFFF (bits r.rxerr (if head then 0 else 16) 16) 1) } := by
  cases b with
  | true =>
    rw [if_pos (h.1 rfl)]
    rfl
  | false =>
    rw [if_neg (mt h.2 Bool.false_ne_true)]
    rfl

/-- Settles O50: each event by what it finds the radio doing, and a frame as it is sent by the code and the interleaver, which
give its stream back. -/
theorem radioEvents : Obligations.RadioEvents := by
  refine ⟨?_, fun p body rate code some small header field => ⟨sent_goodHeader small header some,
    sent_goodCrc small header field, sent_body small header field, sent_lqi small header field⟩⟩
  intro s p m vcell r n runs tables fires back over_ cut rate header hears reach lim
  have head_iff : p.badHeader r.baud = true ↔ header := badHeader_iff p r.baud
  have reach_iff : r.acquires m.fofs = true ∧ r.syncMatch m.word = true ↔ reach :=
    and_congr decide_eq_true_iff (syncMatch_iff r m.word)
  have powered_iff : s.powered = true ↔ s.pwr.state ≠ .unpowered := decide_eq_true_iff
  refine ⟨fun h => becomes_of_eq rfl (pllFail_idle h), fun h => becomes_of_eq rfl (txEnd_idle h),
    fun h => becomes_of_eq rfl (txAbort_idle h), fun run ⟨en, _⟩ tx unbegun f await =>
      becomes_of_eq rfl (pllFail_returns run tx unbegun en await), fun ⟨run, tx, begun, cell, low⟩ ⟨en, table⟩ f await =>
      ⟨_, rfl, txAbort_leaves run tx begun en table await cell low⟩, ?_, fun h => ?_, fun h en reject => ?_,
    fun h => becomes_of_eq rfl (rfSync_misses fun k => h ⟨k.1, k.2.1, reach_iff.1 k.2.2⟩),
    fun run rx h => becomes_of_eq rfl (rfSync_locks run rx (reach_iff.2 h).1 (reach_iff.2 h).2),
    fun off => becomes_of_eq rfl (if_neg fun on => powered_iff.1 on off),
    fun on => becomes_of_eq rfl (if_pos (powered_iff.2 on))⟩
  · intro run ⟨_, table⟩ tx begun rx noAck f await cast req rsp
    have leaves := txEnd_leaves run tx begun table await noAck (acked_of_unicast cast req rsp)
    rw [listenAt_off (r := s.per.rf.paOff) rx] at leaves
    exact ⟨_, rfl, leaves⟩
  · exact becomes_of_eq rfl (rfReject_idle (by rwa [head_iff]))
  · obtain ⟨run, rx, locked⟩ := h
    have counts := rfReject_counts run rx locked en (by rwa [head_iff])
    have settles : Settles (s.onRf fun r => r.reject !(p.badHeader s.per.rf.baud)) (finish s (s.rfReject p)) := by
      rw [counts]
      exact (State.countSys_noted _ 24 1).settles s
    refine ⟨_, rfl, Eq.subst (motive := fun u => Settles u (finish s (s.rfReject p))) (onRf_congr ?_) settles⟩
    exact reject_eq r head_iff

end Sys2Proof.Machine

/-! # What the network engine stores -/

namespace Sys2Proof.Machine

open Sys2Proof

/-! ## Stores into a memory without an error

While no word is in error and nothing migrates, a store changes memory, the counts beside it and what the accesses note, and
brings no word into error. -/

/-- From `s` to `t` the engine has stored bytes, none of them below `lo`. -/
structure Wrote (lo : Nat) (s t : State) : Prop where
  eq : t = { s with mem := t.mem, mm := t.mm, look := t.look, stale := t.stale, portA := t.portA }
  ecc : t.mem.ecc = []
  low : ∀ x < lo, t.mem.byte x = s.mem.byte x

namespace Wrote

variable {lo : Nat} {s t u : State}

theorem refl (h : s.mem.ecc = []) : Wrote lo s s := ⟨rfl, h, fun _ _ => rfl⟩

theorem trans (h : Wrote lo s t) (k : Wrote lo t u) : Wrote lo s u := by
  refine ⟨?_, k.ecc, fun x hx => (k.low x hx).trans (h.low x hx)⟩
  have e := k.eq
  rw [h.eq] at e
  exact e

theorem per (h : Wrote lo s t) : t.per = s.per := by rw [h.eq]
theorem rp (h : Wrote lo s t) : t.rp = s.rp := by rw [h.eq]
theorem cores (h : Wrote lo s t) : t.cores = s.cores := by rw [h.eq]
theorem wdn (h : Wrote lo s t) : t.wdn = s.wdn := by rw [h.eq]
theorem pwr (h : Wrote lo s t) : t.pwr = s.pwr := by rw [h.eq]

/-- What is noted beside a store. -/
theorem noted (h : s.mem.ecc = []) (look : Vector Look 9) (stale : Vector (List Nat) 4) (portA : List PortA) :
    Wrote lo s { s with look := look, stale := stale, portA := portA } := ⟨rfl, h, fun _ _ => rfl⟩

theorem foldl {α : Type} {f : State → α → State} (l : List α) (h : s.mem.ecc = []) (hf : ∀ t x, Wrote lo s t → x ∈ l →
    Wrote lo t (f t x)) : Wrote lo s (l.foldl f s) :=
  List.foldlRecOn (motive := Wrote lo s) l f (refl h) fun t ht x hx => ht.trans (hf t x ht hx)

end Wrote

section Stores

variable {s : State}

theorem eccOf_of_clean (h : s.mem.ecc = []) (w : Nat) : s.mem.eccOf w = none := by
  unfold Memory.eccOf
  rw [h]
  rfl

theorem setBytes_ecc (m : Memory) (a : Nat) (bs : List Byte) : (m.setBytes a bs).ecc = m.ecc := by
  induction bs generalizing m a with
  | nil => rfl
  | cons b bs ih => exact ih (m.setByte a b) (a + 1)

theorem writeBeat_wrote (h : s.mem.ecc = []) (m a : Nat) (bs : List Byte) : Wrote a s (s.writeBeat m a bs) := by
  obtain ⟨v, hv⟩ := writeBeat_clean s m a bs fun w _ => eccOf_of_clean h w
  rw [hv]
  exact ⟨rfl, (setBytes_ecc ..).trans h, fun x hx => Memory.byte_setBytes_other bs _ _ _ (.inl hx)⟩

theorem Wrote.mono {lo hi : Nat} {t : State} (h : Wrote hi s t) (le : lo ≤ hi) : Wrote lo s t :=
  ⟨h.eq, h.ecc, fun x hx => h.low x (hx.trans_le le)⟩

theorem writeAll_wrote (m a : Nat) (bs : List Byte) (n : Nat) (h : s.mem.ecc = []) : Wrote a s (s.writeAll m a bs n) := by
  induction n generalizing s a bs with
  | zero => exact .refl h
  | succ n ih =>
    unfold State.writeAll
    split
    · exact .refl h
    · have beat := writeBeat_wrote h m a (bs.take (min bs.length (8 - a % 8)))
      exact beat.trans ((ih _ _ beat.ecc).mono (Nat.le_add_right ..))

/-- The pull of a line copies its image over it (R94). -/
theorem pull_wrote (h : s.mem.ecc = []) (l : Nat) : Wrote 0 s (s.pull l).s := by
  unfold State.pull
  split
  · exact .refl h
  · dsimp only
    rw [readWords_clean _ _ _ fun w _ => eccOf_of_clean h w]
    refine ⟨rfl, ?_, fun x hx => absurd hx (Nat.not_lt_zero x)⟩
    show (List.filter _ s.mem.ecc) ++ [] = []
    rw [h]
    rfl

theorem store_wrote (h : s.mem.ecc = []) (mig : s.wdn.mig = none) (m a : Nat) (bs : List Byte) :
    Wrote 0 s (s.store m a bs).s := by
  have beat : Wrote 0 s (s.storeBeat m a bs).s := by
    unfold State.storeBeat
    split
    · have pulled := pull_wrote h ((a - emberBase) / 64)
      exact pulled.trans ((writeBeat_wrote pulled.ecc m a bs).mono (Nat.zero_le a))
    · exact (writeBeat_wrote h m a bs).mono (Nat.zero_le a)
  unfold State.store
  dsimp only
  rw [mig]
  exact beat

theorem notePortA_wrote {lo : Nat} (h : s.mem.ecc = []) (a n : Nat) (w : Bool) : Wrote lo s (s.notePortA a n w) := by
  unfold State.notePortA
  split
  · exact .noted h s.look s.stale _
  · exact .refl h

theorem invalidateCode_wrote {lo : Nat} (h : s.mem.ecc = []) (i a n : Nat) : Wrote lo s (s.invalidateCode i a n) := by
  unfold State.invalidateCode
  split
  · exact .noted h s.look _ s.portA
  · exact .refl h

theorem netStore_wrote (h : s.mem.ecc = []) (mig : s.wdn.mig = none) (i off : Nat) (bs : List Byte) :
    Wrote 0 s (s.netStore i off bs) := by
  let e := s.objAt i
  have looked : Wrote 0 s (s.lookUp netMaster i) := .noted h _ s.stale s.portA
  have coded := looked.trans (invalidateCode_wrote looked.ecc i (e.logical + off) bs.length)
  have ported := coded.trans (notePortA_wrote coded.ecc (e.physical + off) bs.length true)
  exact ported.trans (.foldl _ ported.ecc fun t x ht _ =>
    store_wrote ht.ecc (by rw [ht.wdn, ported.wdn]; exact mig) _ _ _)

theorem tabPut_wrote (h : s.mem.ecc = []) (mig : s.wdn.mig = none) (off n v : Nat) : Wrote 0 s (s.tabPut off n v) := by
  unfold State.tabPut
  split
  · split
    · exact netStore_wrote h mig _ _ _
    · exact .refl h
  · exact .refl h

/-- A frame buffer lies in DP (R253). -/
theorem putBuf_wrote (h : s.mem.ecc = []) (b : Nat) (bs : List Byte) : Wrote dpBase s (s.putBuf b bs) := by
  have noted := notePortA_wrote (lo := dpBase) h (dpBase + 320 * b) bs.length true
  exact noted.trans ((writeAll_wrote netMaster _ bs bs.length noted.ecc).mono (Nat.le_add_right ..))

end Stores

end Sys2Proof.Machine

/-! # What the network engine leaves while it works on a frame -/

namespace Sys2Proof.Machine

open Sys2Proof

/-! ## States that an exchange goes through

What a step of the engine leaves is told by a view of the state: the step keeps the view's value, in a state in which the
engine runs and finds no error in memory. -/

/-- No word is in error, nothing migrates, and the engine runs. -/
structure State.Sound (s : State) : Prop where
  ecc : s.mem.ecc = []
  mig : s.wdn.mig = none
  en : s.per.net.en = true

/-- What a sound state is told by. -/
def State.ground (s : State) : Memory × Warden × Word := (s.mem, s.wdn, s.per.net.ctl)

/-- The step from `s` to `t` keeps what `view` shows. -/
structure Keeps {α : Type} (view : State → α) (s t : State) : Prop where
  sound : s.Sound → t.Sound
  view : s.Sound → view t = view s

/-- What the whole work on a frame leaves. -/
structure Seen where
  cores : Vector Core 4
  wdn : Warden
  ctl : Word
  tbl : Word
  stopped : Bool
  await : Option TxFrame
  info : Word
  cnt0 : Word
  state : Nat

def State.seen (s : State) : Seen :=
  ⟨s.cores, s.wdn, s.per.net.ctl, s.per.net.tbl, s.per.net.stopped, s.per.net.await, s.per.rf.rxinfo, s.per.net.cnt0,
    s.per.net.state⟩

/-- What is seen besides STATE. -/
def State.lasting (s : State) : Seen := { s.seen with state := 0 }

/-- What the checks of a frame leave: they change a link's entry, the phase, and the network's two keys. -/
structure Accepting extends Seen where
  id : Word
  joins : List (Nat × Nat)
  cnt2 : Word
  nodeKey : Nat → Option (List Byte)

def State.accepting (s : State) : Accepting :=
  ⟨s.seen, s.per.net.id, s.per.net.joins, s.per.net.cnt2, fun k => s.rp.key (2 + k)⟩

/-- What a write of the tables leaves. -/
structure Untabled where
  cores : Vector Core 4
  wdn : Warden
  rp : Ridgepole
  rf : Rf
  net : Net

/-- The engine besides what follows its tables. -/
def Net.untabled (n : Net) : Net := { n with nbrs := 0, pcost := 0, par := 0#32, map := 0#1152 }

def State.untabled (s : State) : Untabled := ⟨s.cores, s.wdn, s.rp, s.per.rf, s.per.net.untabled⟩

def Untabled.accepting (v : Untabled) : Accepting :=
  ⟨⟨v.cores, v.wdn, v.net.ctl, v.net.tbl, v.net.stopped, v.net.await, v.rf.rxinfo, v.net.cnt0, v.net.state⟩, v.net.id,
    v.net.joins, v.net.cnt2, fun k => v.rp.key (2 + k)⟩

/-- STATE of NET_STAT lies below the flags (R259). -/
theorem state_setBit (w : Word) {i : Nat} (h : 3 ≤ i) (b : Bool) : bits (setBit w i b) 0 3 = bits w 0 3 :=
  bits_congr fun j hj => by rw [bit_setBit, if_neg (by omega)]

namespace Keeps

section View

variable {α β : Type} {view : State → α} {s t u : State}

/-- A step that leaves what a sound state is told by. -/
theorem of_eq (seen : view t = view s) (ground : t.ground = s.ground) : Keeps view s t := by
  have mem : t.mem = s.mem := congrArg Prod.fst ground
  have wdn : t.wdn = s.wdn := congrArg (·.2.1) ground
  have ctl : t.per.net.ctl = s.per.net.ctl := congrArg (·.2.2) ground
  exact ⟨fun h => ⟨by rw [mem, h.ecc], by rw [wdn, h.mig], by rw [Net.en, ctl]; exact h.en⟩, fun _ => seen⟩

theorem refl (s : State) : Keeps view s s := of_eq rfl rfl

theorem trans (h : Keeps view s t) (k : Keeps view t u) : Keeps view s u :=
  ⟨fun sound => k.sound (h.sound sound), fun sound => (k.view (h.sound sound)).trans (h.view sound)⟩

theorem ite {p : Prop} [Decidable p] (h : Keeps view s t) (k : Keeps view s u) :
    Keeps view s (if p then t else u) := by
  split
  · exact h
  · exact k

theorem foldl {γ : Type} {f : State → γ → State} (hf : ∀ t x, Keeps view t (f t x)) (l : List γ) (s : State) :
    Keeps view s (l.foldl f s) :=
  List.foldlRecOn (motive := Keeps view s) l f (refl s) fun t h x _ => h.trans (hf t x)

/-- A view that shows less. -/
theorem map (g : α → β) (h : Keeps view s t) : Keeps (fun s => g (view s)) s t :=
  ⟨h.sound, fun sound => congrArg g (h.view sound)⟩

end View

section Views

variable {s t u : State}

theorem accepting (h : Keeps State.untabled s t) : Keeps State.accepting s t := h.map Untabled.accepting

theorem shown (h : Keeps State.accepting s t) : Keeps State.seen s t := h.map Accepting.toSeen

theorem seen (h : Keeps State.untabled s t) : Keeps State.seen s t := h.accepting.shown

theorem lasting (h : Keeps State.seen s t) : Keeps State.lasting s t := h.map fun v => { v with state := 0 }

theorem of_wrote {lo : Nat} (h : s.Sound → Wrote lo s t) : Keeps State.untabled s t :=
  ⟨fun sound => by
    have w := h sound
    exact ⟨w.ecc, by rw [w.wdn, sound.mig], by rw [w.per]; exact sound.en⟩,
  fun sound => by
    have w := h sound
    rw [State.untabled, w.cores, w.wdn, w.rp, w.per]
    rfl⟩

theorem tabPut (s : State) (off n v : Nat) : Keeps State.untabled s (s.tabPut off n v) :=
  of_wrote fun h => tabPut_wrote h.ecc h.mig off n v

theorem putBuf (s : State) (b : Nat) (bs : List Byte) : Keeps State.untabled s (s.putBuf b bs) :=
  of_wrote fun h => putBuf_wrote h.ecc b bs

/-- A flag of NET_STAT, besides what is seen. -/
theorem flag (s : State) (i : Nat) (f : Net → Net) (h : 3 ≤ i)
    (seen : (s.onNet f).seen = { s.seen with state := (f s.per.net).state })
    (stat : (f s.per.net).stat = setBit s.per.net.stat i true) : Keeps State.seen s (s.onNet f) := by
  have ctl : (f s.per.net).ctl = s.per.net.ctl := congrArg Seen.ctl seen
  refine of_eq ?_ (congrArg (fun c => (s.mem, s.wdn, c)) ctl)
  rw [seen, Net.state, stat, state_setBit _ h]
  rfl

theorem netFlag_accepting (s : State) (i : Nat) (h : 3 ≤ i) : Keeps State.accepting s (s.netFlag i) :=
  of_eq (congrArg (fun k => { s.accepting with state := k }) (state_setBit s.per.net.stat h true)) rfl

theorem netFlag (s : State) (i : Nat) (h : 3 ≤ i) : Keeps State.seen s (s.netFlag i) :=
  flag s i _ h rfl rfl

theorem onRf (s : State) (f : Rf → Rf) (h : (f s.per.rf).rxinfo = s.per.rf.rxinfo) : Keeps State.seen s (s.onRf f) :=
  of_eq (congrArg (fun i => { s.seen with info := i }) h) rfl

theorem onRp (s : State) (f : Ridgepole → Ridgepole) : Keeps State.seen s (s.onRp f) := of_eq rfl rfl

theorem useFree (s : State) (k : Nat) : Keeps State.seen s (s.useFree k) := of_eq rfl rfl

theorem storeWrites (s : State) : Keeps State.seen s s.storeWrites := of_eq rfl rfl

theorem fire (s : State) (e : Nat) : Keeps State.seen s (s.fire e) := of_eq rfl rfl

theorem countSys (s : State) (src n : Nat) : Keeps State.seen s (s.countSys src n) :=
  of_eq (by simp [State.seen]) (by simp [State.ground])

end Views

end Keeps

/-! ## Keys -/

section Keys

variable (r : Ridgepole) {slot k : Nat} (key : List Byte)

theorem key_dropKey_other (h : k ≠ slot) : (r.dropKey slot).key k = r.key k := by
  unfold Ridgepole.key Ridgepole.dropKey
  rw [List.find?_filter]
  congr 2
  funext x
  by_cases e : x.slot = k <;> simp [e, h]

theorem key_setKey_other (h : k ≠ slot) : (r.setKey slot key).key k = r.key k := by
  rw [← key_dropKey_other r h, Ridgepole.key, Ridgepole.setKey, List.find?_cons_of_neg (by simp [Ne.symm h])]
  rfl

theorem key_setKey_same : (r.setKey slot key).key slot = some key :=
  congrArg (·.map KeySlot.key) (List.find?_cons_of_pos (by simp [KeySlot.whole]))

/-- The change of the network's keys (R246) leaves the per-node keys. -/
def Ridgepole.placed (r : Ridgepole) (slot : Nat) : Option (List Byte) → Ridgepole
  | some x => r.setKey slot x
  | none => r.dropKey slot

theorem key_placed_other (key : Option (List Byte)) (h : k ≠ slot) : (r.placed slot key).key k = r.key k := by
  cases key with
  | some x => exact key_setKey_other r x h
  | none => exact key_dropKey_other r h

end Keys

/-! ## The tables -/

section Tables

variable (s : State)

theorem netSync_keeps : Keeps State.untabled s s.netSync := .of_eq rfl rfl

theorem putNbr_keeps (b : Nbr) : Keeps State.untabled s (s.putNbr b) := (Keeps.tabPut ..).trans (netSync_keeps _)

theorem putRoute_keeps (dest via : Nat) : Keeps State.untabled s (s.putRoute dest via) := by
  unfold State.putRoute
  dsimp only
  split
  · exact .tabPut ..
  · exact .refl s

theorem dropRoutes_keeps (via : Nat) : Keeps State.untabled s (s.dropRoutes via) := .foldl (fun _ _ => .tabPut ..) _ _

theorem putParent_keeps (w : Word) : Keeps State.untabled s (s.putParent w) := by
  have noted : Keeps State.untabled s (s.onNet fun n => { n with par := w }) := .of_eq rfl rfl
  exact noted.trans (.tabPut ..)

theorem remap_keeps : Keeps State.untabled s s.remap := .ite (.of_eq rfl rfl) (.refl s)

/-- The entry of a neighbour is written where it has one. -/
theorem nbrPut_keeps (node : Nat) (put : Nbr → Nbr) : Keeps State.untabled s (match s.nbrOf node with
    | some b => s.putNbr (put b)
    | none => s) := by
  split
  · exact putNbr_keeps ..
  · exact .refl s

end Tables

/-! ## Frames that are queued -/

section Queues

variable (s : State)

theorem txPut_keeps (f : TxFrame) : Keeps State.seen s (s.txPut f) := by
  unfold State.txPut
  split
  · exact .netFlag s _ (by decide)
  · exact (Keeps.putBuf ..).seen.trans (.of_eq (by rfl) (by rfl))

theorem txPutAlarm_keeps (typ dst : Nat) (payload : List Byte) : Keeps State.seen s (s.txPutAlarm typ dst payload) :=
  (Keeps.useFree s 1).trans (txPut_keeps ..)

theorem queueMessage_keeps (hop final tid kind : Nat) (alarm : Bool) (trans : Option Nat) (wait : Nat) (bs : List Byte) :
    Keeps State.seen s (s.queueMessage hop final tid kind alarm trans wait bs) := .foldl (fun t _ => txPut_keeps t _) _ _

theorem queueControl_keeps (final : Nat) (bs : List Byte) : Keeps State.seen s (s.queueControl final bs) := by
  unfold State.queueControl
  split
  · exact .netFlag s _ (by decide)
  · exact (Keeps.useFree s 1).trans (queueMessage_keeps ..)

end Queues

/-! ## The receiver -/

section Receiver

variable (s : State)

theorem listenAt_rxinfo (r : Rf) (rate : Nat) : (r.listenAt rate).rxinfo = r.rxinfo := by
  unfold Rf.listenAt
  split
  · rfl
  · split <;> rfl

theorem close_rxinfo (r : Rf) : r.close.rxinfo = r.rxinfo := by
  unfold Rf.close
  split <;> rfl

theorem netListen_keeps : Keeps State.seen s s.netListen := .ite (.refl s) (.onRf s _ (listenAt_rxinfo ..))

theorem netClose_keeps : Keeps State.seen s s.netClose := .ite (netListen_keeps s) (.onRf s _ (close_rxinfo _))

theorem netSettle_keeps : Keeps State.seen s s.netSettle :=
  ⟨fun h => (netSettle_of_en h.en).symm ▸ h, fun h => congrArg State.seen (netSettle_of_en h.en)⟩

theorem afterFrame_keeps : Keeps State.seen s s.afterFrame :=
  (Keeps.ite (.refl s) (netClose_keeps s)).trans (netSettle_keeps _)

end Receiver

/-! ## Checks and content of a frame -/

section Content

variable (s : State)

theorem micFail_keeps : Keeps State.seen s s.micFail := .flag s 19 _ (by decide) rfl rfl

theorem swapKeys_keeps : Keeps State.accepting s s.swapKeys := by
  have swapped : Keeps State.accepting s (s.onRp fun r =>
      (r.placed 0 (s.rp.key 1)).placed 1 (s.rp.key 0)).storeWrites :=
    .of_eq (congrArg (fun k => { s.accepting with nodeKey := k }) (funext fun k =>
      (key_placed_other _ _ (by omega)).trans (key_placed_other _ _ (by omega)))) rfl
  have noted (t : State) : Keeps State.accepting t (t.onNet fun n => { n with oldKey := true }) := .of_eq (by rfl) (by rfl)
  exact (swapped.trans (putParent_keeps _ _).accepting).trans (noted _)

theorem tofsSlew_keeps (t : Int) : Keeps State.accepting s (s.tofsSlew t) := by
  unfold State.tofsSlew
  split
  · exact .refl s
  · exact .of_eq (by rfl) (by rfl)

/-- A phase correction notes its offset and rate, and leaves the rest to the slew (R233, R235). -/
theorem noted_keeps (offset : Word) (phase rate : Net → Int) (t : Int) : Keeps State.accepting s ((s.onNet fun n =>
    { n with
      tofs := offset, phase := phase n, rateCorr := rate n, synced := true, sinceCorr := 0, heard := true
      pmiss := 0 }).tofsSlew t) := by
  have noted : Keeps State.accepting s (s.onNet fun n =>
    { n with
      tofs := offset, phase := phase n, rateCorr := rate n, synced := true, sinceCorr := 0, heard := true
      pmiss := 0 }) := .of_eq (by rfl) (by rfl)
  exact noted.trans (tofsSlew_keeps _ t)

theorem phaseCorrect_keeps (f : RxFrame) : Keeps State.accepting s (s.phaseCorrect f) :=
  noted_keeps s _ (fun n => n.phase + f.late) (fun n => n.rateStep f.late) _

theorem fromParent_keeps (f : RxFrame) (b : Nbr) : Keeps State.accepting s (s.fromParent f b) := by
  have phased : Keeps State.accepting s
      (if (s.per.net.slotted && decide (b.slot = s.per.net.cur) && !s.per.net.heard) = true then s.phaseCorrect f
        else s) := .ite (phaseCorrect_keeps s f) (.refl s)
  have hops (t : State) : Keeps State.accepting t (if b.hops + 1 = t.per.net.hops then t
      else t.putParent (setBits t.per.net.par 12 4 (b.hops + 1))) := .ite (.refl t) (putParent_keeps t _).accepting
  have keys (t : State) : Keeps State.accepting t (if t.per.net.keySlot f.key = 1 then t.swapKeys.netFlag 14 else t) :=
    .ite ((swapKeys_keeps t).trans (.netFlag_accepting _ 14 (by decide))) (.refl t)
  exact .ite (.refl s) ((phased.trans (hops _)).trans (keys _))

theorem linkCheck_keeps (f : RxFrame) (b : Nbr) : Keeps State.seen s (s.linkCheck f b).1 := by
  unfold State.linkCheck
  dsimp only
  split
  · exact .of_eq (by rfl) (by rfl)
  · exact (nbrPut_keeps s b.node fun e => { e with rxSeq := f.lseq }).seen.trans (.ite (.refl _) (.netFlag _ 18 (by decide)))

/-- An offer leaves RF_RXINFO (R218-R223). -/
theorem offer_rxinfo (r : Rf) (h : Hrv) (main : Bool) (rate len : Nat) (code lbt : Bool) :
    (r.offer h main rate len code lbt).1.rxinfo = r.rxinfo := by
  unfold Rf.offer
  dsimp only
  split
  · rfl
  · split
    · rfl
    · split
      · rfl
      · split
        · split <;> rfl
        · split <;> split <;> rfl

theorem sendAck_keeps (f : RxFrame) : Keeps State.seen s (s.sendAck f) := by
  have offered := offer_rxinfo s.per.rf s.per.hrv s.pwr.main f.rate 11 true false
  unfold State.sendAck
  dsimp only
  split
  · exact (Keeps.onRf s _ offered).trans (.of_eq (by rfl) (by rfl))
  · exact (((Keeps.onRf s _ offered).trans (.flag _ 9 _ (by decide) (by rfl) (by rfl))).trans
      (.countSys ..)).trans (afterFrame_keeps _)

theorem adoptTime_keeps (plain : List Byte) : Keeps State.seen s (s.adoptTime plain) := .of_eq rfl rfl

theorem pickCandidate_keeps (b : Nbr) (flags : Byte) (plain : List Byte) :
    Keeps State.seen s (s.pickCandidate b flags plain) := by
  unfold State.pickCandidate
  dsimp only
  split
  · exact .refl s
  · refine (adoptTime_keeps s plain).trans (.ite (.refl _) ?_)
    exact (Keeps.of_eq (by rfl) (by rfl)).trans (txPutAlarm_keeps ..)

theorem beaconBody_keeps (b : Nbr) (plain : List Byte) : Keeps State.seen s (s.beaconBody b plain) := by
  unfold State.beaconBody
  dsimp only
  split
  · exact .refl s
  · exact ((putNbr_keeps ..).seen.trans (.ite (adoptTime_keeps ..) (.refl _))).trans (pickCandidate_keeps ..)

theorem checkJoin_keeps (bs : List Byte) : Keeps State.seen s (s.checkJoin bs).1 := by
  unfold State.checkJoin
  dsimp only
  split
  · exact micFail_keeps s
  · split
    · exact .of_eq (by rfl) (by rfl)
    · exact micFail_keeps s

theorem localMessage_keeps (bs : List Byte) : Keeps State.seen s (s.localMessage bs) := by
  unfold State.localMessage
  split
  · exact .netFlag s _ (by decide)
  · exact (Keeps.useFree s 1).trans (.of_eq (by rfl) (by rfl))

theorem attachBody_keeps (b : Nbr) (plain : List Byte) : Keeps State.seen s (match s.nbrOf b.node with
    | some e => (s.putNbr { e with isChild := true, slot := numOf (plain.take 2) % 2048 }).remap
    | none => s) := by
  split
  · exact ((putNbr_keeps ..).trans (remap_keeps _)).seen
  · exact .refl s

theorem removeChild_keeps (node : Nat) : Keeps State.seen s (s.removeChild node) := by
  unfold State.removeChild
  split
  · exact .refl s
  · exact .ite (((putNbr_keeps ..).trans (dropRoutes_keeps ..)).trans (remap_keeps _)).seen (.refl s)

/-! ### Messages -/

theorem forward_keeps (b : Nbr) (h : SegHead) (data : List Byte) : Keeps State.seen s (s.forward b h data) := by
  unfold State.forward
  split
  · exact .refl s
  · split
    · exact .netFlag s _ (by decide)
    · exact (Keeps.useFree s 1).trans (txPut_keeps ..)

theorem keysetArrived_keeps (bs : List Byte) : Keeps State.seen s (s.keysetArrived bs) := by
  unfold State.keysetArrived
  dsimp only
  split
  · exact micFail_keeps s
  · exact .ite ((Keeps.onRp s _).trans (.storeWrites _)) (micFail_keeps s)

theorem makeReadyMessage_keeps (r : Reasm) : Keeps State.seen s (s.makeReadyMessage r) := .of_eq rfl rfl

theorem messageWhole_keeps (r : Reasm) : Keeps State.seen s (s.messageWhole r) := by
  have joins := (checkJoin_keeps s r.data)
  unfold State.messageWhole
  dsimp only
  refine .ite (.ite (.refl s) (txPut_keeps ..)) (.ite (keysetArrived_keeps ..) (.ite ?_ (.ite (.ite ?_ ?_) ?_)))
  · exact .ite (joins.trans (makeReadyMessage_keeps ..)) joins
  · exact ((Keeps.flag s 7 _ (by decide) (by rfl) (by rfl)).trans (.fire ..)).trans (makeReadyMessage_keeps ..)
  · exact makeReadyMessage_keeps ..
  · exact makeReadyMessage_keeps ..

theorem collect_keeps (b : Nbr) (h : SegHead) (data : List Byte) (buf : Nat) :
    Keeps State.seen s (s.collect b h data buf) :=
  .ite ((Keeps.of_eq (by rfl) (by rfl)).trans (messageWhole_keeps ..)) (.of_eq (by rfl) (by rfl))

theorem dataBody_keeps (b : Nbr) (plain : List Byte) : Keeps State.seen s (s.dataBody b plain) := by
  have whole (t : State) (h : SegHead) : Keeps State.seen t (match t.per.net.newBuf with
      | some buf => t.collect b h (plain.drop 7) buf
      | none => t) := by
    split
    · exact collect_keeps ..
    · exact .refl t
  have routed : Keeps State.seen s (if b.isChild = true then s.putRoute (segHead plain).orig b.node else s) :=
    .ite (putRoute_keeps ..).seen (.refl s)
  exact .ite (.refl s) (routed.trans (.ite (whole _ _) (forward_keeps ..)))

end Content

end Sys2Proof.Machine

/-! # A frame on its way to the engine -/

namespace Sys2Proof.Machine

open Sys2Proof

section Arrival

variable {s t u : State} {p : PhyFrame} {k : Nat}

/-! ## A frame passed on -/

/-- A frame has been passed on, and nothing has been made of it (R216, R217). -/
structure Heard (s : State) (p : PhyFrame) (t : State) : Prop where
  net : t.per.net = { s.per.net with more := (rxFrame p).more }
  rf : t.per.rf = s.per.rf.passOn p
  rp : t.rp = s.rp
  cores : t.cores = s.cores
  wdn : t.wdn = s.wdn
  ecc : t.mem.ecc = []
  low : ∀ x < dpBase, t.mem.byte x = s.mem.byte x

theorem Heard.wrote (h : Heard s p t) (w : Wrote dpBase t u) : Heard s p u where
  net := by rw [w.per, h.net]
  rf := by rw [w.per, h.rf]
  rp := w.rp.trans h.rp
  cores := w.cores.trans h.cores
  wdn := w.wdn.trans h.wdn
  ecc := w.ecc
  low x hx := (w.low x hx).trans (h.low x hx)

theorem passOn_heard (clean : s.mem.ecc = []) : Heard s p (((s.onRf fun r => r.passOn p).onNet fun n =>
    { n with more := (rxFrame p).more }).countSys 23 1) where
  net := by simp
  rf := by simp
  rp := by simp
  cores := by simp
  wdn := by simp
  ecc := by simpa using clean
  low x _ := by simp

theorem takeFrame_heard (clean : s.mem.ecc = []) : Heard s p (s.takeFrame p) := by
  have counted := passOn_heard (p := p) clean
  unfold State.takeFrame
  dsimp only
  split
  · exact counted.wrote (putBuf_wrote counted.ecc _ _)
  · exact counted

/-- The engine reads its tables without an error, and notes no more than that it has read. -/
theorem readTable_of_clean (clean : s.mem.ecc = []) : ∃ t, s.readTable = (t, false) ∧ Wrote dpBase s t := by
  unfold State.readTable
  split
  · unfold State.netWords
    rw [clean]
    exact ⟨_, rfl, notePortA_wrote clean ..⟩
  · exact ⟨s, rfl, .refl clean⟩

/-! ## The tables after it

The table object lies below DP, where the frame's buffer is. -/

/-- The 8 KiB object of the engine's tables (R228). -/
def State.Tabled (s : State) : Prop :=
  ∃ e, s.tableObj = some e ∧ e.bank < 16 ∧ 256 * e.offs + 0x2000 ≤ bankBytes e.bank

theorem bytes_congr {m n : Memory} {a k : Nat} (h : ∀ x, a ≤ x → x < a + k → m.byte x = n.byte x) :
    m.bytes a k = n.bytes a k := by
  rw [bytes_eq_map, bytes_eq_map]
  exact List.map_congr_left fun j hj => h _ (by omega) (by have := List.mem_range.1 hj; omega)

theorem tab_below (table : s.Tabled) : s.tab + 0x2000 ≤ dpBase := by
  obtain ⟨e, found, bank, room⟩ := table
  unfold State.tab ObjEntry.physical
  rw [found]
  rw [bankBytes, if_pos bank] at room
  simp only [bankBase, if_pos bank, mramBase, dpBase]
  omega

namespace Heard

theorem cnt0 (h : Heard s p t) : t.per.net.cnt0 = s.per.net.cnt0 := by rw [h.net]

theorem cnt2 (h : Heard s p t) : t.per.net.cnt2 = s.per.net.cnt2 := by rw [h.net]

theorem await (h : Heard s p t) : t.per.net.await = s.per.net.await := by rw [h.net]

theorem state (h : Heard s p t) : t.per.net.state = s.per.net.state := by
  rw [h.net]
  rfl

theorem tableObj (h : Heard s p t) : t.tableObj = s.tableObj :=
  State.tableObj_core0 (congrArg Warden.obj h.wdn) (by rw [h.net])

theorem tabNum (h : Heard s p t) (table : s.Tabled) {off n : Nat} (le : off + n ≤ 0x2000) :
    t.tabNum off n = s.tabNum off n := by
  have below := tab_below table
  have tab : t.tab = s.tab := by rw [State.tab, State.tab, h.tableObj]
  rw [State.tabNum, State.tabNum, h.tableObj, tab, Memory.num, Memory.num,
    bytes_congr fun x _ hx => h.low x (by omega)]

theorem nbrAt (h : Heard s p t) (table : s.Tabled) {i : Nat} (hi : i < 64) : t.nbrAt i = s.nbrAt i := by
  have num := h.tabNum table (off := nbrOff i) (n := 32) (by unfold nbrOff; omega)
  rw [State.nbrAt, State.nbrAt, num]

theorem nbrs (h : Heard s p t) (table : s.Tabled) : t.nbrs = s.nbrs :=
  List.filterMap_congr fun _ hi => h.nbrAt table (List.mem_range.1 hi)

theorem nbrOf (h : Heard s p t) (table : s.Tabled) (node : Nat) : t.nbrOf node = s.nbrOf node := by
  rw [State.nbrOf, State.nbrOf, h.nbrs table]

theorem nbrSlot (h : Heard s p t) (table : s.Tabled) : t.nbrSlot = s.nbrSlot := by
  have free : ((List.range 64).find? fun i => (t.nbrAt i).isNone) = (List.range 64).find? fun i => (s.nbrAt i).isNone :=
    List.find?_congr fun i hi => by rw [h.nbrAt table (List.mem_range.1 hi)]
  rw [State.nbrSlot, State.nbrSlot, free, h.nbrs table]

theorem replayed (h : Heard s p t) (table : s.Tabled) (f : RxFrame) : t.replayed f = s.replayed f := by
  rw [State.replayed, State.replayed, h.nbrOf table]

theorem heardSlot (h : Heard s p t) (node : Nat) : t.heardSlot node = s.heardSlot node := by
  rw [State.heardSlot, h.net]
  rfl

theorem nbrFor (h : Heard s p t) (table : s.Tabled) (f : RxFrame) : t.nbrFor f = s.nbrFor f := by
  rw [State.nbrFor, State.nbrFor, h.nbrOf table, h.nbrSlot table, h.heardSlot]

theorem openFrame (h : Heard s p t) (f : RxFrame) : t.openFrame f = s.openFrame f := by
  rw [State.openFrame, h.rp, h.net]
  rfl

theorem isForMe (h : Heard s p t) (f : RxFrame) : t.isForMe f = s.isForMe f := by
  rw [State.isForMe, h.net]
  rfl

theorem exchanging (h : Heard s p t) : t.exchanging = s.exchanging := by
  rw [State.exchanging, h.net, h.rf]
  rfl

theorem sound (h : Heard s p t) (k : s.Sound) : t.Sound :=
  ⟨h.ecc, by rw [h.wdn, k.mig], by rw [h.net]; exact k.en⟩

end Heard

/-! ## What a frame leaves -/

/-- What every answer to a frame shows: the cores, the Warden, the engine's control, and RF_RXINFO. -/
structure Told where
  cores : Vector Core 4
  wdn : Warden
  ctl : Word
  tbl : Word
  info : Word

def Seen.told (v : Seen) : Told := ⟨v.cores, v.wdn, v.ctl, v.tbl, v.info⟩

def State.told (s : State) : Told := s.seen.told

/-- RF_RXINFO of a frame that is passed on (R217). -/
def infoOf (p : PhyFrame) : Word := BitVec.ofNat 32 (p.rssi.toNat + 256 * p.lqi + 65536 * p.fofs.toNat)

theorem Heard.told (h : Heard s p t) : t.told = { s.told with info := infoOf p } := by
  rw [State.told, State.seen, h.cores, h.wdn, h.net, h.rf]
  rfl

/-- The end of a command leaves the engine and the radio as the answer to a frame has left them. -/
theorem finish_told {i : Word} (old : State) (table : s.Tabled) (h : t.told = { s.told with info := i }) :
    (finish old t).per.net = t.per.net ∧ (finish old t).per.rf = t.per.rf ∧ (finish old t).per.rf.rxinfo = i ∧
      (finish old t).cores = s.cores := by
  obtain ⟨e, found, -⟩ := table
  have wdn : t.wdn = s.wdn := congrArg Told.wdn h
  obtain ⟨net, rf⟩ := finish_net_of_tables (s := s) old (by rw [found]; rfl) (congrArg Warden.obj wdn)
    (congrArg Told.tbl h)
  exact ⟨net, rf, by rw [rf]; exact congrArg Told.info h, (finish_cores old t).trans (congrArg Told.cores h)⟩

theorem netClose_eq (s : State) : ∃ r, s.netClose = s.onRf fun _ => r := by
  unfold State.netClose State.netListen
  split
  · split
    · exact ⟨s.per.rf, rfl⟩
    · exact ⟨_, rfl⟩
  · exact ⟨_, rfl⟩

/-- After a frame an engine that runs changes nothing besides the receiver. -/
theorem afterFrame_eq (en : s.per.net.en = true) : ∃ r, s.afterFrame = s.onRf fun _ => r := by
  unfold State.afterFrame
  split
  · exact ⟨s.per.rf, netSettle_of_en en⟩
  · obtain ⟨r, closed⟩ := netClose_eq s
    rw [closed]
    exact ⟨r, netSettle_of_en (s := s.onRf fun _ => r) en⟩

theorem afterFrame_net (en : s.per.net.en = true) : s.afterFrame.per.net = s.per.net := by
  obtain ⟨r, eq⟩ := afterFrame_eq en
  rw [eq]
  rfl

theorem afterFrame_rp (en : s.per.net.en = true) : s.afterFrame.rp = s.rp := by
  obtain ⟨r, eq⟩ := afterFrame_eq en
  rw [eq]
  rfl

theorem afterFrame_told (sound : s.Sound) : s.afterFrame.told = s.told :=
  congrArg Seen.told ((afterFrame_keeps s).view sound)

/-- A frame that is discarded after it has been heard has changed no more than NET_CNT2 and flags. -/
structure Counted (t u : State) : Prop where
  rf : u.per.rf = t.per.rf
  sound : t.Sound → u.Sound
  told : u.told = t.told
  state : u.per.net.state = t.per.net.state
  more : u.per.net.more = t.per.net.more
  seeking : u.per.net.seeking = t.per.net.seeking
  exchanging : u.exchanging = t.exchanging

theorem Counted.refl (t : State) : Counted t t := ⟨rfl, id, rfl, rfl, rfl, rfl, rfl⟩

theorem Counted.micFail (t : State) : Counted t t.micFail := by
  have state : t.micFail.per.net.state = t.per.net.state := state_setBit _ (by decide) true
  refine ⟨rfl, (micFail_keeps t).sound, rfl, state, rfl, ?_, rfl⟩
  rw [Net.seeking, state]
  rfl

theorem Counted.replay (t : State) : Counted t (t.onNet fun n => { n with cnt2 := bump n.cnt2 true }) :=
  ⟨rfl, fun h => ⟨h.ecc, h.mig, h.en⟩, rfl, rfl, rfl, rfl, rfl⟩

/-- The receiver after a frame: open for MORE unless its window has ended, and closed otherwise (R224, R232). -/
def State.Ends (s : State) (p : PhyFrame) (t : State) : Prop :=
  t.per.rf.rxinfo = infoOf p ∧ t.cores = s.cores ∧ ((rxFrame p).more = true → t.per.rf.rxOn = !s.per.rf.closing) ∧
    ((rxFrame p).more = false → s.per.net.seeking = false → t.per.rf.rxOn = false)

theorem afterFrame_rf (sound : u.Sound) (rf : u.per.rf = s.per.rf.passOn p) (on : s.per.rf.rxOn = true)
    (free : u.exchanging = false) :
    (u.per.net.more = true → u.afterFrame.per.rf.rxOn = !s.per.rf.closing) ∧
      (u.per.net.more = false → u.per.net.seeking = false → u.afterFrame.per.rf.rxOn = false) := by
  constructor
  · intro more
    rw [State.afterFrame, free, more, Bool.false_or, if_pos rfl, netSettle_of_en sound.en, rf]
    exact congrArg (· && _) on
  · intro more quiet
    have closes : u.netClose = u.onRf Rf.close := by
      rw [State.netClose, quiet]
      rfl
    rw [State.afterFrame, free, more, Bool.false_or, if_neg Bool.false_ne_true, closes,
      netSettle_of_en (s := u.onRf Rf.close) sound.en]
    show u.per.rf.close.rxOn = false
    rw [rf, Rf.close, if_neg (by simp [Rf.passOn, Rf.unlock])]

/-- A frame that is discarded after it has been heard (R217, R232). -/
theorem Counted.finish (h : Heard s p t) (c : Counted t u) (sound : s.Sound) (table : s.Tabled)
    (on : s.per.rf.rxOn = true) (free : s.exchanging = false) :
    s.Ends p (finish s u.afterFrame) ∧ (Machine.finish s u.afterFrame).per.net = u.per.net := by
  have run := c.sound (h.sound sound)
  have told : u.afterFrame.told = { s.told with info := infoOf p } := by
    rw [afterFrame_told run, c.told, h.told]
  obtain ⟨net, rf, info, cores⟩ := finish_told s table told
  obtain ⟨opens, closed⟩ := afterFrame_rf run (c.rf.trans h.rf) on (by rw [c.exchanging, h.exchanging, free])
  have more : u.per.net.more = (rxFrame p).more := by rw [c.more, h.net]
  have seeking : u.per.net.seeking = s.per.net.seeking := by rw [c.seeking, h.net]; rfl
  rw [more] at opens closed
  rw [seeking] at closed
  rw [State.Ends, rf, net]
  exact ⟨⟨rf ▸ info, cores, opens, closed⟩, afterFrame_net run.en⟩

/-! ## Whether a frame is taken -/

/-- The receiver has locked, the frame's header and CRC-32 stand, and an engine is there to take it (R212, R216, R258). -/
def State.Gets (s : State) (p : PhyFrame) : Prop :=
  s.running = true ∧ s.per.rf.rxOn = true ∧ s.per.rf.locked = true ∧ p.badHeader s.per.rf.baud = false ∧
    p.badCrc = false ∧ (s.per.net.en = true ∨ s.per.net.state ≠ netOff)

theorem gets_iff : (!s.hears || p.badHeader s.per.rf.baud || p.badCrc) = false ↔ s.Gets p := by
  simp only [State.hears, State.Gets, Bool.or_eq_false_iff, Bool.not_eq_false', Bool.and_eq_true, Bool.or_eq_true,
    decide_eq_true_eq]
  tauto

variable {body : State → RxFrame → State}

theorem arrives_idle (h : ¬(s.Gets p ∧ ((rxFrame p).typ = k ∨ (rxFrame p).typ = 7))) : s.arrives p k body = s := by
  refine if_pos ?_
  by_contra no
  obtain ⟨gets, typ⟩ := Bool.or_eq_false_iff.1 (Bool.eq_false_of_not_eq_true no)
  exact h ⟨gets_iff.1 gets, by simpa [or_iff_not_imp_left] using typ⟩

theorem arrives_of_gets (h : s.Gets p) (typ : (rxFrame p).typ = k ∨ (rxFrame p).typ = 7) :
    s.arrives p k body = if decide ((rxFrame p).typ = 7) || s.exchanging then (s.takeFrame p).afterFrame
      else (s.takeFrame p).unlessBad (s.takeFrame p).readTable State.frameSpoilt fun t => body t (rxFrame p) := by
  refine if_neg ?_
  rw [gets_iff.2 h, Bool.false_or, decide_eq_true_eq]
  tauto

theorem arrives_unheard (h : s.Gets p)
    (typ : (rxFrame p).typ = 7 ∨ ((rxFrame p).typ = k ∧ ¬s.exchanging = false)) :
    s.arrives p k body = (s.takeFrame p).afterFrame := by
  rw [arrives_of_gets h (by tauto), if_pos]
  rcases typ with typ | ⟨-, busy⟩
  · simp [typ]
  · simp [Bool.eq_true_of_not_eq_false busy]

theorem arrives_body (h : s.Gets p) (typ : (rxFrame p).typ = k) (lt : k ≠ 7) (free : s.exchanging = false)
    (clean : s.mem.ecc = []) : ∃ t, Heard s p t ∧ ∀ body, s.arrives p k body = body t (rxFrame p) := by
  have heard : Heard s p (s.takeFrame p) := takeFrame_heard clean
  obtain ⟨t, read, wrote⟩ := readTable_of_clean heard.ecc
  refine ⟨t, heard.wrote wrote, fun body => ?_⟩
  rw [arrives_of_gets h (.inl typ), typ, decide_eq_false lt, free, Bool.false_or, if_neg Bool.false_ne_true, read]
  rfl

end Arrival

end Sys2Proof.Machine

/-! # Frames that an engine takes -/

namespace Sys2Proof.Machine

open Sys2Proof

/-! ## A frame that passed its checks -/

section Checks

variable {s t : State} {f : RxFrame} {b : Nbr} {go : State → Nbr → State}

theorem accepted_replay (h : s.replayed f = true) :
    s.accepted f go = (s.onNet fun n => { n with cnt2 := bump n.cnt2 true }).afterFrame := if_pos h

theorem accepted_none (h : s.replayed f = false) (none_ : s.nbrFor f = none) : s.accepted f go = s.afterFrame := by
  rw [State.accepted, if_neg (by rw [h]; exact nofun), none_]

theorem accepted_some (h : s.replayed f = false) (some_ : s.nbrFor f = some b) :
    s.accepted f go = go (s.acceptFrame f b) b := by
  rw [State.accepted, if_neg (by rw [h]; exact nofun), some_]

/-- A frame that passed counts in NET_CNT0, and its checks leave what `accepting` shows (R245, R259). -/
theorem acceptFrame_accepts (sound : s.Sound) (f : RxFrame) (b : Nbr) : (s.acceptFrame f b).Sound ∧
    (s.acceptFrame f b).accepting = { s.accepting with cnt0 := bump s.per.net.cnt0 true } := by
  have put := (putNbr_keeps s b).accepting
  have sound' := put.sound sound
  have parent := fromParent_keeps ((s.putNbr b).onNet fun n => { n with cnt0 := bump n.cnt0 true }) f b
  have counted : State.Sound ((s.putNbr b).onNet fun n => { n with cnt0 := bump n.cnt0 true }) :=
    ⟨sound'.ecc, sound'.mig, sound'.en⟩
  refine ⟨parent.sound counted, (parent.view counted).trans ?_⟩
  exact congrArg (fun v : Accepting => { v with cnt0 := bump v.cnt0 true }) (put.view sound)

/-- What a frame's content does where it is taken (R233, R239, R241, R242). -/
def State.content (s : State) (f : RxFrame) (may : State → Bool) (body : State → Nbr → List Byte → State) (b : Nbr)
    (plain : List Byte) : State :=
  if !s.isForMe f then s.afterFrame
  else if f.bcast then (body s b plain).afterFrame
  else if s.per.net.newBuf.isNone then (s.netFlag 10).afterFrame
  else if !may s then s.afterFrame
  else
    let r := s.linkCheck f b
    (if r.2 then body r.1 b plain else r.1).sendAck f

theorem content_keeps {may : State → Bool} {body : State → Nbr → List Byte → State}
    (h : ∀ t b plain, Keeps State.seen t (body t b plain)) (plain : List Byte) :
    Keeps State.seen s (s.content f may body b plain) := by
  refine .ite (afterFrame_keeps s) (.ite ((h s b plain).trans (afterFrame_keeps _)) (.ite ?_ ?_))
  · exact (Keeps.netFlag s 10 (by decide)).trans (afterFrame_keeps _)
  · refine .ite (afterFrame_keeps s) ?_
    exact ((linkCheck_keeps s f b).trans (.ite (h ..) (.refl _))).trans (sendAck_keeps _ f)

end Checks

section Frames

variable {s : State} {p : PhyFrame}

/-- A MIC that fails counts, with its flag (R259). -/
def Net.Failed (n m : Net) : Prop := m.cnt2 = bump n.cnt2 false ∧ bit m.stat 19 = true

theorem micFail_failed {n : Net} (h : s.per.net.cnt2 = n.cnt2) : n.Failed s.micFail.per.net :=
  ⟨congrArg (bump · false) h, (bit_setBit ..).trans (if_pos ⟨rfl, by decide⟩)⟩

theorem Heard.failed {t : State} (h : Heard s p t) : s.per.net.Failed t.micFail.per.net := micFail_failed h.cnt2

/-- A frame without errors that the engine hears, while memory has none. -/
structure State.Takes (s : State) (p : PhyFrame) : Prop where
  gets : s.Gets p
  en : s.per.net.en = true
  table : s.Tabled
  ecc : s.mem.ecc = []
  mig : s.wdn.mig = none

theorem State.Takes.sound (h : s.Takes p) : s.Sound := ⟨h.ecc, h.mig, h.en⟩

theorem State.Takes.on (h : s.Takes p) : s.per.rf.rxOn = true := by
  obtain ⟨-, on, -⟩ := h.gets
  exact on

/-- The end of a command after work that left what is seen. -/
theorem finish_heard {t u : State} (h : s.Takes p) (heard : Heard s p t) (told : u.told = t.told) :
    (finish s u).per.net = u.per.net ∧ (finish s u).per.rf.rxinfo = infoOf p ∧ (finish s u).cores = s.cores := by
  obtain ⟨net, -, info, cores⟩ := finish_told s h.table (told.trans heard.told)
  exact ⟨net, info, cores⟩

/-! ## Frames with a link MIC -/

section Link

variable {k : Nat}

/-- What is seen of a frame that the engine takes, whatever its content does (R217, R245, R259). -/
theorem accepted_leaves {t : State} {go : State → Nbr → State} (h : s.Takes p) (free : s.exchanging = false)
    (heard : Heard s p t) (keeps : ∀ v b, Keeps State.lasting v (go v b)) :
    let f := rxFrame p
    let n := s.per.net
    let u := finish s (t.accepted f go)
    u.per.rf.rxinfo = infoOf p ∧ u.cores = s.cores ∧
      (s.replayed f = true → s.Ends p u ∧ u.per.net.cnt2 = bump n.cnt2 true ∧ u.per.net.cnt0 = n.cnt0 ∧
        u.per.net.state = n.state) ∧
      (s.replayed f = false → s.nbrFor f = none → s.Ends p u ∧ u.per.net.cnt0 = n.cnt0 ∧ u.per.net.cnt2 = n.cnt2 ∧
        u.per.net.state = n.state) ∧
      (s.replayed f = false → ∀ b, s.nbrFor f = some b → u.per.net.cnt0 = bump n.cnt0 true ∧
        u = finish s (go (t.acceptFrame f b) b) ∧ u.per.net = (go (t.acceptFrame f b) b).per.net) := by
  intro f n u
  have cnt0 : t.per.net.cnt0 = n.cnt0 := heard.cnt0
  have cnt2 : t.per.net.cnt2 = n.cnt2 := heard.cnt2
  have state : t.per.net.state = n.state := heard.state
  have again := heard.replayed h.table f
  have entries := heard.nbrFor h.table f
  cases replay : s.replayed f with
  | true =>
    have out : u = finish s _ := congrArg (finish s) (accepted_replay (again.trans replay))
    obtain ⟨ends, net⟩ := (Counted.replay t).finish heard h.sound h.table h.on free
    rw [← out] at ends net
    have ⟨info, cores, _⟩ := ends
    exact ⟨info, cores, fun _ => ⟨ends, by rw [net, ← cnt2]; rfl, (congrArg Net.cnt0 net).trans cnt0,
      (congrArg Net.state net).trans state⟩, nofun, nofun⟩
  | false =>
    cases entry : s.nbrFor f with
    | none =>
      have out : u = finish s _ := congrArg (finish s) (accepted_none (again.trans replay) (entries.trans entry))
      obtain ⟨ends, net⟩ := (Counted.refl t).finish heard h.sound h.table h.on free
      rw [← out] at ends net
      have ⟨info, cores, _⟩ := ends
      exact ⟨info, cores, nofun, fun _ _ => ⟨ends, by rw [net, cnt0], by rw [net, cnt2], by rw [net, state]⟩, nofun⟩
    | some b =>
      have out : u = finish s _ := congrArg (finish s) (accepted_some (again.trans replay) (entries.trans entry))
      obtain ⟨sound, accepts⟩ := acceptFrame_accepts (heard.sound h.sound) f b
      have lasts : (go (t.acceptFrame f b) b).lasting = { t.lasting with cnt0 := bump t.per.net.cnt0 true } :=
        ((keeps _ b).view sound).trans (congrArg (fun v : Accepting => { v.toSeen with state := 0 }) accepts)
      have told := congrArg Seen.told lasts
      obtain ⟨net, info, cores⟩ := finish_heard h heard told
      rw [← out] at net info cores
      refine ⟨info, cores, nofun, nofun, fun _ _ e => ?_⟩
      obtain rfl := Option.some.inj e
      refine ⟨?_, out, net⟩
      rw [net, ← cnt0]
      exact congrArg Seen.cnt0 lasts

theorem receive_eq {may : State → Bool} {body : State → Nbr → List Byte → State} :
    s.receive p k may body = s.arrives p k fun s f =>
      match s.openFrame f with
      | none => s.micFail.afterFrame
      | some plain => s.accepted f fun s b => s.content f may body b plain := rfl

/-- What is seen of a frame with a link MIC (R217, R243, R245, R259). -/
theorem receive_leaves {may : State → Bool} {body : State → Nbr → List Byte → State} (h : s.Takes p)
    (free : s.exchanging = false) (typ : (rxFrame p).typ = k) (lt : k ≠ 7)
    (keeps : ∀ t b plain, Keeps State.seen t (body t b plain)) :
    let f := rxFrame p
    let n := s.per.net
    let u := finish s (s.receive p k may body)
    u.per.rf.rxinfo = infoOf p ∧ u.cores = s.cores ∧
      (s.openFrame f = none → s.Ends p u ∧ n.Failed u.per.net ∧ u.per.net.cnt0 = n.cnt0) ∧
      (∀ plain, s.openFrame f = some plain →
        (s.replayed f = true → s.Ends p u ∧ u.per.net.cnt2 = bump n.cnt2 true ∧ u.per.net.cnt0 = n.cnt0) ∧
        (s.replayed f = false → s.nbrFor f = none → s.Ends p u ∧ u.per.net.cnt0 = n.cnt0 ∧ u.per.net.cnt2 = n.cnt2) ∧
        (s.replayed f = false → ∀ b, s.nbrFor f = some b → u.per.net.cnt0 = bump n.cnt0 true ∧
          (¬(f.bcast = true ∨ f.dst = n.me) → u.per.net.cnt2 = n.cnt2))) := by
  intro f n u
  obtain ⟨t, heard, eq⟩ := arrives_body h.gets typ lt free h.ecc
  have out : u = finish s _ := congrArg (finish s) (receive_eq.trans (eq _))
  rw [heard.openFrame] at out
  cases opened : s.openFrame f with
  | none =>
    rw [opened] at out
    obtain ⟨ends, net⟩ := (Counted.micFail t).finish heard h.sound h.table h.on free
    rw [← out] at ends net
    have ⟨info, cores, _⟩ := ends
    exact ⟨info, cores, fun _ => ⟨ends, net ▸ heard.failed, (congrArg Net.cnt0 net).trans heard.cnt0⟩, nofun⟩
  | some plain =>
    rw [opened] at out
    obtain ⟨info, cores, replay, lost, passed⟩ := accepted_leaves h free heard
      (go := fun s b => s.content f may body b plain) fun v b => (content_keeps keeps plain).lasting
    rw [← out] at info cores replay lost passed
    refine ⟨info, cores, nofun, fun _ _ => ⟨fun old => ?_, fun fresh none_ => ?_, fun fresh b entry => ?_⟩⟩
    · obtain ⟨ends, cnt2, cnt0, -⟩ := replay old
      exact ⟨ends, cnt2, cnt0⟩
    · obtain ⟨ends, cnt0, cnt2, -⟩ := lost fresh none_
      exact ⟨ends, cnt0, cnt2⟩
    obtain ⟨cnt0, -, net⟩ := passed fresh b entry
    obtain ⟨sound, accepts⟩ := acceptFrame_accepts (heard.sound h.sound) f b
    refine ⟨cnt0, fun other => ?_⟩
    have id := congrArg Accepting.id accepts
    have same : (t.acceptFrame f b).isForMe f = s.isForMe f := by
      rw [State.isForMe, Net.me, show (t.acceptFrame f b).per.net.id = t.per.net.id from id, heard.net]
      rfl
    have passes : (t.acceptFrame f b).content f may body b plain = (t.acceptFrame f b).afterFrame := by
      refine if_pos ?_
      rw [same, State.isForMe]
      simpa using other
    rw [net, passes, afterFrame_net sound.en]
    exact (congrArg Accepting.cnt2 accepts).trans heard.cnt2

/-- A seeking node takes a beacon without its MIC, and goes on seeking (R247). -/
theorem beacon_leaves (h : s.Takes p) (free : s.exchanging = false) (typ : (rxFrame p).typ = 0)
    (seeks : s.per.net.state = netSeek) :
    let f := rxFrame p
    let n := s.per.net
    let u := finish s (s.beaconReceived p)
    u.per.rf.rxinfo = infoOf p ∧ u.cores = s.cores ∧ u.per.net.state = n.state ∧
      (s.replayed f = true → u.per.net.cnt2 = bump n.cnt2 true ∧ u.per.net.cnt0 = n.cnt0) ∧
      (s.replayed f = false → s.nbrFor f = none → u.per.net.cnt0 = n.cnt0 ∧ u.per.net.cnt2 = n.cnt2) ∧
      (s.replayed f = false → ∀ b, s.nbrFor f = some b → u.per.net.cnt0 = bump n.cnt0 true) := by
  intro f n u
  obtain ⟨t, heard, eq⟩ := arrives_body h.gets typ (by decide) free h.ecc
  have out : u = finish s _ := congrArg (finish s) ((if_pos seeks).trans (eq _))
  have keeps (v : State) (b : Nbr) : Keeps State.seen v (v.beaconBody b f.payload).afterFrame :=
    (beaconBody_keeps v b _).trans (afterFrame_keeps _)
  obtain ⟨info, cores, replay, lost, passed⟩ := accepted_leaves h free heard
    (go := fun s b => (s.beaconBody b f.payload).afterFrame) fun v b => (keeps v b).lasting
  rw [← out] at info cores replay lost passed
  cases old : s.replayed f with
  | true =>
    obtain ⟨-, cnt2, cnt0, state⟩ := replay old
    exact ⟨info, cores, state, fun _ => ⟨cnt2, cnt0⟩, nofun, nofun⟩
  | false =>
    cases entry : s.nbrFor f with
    | none =>
      obtain ⟨-, cnt0, cnt2, state⟩ := lost old entry
      exact ⟨info, cores, state, nofun, fun _ _ => ⟨cnt0, cnt2⟩, nofun⟩
    | some b =>
      obtain ⟨sound, accepts⟩ := acceptFrame_accepts (heard.sound h.sound) f b
      obtain ⟨cnt0, -, net⟩ := passed old b entry
      refine ⟨info, cores, ?_, nofun, nofun, fun _ c same => ?_⟩
      · rw [net]
        exact ((congrArg Seen.state ((keeps _ b).view sound)).trans (congrArg (fun a => a.state) accepts)).trans
          heard.state
      · exact cnt0

end Link

end Frames

end Sys2Proof.Machine

/-! # Joining (R247, R257) -/

namespace Sys2Proof.Machine

open Sys2Proof

section Join

variable {s t : State} {p : PhyFrame}

/-! ## A joiner at the Basecamp -/

/-- The JOIN message of the joiner that a JOIN_REQ comes from (R257). -/
def joinMessage (f : RxFrame) : List Byte := 1#8 :: bytesOfNat 2 f.src ++ bytesOfNat 6 f.fcnt ++ f.payload.take 8

theorem numOf_take_lt (l : List Byte) (k : Nat) : numOf (l.take k) < 256 ^ k :=
  (numOf_lt _).trans_le (Nat.pow_le_pow_right (by decide) (List.length_take_le k l))

theorem joinMessage_joiner (p : PhyFrame) :
    numOf (((joinMessage (rxFrame p)).drop 1).take 2) % 1024 = (rxFrame p).src := by
  have small : (rxFrame p).src < 1024 := Nat.mod_lt _ (by decide)
  show numOf (bytesOfNat 2 (rxFrame p).src) % 1024 = _
  rw [numOf_bytesOfNat]
  omega

theorem joinMessage_count (p : PhyFrame) : numOf (((joinMessage (rxFrame p)).drop 3).take 6) = (rxFrame p).fcnt := by
  show numOf (bytesOfNat 6 (rxFrame p).fcnt) = _
  rw [numOf_bytesOfNat]
  exact Nat.mod_eq_of_lt (numOf_take_lt _ 6)

theorem joinMessage_mic (f : RxFrame) : ((joinMessage f).drop 9).take 8 = f.payload.take 8 := by
  show (f.payload.take 8).take 8 = _
  rw [List.take_take, Nat.min_self]

theorem checkJoin_joinMessage {k : List Byte} (key : s.rp.key (2 + (rxFrame p).src) = some k) :
    s.checkJoin (joinMessage (rxFrame p)) =
      if s.per.net.joinReqMic k (rxFrame p).src (rxFrame p).fcnt = (rxFrame p).payload.take 8 then
        (s.onNet fun n => { n with
          joins := ((rxFrame p).src, (rxFrame p).fcnt) :: n.joins.filter fun j => decide (j.1 ≠ (rxFrame p).src) }, true)
      else (s.micFail, false) := by
  unfold State.checkJoin
  simp only [joinMessage_joiner, joinMessage_count, joinMessage_mic, key]

theorem localMessage_joins (s : State) (bs : List Byte) : (s.localMessage bs).per.net.joins = s.per.net.joins := by
  unfold State.localMessage
  split <;> rfl

/-- What the Basecamp makes of a JOIN_REQ. -/
def State.greeted (s : State) (f : RxFrame) : State :=
  let r := s.checkJoin (joinMessage f)
  if r.2 then r.1.localMessage (joinMessage f) else r.1

theorem greeted_keeps (s : State) (f : RxFrame) : Keeps State.seen s (s.greeted f) :=
  (checkJoin_keeps s _).trans (.ite (localMessage_keeps ..) (.refl _))

/-- What a node with a place in the tree makes of a JOIN_REQ: the Basecamp checks it, and a router passes it on. -/
def State.greets (s : State) (f : RxFrame) : State :=
  if s.per.net.base then (s.greeted f).afterFrame else (s.queueControl 0 (joinMessage f)).afterFrame

theorem greets_keeps (s : State) (f : RxFrame) : Keeps State.seen s (s.greets f) :=
  .ite ((greeted_keeps s f).trans (afterFrame_keeps _)) ((queueControl_keeps ..).trans (afterFrame_keeps _))

theorem greeted_right {k : List Byte} (key : s.rp.key (2 + (rxFrame p).src) = some k)
    (mic : s.per.net.joinReqMic k (rxFrame p).src (rxFrame p).fcnt = (rxFrame p).payload.take 8) :
    (s.greeted (rxFrame p)).per.net.joins.lookup (rxFrame p).src = some (rxFrame p).fcnt := by
  rw [State.greeted, checkJoin_joinMessage key, if_pos mic]
  exact (congrArg (List.lookup _) (localMessage_joins ..)).trans List.lookup_cons_self

theorem greeted_wrong {k : List Byte} (key : s.rp.key (2 + (rxFrame p).src) = some k)
    (mic : s.per.net.joinReqMic k (rxFrame p).src (rxFrame p).fcnt ≠ (rxFrame p).payload.take 8) :
    s.greeted (rxFrame p) = s.micFail := by
  rw [State.greeted, checkJoin_joinMessage key, if_neg mic]
  rfl

/-- A JOIN_REQ that the Basecamp takes. -/
theorem joinReq_leaves (h : s.Takes p) (free : s.exchanging = false) (typ : (rxFrame p).typ = 3)
    (mine : s.isForMe (rxFrame p) = true) (base : s.per.net.base = true) (state : s.per.net.state = netBase)
    (fresh : s.replayed (rxFrame p) = false) {b : Nbr} (entry : s.nbrFor (rxFrame p) = some b) {k : List Byte}
    (key : s.rp.key (2 + (rxFrame p).src) = some k) :
    let f := rxFrame p
    let n := s.per.net
    let u := finish s (s.joinReqReceived p)
    u.per.rf.rxinfo = infoOf p ∧ u.cores = s.cores ∧ u.per.net.cnt0 = bump n.cnt0 true ∧
      (n.joinReqMic k f.src f.fcnt = f.payload.take 8 → u.per.net.joins.lookup f.src = some f.fcnt) ∧
      (n.joinReqMic k f.src f.fcnt ≠ f.payload.take 8 → n.Failed u.per.net ∧ u.per.net.joins = n.joins) := by
  intro f n u
  obtain ⟨t, heard, eq⟩ := arrives_body h.gets typ (by decide) free h.ecc
  have placed : s.per.net.placed = true := by rw [Net.placed, state]; rfl
  have here : (!t.isForMe f || !t.per.net.placed || !(t.per.net.router || t.per.net.base)) = false := by
    rw [heard.isForMe, mine, heard.net]
    show (!s.per.net.placed || !(s.per.net.router || s.per.net.base)) = false
    rw [placed, base, Bool.or_true]
    rfl
  obtain ⟨sound, accepts⟩ := acceptFrame_accepts (heard.sound h.sound) f b
  let v := t.acceptFrame f b
  have base' : v.per.net.base = true := by
    rw [Net.base, show v.per.net.ctl = t.per.net.ctl from congrArg (fun a => a.ctl) accepts, heard.net]
    exact base
  have out : u = finish s (t.accepted f fun v _ => v.greets f) :=
    congrArg (finish s) ((eq _).trans (if_neg (by rw [here]; exact nofun)))
  obtain ⟨info, cores, -, -, passed⟩ := accepted_leaves h free heard (go := fun v _ => v.greets f)
    fun v _ => (greets_keeps v f).lasting
  obtain ⟨cnt0, -, net⟩ := passed fresh b entry
  rw [← out] at info cores cnt0 net
  rw [State.greets, if_pos base', afterFrame_net ((greeted_keeps v f).sound sound).en] at net
  have nodeKey : v.rp.key (2 + f.src) = some k :=
    (congrFun (congrArg Accepting.nodeKey accepts) f.src).trans ((congrArg (·.key (2 + f.src)) heard.rp).trans key)
  have netid : v.per.net.joinReqMic k f.src f.fcnt = n.joinReqMic k f.src f.fcnt := by
    rw [Net.joinReqMic, Net.netid, show v.per.net.id = t.per.net.id from congrArg Accepting.id accepts, heard.net]
    rfl
  rw [net] at cnt0 ⊢
  refine ⟨info, cores, cnt0, fun right => greeted_right nodeKey (netid.trans right), fun wrong => ?_⟩
  rw [greeted_wrong nodeKey (netid ▸ wrong)]
  have joins : v.per.net.joins = n.joins := (congrArg Accepting.joins accepts).trans (by rw [State.accepting, heard.net])
  have cnt2 : v.per.net.cnt2 = n.cnt2 := (congrArg Accepting.cnt2 accepts).trans heard.cnt2
  exact ⟨micFail_failed cnt2, joins⟩

/-! ## The joiner -/

theorem putJoined_keeps (s : State) (joined : Bool) : Keeps State.untabled s (s.putJoined joined) := .tabPut ..

theorem takeParent_keeps (s : State) (node : Nat) : Keeps State.untabled s (s.takeParent node) := by
  have others : Keeps State.untabled s (s.nbrs.foldl (fun (s : State) b =>
      if b.isParent ∧ b.node ≠ node then s.putNbr { b with isParent := false } else s) s) :=
    .foldl (fun t _ => .ite (putNbr_keeps ..) (.refl t)) _ s
  unfold State.takeParent
  dsimp only
  split
  · exact others
  · exact others.trans (((putParent_keeps ..).trans (putNbr_keeps ..)).trans (remap_keeps _))

/-- The joiner with its slot and key, before it writes its tables (R247). -/
def State.welcomed (s : State) (slot : Nat) (key : List Byte) : State :=
  ((s.onRp fun r => r.setKey 0 key).storeWrites).onNet fun n =>
    { (n.setState netJoined).flag 12 with own := slot % 2048, cand := none, timing := true, pmiss := 0 }

theorem joined_keeps (s : State) (f : RxFrame) (slot : Nat) (key : List Byte) :
    Keeps State.untabled (s.welcomed slot key) (s.joined f slot key) :=
  (((putParent_keeps ..).trans (takeParent_keeps ..)).trans (putJoined_keeps ..)).trans (remap_keeps _)

theorem welcomed_state (s : State) (slot : Nat) (key : List Byte) : (s.welcomed slot key).per.net.state = netJoined :=
  (state_setBit _ (by decide) true).trans (bits_setBits_same _ _ (by decide))

theorem welcomed_flag (s : State) (slot : Nat) (key : List Byte) : bit (s.welcomed slot key).per.net.stat 12 = true :=
  (bit_setBit ..).trans (if_pos ⟨rfl, by decide⟩)

/-- What a JOIN_RSP that is right gives the joiner. -/
theorem joined_leaves (sound : s.Sound) (f : RxFrame) (slot : Nat) (key : List Byte) :
    (s.joined f slot key).Sound ∧ (s.joined f slot key).seen = { s.seen with state := netJoined } ∧
      (s.joined f slot key).per.net.own = slot % 2048 ∧ bit (s.joined f slot key).per.net.stat 12 = true ∧
      (s.joined f slot key).rp.key 0 = some key ∧ (s.joined f slot key).per.net.cand = none ∧
      (s.joined f slot key).per.net.timing = true := by
  have welcomed : (s.welcomed slot key).Sound := ⟨sound.ecc, sound.mig, sound.en⟩
  have keeps := joined_keeps s f slot key
  generalize s.joined f slot key = u at keeps ⊢
  have view := keeps.view welcomed
  have net {α : Type} (g : Untabled → α) : g u.untabled = g (s.welcomed slot key).untabled := congrArg g view
  refine ⟨keeps.sound welcomed, ?_, net (·.net.own), (net (bit ·.net.stat 12)).trans (welcomed_flag s slot key),
    (net (·.rp.key 0)).trans (key_setKey_same s.rp key), net (·.net.cand), net (·.net.timing)⟩
  exact (keeps.seen.view welcomed).trans (congrArg (fun k => { s.seen with state := k }) (welcomed_state s slot key))

/-- The MIC of a JOIN_RSP and the key that it carries (R247, R257). -/
def Net.joinKey (n : Net) (k : List Byte) (f : RxFrame) : List Byte :=
  ccmStream k (netNonce n.netid n.me n.joinFc typJoinRsp false) ((f.payload.drop 2).take 16)

abbrev Net.JoinRight (n : Net) (k : List Byte) (f : RxFrame) : Prop :=
  f.payload.length = 26 ∧ ccmMic k (netNonce n.netid n.me n.joinFc typJoinRsp false) (f.payload.take 2) (n.joinKey k f) =
    f.payload.drop 18

theorem Heard.joinKey (h : Heard s p t) (k : List Byte) (f : RxFrame) :
    t.per.net.joinKey k f = s.per.net.joinKey k f := by
  rw [h.net]
  rfl

theorem Heard.joinRight (h : Heard s p t) (k : List Byte) (f : RxFrame) :
    t.per.net.JoinRight k f ↔ s.per.net.JoinRight k f := by
  rw [h.net]
  rfl

/-- A JOIN_RSP from the candidate of a joiner comes to the check of its MIC. -/
theorem joinRsp_checks (h : s.Takes p) (free : s.exchanging = false) (typ : (rxFrame p).typ = 4)
    (mine : s.isForMe (rxFrame p) = true) (state : s.per.net.state = netJoining)
    (cand : s.per.net.cand = some (rxFrame p).src) {k : List Byte} (key : s.rp.key (2 + s.per.net.me) = some k) :
    ∃ t, Heard s p t ∧ s.joinRspReceived p =
      if t.per.net.JoinRight k (rxFrame p) then t.accepted (rxFrame p) fun s _ =>
        (s.joined (rxFrame p) (numOf ((rxFrame p).payload.take 2)) (t.per.net.joinKey k (rxFrame p))).afterFrame
      else t.micFail.afterFrame := by
  obtain ⟨t, heard, eq⟩ := arrives_body h.gets typ (by decide) free h.ecc
  refine ⟨t, heard, (eq _).trans ?_⟩
  have passes : ¬(t.per.net.state ≠ netJoining ∨ t.isForMe (rxFrame p) = false ∨
      t.per.net.cand ≠ some (rxFrame p).src) := by
    rw [heard.state, heard.isForMe, mine, heard.net, state]
    simp [cand]
  have nodeKey : t.rp.key (2 + t.per.net.me) = some k := by
    rw [heard.rp, heard.net]
    exact key
  refine (if_neg passes).trans ?_
  rw [nodeKey]
  rfl

/-- A JOIN_RSP from the joiner's candidate (R247, R257). -/
theorem joinRsp_leaves (h : s.Takes p) (free : s.exchanging = false) (typ : (rxFrame p).typ = 4)
    (mine : s.isForMe (rxFrame p) = true) (state : s.per.net.state = netJoining)
    (cand : s.per.net.cand = some (rxFrame p).src) {k : List Byte} (key : s.rp.key (2 + s.per.net.me) = some k) :
    let f := rxFrame p
    let n := s.per.net
    let u := finish s (s.joinRspReceived p)
    u.per.rf.rxinfo = infoOf p ∧ u.cores = s.cores ∧
      (n.JoinRight k f → s.replayed f = false → ∀ b, s.nbrFor f = some b →
        u.per.net.state = netJoined ∧ u.per.net.own = numOf (f.payload.take 2) % 2048 ∧ bit u.per.net.stat 12 = true ∧
        u.rp.key 0 = some (n.joinKey k f) ∧ u.per.net.cnt0 = bump n.cnt0 true ∧ u.per.net.cand = none ∧
        u.per.net.timing = true) ∧
      (¬n.JoinRight k f → n.Failed u.per.net ∧ u.per.net.state = netJoining) := by
  intro f n u
  obtain ⟨t, heard, eq⟩ := joinRsp_checks h free typ mine state cand key
  have right_iff := heard.joinRight k f
  by_cases right : n.JoinRight k f
  · have out : u = finish s _ := congrArg (finish s) (eq.trans (if_pos (right_iff.2 right)))
    rw [heard.joinKey] at out
    let joins (v : State) := v.joined f (numOf (f.payload.take 2)) (n.joinKey k f)
    have lasts (v : State) : Keeps State.lasting v (joins v).afterFrame := by
      have joined : Keeps State.lasting v (joins v) := ⟨fun sound => (joined_leaves sound f _ _).1,
        fun sound => congrArg (fun w : Seen => { w with state := 0 }) (joined_leaves sound f _ _).2.1⟩
      exact joined.trans (afterFrame_keeps _).lasting
    obtain ⟨info, cores, -, -, passed⟩ := accepted_leaves h free heard (go := fun v _ => (joins v).afterFrame)
      fun v _ => lasts v
    rw [← out] at info cores passed
    refine ⟨info, cores, fun _ fresh b entry => ?_, fun no => absurd right no⟩
    obtain ⟨cnt0, last, net⟩ := passed fresh b entry
    obtain ⟨sound, seen, own, flag, netKey, cand, timing⟩ := joined_leaves
      (acceptFrame_accepts (heard.sound h.sound) f b).1 f (numOf (f.payload.take 2)) (n.joinKey k f)
    have keys : u.rp.key 0 = some (n.joinKey k f) := by
      rw [last, Ridgepole.key, finish_rp_keys, afterFrame_rp sound.en]
      exact netKey
    rw [afterFrame_net sound.en] at net
    rw [net] at cnt0 ⊢
    exact ⟨congrArg Seen.state seen, own, flag, keys, cnt0, cand, timing⟩
  · have out : u = finish s _ := congrArg (finish s) (eq.trans (if_neg (mt right_iff.1 right)))
    obtain ⟨ends, net⟩ := (Counted.micFail t).finish heard h.sound h.table h.on free
    rw [← out] at ends net
    have ⟨info, cores, _⟩ := ends
    refine ⟨info, cores, fun yes => absurd yes right, fun _ => ⟨net ▸ heard.failed, ?_⟩⟩
    rw [net, (Counted.micFail t).state, heard.state, state]

end Join

end Sys2Proof.Machine

/-! # The ACK of a frame (R239, R240) -/

namespace Sys2Proof.Machine

open Sys2Proof

section Ack

variable {s t : State} {p : PhyFrame} {g : TxFrame}

/-! ## Whether an ACK ends an exchange -/

/-- A frame of type ACK, and the LSEQ that it carries (R239). -/
def IsAck (p : PhyFrame) : Prop := numOf (p.body.take 1) % 8 = 2

def ackSeq (p : PhyFrame) : Nat := numOf ((p.body.drop 1).take 2) % 4096

/-- `g` waits for its ACK, and this is the ACK's LSEQ. -/
def State.Awaits (s : State) (p : PhyFrame) (g : TxFrame) : Prop :=
  s.per.net.await = some g ∧ g.bcast = false ∧ g.typ ≠ 3 ∧ g.typ ≠ 4 ∧ g.lseq = some (ackSeq p)

theorem awaits_iff : s.Awaits p g ↔ s.per.net.await = some g ∧ g.acked = true ∧ g.lseq = some (ackSeq p) := by
  have acked : g.acked = true ↔ g.bcast = false ∧ g.typ ≠ typJoinReq ∧ g.typ ≠ typJoinRsp := by
    simp [TxFrame.acked, joinFrame]
  rw [State.Awaits, acked, typJoinReq, typJoinRsp]
  tauto

theorem ack_idle (h : ¬(s.Gets p ∧ IsAck p)) : s.ackReceived p = s := by
  refine if_pos ?_
  by_contra no
  obtain ⟨gets, typ⟩ := Bool.or_eq_false_iff.1 (Bool.eq_false_of_not_eq_true no)
  have acks := of_decide_eq_false typ
  exact h ⟨gets_iff.1 gets, not_not.1 acks⟩

/-- The MIC that the ACK of the frame on the air has, while this node holds its key (R239, R243). -/
def State.ackRight (s : State) (p : PhyFrame) (g : TxFrame) : Option (List Byte) :=
  let air := s.per.rf.air
  (s.rp.key (s.per.net.keySlot (decide (numOf (air.take 1) / 8 % 2 = 1)))).map fun k =>
    s.ackMic k s.per.net.me (numOf ((air.drop 7).take 6)) g.typ (p.body.take 3)

theorem Heard.ackRight (h : Heard s p t) (g : TxFrame) : t.ackRight p g = s.ackRight p g := by
  unfold State.ackRight State.ackMic
  rw [h.rp, h.net, h.rf]
  rfl

/-- The frame's neighbour and the count, when its ACK has come. -/
def State.answered (s : State) (p : PhyFrame) (g : TxFrame) : State :=
  (match s.nbrOf g.dst with
    | some b => s.putNbr { b with energy := numOf ((p.body.drop 1).take 2) / 4096 % 4, age := 0 }
    | none => s).onNet fun n => { n with await := none, cnt0 := bump n.cnt0 true }

theorem ack_heard (h : s.Takes p) (acks : IsAck p) : s.ackReceived p =
    match s.per.net.await with
    | none => (s.takeFrame p).afterFrame
    | some f =>
      if s.per.rf.txOn || !f.acked || decide (f.lseq ≠ some (ackSeq p)) then (s.takeFrame p).afterFrame
      else if s.ackRight p f ≠ some (p.body.drop 3) then (s.takeFrame p).micFail
      else ((((s.takeFrame p).answered p f).netClose.sentFrame f).sendMore).netSettle := by
  have heard : Heard s p (s.takeFrame p) := takeFrame_heard h.ecc
  have await := heard.await
  have txOn : (s.takeFrame p).per.rf.txOn = s.per.rf.txOn := by rw [heard.rf]; rfl
  have passes : (!s.hears || p.badHeader s.per.rf.baud || p.badCrc || decide (numOf (p.body.take 1) % 8 ≠ typAck)) =
      false := by
    rw [gets_iff.2 h.gets, Bool.false_or]
    exact decide_eq_false (not_not.2 acks)
  rw [State.ackReceived]
  dsimp only
  rw [passes, if_neg Bool.false_ne_true, await]
  cases s.per.net.await with
  | none => rfl
  | some f =>
    dsimp only
    rw [← heard.ackRight f, txOn]
    rfl

/-- An ACK that no frame waits for is discarded. -/
theorem ack_other (h : s.Takes p) (acks : IsAck p) (other : s.per.rf.txOn = true ∨ ∀ g, ¬s.Awaits p g) :
    s.ackReceived p = (s.takeFrame p).afterFrame := by
  rw [ack_heard h acks]
  cases await : s.per.net.await with
  | none => rfl
  | some f =>
    refine if_pos ?_
    by_contra no
    simp only [Bool.or_eq_true, not_or, Bool.not_eq_true', decide_eq_true_eq, ne_eq, not_not, Bool.not_eq_true] at no
    obtain ⟨⟨off, acked⟩, lseq⟩ := no
    rcases other with on | none_
    · exact absurd on (by simp [off])
    · exact none_ f (awaits_iff.2 ⟨await, by simpa using acked, lseq⟩)

theorem ack_awaited (h : s.Takes p) (acks : IsAck p) (off : s.per.rf.txOn = false) (waits : s.Awaits p g) :
    s.ackReceived p = if s.ackRight p g ≠ some (p.body.drop 3) then (s.takeFrame p).micFail
      else ((((s.takeFrame p).answered p g).netClose.sentFrame g).sendMore).netSettle := by
  obtain ⟨await, acked, lseq⟩ := awaits_iff.1 waits
  rw [ack_heard h acks, await]
  exact if_neg (by simp [off, acked, lseq])

/-! ## What an exchange that has ended leaves -/

/-- An ATTACH has been acknowledged: the parent is new, and the old one is told (R249). -/
def State.moved (s : State) (dst : Nat) : State :=
  (s.takeParent dst).onNet fun n =>
    { n with
      stat := if decide (s.per.net.state = netOrphan) then setBits n.stat 0 3 netJoined else n.stat
      cand := none, pmiss := 0, oldParent := if s.per.net.parent = dst then none else some s.per.net.parent }

def State.attached (s : State) (dst : Nat) : State :=
  if s.per.net.parent = dst then s.moved dst
  else (s.moved dst).txPut (plainFrame typDetach s.per.net.parent [] false 0)

theorem sentFrame_eq (s : State) (req : g.typ ≠ 3) (rsp : g.typ ≠ 4) : s.sentFrame g =
    let t := s.onNet fun n => { n with await := none }
    if g.typ = 5 then t.attached g.dst
    else if g.typ = 6 then t.onNet fun n => { n with oldParent := none }
    else if g.own && g.last then t.netFlag 5
    else t := (if_neg req).trans (if_neg rsp)

theorem moved_keeps (s : State) (dst : Nat) : Keeps State.lasting s (s.moved dst) :=
  (takeParent_keeps s dst).seen.lasting.trans (.of_eq (by rfl) (by rfl))

theorem attached_moved (s : State) (dst : Nat) : Keeps State.seen (s.moved dst) (s.attached dst) :=
  .ite (.refl _) (txPut_keeps ..)

theorem sentFrame_keeps (s : State) (await : s.per.net.await = none) (req : g.typ ≠ 3) (rsp : g.typ ≠ 4) :
    Keeps State.lasting s (s.sentFrame g) := by
  have ended : Keeps State.lasting s (s.onNet fun n => { n with await := none }) :=
    .of_eq (congrArg (fun a => { s.lasting with await := a }) await.symm) rfl
  rw [sentFrame_eq s req rsp]
  refine ended.trans (.ite ((moved_keeps ..).trans (attached_moved ..).lasting) (.ite (.of_eq rfl rfl) (.ite ?_ (.refl _))))
  exact (Keeps.netFlag _ 5 (by decide)).lasting

/-- An orphan whose ATTACH is acknowledged is joined again (R249). -/
theorem sentFrame_attach (sound : s.Sound) (typ : g.typ = 5) (orphan : s.per.net.state = netOrphan) :
    (s.sentFrame g).per.net.state = netJoined := by
  let t := s.onNet fun n => { n with await := none }
  have run : (t.moved g.dst).Sound := (moved_keeps t g.dst).sound ⟨sound.ecc, sound.mig, sound.en⟩
  have joined : (t.moved g.dst).per.net.state = netJoined := by
    have found : decide (t.per.net.state = netOrphan) = true := decide_eq_true orphan
    rw [State.moved, found]
    exact bits_setBits_same _ _ (by decide)
  rw [sentFrame_eq s (by omega) (by omega)]
  dsimp only
  rw [if_pos typ]
  exact (congrArg Seen.state ((attached_moved t g.dst).view run)).trans joined

/-- The last segment of this node's own message sets SENT (R253). -/
theorem sentFrame_data (s : State) (typ : g.typ = 1) (own : g.own = true) (last : g.last = true) :
    bit (s.sentFrame g).per.net.stat 5 = true := by
  rw [sentFrame_eq s (by omega) (by omega)]
  dsimp only
  rw [if_neg (by omega), if_neg (by omega), own, last, Bool.and_self, if_pos rfl]
  exact (bit_setBit ..).trans (if_pos ⟨rfl, by decide⟩)

/-- An owner that has stopped for the slot sends no more in it (R254). -/
theorem sendMore_of_stopped (h : s.per.net.stopped = true) : ∃ k, s.sendMore = s.useFree k := by
  refine ⟨_, if_pos ?_⟩
  rw [show (s.useFree _).per.net.stopped = true from h]
  simp

theorem answered_leaves (sound : s.Sound) (p : PhyFrame) (g : TxFrame) : (s.answered p g).Sound ∧
    (s.answered p g).seen = { s.seen with await := none, cnt0 := bump s.per.net.cnt0 true } := by
  have put := (nbrPut_keeps s g.dst fun b =>
    { b with energy := numOf ((p.body.drop 1).take 2) / 4096 % 4, age := 0 }).seen
  have run := put.sound sound
  exact ⟨⟨run.ecc, run.mig, run.en⟩,
    congrArg (fun v : Seen => { v with await := none, cnt0 := bump v.cnt0 true }) (put.view sound)⟩

/-! ## What an ACK leaves -/

theorem ack_other_leaves (h : s.Takes p) (acks : IsAck p) (other : s.per.rf.txOn = true ∨ ∀ g, ¬s.Awaits p g) :
    let u := finish s (s.ackReceived p)
    u.per.rf.rxinfo = infoOf p ∧ u.cores = s.cores ∧ (u.per.net.cnt0 = s.per.net.cnt0 ∧
      u.per.net.cnt2 = s.per.net.cnt2) ∧ u.per.net.await = s.per.net.await := by
  intro u
  have heard : Heard s p (s.takeFrame p) := takeFrame_heard h.ecc
  have sound := heard.sound h.sound
  have out : u = finish s (s.takeFrame p).afterFrame := congrArg (finish s) (ack_other h acks other)
  obtain ⟨net, info, cores⟩ := finish_heard h heard (afterFrame_told sound)
  rw [out, net, afterFrame_net sound.en]
  exact ⟨info, cores, ⟨heard.cnt0, heard.cnt2⟩, heard.await⟩

theorem micFail_await (s : State) : s.micFail.per.net.await = s.per.net.await := rfl

theorem ack_wrong_leaves (h : s.Takes p) (acks : IsAck p) (off : s.per.rf.txOn = false) (waits : s.Awaits p g)
    (wrong : s.ackRight p g ≠ some (p.body.drop 3)) :
    let u := finish s (s.ackReceived p)
    u.per.rf.rxinfo = infoOf p ∧ u.cores = s.cores ∧ s.per.net.Failed u.per.net ∧ u.per.net.await = some g := by
  intro u
  have heard : Heard s p (s.takeFrame p) := takeFrame_heard h.ecc
  have out : u = finish s (s.takeFrame p).micFail :=
    congrArg (finish s) ((ack_awaited h acks off waits).trans (if_pos wrong))
  obtain ⟨net, info, cores⟩ := finish_heard h heard (Counted.micFail _).told
  rw [out]
  rw [net, micFail_await, heard.await]
  exact ⟨info, cores, heard.failed, waits.1⟩

theorem ack_right_leaves (h : s.Takes p) (acks : IsAck p) (off : s.per.rf.txOn = false)
    (stopped : s.per.net.stopped = true) (waits : s.Awaits p g) (right : s.ackRight p g = some (p.body.drop 3)) :
    let u := finish s (s.ackReceived p)
    let n := s.per.net
    u.per.rf.rxinfo = infoOf p ∧ u.cores = s.cores ∧ u.per.net.await = none ∧ u.per.net.cnt0 = bump n.cnt0 true ∧
      (g.typ = 1 → g.own = true → g.last = true → bit u.per.net.stat 5 = true) ∧
      (g.typ = 5 → n.state = netOrphan → u.per.net.state = netJoined) := by
  intro u n
  have ⟨_, _, req, rsp, _⟩ := waits
  let t := s.takeFrame p
  have heard : Heard s p t := takeFrame_heard h.ecc
  let v := (t.answered p g).netClose
  obtain ⟨run, answered⟩ := answered_leaves (heard.sound h.sound) p g
  have sound : v.Sound := (netClose_keeps _).sound run
  have seen : v.seen = { t.seen with await := none, cnt0 := bump t.per.net.cnt0 true } :=
    ((netClose_keeps _).view run).trans answered
  have sent := sentFrame_keeps (g := g) v (congrArg Seen.await seen) req rsp
  have lasts : (v.sentFrame g).lasting = { t.lasting with await := none, cnt0 := bump t.per.net.cnt0 true } :=
    (sent.view sound).trans (congrArg (fun w : Seen => { w with state := 0 }) seen)
  have before : t.per.net.stopped = true := by rw [heard.net, stopped]
  have stops : (v.sentFrame g).per.net.stopped = true := (congrArg Seen.stopped lasts).trans before
  obtain ⟨k, more⟩ := sendMore_of_stopped stops
  have out : u = finish s ((v.sentFrame g).useFree k) := by
    have settled : ((v.sentFrame g).useFree k).netSettle = (v.sentFrame g).useFree k :=
      netSettle_of_en (s := (v.sentFrame g).useFree k) (sent.sound sound).en
    rw [← settled, ← more]
    exact congrArg (finish s) ((ack_awaited h acks off waits).trans (if_neg (not_not.2 right)))
  have told := congrArg Seen.told lasts
  obtain ⟨net, info, cores⟩ := finish_heard (u := (v.sentFrame g).useFree k) h heard told
  rw [← out] at net info cores
  rw [show u.per.net = (v.sentFrame g).per.net from net]
  refine ⟨info, cores, congrArg Seen.await lasts, ?_, sentFrame_data v, fun typ orphan => ?_⟩
  · rw [← heard.cnt0]
    exact congrArg Seen.cnt0 lasts
  · exact sentFrame_attach sound typ ((congrArg Seen.state seen).trans (heard.state.trans orphan))

end Ack

end Sys2Proof.Machine

/-! # Reception -/

namespace Sys2Proof.Machine

open Sys2Proof

section Reception

variable {s : State} {p : PhyFrame} {i : Instr} {k : Nat}

/-- The commands of received frames with a link MIC, with their types (R237). -/
inductive LinkFrame (p : PhyFrame) : Instr → Nat → Prop
  | beacon : LinkFrame p (.beaconReceived p) 0
  | data : LinkFrame p (.dataReceived p) 1
  | attach : LinkFrame p (.attachReceived p) 5
  | detach : LinkFrame p (.detachReceived p) 6

/-- Those of the joining frames. -/
inductive JoiningFrame (p : PhyFrame) : Instr → Nat → Prop
  | request : JoiningFrame p (.joinReqReceived p) 3
  | response : JoiningFrame p (.joinRspReceived p) 4

theorem linkFrame_of_mem {x : Instr × Nat} (h : x ∈ [(Instr.beaconReceived p, 0), (.dataReceived p, 1),
    (.attachReceived p, 5), (.detachReceived p, 6)]) : LinkFrame p x.1 x.2 := by
  simp only [List.mem_cons, List.not_mem_nil, or_false] at h
  rcases h with rfl | rfl | rfl | rfl
  · exact .beacon
  · exact .data
  · exact .attach
  · exact .detach

theorem joiningFrame_of_mem {x : Instr × Nat} (h : x ∈ [(Instr.joinReqReceived p, 3), (.joinRspReceived p, 4)]) :
    JoiningFrame p x.1 x.2 := by
  simp only [List.mem_cons, List.not_mem_nil, or_false] at h
  rcases h with rfl | rfl
  · exact .request
  · exact .response

theorem exec_of_eq {t u : State} (h : exec i s = .next (finish s t)) (eq : t = u) : exec i s = .next (finish s u) :=
  eq ▸ h

theorem LinkFrame.receives (h : LinkFrame p i k) (idle : s.per.net.state ≠ netSeek ∨ k ≠ 0) : k ≠ 7 ∧
    ∃ may body, (∀ t b plain, Keeps State.seen t (body t b plain)) ∧
      exec i s = .next (finish s (s.receive p k may body)) := by
  cases h with
  | beacon =>
    have awake : s.per.net.state ≠ netSeek := idle.resolve_right fun h => h rfl
    exact ⟨by decide, _, _, beaconBody_keeps, exec_of_eq (t := s.beaconReceived p) rfl (if_neg awake)⟩
  | data => exact ⟨by decide, _, _, fun t b plain => dataBody_keeps t _ plain, rfl⟩
  | attach => exact ⟨by decide, _, _, attachBody_keeps, rfl⟩
  | detach => exact ⟨by decide, _, _, fun t b _ => removeChild_keeps t b.node, rfl⟩

/-- Every received frame arrives in the same way. -/
theorem LinkFrame.arrives (h : LinkFrame p i k) : ∃ body, exec i s = .next (finish s (s.arrives p k body)) := by
  by_cases idle : s.per.net.state ≠ netSeek ∨ k ≠ 0
  · obtain ⟨-, may, body, -, eq⟩ := h.receives idle
    exact ⟨_, eq⟩
  · obtain ⟨seeks, beacon⟩ := not_or.1 idle
    obtain rfl := not_not.1 beacon
    cases h with
    | beacon => exact ⟨_, exec_of_eq (t := s.beaconReceived p) rfl (if_pos (not_not.1 seeks))⟩

theorem JoiningFrame.arrives (h : JoiningFrame p i k) : ∃ body, exec i s = .next (finish s (s.arrives p k body)) := by
  cases h with
  | request => exact ⟨_, rfl⟩
  | response => exact ⟨_, rfl⟩

/-- A joining frame for another node is heard, and no more. -/
theorem JoiningFrame.passes (h : JoiningFrame p i k) (takes : s.Takes p) (free : s.exchanging = false)
    (typ : (rxFrame p).typ = k) (other : s.isForMe (rxFrame p) = false) :
    ∃ t, Heard s p t ∧ exec i s = .next (finish s t.afterFrame) := by
  have lt : k ≠ 7 := by cases h <;> decide
  obtain ⟨t, heard, eq⟩ := arrives_body takes.gets typ lt free takes.ecc
  have apart : t.isForMe (rxFrame p) = false := (heard.isForMe _).trans other
  refine ⟨t, heard, ?_⟩
  cases h with
  | request =>
    exact exec_of_eq (t := s.joinReqReceived p) rfl ((eq _).trans (if_pos (by rw [apart]; rfl)))
  | response => exact exec_of_eq (t := s.joinRspReceived p) rfl ((eq _).trans (if_pos (.inr (.inl apart))))

/-- A frame that is dropped where it arrives is heard, and no more (R237). -/
theorem dropped_leaves {body : State → RxFrame → State} (h : s.Takes p)
    (typ : (rxFrame p).typ = 7 ∨ ((rxFrame p).typ = k ∧ ¬s.exchanging = false)) :
    let u := finish s (s.arrives p k body)
    u.per.rf.rxinfo = infoOf p ∧ u.cores = s.cores ∧ u.per.net.cnt0 = s.per.net.cnt0 ∧
      u.per.net.cnt2 = s.per.net.cnt2 := by
  intro u
  have heard : Heard s p (s.takeFrame p) := takeFrame_heard h.ecc
  have sound := heard.sound h.sound
  have out : u = finish s (s.takeFrame p).afterFrame := congrArg (finish s) (arrives_unheard h.gets typ)
  obtain ⟨net, info, cores⟩ := finish_heard h heard (afterFrame_told sound)
  rw [out, net, afterFrame_net sound.en]
  exact ⟨info, cores, heard.cnt0, heard.cnt2⟩

theorem isForMe_iff : s.isForMe (rxFrame p) = true ↔
    (rxFrame p).bcast = true ∨ (rxFrame p).dst = bits s.per.net.id 0 10 := by
  rw [State.isForMe, Bool.or_eq_true, decide_eq_true_eq]
  rfl

/-- Settles O52: a frame that does not arrive changes nothing, and what one leaves that does is read off the checks that
it passes, since its content keeps what is seen. The JOIN frames and the ACK follow their own steps. -/
theorem receptionEvents : Obligations.ReceptionEvents := by
  intro s p n r f gets hears free table clean info mine linked others ends failed same joiner
  have takes (h : hears) (tab : table) (c : clean) : s.Takes p := ⟨h.1, h.2, tab, c.1, c.2⟩
  have arrive {x : Instr × Nat} (hx : x ∈ linked ++ others) :
      ∃ body, exec x.1 s = .next (finish s (s.arrives p x.2 body)) :=
    (List.mem_append.1 hx).elim (fun hx => (linkFrame_of_mem hx).arrives) fun hx => (joiningFrame_of_mem hx).arrives
  refine ⟨fun x hx no => ?_, fun h tab c x hx drop => ?_, fun h fr tab c other x hx typ => ?_,
    fun h fr tab c idle x hx typ => ?_, fun h fr tab c typ seeks => ?_,
    fun h fr tab c typ me base state fresh b entry k key =>
      ⟨_, rfl, joinReq_leaves (takes h tab c) fr typ (isForMe_iff.2 me) base state fresh entry key⟩,
    fun h fr tab c typ me state cand k key =>
      ⟨_, rfl, joinRsp_leaves (takes h tab c) fr typ (isForMe_iff.2 me) state cand key⟩,
    fun no => becomes_of_eq rfl (ack_idle no), fun ⟨h, acks⟩ tab c other => ?_,
    fun ⟨h, acks⟩ tab c off stopped g waits => ?_⟩
  · obtain ⟨body, eq⟩ := arrive hx
    exact becomes_of_eq eq (arrives_idle no)
  · obtain ⟨body, eq⟩ := arrive hx
    exact ⟨_, eq, dropped_leaves (takes h tab c) drop⟩
  · have h := takes h tab c
    have apart := Bool.eq_false_of_not_eq_true (mt isForMe_iff.1 other)
    obtain ⟨t, heard, eq⟩ := (joiningFrame_of_mem hx).passes h fr typ apart
    obtain ⟨ends, net⟩ := (Counted.refl t).finish heard h.sound tab h.on fr
    exact ⟨_, eq, ends, by rw [net, heard.cnt0], by rw [net, heard.cnt2]⟩
  · obtain ⟨lt, may, body, keeps, eq⟩ := (linkFrame_of_mem hx).receives (.inl idle)
    exact ⟨_, eq, receive_leaves (takes h tab c) fr typ lt keeps⟩
  · obtain ⟨info, cores, state, counts⟩ := beacon_leaves (takes h tab c) fr typ seeks
    exact ⟨_, rfl, info, cores, state.trans seeks, counts⟩
  · exact ⟨_, rfl, ack_other_leaves (takes h tab c) acks other⟩
  · have h := takes h tab c
    refine ⟨_, rfl, ?_⟩
    by_cases right : s.ackRight p g = some (p.body.drop 3)
    · obtain ⟨info, cores, leaves⟩ := ack_right_leaves h acks off stopped waits right
      exact ⟨info, cores, fun wrong => absurd right wrong, fun _ => leaves⟩
    · obtain ⟨info, cores, fails⟩ := ack_wrong_leaves h acks off waits right
      exact ⟨info, cores, fun _ => fails, fun holds => absurd holds right⟩

end Reception

end Sys2Proof.Machine
